-- ==== Sys2Proof/Word.lean ====
section
/-! DEFINITION. The word types of the WT-1 model and its one kind of keyed table. -/

namespace Sys2Proof

/-- A byte. -/
abbrev Byte := BitVec 8

/-- A 32-bit register word or descriptor word (R228, R363). -/
abbrev U32 := BitVec 32

/-- A 64-bit word: event words (R41), counter words (R52), attribution entries (R59), memory words. -/
abbrev U64 := BitVec 64

/-- A 256-bit sum (R217). -/
abbrev U256 := BitVec 256

/-- A table keyed by a number: the entries that differ from their default, keys rising. -/
abbrev SMap (α : Type) := List (Nat × α)

end Sys2Proof
end

