-- ==== Sys2Proof/Config.lean ====
section
/-! DEFINITION. What an integrator fixes (Table 0.4), the free values the manual leaves open, and the
functions that it takes from outside standards. -/

namespace Sys2Proof

/-- The build-time parameters of Table 0.4, and the tied manufacturer code of R376. -/
structure Build where
  nColl : Nat
  lens : Bool
  watch : Bool
  egress : Bool
  fabric : Bool
  sentinel : Bool
  crypto : Bool
  brambleDepth : Nat
  attrEntries : Nat
  jtagMfr : Nat
deriving DecidableEq, Repr, Inhabited

/-- WT-1 F of Table 0.5. -/
def Build.wt1F : Build :=
  ⟨256, true, true, true, true, true, true, 128, 2 ^ 20, 0⟩

/-- WT-1 M of Table 0.5. -/
def Build.wt1M : Build :=
  ⟨64, true, true, false, false, true, true, 32, 2 ^ 18, 0⟩

/-- WT-1 S of Table 0.5. -/
def Build.wt1S : Build :=
  ⟨16, false, false, false, false, true, false, 0, 0, 0⟩

/-- Logical units of the build (Table 0.4). -/
def Build.units (b : Build) : Nat := 16 * b.nColl

/-- Sections of 16 logical collectors (R389). -/
def Build.sections (b : Build) : Nat := b.nColl / 16

/-- Spare collectors of a section (R67). -/
def Build.sparesPerSection (b : Build) : Nat := if b.nColl ≤ 112 then 1 else 2

/-- Sizing band of R393. -/
def Build.band (b : Build) : Nat := if b.nColl ≤ 48 then 1 else if b.nColl ≤ 112 then 2 else 3

/-- Resident context entries (R243, Table 19.1). -/
def Build.ctxEntries (b : Build) : Nat :=
  if b.band = 1 then 1024 else if b.band = 2 then 4096 else 16384

/-- Resident Lens images (R119, Table 19.1). -/
def Build.lensImages (b : Build) : Nat :=
  if b.lens then (if b.band = 3 then 1024 else 256) else 0

/-- Frame buffers of trace staging (R214, Table 19.1). -/
def Build.frameBufs (b : Build) : Nat := if b.band = 1 then 64 else 448

/-- Compressor dictionaries (R211, Table 19.1). -/
def Build.dictionaries (b : Build) : Nat := if b.band = 1 then 32 else 128

/-- Bytes of the watch buffer (R151, Table 19.1). -/
def Build.watchBuf (b : Build) : Nat := if b.band = 3 then 2 * 1024 * 1024 else 512 * 1024

/-- Frame slots of the egress replay buffer (R301). -/
def Build.egressSlots (_ : Build) : Nat := 480

namespace Config

/-! Functions of outside standards that the manual names without defining: uninterpreted. -/

/-- SHA-256 of a byte string (R217, R345, R346), first byte most significant. -/
opaque sha256 : List Byte → U256

/-- SHA-384 of a byte string (R274, R278, R332): 48 bytes. -/
opaque sha384 : List Byte → List Byte

/-- HKDF-SHA-384 (RFC 5869): input, salt, info, output length (R280, R281, R297). -/
opaque hkdf : List Byte → List Byte → List Byte → Nat → List Byte

/-- The P-384 private scalar derived from DEVICE_SECRET (R279). -/
opaque deviceScalar : List Byte → List Byte

/-- The compressed public key of a private scalar (Table 12.10). -/
opaque publicKey : List Byte → List Byte

/-- The uncompressed SEC1 public key of a private scalar, 97 bytes (R297). -/
opaque publicKeyFull : List Byte → List Byte

/-- ECDH of a private scalar and an uncompressed public key (R280, R297). -/
opaque ecdh : List Byte → List Byte → List Byte

/-- Is this 97-byte string an uncompressed SEC1 encoding of a point on P-384 (R268, R280)? -/
opaque onP384 : List Byte → Bool

/-- ECDSA P-384 verification: public key, message, signature (R273). -/
opaque ecdsaVerify : List Byte → List Byte → List Byte → Bool

/-- AES Key Wrap opening (R280): `none` where the integrity check fails. -/
opaque keyUnwrap : List Byte → List Byte → Option (List Byte)

/-- AES-256-GCM sealing: key, nonce, additional data, plaintext to ciphertext and tag (R196, R298). -/
opaque gcmSeal : List Byte → List Byte → List Byte → List Byte → List Byte

/-- AES-256-GCM opening: key, nonce, additional data, ciphertext with tag (R298). -/
opaque gcmOpen : List Byte → List Byte → List Byte → List Byte → Option (List Byte)

/-- The device public key, uncompressed, of the neighbour on FAB_E (true) or FAB_W (R309). -/
opaque neighbourKey : Bool → List Byte

/-- The compressed form of an uncompressed public key (Table 13.11). -/
opaque compressKey : List Byte → List Byte

/-! Free values. Each is applied to the model's draw counter. -/

/-- A free choice among three: the alignment of a GT copy after calibration (R26). -/
opaque copyAlign : Nat → Nat → Fin 3

/-- Fresh random bytes: ephemeral keys and nonces of the handshake (R297). -/
opaque randomBytes : Nat → Nat → List Byte

/-- A stored SRAM word whose mapping the manual does not give (Table 18.7). -/
opaque sramWord : Nat → Nat → Nat → U64

/-- Contents of a spilled context entry, whose layout the manual does not give (R243). -/
opaque ctxEntry : Nat → Nat → U64

/-- Rows and columns of a macro of an array (R396 rejects those a macro lacks; no figure is given). -/
opaque macroRows : Nat → Nat
opaque macroCols : Nat → Nat

/-- Which object of an array a word belongs to, and which part of it: the mapping is fixed for a build and not given
(Table 18.7). -/
opaque sramObj : Nat → Nat → Nat
opaque sramSub : Nat → Nat → Nat

/-- The SECDED check bits of a stored word (R391). -/
opaque checkBits : U64 → Byte

end Config

end Sys2Proof
end

