-- ==== Sys2Proof/Syntax.lean ====
section
/-! DEFINITION. The commands of the WT-1: one constructor per row of spec/opcode_table.json.
The table gives no operands; each operand is read from the rule that the row names. -/

namespace Sys2Proof

/-- One beat of a tensor tap: the element data and the side band of Table 5.1. -/
structure Beat where
  first : Bool
  last : Bool
  fmt : Nat
  scale : Nat
  site : Nat
  count : Nat
  scales : BitVec 256
  data : BitVec 2048
  rowv : Bool
  row : BitVec 128
  /-- The lane group of the tap whose residue check fails on the beat (R127). -/
  fails : Option Nat
deriving DecidableEq, Repr, Inhabited

/-- A fabric port without a flit for three beacon periods; `lost`: the neighbour's other neighbour has lost it too (R317). -/
structure PortLoss where
  east : Bool
  lost : Bool
deriving DecidableEq, Repr, Inhabited

/-- The commands. -/
inductive Instr where
  -- descriptors: the engine checks the front descriptor of ring r
  | nop (r : Nat)
  | fence (r : Nat)
  | ctxOpen (r : Nat)
  | ctxClose (r : Nat)
  | ctxArm (r : Nat)
  | ctxPause (r : Nat)
  | ctxResume (r : Nat)
  | ctxSave (r : Nat)
  | ctxRestore (r : Nat)
  | freezeAt (r : Nat)
  | epochSet (r : Nat)
  | readShadow (r : Nat)
  | attrLoad (r : Nat)
  | attrClear (r : Nat)
  | lensBind (r : Nat)
  | lensRead (r : Nat)
  | lensRelease (r : Nat)
  | watchArm (r : Nat)
  | watchDisarm (r : Nat)
  | hangDumpSetArea (r : Nat)
  | hangDumpSetWdog (r : Nat)
  | hangDumpRequest (r : Nat)
  | hangDumpRelease (r : Nat)
  | sentArm (r : Nat)
  | sentDisarm (r : Nat)
  | govSet (r : Nat)
  | partCreate (r : Nat)
  | partClose (r : Nat)
  | keyInstall (r : Nat)
  | keyRotate (r : Nat)
  | scrub (r : Nat)
  | consentLoad (r : Nat)
  | egrOpen (r : Nat)
  | egrClose (r : Nat)
  | fabDiscover (r : Nat)
  -- command engine
  /-- The engine's turn on ring r (R227). -/
  | descriptorFetch (r : Nat)
  /-- The parked command with engine sequence `seq` of ring r (R235). -/
  | parkedCommandComplete (r seq : Nat)
  | firmwareVerdictTimeout (r seq : Nat)
  -- register accesses with behaviour of their own
  | dbTailWrite (r : Nat) (v : U32)
  | cqHeadWrite (r : Nat) (v : U32)
  /-- A write of `WRN_RING_CTL[r]` with EN set. -/
  | ringEnable (r : Nat) (v : U32)
  /-- A write of `WRN_RING_CTL[r]` with EN clear. -/
  | ringDisable (r : Nat) (v : U32)
  | versionRequest (v : U32)
  | ratioWrite (v : U32)
  | gtLoRead
  | fgtLoRead
  | consumerSelect (v : U32)
  | consumerChangeEffect
  /-- `WRN_EVQ_CRED0` (hi false) or `CRED1` (hi true). -/
  | creditAllotmentWrite (hi : Bool) (v : U32)
  | watermarkWrite (v : U32)
  | hostRingSizeWrite (v : U32)
  | hostRingHeadWrite (v : U32)
  /-- `WRN_PRV_OWN[m]`. -/
  | unitOwnerWrite (m : Nat) (v : U32)
  | brambleDepthWrite (v : U32)
  | sentinelLineAck (v : U32)
  /-- `WRN_SEN_GRULE_A[k]`. -/
  | govRuleEnable (k : Nat) (v : U32)
  | lockSet (v : U32)
  | firmwareGo (v : U32)
  /-- `WRN_DBG_CMD` with READ set. -/
  | debugRead (v : U32)
  /-- `WRN_DBG_CMD` with INJ set. -/
  | debugInject (v : U32)
  /-- A RAP write of word `v` at window byte address `a`. -/
  | registerWrite (a : Nat) (v : U32)
  | rapHeldAccessComplete
  -- JTAG
  | idcode
  /-- Update-DR of DBG_ACCESS with 51 bits (R377). -/
  | dbgAccess (v : BitVec 51)
  /-- Update-DR of SCAN_MODE with its bit (Table 17.10). -/
  | scanMode (b : Bool)
  /-- Update-DR of MBIST (R397). -/
  | mbist (v : U32)
  /-- End of the march test: did a word fail after repair, the first failing array, failing rows. -/
  | mbistComplete (fail : Bool) (array rows : Nat)
  -- resets and start-up
  | aonRstNRise
  | aonRstNFall
  | rstNFall
  | rstNRise
  | fuseWordAck (d : U32)
  | fuseTimeout
  | deviceKeyDerived
  | sramInitDone
  | firmwareLoadDone
  | firmwareLoadTimeout
  /-- READY, with whether FAB_E and FAB_W trained (Table 14.4 step 7). -/
  | firmwareReady (e w : Bool)
  -- clocks and power
  | obsClkGrant
  /-- End of a calibration, with the largest round trip it measured (R25). -/
  | calibrationDone (rtt : Nat)
  | obsClkRelease
  | obsClkAckDropEarly
  | idleDelayExpiry
  | sleepBuffersDrained
  | pwrAckToggle
  /-- End of a lock window in which `count` OBS cycles were counted (R24). -/
  | lockWindowEnd (count : Nat)
  -- Hedgerow
  /-- Heartbeat of logical collector c with the copy it carried, corrected by the calibrated delay (R27). -/
  | heartbeatArrival (c copy : Nat)
  | heartbeatMiss (c : Nat)
  | takeoverResume (c : Nat)
  /-- A heartbeat of physical collector `phys` that was declared failed (R72). -/
  | fencedCollectorSpeaks (phys : Nat)
  | collectorSelfTestDone (phys : Nat) (pass : Bool)
  | probeValid (port : Nat) (w : U64)
  | collectorEventProcess (c : Nat)
  | clkActiveFall (port : Nat)
  | clkActiveRise (port : Nat)
  -- cuts
  | freezeFinal
  | epochBoundary (p : Nat)
  | epochRecordsTaken (p : Nat)
  | frameSyncRise
  -- Numeric Lens, watches, hang
  | tapBeat (tap : Nat) (b : Beat)
  | laneSpareConnected
  | pairWindowExpiry
  | spillCommitDone (tap : Nat)
  | xltResponse (tag ioa log2sz : Nat) (fault : Bool)
  | xltTimeout (tag : Nat)
  | watchdogExpiry (u : Nat)
  | hangInRise
  | hangDumpComplete
  -- Boxwood
  | boxwoodAccept
  | boxwoodRead
  | boxwoodReadStallEnd
  | boxwoodMark
  | boxwoodRewind
  | boxwoodRelease (n : Nat)
  | drainBatch
  -- trace writer, governor, SMP
  | recordPlaced (ctx : Nat)
  | frameAgeTimeout (ctx : Nat)
  | governorIssue
  | cadenceTranche
  | smpWriteResponse (tag : Nat) (err : Bool)
  /-- All beats of the read with this tag, as little-endian 64-bit words. -/
  | smpReadData (tag : Nat) (data : List U64) (err : Bool)
  -- Sentinel
  | sentinelMarkerApply
  | deadlineMiss (w : Nat)
  | pulseExpiry (line : Nat)
  | govRuleWindowEnd (k : Nat)
  -- Privet and Blackthorn
  | partCloseDraining (p : Nat)
  | partCloseDrainEnd (p : Nat)
  /-- ROT_TO expires for the previous generation of (partition, job), direction 0 or 1. -/
  | rotationTimeout (p job dir : Nat)
  /-- TAMPER_IN lines (a mask) sampled high on two edges. -/
  | tamperRegister (lines : Nat)
  | glitchDetect (voltage clock : Bool)
  | zeroizeComplete
  /-- An uncorrectable error in word `idx` of the array with this code of Table 18.7. -/
  | sramUncorrectable (array idx : Nat)
  | sramCorrectable (array idx : Nat)
  | hedgerWatchdogExpiry
  -- egress
  | ucieTrainingDone (lanes : Nat) (repaired : Bool)
  | retrainTimeout
  | opticalStatusPoll (los laser : Bool)
  /-- A received OSEP flit of 256 bytes. -/
  | osepFlitAckNak (f : List Byte)
  | silenceTimeout
  | accept
  | acceptTimeout
  | credit
  | fack
  | fnak
  | close
  /-- The frame in replay slot entry `i` of the order of entry. -/
  | frameAckTimeout (i : Nat)
  -- Mladgor
  /-- A flit of 256 bytes received on FAB_E (east true) or FAB_W. -/
  | fabricFlitAckNak (east : Bool) (f : List Byte)
  | probe
  | answer
  | assign
  | token
  | echo
  | gtLoad
  | outcome
  | freezeRequest
  | freezeDistribute
  | freezeAccepted
  | freezeRefused
  | beacon
  | fabricPortDown (port : PortLoss)
  /-- This segment of the ring loses the root (rejoined false), or two segments join again (true) and the other has
  the root `other`; `east` and `west` are the instances that this one reaches now by each port. -/
  | rootLost (rejoined : Bool) (east west : List Nat) (other : Nat)
  | discoveryTimeout
  -- register reads with effects
  | rcRegisterRead (a : Nat)
  | loRegisterRead (a : Nat)
  | rapObsRegisterRead (a : Nat)
  -- late rows of the table
  | tamperInRelease (line : Nat)
  | glitchDetectorClear
  | egrTrainingTimeout
  | retrainingStart
  | egrCloseDrainBound
deriving DecidableEq, Repr, Inhabited

end Sys2Proof
end

