-- ==== Sys2Proof/Decode.lean ====
section
/-! DEFINITION. The commands spelled by bits of the opcode table: its rows give none. -/

namespace Sys2Proof

/-- No row of spec/opcode_table.json gives bits, so no word spells a command. -/
def decodeTableWord (_nbits _w : Nat) : Option Instr := none

end Sys2Proof
end

