-- ==== Sys2Proof/Machine/Bits.lean ====
section
/-! DEFINITION. Bit fields, byte order, saturation, CRC-32C and keyed tables. -/

namespace Sys2Proof.Machine

/-! ## Keyed tables: entries that differ from the default `d`, keys rising. -/

/-- The entry under key `k`, the default where none is listed. -/
def smGet {α : Type} (d : Nat → α) : SMap α → Nat → α
  | [], k => d k
  | (j, v) :: m, k => if j = k then v else smGet d m k

/-- Drop what is listed under `k`. -/
def smDel {α : Type} : SMap α → Nat → SMap α
  | [], _ => []
  | (j, v) :: m, k => if j = k then smDel m k else (j, v) :: smDel m k

/-- Insert or replace, keys kept rising. -/
def smIns {α : Type} : SMap α → Nat → α → SMap α
  | [], k, v => [(k, v)]
  | (j, w) :: m, k, v =>
    if k < j then (k, v) :: (j, w) :: m
    else if k = j then (k, v) :: m
    else (j, w) :: smIns m k v

/-- Store `v` under `k`; the default is not listed. -/
def smPut {α : Type} [DecidableEq α] (d : Nat → α) (m : SMap α) (k : Nat) (v : α) : SMap α :=
  if v = d k then smDel m k else smIns m k v

/-- Keys rise and no entry is the default: equal tables are equal lists. -/
def smWf {α : Type} [DecidableEq α] (d : Nat → α) : SMap α → Bool
  | [] => true
  | [(k, v)] => v != d k
  | (k, v) :: (j, w) :: m => v != d k && k < j && smWf d ((j, w) :: m)

/-- Change the entry under `k`. -/
def smMod {α : Type} [DecidableEq α] (d : Nat → α) (m : SMap α) (k : Nat) (f : α → α) : SMap α :=
  smPut d m k (f (smGet d m k))

/-- Change every listed entry. -/
def smMap {α : Type} [DecidableEq α] (d : Nat → α) (f : α → α) (m : SMap α) : SMap α :=
  m.foldl (fun acc e => smMod d acc e.1 f) m

/-! ## Fields of words -/

/-- Bits [lo + n - 1 : lo] of a number. -/
def nfld (x lo n : Nat) : Nat := x / 2 ^ lo % 2 ^ n

/-- Bits [lo + n - 1 : lo] of a word, as a number. -/
def fld {w : Nat} (x : BitVec w) (lo n : Nat) : Nat := nfld x.toNat lo n

/-- Bit i of a word. -/
def bit {w : Nat} (x : BitVec w) (i : Nat) : Bool := x.toNat.testBit i

/-- Ones in [lo + n - 1 : lo]. -/
def ones (lo n : Nat) : U32 := BitVec.ofNat 32 ((2 ^ n - 1) * 2 ^ lo)

/-- Replace field [lo + n - 1 : lo]. -/
def setFld (x : U32) (lo n v : Nat) : U32 :=
  (x &&& ~~~ (ones lo n)) ||| BitVec.ofNat 32 (v % 2 ^ n * 2 ^ lo)

/-- 1 for true. -/
def b2n (b : Bool) : Nat := if b then 1 else 0

/-- A saturating count. -/
def sat (max x : Nat) : Nat := if max < x then max else x

/-- Two 32-bit words as one number, low word first. -/
def pair (lo hi : U32) : Nat := lo.toNat + hi.toNat * 2 ^ 32

/-- Low and high words of a number. -/
def lo32 (x : Nat) : U32 := BitVec.ofNat 32 x
def hi32 (x : Nat) : U32 := BitVec.ofNat 32 (x / 2 ^ 32)

/-- Two's complement of a small integer in n bits. -/
def tc (n : Nat) (x : Int) : Nat := (x % (2 ^ n : Int)).toNat

/-- The integer that an n-bit two's complement number stands for. -/
def sgn (n x : Nat) : Int := if x % 2 ^ n < 2 ^ (n - 1) then (x % 2 ^ n : Nat) else (x % 2 ^ n : Nat) - (2 ^ n : Int)

/-- The members of a mask of n bits, lowest first. -/
def maskBits (n mask : Nat) : List Nat := (List.range n).filter fun i => mask.testBit i

/-- Round up to a multiple. -/
def ceilDiv (x d : Nat) : Nat := (x + d - 1) / d

/-! ## Byte order (R41, R194, R229: little-endian) -/

/-- The low n bytes of a number, least significant first. -/
def le : Nat → Nat → List Byte
  | 0, _ => []
  | n + 1, x => BitVec.ofNat 8 x :: le n (x / 256)

/-- The low n bytes of a number, most significant first. -/
def be (n x : Nat) : List Byte := (le n x).reverse

/-- The number a little-endian byte string spells. -/
def ofLe : List Byte → Nat
  | [] => 0
  | b :: bs => b.toNat + 256 * ofLe bs

/-- The number a big-endian byte string spells. -/
def ofBe (bs : List Byte) : Nat := ofLe bs.reverse

/-- Zero bytes. -/
def zeros (n : Nat) : List Byte := List.replicate n 0#8

/-- n bytes of a byte string from offset o, zero beyond its end. -/
def bytesAt (bs : List Byte) (o n : Nat) : List Byte :=
  let t := (bs.drop o).take n
  t ++ zeros (n - t.length)

/-- The number in n little-endian bytes at offset o. -/
def leAt (bs : List Byte) (o n : Nat) : Nat := ofLe (bytesAt bs o n)

/-- Fill with zeros to exactly n bytes. -/
def padTo (n : Nat) (bs : List Byte) : List Byte := bs ++ zeros (n - bs.length)

/-- Memory words of a byte string. -/
def wordsOf (fuel : Nat) (bs : List Byte) : List U64 :=
  match fuel with
  | 0 => []
  | f + 1 => if bs.isEmpty then [] else BitVec.ofNat 64 (ofLe (bs.take 8)) :: wordsOf f (bs.drop 8)

/-- A byte string as 64-bit little-endian memory words. -/
def toWords (bs : List Byte) : List U64 := wordsOf bs.length bs

/-- Memory words as bytes. -/
def toBytes (ws : List U64) : List Byte := ws.flatMap fun w => le 8 w.toNat

/-- Memory words as 32-bit words. -/
def toU32s (ws : List U64) : List U32 :=
  ws.flatMap fun w => [BitVec.ofNat 32 w.toNat, BitVec.ofNat 32 (w.toNat / 2 ^ 32)]

/-! ## CRC-32C (R195) -/

/-- Eight steps of the reflected register. -/
def crcBits : Nat → Nat → Nat
  | 0, c => c
  | n + 1, c => crcBits n (if c % 2 = 1 then (c / 2) ^^^ 0x82F63B78 else c / 2)

/-- The register after a byte string. -/
def crcRun (c : Nat) : List Byte → Nat
  | [] => c
  | b :: bs => crcRun (crcBits 8 (c ^^^ b.toNat)) bs

/-- CRC-32C of a byte string: initial value and final inversion all ones. -/
def crc32c (bs : List Byte) : Nat := crcRun 0xFFFFFFFF bs ^^^ 0xFFFFFFFF

/-! ## Lists -/

/-- Replace the first element that meets `p`. -/
def modFirst {α : Type} (p : α → Bool) (f : α → α) : List α → List α
  | [] => []
  | x :: xs => if p x then f x :: xs else x :: modFirst p f xs

/-- Drop the first element that meets `p`. -/
def delFirst {α : Type} (p : α → Bool) : List α → List α
  | [] => []
  | x :: xs => if p x then xs else x :: delFirst p xs

/-- The lowest number below n not in the list. -/
def lowestFree (n : Nat) (used : List Nat) : Option Nat :=
  (List.range n).find? fun i => !used.contains i

/-- Insert before the first element that stands after `x`. -/
def insertBy {α : Type} (after : α → α → Bool) (x : α) : List α → List α
  | [] => [x]
  | y :: ys => if after y x then x :: y :: ys else y :: insertBy after x ys

/-- A stable ordering by a key. -/
def sortBy {α : Type} (key : α → Nat) (xs : List α) : List α :=
  xs.foldl (fun acc x => insertBy (fun y z => key z < key y) x acc) []

end Sys2Proof.Machine
end

