-- ==== Sys2Proof/Machine/Types.lean ====
section
/-! DEFINITION. The parts of the machine's state, unit by unit. GT values, stamps, counts and indices are
numbers; words that software or the wire sees are bit vectors. -/

namespace Sys2Proof.Machine

/-! ## Words at the boundary -/

/-- A Boxwood item (Table 8.2). -/
structure Item where
  prio : Nat
  pclass : Nat
  part : Nat
  kind : Nat
  src : Nat
  arg : U32
  gt : Nat
deriving DecidableEq, Repr, Inhabited

/-- A descriptor of 16 words (R228), word 0 first. -/
structure Desc where
  w : List U32
deriving DecidableEq, Repr, Inhabited

/-- A completion entry (Table 10.12). -/
structure Entry where
  tag : U32
  status : Nat
  part : Nat
  opcode : Nat
  phase : Bool
  gt : Nat
  result : U32
deriving DecidableEq, Repr, Inhabited

/-! ## Records (chapter 9) -/

/-- The body of a record. -/
inductive RecBody where
  /-- One event, to become an EVT item or an EVTX record (R210). -/
  | event (unit : Nat) (word : U64) (sampled : Bool)
  | cnt (unit : Nat) (lost : Bool) (cutKind cutId mask : Nat) (words : List U64)
  | epoch (forced lost : Bool) (source num merged skipped ignored start : Nat)
  | gap (noEnd split : Bool) (unit cause start count : Nat)
  | mark (stale : Bool) (unit kind layer oper step : Nat)
  | clkstop (wake : Bool) (unit : Nat)
  | clkrun (sleep : Bool) (unit : Nat)
  | freeze (fabric own : Bool) (id cause delta lostUnits fabSeq : Nat)
  | kv (odd psz : Bool) (unit kind site role layer oper page refs step : Nat)
  | lens (slot kind cutId : Nat) (image : List U64)
  /-- STREAM (kind 0) and PART (kind 1) ROWCHK records: ten counts of Table 9.7 and the histogram. -/
  | rowSum (kind tap site oper step maxResc : Nat) (counts hist : List Nat)
  | rowOne (tap site oper step rowId outcome cause : Nat) (late : Bool)
      (nresc lastResc dacc blocks keys : Nat) (maxW denomW : U32)
  | watchHead (watch seq site role fmt scale source : Nat) (kv psz bound sealed : Bool)
      (tokenUnits layer oper step va expect : Nat)
  | watchData (watch seq section_ offset : Nat) (sealed bound : Bool) (tap : Bool) (payload : List Byte)
  | watchEnd (watch seq status : Nat) (irreg tap : Bool) (faults bytes : Nat)
  | hang (g t endGt bytes freezeId firstUnit cause status depth ratio cancelled lateTrig units : Nat)
  | pause (cause : Nat)
  | resume (cause pauseStamp : Nat)
  | keygen (job dir gen seq : Nat)
  | remap (release : Bool) (unit oldPort newPort : Nat)
  | sent (watch kind lines : Nat) (arg : U32) (start fin : Nat)
  | alarm (cause action : Nat) (arg : U32)
  | fence (ring : Nat) (tag : U32)
  | rfp (fw lb level ratio : Nat) (govreq fixed : Bool) (cause : Nat) (clkOp pwrOp : U32)
      (spare attr : U256)
  | digest (final lossy notime : Bool) (n : Nat) (content timing : U256)
  | opsm (cls cutKind cutId : Nat) (counters : List U64)
deriving DecidableEq, Repr, Inhabited

/-- A record: its stamp, its LATE flag and its body. -/
structure Rec where
  stamp : Nat
  body : RecBody
deriving DecidableEq, Repr, Inhabited

/-- A closed frame (R193, R194): header fields and the used body bytes. -/
structure Frame where
  part : Nat
  job : Nat
  ctx : Nat
  seq : Nat
  keygen : Nat
  cuts : Bool
  last : Bool
  first : Bool
  bound : Bool
  recs : Nat
  gtBase : Nat
  inst : Nat
  body : List Byte
  /-- The trace-region write is still due. -/
  regionDue : Bool
  /-- The sealed copy for the host bounce ring is still due. -/
  hostDue : Bool
  /-- The close waits for this frame (CTX_CLOSE, CTX_SAVE): the command's ring and sequence. -/
  waiter : Option (Nat × Nat)
  /-- The command whose work closed it: ring, engine sequence (R236). -/
  cause : Option (Nat × Nat)
  /-- GT at which it was closed (oldest first, R354). -/
  closedAt : Nat
deriving DecidableEq, Repr, Inhabited

/-! ## AON domain -/

/-- Hornbeam (chapter 2). -/
structure Tb where
  /-- The root's count (R21). -/
  rootGt : Nat
  /-- GT since the last AON edge: 0 to 31. -/
  sub : Nat
  calDone : Bool
  /-- A calibration of every copy is due (R25). -/
  full : Bool
  maxRtt : Nat
  recalCnt : Nat
  /-- Start of the running lock window (R24). -/
  lockStart : Nat
  /-- Start of the window in which a lock error was found, until the recalibration ends. -/
  lockGap : Option Nat
  /-- Latency words written less than two OBS cycles ago: address, word before the write, GT until which it acts
  (R40). -/
  latOld : List (Nat × U32 × Nat)
deriving DecidableEq, Repr, Inhabited

/-- Where sleep entry stands (R324): not begun, step 2, in step 3 with the request still high, or after step 3. -/
inductive SleepStage where
  | awake
  | draining
  | zeroed
  | dropped
deriving DecidableEq, Repr, Inhabited

/-- Quickset, start-up and firmware (chapter 14). -/
structure Pwr where
  aonRstN : Bool
  rstN : Bool
  clkReq : Bool
  clkSel : Nat
  clkAck : Bool
  /-- `OBS_CLK_ACK` has fallen and no AON edge has come since (R361). -/
  relWait : Bool
  /-- The request is to rise at an AON edge (R324, R361). -/
  reqDue : Bool
  /-- GT of the last rise of `RST_N` (R272). -/
  rstAt : Nat
  /-- Ratio in force (RATIO_ACT). -/
  ratio : Nat
  stage : SleepStage
  /-- A grant after a sleep whose calibration has not ended (WAKING, Table 14.1). -/
  waking : Bool
  /-- A grant has been used since `RST_N` rose: STATE leaves WAKING for START. -/
  granted : Bool
  /-- A wake event recorded while the clock is withdrawn: source and GT (R16, R326). -/
  wake : Option (Nat × Nat)
  lastSrc : Nat
  lastLat : Nat
  ready : Bool
  fwOk : Bool
  fwFail : Bool
  sramDone : Bool
  keysDone : Bool
  fuseOk : Bool
  fwCode : Nat
  /-- GT of the first GO of this period of `RST_N` high (R332). -/
  goAt : Option Nat
  /-- Image words read so far, and whether the read failed. -/
  fwWords : List U64
  fwReadErr : Bool
  fwReadDone : Bool
  /-- Image address and length in 64-byte units, as taken at GO (R384). -/
  fwAt : Nat
  fwLen : Nat
  /-- Offset within the code at which execution started (R332). -/
  fwEntry : Nat
  fwVer : Nat
  fwHash : List Byte
  /-- Hedger held in reset (R342). -/
  hedgerDown : Bool
  /-- Last GT, at an AON edge, at which a hold condition held (R324). -/
  idleSince : Nat
  /-- A change of ratio under way. -/
  switching : Bool
  /-- GT of the fall of the request, until calibration completes (R94). -/
  sleepFrom : Option Nat
  fuses : SMap U32
  fuseAddr : Nat
  fuseReq : Bool
  fusesRead : Bool
  /-- Rejected repair entries (R396) and applied ones: array, macro, column flag, address. -/
  rejected : Nat
  repairs : List (Nat × Nat × Bool × Nat)
  /-- The request handshake (R362): a changed word stands, and REQ inverts at the next AON edge. -/
  pwrDue : Bool
  pwrReq : Bool
  pwrAck : Bool
  pwrCode : Nat
  pwrLevel : Nat
  pwrRule : Nat
deriving DecidableEq, Repr, Inhabited

/-- An open instance of a deadline watch (R250). -/
structure SInst where
  s : Nat
  d : Nat
  missed : Bool
deriving DecidableEq, Repr, Inhabited

/-- A Sentinel watch (R248). -/
structure SWatch where
  armed : Bool
  part : Nat
  startKind : Nat
  endKind : Nat
  sLayer : Nat
  sOper : Nat
  eLayer : Nat
  eOper : Nat
  offset : Nat
  lines : Nat
  freeze : Bool
  misses : Nat
  insts : List SInst
deriving DecidableEq, Repr, Inhabited

/-- A marker in the Sentinel's crossing queue (R251). -/
structure Marker where
  kind : Nat
  layer : Nat
  oper : Nat
  owner : Nat
  stamp : Nat
deriving DecidableEq, Repr, Inhabited

/-- The running state of a governor rule (R259). -/
structure GRule where
  active : Bool
  /-- Consecutive windows of the running kind, and whether that kind is high. -/
  run : Nat
  runHigh : Bool
  /-- First GT of the first window of the run. -/
  runStart : Nat
  /-- End of the window that is evaluated next. -/
  wEnd : Nat
  /-- Ends, not yet passed over, at which the OBS domain did not run. -/
  asleep : List Nat
deriving DecidableEq, Repr, Inhabited

/-- A miss whose lines rise, and whose freeze is triggered, at the following AON edge (R252). -/
structure SDue where
  lines : Nat
  freeze : Bool
  g : Nat
  part : Nat
deriving DecidableEq, Repr, Inhabited

/-- The Deadline Sentinel (chapter 11). -/
structure Sen where
  watches : SMap SWatch
  queue : List Marker
  /-- Lines driven high (a mask), and the GT at which pulsed lines fall. -/
  lines : Nat
  pulseEnd : SMap Nat
  /-- Misses of this AON cycle, and the lines acknowledged in it (a mask). -/
  due : List SDue
  acked : Nat
  rules : SMap GRule
  /-- Increments of the rules' sources (R259): by source and unit, then by slots of 2^14 GT. -/
  incs : SMap (SMap Nat)
  /-- The Sentinel's holding register (R175), kept through `RST_N` (R78). -/
  hold : Option Item
deriving DecidableEq, Repr, Inhabited

/-- Blackthorn (R287, R288). -/
structure Alm where
  alarms : Nat
  tamperSeen : Nat
  /-- Lines whose present high level has registered (a mask). -/
  tamperHeld : Nat
  glitchHeld : Bool
  frozen : Bool
  /-- Erasure of the key store under way. -/
  zeroizing : Bool
  zeroized : Bool
  hold : Option Item
deriving DecidableEq, Repr, Inhabited

/-- One live generation of a job key (R282): number, key, GT of its advance, and for an inbound key the counter last
accepted of each instance (R299). -/
structure Gen where
  gen : Nat
  key : List Byte
  since : Nat
  ctrs : SMap Nat
deriving DecidableEq, Repr, Inhabited

/-- A job entry of the key store (R279): newest generation first in each direction. -/
structure JobKey where
  part : Nat
  job : Nat
  outb : List Gen
  inb : List Gen
deriving DecidableEq, Repr, Inhabited

/-- A device-set key (R284). -/
structure DevSet where
  key : List Byte
  salt : List Byte
  ctr : Nat
deriving DecidableEq, Repr, Inhabited

/-- The key store (R279). -/
structure Keys where
  device : Option (List Byte)
  tenant : SMap (Option (List Byte))
  devset : SMap (Option DevSet)
  jobs : List JobKey
deriving DecidableEq, Repr, Inhabited

/-- A RAP or JTAG access waiting to be served (R363, R377). -/
structure RapAcc where
  write : Bool
  addr : Nat
  data : U32
  jtag : Bool
deriving DecidableEq, Repr, Inhabited

/-- The Register Access Port and the JTAG port (R363, R376). -/
structure Rap where
  held : List RapAcc
  rdata : U32
  err : Bool
  /-- Latches of read-only pairs, keyed by the `_LO` address (R384). -/
  latch : SMap U32
  /-- Data register that the last JTAG instruction captured. -/
  tdr : U64
  /-- Read data and ERR of the last access of `DBG_ACCESS`. -/
  dbgData : U32
  dbgErr : Bool
  mbRun : Option Nat
  mbDone : Bool
  mbFail : Bool
  mbDenied : Bool
  mbArray : Nat
  mbRows : Nat
deriving DecidableEq, Repr, Inhabited

/-- A doorbell page (Table 10.2), with writes held during sleep (R223). -/
structure Db where
  tail : Nat
  head : Nat
  tailHeld : Option Nat
  headHeld : Option Nat
deriving DecidableEq, Repr, Inhabited

/-- The AON domain. -/
structure Aon where
  regs : SMap U32
  tb : Tb
  pwr : Pwr
  sen : Sen
  alm : Alm
  keys : Keys
  rap : Rap
  db : SMap Db
  /-- Instance ID and MISALIGN, kept through `RST_N` (Table 14.3). -/
  instId : Nat
  instSet : Bool
  misalign : Bool
  discovered : Bool
  /-- The round trip to the root that the first discovery measured (R313). -/
  fabRtt : Option Nat
deriving DecidableEq, Repr, Inhabited

/-! ## Hedgerow (chapter 3) -/

/-- The counters of one unit in one bank: P0 to P15, F0 to F3 (R52) and the accounting word (R55). -/
structure UnitBank where
  p : SMap U64
  f0 : U64
  f1 : U64
  f2 : U64
  f3 : U64
  acct : U64
deriving DecidableEq, Repr, Inhabited

/-- A bank: unit counters; ops-matrix counters keyed (partition, class, format, unit), each unit's share apart
(R56, R335); events sent and received by each router port and each fabric port (R86). -/
structure Bank where
  u : SMap UnitBank
  ops : SMap U64
  rsent : SMap Nat
  rrecv : SMap Nat
  fsent : SMap Nat
  frecv : SMap Nat
deriving DecidableEq, Repr, Inhabited

/-- A bank split at the boundaries not yet taken: increments stamped before all of them, and those stamped at or
after a boundary, keyed by the latest such boundary of the partition. -/
structure Split where
  live : Bank
  after : SMap Bank
deriving DecidableEq, Repr, Inhabited

/-- A claimed counter: its selector (Table 3.3) and the context that holds it (R53). -/
structure Sel where
  word : U32
  ctx : Nat
  /-- Completion GT of the claim, and of the last arm of the context: it counts events stamped from both on. -/
  claimed : Nat
  since : Nat
deriving DecidableEq, Repr, Inhabited

/-- A progress watchdog (R162). -/
structure Wdog where
  log2p : Nat
  prog : Bool
  stopPause : Bool
  /-- The GT from which its count runs, moved on past stopped time when STOP_PAUSE is set. -/
  base : Nat
  expired : Bool
deriving DecidableEq, Repr, Inhabited

/-- What a hang dump reports of a unit at T, kept from the first change stamped T or later (R167). -/
structure UnitSnap where
  owner : Nat
  lastEvent : Nat
  lastProg : Nat
  stop : Nat
  clk : Bool
  port : Nat
  restart : Nat
deriving DecidableEq, Repr, Inhabited

/-- What a logical unit holds beside its counters. -/
structure UnitSt where
  owner : Nat
  sels : SMap (Option Sel)
  /-- A stop in force: its CLKSTOP stamp and the GT up to which F3 has been counted (R33, R36). -/
  stop : Option (Nat × Nat)
  ring : List (U64 × Nat)
  ringWrap : Bool
  /-- Events not appended during a hang hold (Table 7.3). -/
  held : Nat
  wdog : Option Wdog
  lastEvent : Nat
  lastProg : Nat
  /-- Recent changes of owner, oldest first: GT and the owner before it (R266). -/
  owners : List (Nat × Nat)
  /-- Recent transitions of the unit's stop, oldest first: stamp, and whether its clock runs from there (R34). -/
  stops : List (Nat × Bool)
  /-- Values of the shadow and epoch bank were lost to an owner change or an SRAM error. -/
  shadowLost : Bool
  epochLost : Bool
  /-- Last owner change or restart of the live counters (R272). -/
  restart : Nat
  /-- The unit as it stood at the T of the running hang sequence, where it has changed since. -/
  snap : Option UnitSnap
deriving DecidableEq, Repr, Inhabited

/-- A run of losses (R45): start of the part still to be written, losses in it, split at a cut. -/
structure LossRun where
  start : Nat
  count : Nat
  total : Nat
  first : Nat
  split : Bool
deriving DecidableEq, Repr, Inhabited

/-- A probe port (R44, R369 to R372). -/
structure PortSt where
  unit : Option Nat
  mirror : Nat
  /-- Steps of the credit-return count, 0 to 7 (R371). -/
  cret : Nat
  clk : Bool
  run : Option LossRun
  /-- Stamps of the valids seen by the section switch since the latest cut that a takeover can need (R70). -/
  offered : List Nat
deriving DecidableEq, Repr, Inhabited

/-- An event in a burst buffer, or a transition of `CLK_ACTIVE` to a level. -/
structure BufEv where
  port : Nat
  stamp : Nat
  word : U64
  clk : Option Bool
  /-- GT at which it reached the collector (R149). -/
  reached : Nat
deriving DecidableEq, Repr, Inhabited

/-- A takeover in progress (R69): Td, Tc, the spare chosen (none while an earlier takeover of the section runs,
R340), whether its copy is calibrated, and whether its rows are checked and the routers updated. -/
structure Takeover where
  td : Nat
  tc : Nat
  spare : Option Nat
  cal : Bool
  ready : Bool
deriving DecidableEq, Repr, Inhabited

/-- A logical collector. -/
structure CollSt where
  phys : Nat
  inc : Nat
  buf : List BufEv
  cal : Bool
  skew : Int
  /-- Stamp of the last good heartbeat (R68). -/
  th : Nat
  misses : Nat
  taking : Option Takeover
  /-- Marked LOST with this Tc (R73). -/
  lost : Option Nat
  /-- Tc and Tr of the last takeover: a cut in (Tc, Tr] reports the units LOST (R70). -/
  lastTake : Option (Nat × Nat)
  /-- Start of a drift error's gap, until its copy is recalibrated (R27). -/
  driftGap : Option Nat
  /-- Credits withheld during step 2 of sleep entry, one entry a credit: the port (R324). -/
  withheld : List Nat
deriving DecidableEq, Repr, Inhabited

/-- The spare pool of a section (R389): local numbers 0 to 17. -/
structure SectSt where
  /-- Idle collectors of the pool. -/
  idle : List Nat
  /-- Being checked for a takeover. -/
  checking : List Nat
  /-- Failed, fenced awaiting self-test, or out of service. -/
  out : List Nat
  /-- Of those, the ones a self-test may still return (fenced). -/
  fenced : List Nat
  /-- Of those, the ones out of service until `RST_N` (R72). -/
  oos : List Nat
  /-- REMAP events accepted and not yet part of the ports' own mapping: stamp, port, word (R51). -/
  remaps : List (Nat × Nat × U64)
deriving DecidableEq, Repr, Inhabited

/-- Hedgerow. -/
structure Hed where
  units : SMap UnitSt
  ports : SMap PortSt
  colls : SMap CollSt
  sects : SMap SectSt
  steps : SMap Nat
  attr : SMap U64
  /-- Alignment of the command engine's and the Lens's copies (R26). -/
  engSkew : Int
  lensSkew : Int
  /-- Collectors told to stop their heartbeat by an injection (Table 18.8). -/
  hbStop : List Nat
  /-- Incarnation that each physical collector holds (R71). -/
  physInc : SMap Nat
deriving DecidableEq, Repr, Inhabited

/-! ## Cuts (chapter 4) -/

/-- A pending freeze (R79). -/
structure Freeze where
  id : Nat
  t : Nat
  /-- CAUSE bits of Table 4.7. -/
  cause : Nat
  fabric : Bool
  fabSeq : Nat
  own : List Nat
  bank : Split
  /-- A hardware trigger's. -/
  hw : Bool
deriving DecidableEq, Repr, Inhabited

/-- A cut that a takeover may go back to (R70): its GT, its partition (none: all) and the live bank at it. -/
structure CutMark where
  t : Nat
  part : Option Nat
  /-- A boundary, which restarted the partition's live counters. -/
  restart : Bool
  bank : Split
deriving DecidableEq, Repr, Inhabited

/-- The shadow bank (R87). -/
structure Shadow where
  id : Nat
  t : Nat
  finalGt : Nat
  fabric : Bool
  fabSeq : Nat
  bank : Bank
deriving DecidableEq, Repr, Inhabited

/-- An epoch schedule (Table 4.6): 0 OFF, 1 PERIOD, 2 FSYNC. -/
structure Sched where
  source : Nat
  period : Nat
  base : Nat
deriving DecidableEq, Repr, Inhabited

/-- An undrained epoch of a partition (R92). -/
structure Undrained where
  start : Nat
  fin : Nat
  merged : Nat
  skipped : Nat
  ignored : Nat
  forced : Bool
  source : Nat
deriving DecidableEq, Repr, Inhabited

/-- An accepted schedule (R90): its boundaries determined and not yet taken, its first, the GT from which a later schedule or
OFF drops them, and the GT at which OFF took effect. -/
structure EpEntry where
  sched : Sched
  next : List Nat
  /-- The first boundary it has defined. -/
  first : Option Nat
  stop : Option Nat
  off : Option Nat
deriving DecidableEq, Repr, Inhabited

/-- The epochs of one partition. -/
structure EpochSt where
  /-- Schedules in order of acceptance: the first is in force until a later one defines its first boundary. -/
  entries : List EpEntry
  /-- A boundary forced by a takeover (R95), not yet final. -/
  forcedTb : Option Nat
  /-- Start of the running epoch. -/
  start : Nat
  skipped : Nat
  ignored : Nat
  /-- Last FRAME_SYNC edge that set a boundary. -/
  lastEdge : Option Nat
  undrained : Option Undrained
  /-- GT of the EPOCH_SETs that no boundary has followed yet: the first epoch after one has number 0 (Table 4.8). -/
  renumber : List Nat
deriving DecidableEq, Repr, Inhabited

/-- Pleach and Coppice. -/
structure Cut where
  main : Split
  /-- Freezes, boundaries and arms that a takeover may go back to. -/
  marks : List CutMark
  epochBank : Bank
  /-- Pending freezes: up to four software, one hardware. -/
  sw : List Freeze
  hw : Option Freeze
  /-- Freeze IDs issued since `RST_N` (R80). -/
  issued : Nat
  shadow : Option Shadow
  /-- T of every freeze issued, by ID (R125). -/
  times : SMap Nat
  /-- IDs of freezes cancelled by a hang (R166). -/
  cancelled : List Nat
  epochs : SMap EpochSt
  /-- Partitions whose next FREEZE or EPOCH record must carry LOST (Table 15.2). -/
  opsLost : List Nat
  /-- Ops-matrix counters that read zero until their next epoch restart (Table 15.2). -/
  opsDead : List Nat
deriving DecidableEq, Repr, Inhabited

/-! ## Contexts and trace writer (chapters 9, 10) -/

/-- Context states (Table 10.9). -/
inductive CtxState where
  | opened
  | armed
  | paused
  | saved
deriving DecidableEq, Repr, Inhabited

/-- The EVT record under construction (R210). -/
structure EvtB where
  stamp : Nat
  sampled : Bool
  prev : Nat
  n : Nat
  items : List Byte
  late : Bool
deriving DecidableEq, Repr, Inhabited

/-- The frame under construction of a context. -/
structure FrameB where
  base : Nat
  entered : Nat
  body : List Byte
  evt : Option EvtB
  dict : Option (List (U64 × U32))
  recs : Nat
  cuts : Bool
  bound : Bool
  /-- It holds DATA of a BOUND dump that is not sealed (R155). -/
  clear : Bool
  /-- Its buffer is one of the sixteen held for control records (R214). -/
  held : Bool
deriving DecidableEq, Repr, Inhabited

/-- A WRITER gap still open (R214): first event dropped, and how many. -/
structure WGap where
  start : Nat
  count : Nat
deriving DecidableEq, Repr, Inhabited

/-- A context (R240 to R244). -/
structure CtxSt where
  part : Nat
  job : Nat
  state : CtxState
  /-- Acceptance GT of a CTX_CLOSE that has not completed. -/
  closing : Option Nat
  mode : Nat
  k : Nat
  classMask : Nat
  unitFirst : Nat
  unitLast : Nat
  siteFirst : Nat
  siteLast : Nat
  policy : U32
  egr : Bool
  host : Bool
  resident : Bool
  spillAddr : Nat
  seq : Nat
  first : Bool
  framesSinceArm : Nat
  content : U256
  timing : U256
  ncanon : Nat
  lossy : Bool
  notime : Bool
  refStamp : Nat
  pauseStamp : Nat
  /-- Unit-lane ordinals (Table 9.10) and sampling positions (R65), per unit. -/
  ordinals : SMap Nat
  samples : SMap Nat
  /-- The reorder hold (R402). -/
  hold : List Rec
  frame : Option FrameB
  wgap : Option WGap
  /-- Highest stamp written without CUT (R204). -/
  highest : Nat
  epochNum : Nat
  /-- Intervals of GT over which events and records are offered, newest first; open while ARMED (R240). -/
  spans : List (Nat × Option Nat)
  /-- The commands that wait for the frames closed by the DIGEST records to come: ring, engine sequence. -/
  waiters : List (Nat × Nat)
  /-- The `CTX_PAUSE` whose PAUSE record is still to be placed. -/
  pauseBy : Option (Nat × Nat)
deriving DecidableEq, Repr, Inhabited

/-- A partition's trace region (R199 to R201) or host bounce ring (R290). -/
structure Region where
  npages : Nat
  overwrite : Bool
  ptAddr : Nat
  cbAddr : Nat
  pages : List Nat
  wr : Nat
  wraps : Nat
  overwritten : Nat
  rd : Nat
  unread : Nat
  /-- The page table entry of the page of WR has been read. -/
  pageRead : Bool
  /-- RD has been read again for that page (OVERWRITE, R201). -/
  rdRead : Bool
deriving DecidableEq, Repr, Inhabited

/-! ## SMP and governor (chapters 16, 17) -/

/-- What an SMP write is for. -/
inductive WrWhat where
  /-- A completion entry, and its NOIRQ. -/
  | completion (r seq : Nat) (e : Entry) (noirq : Bool)
  | msi (r : Nat) (addr : Nat) (data : U32)
  | drain (n lastSeq : Nat) (items : List Item)
  | lensSpill (slot : Nat)
  /-- A read of a spilled slot's images, for this work. -/
  | lensRead (job : Nat)
  | ctxSpill (ctx : Nat)
  | frame (f : Frame)
  | host (f : Frame)
  /-- Control blocks and tombstones, with the command whose work they are (R236). -/
  | ctrlBlock (p : Nat) (cause : Option (Nat × Nat)) (since : Nat)
  | hostBlock (p : Nat) (cause : Option (Nat × Nat)) (since : Nat)
  | out (r seq : Nat) (final : Bool)
  | pad
  | hang (p : Nat) (final : Bool)
  | tomb (cause : Option (Nat × Nat))
deriving DecidableEq, Repr, Inhabited

/-- A metered piece waiting for the governor (R352): class, size in 64-byte units, partition, address, data. -/
structure Piece where
  cls : Nat
  units : Nat
  part : Nat
  what : WrWhat
  addr : Nat
  data : List U64
deriving DecidableEq, Repr, Inhabited

/-- An outstanding SMP write. -/
structure Wr where
  tag : Nat
  sid : Nat
  what : WrWhat
  addr : Nat
  data : List U64
  part : Nat
deriving DecidableEq, Repr, Inhabited

/-- What an SMP read is for. -/
inductive RdWhat where
  /-- n descriptors of ring r. -/
  | desc (r n : Nat)
  /-- A source or parameter buffer of the command in progress or parked: a step number of its own. -/
  | cmd (r seq step : Nat)
  | firmware
  | regionRd (p : Nat)
  | hostRd (p : Nat)
  | page (p : Nat)
  | watch (dump : Nat) (offset len : Nat)
  | lensSpill (job : Nat)
  | ctxSpill (ctx : Nat)
deriving DecidableEq, Repr, Inhabited

/-- An outstanding SMP read. -/
structure Rd where
  tag : Nat
  sid : Nat
  what : RdWhat
  addr : Nat
  units : Nat
deriving DecidableEq, Repr, Inhabited

/-- The SMP and the governor. -/
structure Smp where
  pieces : List Piece
  wrOut : List Wr
  rdOut : List Rd
  /-- Credit in units of 1/1,600 byte (R353). -/
  credit : Nat
  share : Nat
  fixed : Bool
  govreq : Bool
  /-- The pad area taken at `GOV_SET` (R355, R384). -/
  pad : Nat
  /-- Consecutive pieces of classes 1 to 5 (R354), and the partitions served last in classes 4 and 5. -/
  run : Nat
  rr4 : Nat
  rr5 : Nat
  /-- Frames closed and not yet freed. -/
  frames : List Frame
  /-- GT of the OBS cycle in which event records last reached the compressor, and how many did (R214). -/
  compAt : Nat
  compN : Nat
deriving DecidableEq, Repr, Inhabited

/-! ## Command engine (chapter 10) -/

/-- What a command in progress or parked waits for. -/
inductive Stage where
  /-- SERIAL: every earlier descriptor (R235). -/
  | serial
  /-- Behind an earlier command that names the same object (R235). -/
  | behind
  | fence
  /-- An SMP read; the words read by earlier steps. -/
  | read (step : Nat) (got : List (List U64))
  /-- Firmware, until the deadline; the words read. -/
  | firmware (deadline : Nat) (got : List (List U64))
  /-- A freeze becoming final. -/
  | freeze
  /-- The images of spilled slots being read (R119). -/
  | images
  /-- Output writes: 64-byte units, and how many pieces are still to be acknowledged. -/
  | output (units left : Nat) (err : Bool) (noConsent : Bool)
  /-- A closing or saving context's last frame. -/
  | ctxFrame (written : Bool)
  | watchEnd
  | partClose (acc d e : Nat) (step : Nat)
  | rotate (gen : Nat) (step : Nat) (clean : Bool)
  | scrub (deadline : Nat)
  | egrOpen (step : Nat) (since : Nat)
  | egrClose (since : Nat)
  | fab (since : Nat)
  /-- FREEZE_AT fabric: its sequence, the instances still to answer, and the own freeze ID. -/
  | fabFreeze (fabSeq left id : Nat)
deriving DecidableEq, Repr, Inhabited

/-- A descriptor held by the engine: its engine sequence and words, and what it waits for. -/
structure Held where
  seq : Nat
  d : Desc
  stage : Stage
  fetchedAt : Nat
deriving DecidableEq, Repr, Inhabited

/-- A command ring (R222 to R227). -/
structure Ring where
  en : Bool
  stopped : Bool
  faultSt : Nat
  /-- The pairs taken when the ring was enabled (R384): RING_BASE, CQ_BASE, MSIA. -/
  base : Nat
  cqBase : Nat
  msia : Nat
  head : Nat
  cqTail : Nat
  phase : Bool
  pend : Bool
  /-- Descriptors whose read is outstanding. -/
  reading : Nat
  fetched : List Held
  /-- A command in progress that holds up its ring while it reads. -/
  cur : Option Held
  parked : List Held
  nextSeq : Nat
  /-- A CQ_FULL episode is running (R226). -/
  full : Bool
  /-- Entries not yet consumed: completion index, NOIRQ, and whether the write has been acknowledged. -/
  noirq : List (Nat × Bool × Bool)
  /-- Entries or MSIs to be written again after a fault (R227). -/
  again : List Piece
  /-- Engine sequences with an SMP write not yet acknowledged (R236). -/
  unacked : List Nat
deriving DecidableEq, Repr, Inhabited

/-- The command engine. -/
structure Cmd where
  rings : SMap Ring
  agreed : Nat
  verDone : Bool
  /-- Ring served last (round robin). -/
  rr : Nat
deriving DecidableEq, Repr, Inhabited

/-! ## Boxwood (chapter 8) -/

/-- An occupied stage: the item, its order of acceptance, the sequence number of its read. -/
structure QItem where
  item : Item
  age : Nat
  read : Option Nat
deriving DecidableEq, Repr, Inhabited

/-- A source's holding register (R175): class, source number, item. -/
structure HoldReg where
  cls : Nat
  src : Nat
  item : Item
deriving DecidableEq, Repr, Inhabited

/-- Boxwood and its drain engine. -/
structure Evq where
  q : List QItem
  nextAge : Nat
  rseq : Nat
  mark : Nat
  consAct : Bool
  changing : Bool
  holds : List HoldReg
  /-- Round robin: the class served next, and in each class the source served next. -/
  rrCls : Nat
  rrSrc : SMap Nat
  pinHi : Bool
  stalled : Bool
  /-- What the last READ returned: an item with its sequence, or NONE. -/
  out : Option (Nat × Item)
  none_ : Bool
  /-- `HR_BASE` as taken when the ring was sized (R384). -/
  hrBase : Nat
  hrTail : Nat
  hrHead : Nat
  /-- A drain batch is being written. -/
  batch : Bool
  /-- A batch must be formed again without a new MARK (R187). -/
  redo : Bool
deriving DecidableEq, Repr, Inhabited

/-! ## Lens and row check (chapters 5, 6) -/

/-- An exact value: significand times a power of two. -/
structure Dyadic where
  m : Int
  e : Int
deriving DecidableEq, Repr, Inhabited

/-- One bin: count, sum and sum of squares, or the sub-counts of Table 5.6. -/
structure Bin where
  n : Nat
  sum : Int
  sq : Nat
  s1 : Nat
  s0 : Nat
  q1 : Nat
  q0 : Nat
deriving DecidableEq, Repr, Inhabited

/-- The statistics of a slot image (Table 5.7). -/
structure Img where
  bins : SMap Bin
  hist : SMap Nat
  mn : Option Dyadic
  mx : Option Dyadic
  amx : Option Dyadic
  neg : Nat
  clampLo : Nat
  clampHi : Nat
  trunc : Nat
  elems : Nat
  streams : Nat
  scaleNeg : Nat
  lostElems : Nat
  satPairs : Nat
  merged : Nat
  firstStamp : Option Nat
  lastStamp : Nat
  sat : Bool
  incomplete : Bool
deriving DecidableEq, Repr, Inhabited

/-- Cut buffer states (Table 5.9). -/
inductive BufState where
  | empty
  | freeze
  | epoch
  | both
deriving DecidableEq, Repr, Inhabited

/-- A Lens slot (R118, R119). -/
structure Slot where
  part : Nat
  siteFirst : Nat
  siteLast : Nat
  operFirst : Nat
  operLast : Nat
  stepFirst : Nat
  stepLast : Nat
  roleMask : Nat
  fmt : Nat
  qfmt : Nat
  scale : Nat
  pair : Bool
  binStep : Nat
  origin : Int
  chanBase : Nat
  chanCount : Nat
  resident : Bool
  spillAddr : Nat
  boundAt : Nat
  live : Img
  /-- Committed beats stamped at or after a cut that has not been copied, keyed by that cut. -/
  post : SMap Img
  /-- The spill area holds the live image (R119). -/
  stored : Bool
  /-- Elements of streams that found the tap's queue full, for the next commit (R120). -/
  lostDue : Nat
  buf : BufState
  bufImg : Img
  bufId : Nat
  /-- The cut buffer was lost to an SRAM error and reads CUT_LOST (Table 15.2). -/
  cutLost : Bool
deriving DecidableEq, Repr, Inhabited

/-- Counts of the row check for one stream part (Table 6.6). -/
structure RowSum where
  rows : Nat
  rescales : Nat
  late : Nat
  empty : Nat
  denLow : Nat
  denHigh : Nat
  len1 : Nat
  bad : Nat
  untracked : Nat
  maxResc : Nat
  hist : SMap Nat
  last : Nat
  /-- ROW records of the part, per context, and those withheld. -/
  recsPer : SMap Nat
  supp : SMap Nat
deriving DecidableEq, Repr, Inhabited

/-- An open row (R132). -/
structure Row where
  id : Nat
  mx : U32
  denom : U32
  keys : Nat
  block : Nat
  dacc : Nat
  nresc : Nat
  lastResc : Nat
  late : Bool
  bad : Nat
deriving DecidableEq, Repr, Inhabited

/-- An open stream of a tap. -/
structure Stream where
  fmt : Nat
  scale : Nat
  site : Nat
  part : Nat
  layer : Nat
  oper : Nat
  role : Nat
  step : Nat
  attributed : Bool
  slot : Option Nat
  openedAt : Nat
  beats : Nat
  elems : Nat
  lastStamp : Nat
  /-- Uncommitted parts, keyed by the latest pending cut at or below their beats (0: none). -/
  parts : SMap Img
  /-- The pair the stream belongs to (R116). -/
  pairOf : Option Nat
  /-- Row counts by the latest pending cut at or below their records (0: none). -/
  rowParts : SMap RowSum
  /-- A DEN_LOW, DEN_HIGH or BAD row, and an EMPTY row, have been decided (R142). -/
  rowErr : Bool
  rowEmpty : Bool
deriving DecidableEq, Repr, Inhabited

/-- Why the images of a spilled slot are read (R119): to commit a stream of a tap (or, without a tap, what a cut or a
lane failure commits), to copy the live image at the cut at T (the freeze's ID; whether it is a boundary, and whether
the two are one cut; the cut ID of the image), to read the epoch's image back for its records, to note that the epoch
is drained, or for a `LENS_READ` or `LENS_RELEASE`. -/
inductive SpillWhat where
  | commit (tap : Option Nat) (parts : SMap Img)
  | cut (t id : Nat) (boundary both : Bool) (cutId : Nat)
  | epoch
  | drained
  | read (r seq id : Nat)
deriving DecidableEq, Repr, Inhabited

/-- Work that waits for the images of a spilled slot: whether its reads have been asked for, how many 64-byte units they
are, and the words read, by address. -/
structure SpillQ where
  job : Nat
  slot : Nat
  what : SpillWhat
  asked : Option Nat
  got : SMap (List U64)
deriving DecidableEq, Repr, Inhabited

/-- A pair of streams (R116): elements that wait for their partners (index, code, stamp), which streams are open,
whether TAP1 has joined, and the uncommitted parts. -/
structure PairSt where
  id : Nat
  slot : Nat
  part : Nat
  since : Nat
  joined : Bool
  open0 : Bool
  open1 : Bool
  q0 : List (Nat × Nat × Nat)
  q1 : List (Nat × Nat × Nat)
  /-- Elements of TAP0 and of TAP1 discarded or passed over. -/
  lost0 : Nat
  lost1 : Nat
  parts : SMap Img
deriving DecidableEq, Repr, Inhabited

/-- The Lens, its taps and the row check. -/
structure Lens where
  slots : SMap (Option Slot)
  chan : SMap Nat
  tap0 : Option Stream
  tap1 : Option Stream
  /-- Work on spilled slots, in order of arrival, and the number of the next (R119, R120). -/
  spill : List SpillQ
  nextJob : Nat
  pairs : List PairSt
  nextPair : Nat
  rows0 : List Row
  rows1 : List Row
  unb0 : Nat
  unb1 : Nat
  oos : Bool
  spareUsed : Bool
  failed : Nat
  /-- A lane group that has failed and is not yet replaced. -/
  replacing : Option Nat
  /-- Lane groups told to fail their next check (Table 18.8). -/
  inject : List Nat
  /-- Items of the row check still to be pushed: the GT by which they are, and the item (R142). -/
  rowDue : List (Nat × Item)
deriving DecidableEq, Repr, Inhabited

/-! ## Watches and hang (chapter 7) -/

/-- An armed watch (Table 7.1). -/
structure Watch where
  part : Nat
  ctx : Nat
  layer : Nat
  oper : Nat
  layerAny : Bool
  operAny : Bool
  source : Nat
  kv : Bool
  psz : Bool
  devseal : Bool
  ndumps : Nat
  roleMask : Nat
  stepFirst : Nat
  stepLast : Nat
  site : Nat
  va : Nat
  asid : Nat
  len : Nat
  tokenUnits : Nat
  maxLen : Nat
  armedAt : Nat
  /-- Its number among the arms: an ID is taken again (R148). -/
  no : Nat
  started : Nat
  completed : Nat
  missed : Nat
  disarming : Bool
deriving DecidableEq, Repr, Inhabited

/-- A run of captured bytes of one section at an offset. -/
structure Run where
  sect : Nat
  offset : Nat
  bytes : List Byte
deriving DecidableEq, Repr, Inhabited

/-- A dump in progress (R149 to R157). -/
structure Dump where
  id : Nat
  watch : Nat
  /-- The watch's number among the arms, and the address and address space that it names. -/
  no : Nat
  va : Nat
  asid : Nat
  part : Nat
  ctx : Nat
  seq : Nat
  source : Nat
  tap : Nat
  bound : Bool
  sealed : Bool
  scale : Nat
  fmt : Nat
  /-- Section bytes captured or read so far. -/
  got0 : Nat
  got1 : Nat
  bytesOut : Nat
  runs : List Run
  irreg : Bool
  truncated : Bool
  faults : Nat
  /-- Capture or walk ended. -/
  ended : Bool
  /-- Walk: next offset to translate and end of the range. -/
  next : Nat
  expect : Nat
  pageBytes : Nat
  /-- Ranges translated and still to be read: offset, I/O address, bytes. -/
  todo : List (Nat × Nat × Nat)
  /-- Further translation points within a page: offset, end. -/
  more : List (Nat × Nat)
  limit : Nat
  /-- GT of the last DATA record. -/
  lastAt : Option Nat
  /-- Status of Table 7.2 with which the dump ends. -/
  status : Nat
deriving DecidableEq, Repr, Inhabited

/-- An XLT request outstanding (R368): tag, dump, offset, VA, end of its translation point, timed out. -/
structure Xlt where
  tag : Nat
  dump : Nat
  offset : Nat
  stop : Nat
  va : Nat
  asid : Nat
  since : Nat
  dead : Bool
deriving DecidableEq, Repr, Inhabited

/-- The watch and dump engine. -/
structure Wat where
  watches : SMap (Option Watch)
  dumps : List Dump
  nextDump : Nat
  /-- Watches armed so far. -/
  arms : Nat
  xlt : List Xlt
deriving DecidableEq, Repr, Inhabited

/-- A dump area (R161, R168). -/
structure Area where
  addr : Nat
  units : Nat
  held : Bool
deriving DecidableEq, Repr, Inhabited

/-- A hang sequence in progress (Table 7.5). -/
structure HangSeq where
  step : Nat
  cause : Nat
  g : Nat
  t : Nat
  freezeId : Nat
  firstUnit : Nat
  lateTrig : Nat
  cancelled : Nat
  ratioCut : Nat
  /-- Partitions written: partition, status, units, bytes, END_GT. -/
  done : List (Nat × Nat × Nat × Nat × Nat)
  /-- Current steps and ring depths at T, where they have changed since. -/
  steps : List (Nat × Nat)
  bram : Option U32
deriving DecidableEq, Repr, Inhabited

/-- The hang sequencer. -/
structure Hang where
  seq : Option HangSeq
  areas : SMap (Option Area)
  count : Nat
  lastCause : Nat
deriving DecidableEq, Repr, Inhabited

/-! ## Privet (chapter 12) -/

/-- A partition (R267, R273 to R278). -/
structure PartSt where
  state : Nat
  consent : Nat
  /-- Changes of the bits in force, oldest first: GT, and the bits before it (R275). -/
  consentLog : List (Nat × Nat)
  serial : Nat
  keySerial : Nat
  viol : Nat
  fence : Nat
  violReg : Bool
  fenceReg : Bool
  tenantHash : List Byte
  consentHash : List Byte
  region : Option Region
  host : Region
  /-- Frames in slots of the host bounce ring that RD has not passed, without their bodies. -/
  hostSlots : List (Nat × Frame)
deriving DecidableEq, Repr, Inhabited

/-- Privet in the OBS domain. -/
structure Prv where
  parts : SMap PartSt
deriving DecidableEq, Repr, Inhabited

/-! ## Egress and fabric (chapter 13) -/

/-- A frame in the frame replay buffer (R301 to R304). -/
structure ESlot where
  frame : Frame
  sealedBytes : List Byte
  /-- GT first sent; none while it waits for a credit. -/
  sentAt : Option Nat
  fnaks : Nat
  resend : Bool
  origin : Nat
deriving DecidableEq, Repr, Inhabited

/-- A flit of a link (R294, R308): sequence, type, destination, source, offset of a frame start, message before sealing,
payload, and the 256 bytes as last sent. -/
structure KFlit where
  seq : Nat
  ftype : Nat
  dst : Nat
  src : Nat
  fs : Option Nat
  clear : List Byte
  payload : List Byte
  wire : List Byte
deriving DecidableEq, Repr, Inhabited

/-- One side of a flit link (R295, R308). -/
structure Link where
  sendSeq : Nat
  ackSeq : Nat
  recvSeq : Nat
  nak : Bool
  /-- Flits sent and not yet acknowledged, and flits that wait for room in the replay buffer. -/
  kept : List KFlit
  waiting : List KFlit
  replays : Nat
  retried : Bool
  lastFlit : Nat
  /-- Flits that have passed CRC one after another on a port that is not up (R374). -/
  good : Nat
  /-- Frame bytes of the stream not yet packed into a flit. -/
  out : List Byte
  /-- Counters of sealed fabric payloads (R310). -/
  outCtr : Nat
  inCtr : Option Nat
deriving DecidableEq, Repr, Inhabited

/-- A run of SEQ of a context that have been sent (R303). -/
structure SeqRun where
  part : Nat
  job : Nat
  ctx : Nat
  first : Nat
  last : Nat
deriving DecidableEq, Repr, Inhabited

/-- The egress port. -/
structure Egr where
  /-- 0 CLOSED, 1 TRAINING, 2 AUTH, 3 UP, 4 DRAINING, 5 LOOP. -/
  state : Nat
  lanes : Nat
  wantLanes : Nat
  repaired : Bool
  loopback : Bool
  retraining : Option Nat
  lastDown : Nat
  lastFault : Nat
  link : Link
  slots : List ESlot
  credits : Nat
  maxCred : Nat
  /-- GT at which the last inbound message was taken (R306). -/
  lastMsg : Option Nat
  stationKey : List Byte
  stationId : List Byte
  ephemeral : List Byte
  coreNonce : List Byte
  hello : List Byte
  helloAt : Nat
  outKey : List Byte
  inKey : List Byte
  outCtr : Nat
  inCtr : Option Nat
  authFaults : Nat
  limFaults : Nat
  inbox : List (List Byte)
  /-- SEQ of this instance's frames that have been sent (R303). -/
  sentSeqs : List SeqRun
  /-- The EGR_OPEN or EGR_CLOSE in progress: ring and engine sequence. -/
  cmd : Option (Nat × Nat)
  closeAt : Nat
deriving DecidableEq, Repr, Inhabited

/-- A fabric payload received: port east, source, destination, type, payload. -/
structure FMsg where
  east : Bool
  src : Nat
  dst : Nat
  ftype : Nat
  payload : List Byte
deriving DecidableEq, Repr, Inhabited

/-- A member found by discovery: ROOT_PRIO, SEED, ID, hops east, busy, first. -/
structure Member where
  prio : Nat
  seed : Nat
  id : Nat
  hops : Nat
  busy : Bool
  first : Bool
deriving DecidableEq, Repr, Inhabited

/-- A discovery under way (Table 13.8): the prober's ID and discovery number, the GT at which this instance took it up,
and the members that have answered. -/
structure Disc where
  who : Nat
  no : Nat
  since : Nat
  found : List Member
deriving DecidableEq, Repr, Inhabited

/-- A broadcast that has been taken, the direction in which it travelled, and when (R315). -/
structure Seen where
  what : List Byte
  east : Bool
  seenAt : Nat
deriving DecidableEq, Repr, Inhabited

/-- A fabric freeze requested here (R98): ring, engine sequence, T. -/
structure FzCmd where
  ring : Nat
  seq : Nat
  t : Nat
deriving DecidableEq, Repr, Inhabited

/-- The Mladgor fabric. -/
structure Fab where
  /-- 0 SINGLE, 1 DISCOVERING, 2 MEMBER. -/
  state : Nat
  eUp : Bool
  wUp : Bool
  ccw : Bool
  root : Bool
  rootId : Nat
  count : Nat
  err : Int
  linkE : Link
  linkW : Link
  inbox : List FMsg
  /-- The members, in eastward order from this instance. -/
  members : List Member
  /-- Number of the last discovery that this instance began, and the discovery in which it takes part. -/
  discNo : Nat
  disc : Option Disc
  seen : List Seen
  tokenAt : Option Nat
  fabSeq : Nat
  /-- The FAB_DISCOVER in progress, and the fabric freezes: ring and engine sequence. -/
  cmd : Option (Nat × Nat)
  freezeCmds : List FzCmd
  /-- Frame bytes received and not yet whole, by source; those in transit, by source and arrival port. -/
  inb : SMap (List Byte)
  pass : SMap (List Byte)
  /-- Frames forwarded to the root whose outcome is awaited, without their bodies. -/
  sent : List Frame
  /-- The discovery begun by this instance's command has had its ASSIGN. -/
  assigned : Bool
  /-- The neighbour of the port has departed (R317). -/
  goneE : Bool
  goneW : Bool
deriving DecidableEq, Repr, Inhabited

/-! ## Debug (chapter 18) -/

/-- The debug window. -/
structure Dbg where
  done : Bool
  denied : Bool
  range : Bool
  check : Byte
  data : U64
  /-- Injected errors waiting for the core's next read: array, index, uncorrectable. -/
  inject : List (Nat × Nat × Bool)
  flitErr : List Nat
deriving DecidableEq, Repr, Inhabited

/-- The OBS domain. -/
structure Obs where
  regs : SMap U32
  hed : Hed
  cut : Cut
  ctxs : SMap (Option CtxSt)
  smp : Smp
  cmd : Cmd
  evq : Evq
  lens : Lens
  wat : Wat
  hang : Hang
  prv : Prv
  egr : Egr
  fab : Fab
  dbg : Dbg
deriving DecidableEq, Repr, Inhabited

end Sys2Proof.Machine
end

