-- ==== Sys2Proof/Machine/State.lean ====
section
/-! DEFINITION. The machine's state, its two reasons to stop, and the state after reset. -/

namespace Sys2Proof.Machine

/-- Reasons for which the machine would stop with a fault. -/
inductive Fault where
  /-- Raised by no command: the manual gives every command of the block an effect (Safe). -/
  | neverRaised
deriving DecidableEq, Repr

/-- Reasons for which a command has no answer. -/
inductive Refusal where
  /-- Raised by a command that has no meaning in the model yet, named by its mnemonic (Safe). -/
  | notModelled (mnemonic : String)
deriving DecidableEq, Repr

/-- The WT-1. -/
structure State where
  /-- The build (Table 0.4); no step changes it. -/
  build : Build
  aon : Aon
  obs : Obs
  /-- In scan test (Table 17.10). -/
  scan : Bool
  /-- The model's own counter of free values drawn. -/
  draws : Nat
  /-- Commands waiting, first in first out. -/
  pending : List Instr
deriving DecidableEq, Repr, Inhabited

/-- Partition p as `RST_N` leaves it (Table 14.3): 0 OPEN, the others FREE, no consent held. -/
def partD (p : Nat) : PartSt := { (default : PartSt) with state := if p = 0 then 1 else 0 }

/-- The OBS domain under `RST_N` (Table 14.3): every field 0, false or empty, but for the values named here.
Without crypto, partition 0 holds consent 0x9F unless ZEROIZE has acted (R268, R288). -/
def Obs.reset (b : Build) (zeroized : Bool) : Obs :=
  let o : Obs := default
  { o with
    smp := { o.smp with share := 20 }
    fab := { o.fab with root := true, count := 1 }
    prv := { parts := if b.crypto || zeroized then [] else [(0, { partD 0 with consent := 0x9F })] } }

/-- The AON domain under `AON_RST_N` (Table 14.3): every field 0, false or empty, but for the ratio (R40). -/
def Aon.reset : Aon :=
  let a : Aon := default
  { a with pwr := { a.pwr with ratio := 2, clkSel := 2 } }

/-- The machine under reset: `AON_RST_N` and `RST_N` low, in the build WT-1 F. -/
def State.reset : State :=
  { build := Build.wt1F, aon := Aon.reset, obs := Obs.reset Build.wt1F false, scan := false, draws := 0, pending := [] }

end Sys2Proof.Machine
end

