-- ==== Sys2Proof/Machine/Free.lean ====
section
/-! DEFINITION. Free values that are whole states, and what one step answers. -/

namespace Sys2Proof.Config

/-- The unpredictable OBS domain after `OBS_CLK_ACK` fell early (R361). -/
opaque freeObs : Nat → Machine.Obs

/-- The machine in scan test: every state of the core is undefined (R398). -/
opaque freeState : Nat → Machine.State

/-- A bin whose count reaches saturation within one commit: which of its elements still enter the sums is open (R111). -/
opaque freeBin : Nat → Nat → Machine.Bin

/-- An extreme of a pair error that binary64 does not hold exactly (R114): significand and exponent. -/
opaque binary64 : Int → Int → U64

end Sys2Proof.Config

namespace Sys2Proof.Machine

/-- What a command answers. -/
abbrev Answer := Host.Outcome State Fault Refusal

/-- The machine in scan test after one more command: a new free state (R398). Build and queue stay. -/
def inScan (s : State) : State :=
  { Config.freeState s.draws with build := s.build, scan := true, draws := s.draws + 1, pending := s.pending }

end Sys2Proof.Machine
end

