-- ==== Sys2Proof/Machine/Access.lean ====
section
/-! DEFINITION. Reading and changing one part of the state: the default of every table, its accessors, and
the time of each copy of GT. -/

namespace Sys2Proof.Machine

/-! ## Defaults of the tables: what an unlisted entry is after `RST_N`. -/

def unitD (_ : Nat) : UnitSt := default
def portD (p : Nat) : PortSt := { (default : PortSt) with unit := some p, clk := true }
def collD (c : Nat) : CollSt :=
  { (default : CollSt) with phys := 32 * (c / 16) + c % 16, inc := 1 }
def sectD (b : Build) (_ : Nat) : SectSt :=
  { (default : SectSt) with idle := (List.range b.sparesPerSection).map (16 + ·) }
/-- A physical collector's incarnation: 1 where it serves a logical collector after `RST_N`, 0 for a spare (R71). -/
def physIncD (j : Nat) : Nat := if j % 32 < 16 then 1 else 0
def ubankD (_ : Nat) : UnitBank := default
def epochD (_ : Nat) : EpochSt := default
def ringD (_ : Nat) : Ring := { (default : Ring) with phase := true }
def dbD (_ : Nat) : Db := default
def swatchD (_ : Nat) : SWatch := default
def gruleD (_ : Nat) : GRule := default
def u64D (_ : Nat) : U64 := 0
def natD (_ : Nat) : Nat := 0
def nat1D (_ : Nat) : Nat := 1
def noneD {α : Type} (_ : Nat) : Option α := none

/-! ## One part of the state -/

def onAon (f : Aon → Aon) (s : State) : State := { s with aon := f s.aon }
def onObs (f : Obs → Obs) (s : State) : State := { s with obs := f s.obs }
def onTb (f : Tb → Tb) : State → State := onAon fun a => { a with tb := f a.tb }
def onPwr (f : Pwr → Pwr) : State → State := onAon fun a => { a with pwr := f a.pwr }
def onSen (f : Sen → Sen) : State → State := onAon fun a => { a with sen := f a.sen }
def onAlm (f : Alm → Alm) : State → State := onAon fun a => { a with alm := f a.alm }
def onKeys (f : Keys → Keys) : State → State := onAon fun a => { a with keys := f a.keys }
def onRap (f : Rap → Rap) : State → State := onAon fun a => { a with rap := f a.rap }
def onHed (f : Hed → Hed) : State → State := onObs fun o => { o with hed := f o.hed }
def onCut (f : Cut → Cut) : State → State := onObs fun o => { o with cut := f o.cut }
def onSmp (f : Smp → Smp) : State → State := onObs fun o => { o with smp := f o.smp }
def onCmd (f : Cmd → Cmd) : State → State := onObs fun o => { o with cmd := f o.cmd }
def onEvq (f : Evq → Evq) : State → State := onObs fun o => { o with evq := f o.evq }
def onLens (f : Lens → Lens) : State → State := onObs fun o => { o with lens := f o.lens }
def onWat (f : Wat → Wat) : State → State := onObs fun o => { o with wat := f o.wat }
def onHang (f : Hang → Hang) : State → State := onObs fun o => { o with hang := f o.hang }
def onPrv (f : Prv → Prv) : State → State := onObs fun o => { o with prv := f o.prv }
def onEgr (f : Egr → Egr) : State → State := onObs fun o => { o with egr := f o.egr }
def onFab (f : Fab → Fab) : State → State := onObs fun o => { o with fab := f o.fab }
def onDbg (f : Dbg → Dbg) : State → State := onObs fun o => { o with dbg := f o.dbg }

def unitOf (s : State) (u : Nat) : UnitSt := smGet unitD s.obs.hed.units u
def onUnit (u : Nat) (f : UnitSt → UnitSt) : State → State :=
  onHed fun h => { h with units := smMod unitD h.units u f }
def portOf (s : State) (p : Nat) : PortSt := smGet portD s.obs.hed.ports p
def onPort (p : Nat) (f : PortSt → PortSt) : State → State :=
  onHed fun h => { h with ports := smMod portD h.ports p f }
def collOf (s : State) (c : Nat) : CollSt := smGet collD s.obs.hed.colls c
def onColl (c : Nat) (f : CollSt → CollSt) : State → State :=
  onHed fun h => { h with colls := smMod collD h.colls c f }
def sectOf (s : State) (i : Nat) : SectSt := smGet (sectD s.build) s.obs.hed.sects i
def onSect (i : Nat) (f : SectSt → SectSt) (s : State) : State :=
  onHed (fun h => { h with sects := smMod (sectD s.build) h.sects i f }) s
/-- The owner of a unit at GT t: that of before the earliest change after it (R266). -/
def ownerAt (s : State) (u t : Nat) : Nat :=
  match (unitOf s u).owners.find? fun e => decide (t < e.1) with
  | some e => e.2
  | none => (unitOf s u).owner
def stepOf (s : State) (p : Nat) : Nat := smGet natD s.obs.hed.steps p
def epochOf (s : State) (p : Nat) : EpochSt := smGet epochD s.obs.cut.epochs p
def onEpoch (p : Nat) (f : EpochSt → EpochSt) : State → State :=
  onCut fun c => { c with epochs := smMod epochD c.epochs p f }
def ctxOf (s : State) (x : Nat) : Option CtxSt := smGet noneD s.obs.ctxs x
def setCtx (x : Nat) (c : Option CtxSt) : State → State :=
  onObs fun o => { o with ctxs := smPut noneD o.ctxs x c }
def onCtx (x : Nat) (f : CtxSt → CtxSt) (s : State) : State :=
  match ctxOf s x with
  | some c => setCtx x (some (f c)) s
  | none => s
def ringOf (s : State) (r : Nat) : Ring := smGet ringD s.obs.cmd.rings r
def onRing (r : Nat) (f : Ring → Ring) : State → State :=
  onCmd fun c => { c with rings := smMod ringD c.rings r f }
def dbOf (s : State) (r : Nat) : Db := smGet dbD s.aon.db r
def onDb (r : Nat) (f : Db → Db) : State → State := onAon fun a => { a with db := smMod dbD a.db r f }
def partOf (s : State) (p : Nat) : PartSt := smGet partD s.obs.prv.parts p
def onPart (p : Nat) (f : PartSt → PartSt) : State → State :=
  onPrv fun v => { v with parts := smMod partD v.parts p f }
def swatchOf (s : State) (w : Nat) : SWatch := smGet swatchD s.aon.sen.watches w
def onSWatch (w : Nat) (f : SWatch → SWatch) : State → State :=
  onSen fun n => { n with watches := smMod swatchD n.watches w f }
def gruleOf (s : State) (k : Nat) : GRule := smGet gruleD s.aon.sen.rules k
def onGRule (k : Nat) (f : GRule → GRule) : State → State :=
  onSen fun n => { n with rules := smMod gruleD n.rules k f }
def slotOf (s : State) (k : Nat) : Option Slot := smGet noneD s.obs.lens.slots k
def setSlot (k : Nat) (v : Option Slot) : State → State :=
  onLens fun l => { l with slots := smPut noneD l.slots k v }
def watchOf (s : State) (w : Nat) : Option Watch := smGet noneD s.obs.wat.watches w
def setWatch (w : Nat) (v : Option Watch) : State → State :=
  onWat fun x => { x with watches := smPut noneD x.watches w v }
def areaOf (s : State) (p : Nat) : Option Area := smGet noneD s.obs.hang.areas p
def setArea (p : Nat) (v : Option Area) : State → State :=
  onHang fun h => { h with areas := smPut noneD h.areas p v }
def tapOf (s : State) (t : Nat) : Option Stream := if t = 0 then s.obs.lens.tap0 else s.obs.lens.tap1
def setTap (t : Nat) (v : Option Stream) : State → State :=
  onLens fun l => if t = 0 then { l with tap0 := v } else { l with tap1 := v }
def rowsOf (s : State) (t : Nat) : List Row := if t = 0 then s.obs.lens.rows0 else s.obs.lens.rows1
def setRows (t : Nat) (v : List Row) : State → State :=
  onLens fun l => if t = 0 then { l with rows0 := v } else { l with rows1 := v }
/-- The spilled commits that tap t queues (R120). -/
def spillOf (s : State) (t : Nat) : List SpillQ :=
  s.obs.lens.spill.filter fun q => match q.what with | .commit (some u) _ => u == t | _ => false

/-! ## Stored register words: AON and OBS blocks, keyed by window byte address. -/

/-- Draw a free value's number. -/
def draw (s : State) : State := { s with draws := s.draws + 1 }

/-! ## Time (R21, R22, R26) -/

/-- GT is a 64-bit count (R21). -/
def gtMod (x : Nat) : Nat := x % 2 ^ 64

/-- Root-derived GT. -/
def now (s : State) : Nat := gtMod (s.aon.tb.rootGt + s.aon.tb.sub)

/-- The OBS domain runs: both resets high and the clock granted. -/
def obsRuns (s : State) : Bool := s.aon.pwr.aonRstN && s.aon.pwr.rstN && s.aon.pwr.clkAck

/-- GT increment of an OBS cycle (Table 2.1). -/
def incOf (ratio : Nat) : Nat := if ratio = 2 then 1 else if ratio = 1 then 2 else 4

/-- Internal correction S_r (Table 2.2). -/
def corrOf (ratio : Nat) : Nat := if ratio = 2 then 3 else if ratio = 1 then 5 else 10

/-- A copy of GT that stands `skew` from the root-derived GT (R26). -/
def copyAt (s : State) (skew : Int) : Nat := ((now s : Int) + skew).toNat

/-- The command engine's copy. -/
def engGt (s : State) : Nat := copyAt s s.obs.hed.engSkew

/-- The copy of collector c. -/
def collGt (s : State) (c : Nat) : Nat := copyAt s (collOf s c).skew

/-- The Lens's copy. -/
def lensGt (s : State) : Nat := copyAt s s.obs.hed.lensSkew

end Sys2Proof.Machine
end

