-- ==== Sys2Proof/Machine/Flags.lean ====
section
/-! DEFINITION. The register map (chapter 18): masks and reset values, hold conditions (Table 14.2), power
state (Table 14.1), interrupt lines, and the value every register reads. -/

namespace Sys2Proof.Machine

/-! ## The window (R382) -/

/-- Block of a window byte address: its 4 KiB page. -/
def blockOf (a : Nat) : Nat := a / 0x1000

/-- Offset within the block. -/
def offOf (a : Nat) : Nat := a % 0x1000

/-- Is the address served in the AON domain (Table 18.1)? `FGT` is an OBS-domain copy (R39, R364). -/
def regAon (a : Nat) : Bool :=
  let b := blockOf a
  if b = 3 then !(offOf a = 8 || offOf a = 0xC)
  else b = 0 || b = 2 || b = 6 || b = 8 || b ≥ 0xE

/-- Fields of one register: masks by access, and reset value. -/
structure RegSpec where
  rw : U32
  rwl : U32
  w1c : U32
  rc : U32
  reset : U32
deriving DecidableEq, Repr, Inhabited

def rsNone : RegSpec := ⟨0, 0, 0, 0, 0⟩
def rsRw (m : U32) : RegSpec := ⟨m, 0, 0, 0, 0⟩
def rsRwl (m r : U32) : RegSpec := ⟨0, m, 0, 0, r⟩
def rsW1c (m : U32) : RegSpec := ⟨0, 0, m, 0, 0⟩
def rsRc (m : U32) : RegSpec := ⟨0, 0, 0, m, 0⟩

/-- `WRN_PWR` (Tables 14.7, 16.5). -/
def rsPwr (o : Nat) : RegSpec :=
  if o = 0x000 then ⟨0x80000000, 0x1F, 0, 0, 14⟩
  else if o = 0x004 then ⟨0, 0, 1, 0xFF00, 0⟩
  else if o = 0x010 then rsRw 0xFFFFFFC0
  else if o = 0x014 then rsRw 0xFFFF
  else if o = 0x018 then rsRw 0x3FFF
  else if o = 0x020 then rsRwl 0x1FFF 100
  else if o = 0x028 then rsRwl 0xFFFFF000 0
  else if o = 0x02C then rsRwl 0xFFFF 0
  else rsNone

/-- `WRN_TB` (Table 2.4); fields of absent collectors read zero. -/
def rsTb (b : Build) (o : Nat) : RegSpec :=
  if o = 0x010 then ⟨3, 0, 0, 0, 2⟩
  else if o = 0x014 then rsW1c 6
  else if 0x100 ≤ o ∧ o < 0x100 + b.nColl then rsRwl 0xFFFFFFFF 0
  else if 0x800 ≤ o ∧ o < 0x800 + 8 * b.nColl then rsRwl 0xFFFFFFFF 0
  else rsNone

/-- `WRN_RING` (Table 10.1), without EN. -/
def rsRing (o : Nat) : RegSpec :=
  let n := o % 0x40
  if n = 0x00 then rsRwl 0x003F1F1F 0
  else if n = 0x04 then rsRwl 0xFFFFF000 0
  else if n = 0x08 then rsRwl 0xFFFF 0
  else if n = 0x0C then rsRwl 0xFFFFFC00 0
  else if n = 0x10 then rsRwl 0xFFFF 0
  else if n = 0x18 then rsW1c 0xF
  else if n = 0x1C then rsRw 0xFFFFFFFC
  else if n = 0x20 then rsRw 0xFFFF
  else if n = 0x24 then rsRw 0xFFFFFFFF
  else if n = 0x28 then rsRw 0x3FE
  else rsNone

/-- Partitions of the build (Table 18.2, R383). -/
def npart (b : Build) : Nat := if b.crypto then 16 else 1

/-- `WRN_PRV` (Tables 12.15, 18.4). Fields that name partitions 1 to 15 are absent without crypto (R383). -/
def rsPrv (b : Build) (o : Nat) : RegSpec :=
  if o = 0x000 then ⟨0, 0x3F, 0x80000000, 0xFF00, 26⟩
  else if o = 0x00C then rsRw 0xF
  else if o = 0x010 then rsRc 0xFFFFFFFF
  else if 0x040 ≤ o ∧ o < 0x040 + 4 * npart b then rsRc 0xFF00
  else if 0x080 ≤ o ∧ o < 0x080 + 4 * npart b then rsRwl 0xFFFF (BitVec.ofNat 32 ((o - 0x080) / 4))
  else if 0x100 ≤ o ∧ o < 0x100 + 0x20 * npart b then
    let n := o % 0x20
    if n = 0x00 then rsRw 0xFFFFF000
    else if n = 0x04 then rsRw 0xFFFF
    else if n = 0x08 then rsRw 0x1F
    else if n = 0x0C then rsRw 0xFFFFFFC0
    else if n = 0x10 then rsRw 0xFFFF
    else rsNone
  else if 0x300 ≤ o ∧ o < 0x300 + 0x10 * npart b then
    rsRwl (if o % 8 = 0 then 0xFFFFF000 else 0xFFFF) 0
  else rsNone

/-- `WRN_ALM` (Table 12.14). -/
def rsAlm (o : Nat) : RegSpec :=
  if o = 0x000 then rsW1c 0xFC
  else if o = 0x004 then rsRwl 0xFFF0 0x646A
  else if o = 0x008 then rsRwl 0xFFFF 0x1010
  else rsNone

/-- `WRN_EVQ` (Table 8.8). -/
def rsEvq (o : Nat) : RegSpec :=
  if o = 0x000 then rsRw 1
  else if o = 0x004 then rsRwl 0x3F3F3F3F 0x06040610
  else if o = 0x008 then rsRwl 0x3F3F3F3F 0x0A060606
  else if o = 0x00C then ⟨0x007F007F, 0, 0, 0, 0x00100030⟩
  else if o = 0x010 then ⟨0, 0, 0x7F, 0x7F00, 0⟩
  else if o = 0x014 then rsRc 0xFFFF
  else if o = 0x018 ∨ o = 0x01C then rsRc 0xFFFFFFFF
  else if o = 0x020 then rsRw 0xF
  else if o = 0x024 then rsW1c 0xF
  else if o = 0x030 then rsRw 0xFFFFFFC0
  else if o = 0x034 then rsRw 0xFFFF
  else if o = 0x038 then rsRw 0x1F
  else rsNone

/-- `WRN_SEN` (Table 11.5). -/
def rsSen (o : Nat) : RegSpec :=
  if o = 0x000 then rsRwl 0xFF0F 0x1900
  else if o = 0x008 then ⟨0, 0, 7, 0xFF00, 0⟩
  else if o = 0x00C then rsRwl 0xFFFFFFFF 0xF
  else if o = 0x010 then rsRwl 0xFFFFFFFF 0
  else if 0x100 ≤ o ∧ o < 0x200 then
    let n := o % 0x10
    if n = 0x0 then rsRw 0xFFFFE000
    else if n = 0x4 then rsRw 0x0FFF0FFF
    else rsRw 0xFFFFFFFF
  else rsNone

/-- `WRN_LENS` (Table 5.11). -/
def rsLens (o : Nat) : RegSpec :=
  if o = 0x000 then rsRwl 0xFFFF 0
  else if o = 0x018 then rsRc 0xFFFFFFFF
  else rsNone

/-- `WRN_EGR` (Table 13.10). -/
def rsEgr (o : Nat) : RegSpec :=
  if o = 0x004 then rsRwl 0x00FF0F1F 0x00100818
  else if o = 0x00C ∨ o = 0x010 ∨ o = 0x014 ∨ o = 0x018 then rsRc 0xFFFFFFFF
  else if o = 0x01C then rsW1c 7
  else rsNone

/-- `WRN_FLT` (Tables 18.6, 15.6, 7.8). -/
def rsFlt (b : Build) (o : Nat) : RegSpec :=
  if o = 0x000 ∨ o = 0x004 then rsRc 0xFFFFFFFF
  else if 0x080 ≤ o ∧ o < 0x080 + 4 * b.sections then rsRc 0xFFFFFFFF
  else if o = 0x100 ∨ o = 0x104 then rsRw 0xFFFFFFFF
  else if o = 0x108 then rsRw 0xFF
  else if o = 0x10C then rsRc 0xFFFFFFFF
  else if o = 0x110 then rsW1c 0x3F
  else if o = 0x200 then rsRw 0xFFFFFFFF
  else if o = 0x208 then rsW1c 3
  else rsNone

/-- `WRN_DBG` (Table 18.8). -/
def rsDbg (o : Nat) : RegSpec :=
  if o = 0x000 then rsRw 0x0FFFFFFF
  else if o = 0x018 then rsRw 0xF00001FF
  else rsNone

/-- `WRN_FAB` (Table 13.11). -/
def rsFab (o : Nat) : RegSpec :=
  if o = 0x000 then rsRwl 0xF003FFFF 0
  else if o = 0x004 then rsW1c 0x10000000
  else if o = 0x008 then rsRc 0xFF00
  else if o = 0x00C then rsW1c 7
  else if (0x100 ≤ o ∧ o < 0x130) ∨ (0x140 ≤ o ∧ o < 0x170) then rsRwl 0xFFFFFFFF 0
  else rsNone

/-- A block of an absent unit keeps its reset values and takes no write (R383). -/
def rsOf (present : Bool) (r : RegSpec) : RegSpec :=
  if present then r else { rsNone with reset := r.reset }

/-- The register at a window byte address. -/
def regSpec (b : Build) (a : Nat) : RegSpec :=
  let o := offOf a
  match blockOf a with
  | 0x1 => if o = 0 then ⟨0x00FFFF00, 0, 4, 0, 0⟩ else rsNone
  | 0x2 => rsPwr o
  | 0x3 => rsTb b o
  | 0x4 => rsRing o
  | 0x5 => rsPrv b o
  | 0x6 => rsAlm o
  | 0x7 => rsEvq o
  | 0x8 => rsOf b.sentinel (rsSen o)
  | 0x9 => rsOf b.lens (rsLens o)
  | 0xA => rsOf b.egress (rsEgr o)
  | 0xB => rsFlt b o
  | 0xC => rsDbg o
  | 0xD => rsOf b.fabric (rsFab o)
  | _ => rsNone

/-- What a register holds while nothing has been stored. -/
def regD (b : Build) (a : Nat) : U32 := (regSpec b a).reset

/-- Stored word of a register. -/
def reg (s : State) (a : Nat) : U32 :=
  smGet (regD s.build) (if regAon a then s.aon.regs else s.obs.regs) a

/-- Store a register's word. -/
def setReg (a : Nat) (v : U32) (s : State) : State :=
  if regAon a then onAon (fun x => { x with regs := smPut (regD s.build) x.regs a v }) s
  else onObs (fun x => { x with regs := smPut (regD s.build) x.regs a v }) s

/-- Set bits of a stored register. -/
def orReg (a : Nat) (m : U32) (s : State) : State := setReg a (reg s a ||| m) s

/-- Add to the saturating count in bits [lo + n - 1 : lo] of a stored register. -/
def bumpReg (a lo n k : Nat) (s : State) : State :=
  setReg a (setFld (reg s a) lo n (sat (2 ^ n - 1) (fld (reg s a) lo n + k))) s

/-! ## Register addresses -/

def aLock : Nat := 0x20FC
def aPwrCtl : Nat := 0x2000
def aPwrStat : Nat := 0x2004
def aSocbw : Nat := 0x2020
def aTbClk : Nat := 0x3010
def aTbStat : Nat := 0x3014
def aRing (r : Nat) : Nat := 0x4000 + 0x40 * r
def aPrv : Nat := 0x5000
def aAlm : Nat := 0x6000
def aEvq : Nat := 0x7000
def aSen : Nat := 0x8000
def aLens : Nat := 0x9000
def aEgr : Nat := 0xA000
def aFlt : Nat := 0xB000
def aDbg : Nat := 0xC000
def aFab : Nat := 0xD000

/-! ## Fuses and locks -/

/-- Fuse word i as read, 0 before it is read. -/
def fuse (s : State) (i : Nat) : U32 := smGet (fun _ => 0) s.aon.pwr.fuses i

/-- DBG_DISABLE (Table 12.12). -/
def dbgDisabled (s : State) : Bool := bit (fuse s 0) 0

def aonLock (s : State) : Bool := bit (reg s aLock) 0
def obsLock (s : State) : Bool := bit (reg s aLock) 1

/-- Is the lock that guards this address set (R329, R385)? -/
def locked (s : State) (a : Nat) : Bool := if regAon a then aonLock s else obsLock s

/-! ## Rings -/

/-- LOG2N and CQ_LOG2N of ring r, as N and M. -/
def ringN (s : State) (r : Nat) : Nat := 2 ^ fld (reg s (aRing r)) 0 5
def ringM (s : State) (r : Nat) : Nat := 2 ^ fld (reg s (aRing r)) 8 5
def ringPart (s : State) (r : Nat) : Nat := fld (reg s (aRing r)) 16 6

/-- Posted descriptors (R223). -/
def posted (s : State) (r : Nat) : Nat :=
  let n := ringN s r
  ((dbOf s r).tail + n - (ringOf s r).head % n) % n

/-- Descriptors of the ring that the engine holds. -/
def heldCount (s : State) (r : Nat) : Nat :=
  let g := ringOf s r
  g.reading + g.fetched.length + g.parked.length + (if g.cur.isSome then 1 else 0)

/-- ACT (Table 10.1). -/
def ringAct (s : State) (r : Nat) : Bool := (ringOf s r).en || heldCount s r > 0

/-- Entries written and not consumed. -/
def unconsumed (s : State) (r : Nat) : Nat :=
  let m := ringM s r
  ((ringOf s r).cqTail + m - (dbOf s r).head % m) % m

/-! ## Counts over the tables -/

def ctxArmed (c : CtxSt) : Bool := c.state == .armed

/-- Some context is ARMED (and, for hold and cadence, its state alone counts, R240). -/
def anyArmed (s : State) : Bool :=
  s.obs.ctxs.any fun e => match e.2 with | some c => ctxArmed c | none => false

def anySlot (s : State) : Bool := s.obs.lens.slots.any fun e => e.2.isSome
def anyWatch (s : State) : Bool := s.obs.wat.watches.any (fun e => e.2.isSome) || !s.obs.wat.dumps.isEmpty
def anySentArmed (s : State) : Bool := s.aon.sen.watches.any fun e => e.2.armed
def anyWdog (s : State) : Bool := s.obs.hed.units.any fun e => e.2.wdog.isSome
def freezes (s : State) : List Freeze := s.obs.cut.sw ++ s.obs.cut.hw.toList

/-- Boxwood's counts (R184). -/
def occ (s : State) : Nat := s.obs.evq.q.length
def avail (s : State) : Nat := (s.obs.evq.q.filter fun i => i.read.isNone).length

/-- Frames, records or open frames in staging. -/
def stagingBusy (s : State) : Bool :=
  !s.obs.smp.frames.isEmpty ||
  s.obs.ctxs.any fun e => match e.2 with
    | some c => !c.hold.isEmpty || c.frame.isSome
    | none => false

def smpBusy (s : State) : Bool :=
  !s.obs.smp.wrOut.isEmpty || !s.obs.smp.rdOut.isEmpty || !s.obs.smp.pieces.isEmpty

/-- A firmware task is in progress (condition FW). -/
def fwBusy (s : State) : Bool :=
  s.aon.pwr.fwOk && !s.aon.pwr.hedgerDown &&
  (s.obs.cmd.rings.any (fun e => e.2.parked.any fun h => match h.stage with
      | .firmware _ _ => true | .scrub _ => true | _ => false)
    || s.obs.hed.sects.any (fun e => !e.2.fenced.isEmpty)
    || (!s.obs.evq.consAct && s.obs.evq.q.any fun i => i.read.isSome))

/-! ## Hold conditions (Table 14.2) -/

def holdCond (s : State) (n : Nat) : Bool :=
  match n with
  | 0 => bit (reg s aPwrCtl) 31
  | 1 => !s.aon.pwr.ready && s.aon.pwr.rstN
  | 2 => anyArmed s
  | 3 => anySlot s
  | 4 => anyWatch s
  | 5 => !(freezes s).isEmpty
  | 6 => s.obs.hang.seq.isSome
  | 7 => s.obs.egr.state != 0
  | 8 => stagingBusy s || smpBusy s
  | 9 => (List.range 64).any fun r => posted s r > 0 || heldCount s r > 0
  | 10 => fwBusy s
  | 11 => occ s > 0 || !s.obs.evq.holds.isEmpty || s.aon.sen.hold.isSome || s.aon.alm.hold.isSome
  | 12 => anySentArmed s
  | 13 => anyWdog s
  | 14 => reg s (aFlt + 0x200) != 0
  | 15 => s.obs.fab.state == 2
  | 16 => !s.aon.rap.held.isEmpty
  | _ => false

/-- `WRN_PWR_HOLD`. -/
def holdMask (s : State) : Nat :=
  (List.range 17).foldl (fun acc n => if holdCond s n then acc + 2 ^ n else acc) 0

/-- Any condition holds; any condition of class A holds. -/
def anyHold (s : State) : Bool := holdMask s != 0
def anyHoldA (s : State) : Bool := holdMask s % 2 ^ 11 != 0

/-- Power state code (Table 14.1). -/
def pwrState (s : State) : Nat :=
  let p := s.aon.pwr
  if !p.rstN then 0
  else if !p.ready then (if p.granted then 5 else 2)
  else if !p.clkAck then (if p.clkReq then 2 else 1)
  else if p.waking then 2
  else if anyHoldA s then 4 else 3

/-! ## Interrupt lines (R247 and the rules of the sources) -/

def irqLine (s : State) (k : Nat) : Bool :=
  match k with
  | 0 => (List.range 64).any fun r => (ringOf s r).pend && bit (reg s (aRing r + 0x28)) 9
  | 1 => (reg s (aEvq + 0x20) &&& reg s (aEvq + 0x24)) != 0
  | 2 => reg s aAlm &&& 0xFF != 0
  | 3 => reg s (aSen + 8) &&& 7 != 0
  | 4 => reg s (aFlt + 0x208) != 0
  | 5 => reg s (aEgr + 0x1C) &&& 7 != 0
  | 6 => reg s (aFab + 0xC) &&& 7 != 0
  | 7 => if s.aon.pwr.rstN then reg s (aFlt + 0x110) &&& 0x3F != 0 || s.aon.pwr.hedgerDown else reg s aTbStat &&& 6 != 0
  | _ => false

/-- The action assigned to Blackthorn cause c (Table 12.14). -/
def almAct (s : State) (c : Nat) : Nat := fld (reg s (aAlm + 4)) (2 * c) 2

/-- `ALARM_OUT` (R288). -/
def alarmOut (s : State) : Bool :=
  (List.range 8).any fun c => bit (reg s aAlm) c && almAct s c ≥ 1

/-! ## Words computed at a read -/

def clog2 (n : Nat) : Nat := Nat.log2 n

/-- `WRN_ID` (Table 18.2). -/
def idWord (b : Build) (i : Nat) : Nat :=
  match i with
  | 0 => 0x57310102
  | 1 => b2n b.crypto * 2 ^ 29 + b2n b.sentinel * 2 ^ 28 + b2n b.fabric * 2 ^ 27 + b2n b.egress * 2 ^ 26
      + b2n b.watch * 2 ^ 25 + b2n b.lens * 2 ^ 24 + b.sparesPerSection * b.sections * 2 ^ 16 + b.nColl
  | 2 => (if b.brambleDepth = 128 then 2 else if b.brambleDepth = 32 then 1 else 0) * 2 ^ 24
      + (if b.attrEntries = 0 then 0 else clog2 b.attrEntries) * 2 ^ 16 + b.units
  | 3 => (npart b - 1) * 2 ^ 28 + (if b.fabric then 15 else 0) * 2 ^ 24 + 63 * 2 ^ 16
      + (if b.egress then 16 else 0) * 2 ^ 8 + (if b.watch then 64 else 0)
  | _ => 0

/-- Cadence mode (R356). -/
def cadence (s : State) : Bool := s.obs.smp.fixed && anyArmed s

/-- A hang sequence in step 5 holds metered pieces (R165). -/
def hangHolds (s : State) : Bool :=
  match s.obs.hang.seq with | some q => q.step == 5 | none => false

def decl (s : State) : Nat := fld (reg s aSocbw) 0 13

/-- `WRN_PWR_GOVSTAT` (Table 16.5); its reset value while `RST_N` is low. -/
def govStat (s : State) : Nat :=
  let m := s.obs.smp
  if !s.aon.pwr.rstN then 0x20000014
  else b2n (hangHolds s) * 2 ^ 31 + b2n (cadence s) * 2 ^ 30
    + b2n (m.share ≥ 10 && m.share * decl s ≥ 1000) * 2 ^ 29
    + m.credit / (1600 * 64) * 2 ^ 16 + b2n m.govreq * 2 ^ 9 + b2n m.fixed * 2 ^ 8 + m.share

/-- The attestation contribution (Table 12.10) of a partition. -/
def attBytes (s : State) (p : Nat) : List Byte :=
  let t := partOf s p
  le 2 0x5731 ++ [1, 2] ++ le 1 s.obs.cmd.agreed ++ le 1 (p + 16 * t.state) ++ le 1 t.consent ++ [0]
  ++ le 4 t.serial ++ le 4 (fuse s 0).toNat ++ le 4 (fuse s 1).toNat ++ le 4 s.aon.pwr.fwVer
  ++ le 4 (fuse s 2).toNat ++ le 4 (fuse s 3).toNat ++ padTo 48 s.aon.pwr.fwHash
  ++ (if (smGet noneD s.aon.keys.tenant p).isSome then padTo 48 t.tenantHash else zeros 48) ++ padTo 48 t.consentHash
  ++ (match s.aon.keys.device with | some k => padTo 49 (Config.publicKey k) | none => zeros 49)
  ++ zeros 31

/-- Mask of the members of a list. -/
def maskOf (xs : List Nat) : Nat := xs.foldl (fun acc i => acc ||| 2 ^ i) 0

/-- `WRN_FLT_SECT` and `WRN_FLT_LCOLL` (Table 18.6). -/
def sectWord (s : State) (i : Nat) : Nat :=
  if i < s.build.sections then
    let t := sectOf s i
    (t.idle.length + t.checking.length) * 2 ^ 30 + t.idle.length * 2 ^ 28 + maskOf t.out
  else 0

def lcollWord (s : State) (c : Nat) : Nat :=
  if c < s.build.nColl then
    let t := collOf s c
    b2n t.lost.isSome * 2 ^ 31 + b2n t.taking.isSome * 2 ^ 30 + t.inc * 2 ^ 16 + t.phys
  else 0

/-- `WRN_SEN_WSTAT`. -/
def wstatWord (s : State) (w : Nat) : Nat :=
  let t := swatchOf s w
  b2n t.armed * 2 ^ 31 + b2n (t.insts.any fun i => i.missed) * 2 ^ 30 + t.insts.length * 2 ^ 27
    + sat (2 ^ 24 - 1) t.misses

/-- Free resident Lens images. -/
def resFree (s : State) : Nat :=
  s.build.lensImages - (s.obs.lens.slots.filter fun e => match e.2 with
    | some k => k.resident | none => false).length

/-- The 64-bit pair whose `_LO` word lies at this address (R39, R384). -/
def pairValue (s : State) (a : Nat) : Option Nat :=
  if a = 0x3000 then some (s.aon.tb.rootGt / 32 * 32)
  else if a = 0x3008 then some (engGt s)
  else if a = 0x9008 then some s.obs.lens.unb0
  else if a = 0x9010 then some s.obs.lens.unb1
  else if a = 0xB00C then some (pair (reg s 0xB00C) (reg s 0xB010))
  else if a = 0xC010 then some s.obs.dbg.data.toNat
  else none

/-- The `_LO` word of the pair whose `_HI` word lies at this address. -/
def loOf (a : Nat) : Option Nat :=
  if a = 0x3004 ∨ a = 0x300C ∨ a = 0x900C ∨ a = 0x9014 ∨ a = 0xB010 ∨ a = 0xC014 then some (a - 4) else none

def readPwr (s : State) (o : Nat) (v : U32) : Nat :=
  let p := s.aon.pwr
  if o = 0x004 then
    pwrState s * 2 ^ 29 + b2n p.ready * 2 ^ 28 + b2n p.fwOk * 2 ^ 27 + b2n p.fwFail * 2 ^ 26
      + b2n p.sramDone * 2 ^ 25 + b2n p.keysDone * 2 ^ 24 + b2n p.fuseOk * 2 ^ 23 + p.fwCode * 2 ^ 16
      + v.toNat
  else if o = 0x008 then holdMask s
  else if o = 0x00C then p.lastSrc * 2 ^ 28 + sat 0xFFFF p.lastLat
  else if o = 0x024 then govStat s
  else v.toNat

def readTb (s : State) (o : Nat) (v : U32) : Nat :=
  let t := s.aon.tb
  if o = 0x010 then v.toNat + s.aon.pwr.ratio * 2 ^ 4
  else if o = 0x014 then sat 255 t.maxRtt * 2 ^ 24 + sat 255 t.recalCnt * 2 ^ 16 + v.toNat + b2n t.calDone
  else v.toNat

def readRing (s : State) (o : Nat) (v : U32) : Nat :=
  let r := o / 0x40
  let g := ringOf s r
  match o % 0x40 with
  | 0x00 => b2n g.en * 2 ^ 31 + b2n (ringAct s r) * 2 ^ 30 + b2n g.stopped * 2 ^ 29 + v.toNat
  | 0x14 => g.head
  | 0x18 => g.faultSt * 2 ^ 24 + b2n g.pend * 2 ^ 7 + b2n g.phase * 2 ^ 6 + v.toNat
  | _ => v.toNat

def readPrv (s : State) (o : Nat) (v : U32) : Nat :=
  if o = 0x000 then v.toNat + s.aon.keys.jobs.length * 2 ^ 16
  else if o = 0x004 ∨ o = 0x008 then
    (List.range 8).foldl (fun acc k => acc + (partOf s (k + if o = 4 then 0 else 8)).state * 16 ^ k) 0
  else if 0x040 ≤ o ∧ o < 0x040 + 4 * npart s.build then
    let t := partOf s ((o - 0x040) / 4)
    t.viol * 2 ^ 24 + t.fence * 2 ^ 16 + v.toNat + t.consent
  else if 0x400 ≤ o ∧ o < 0x500 then leAt (attBytes s (fld (reg s (aPrv + 0xC)) 0 4)) (o - 0x400) 4
  else if 0x800 ≤ o then
    (List.range 8).foldl (fun acc k =>
      let u := (o - 0x800) / 4 * 8 + k
      acc + (if u < s.build.units then (unitOf s u).owner else 0) * 16 ^ k) 0
  else v.toNat

def readAlm (s : State) (o : Nat) (v : U32) : Nat :=
  let m := s.aon.alm
  if o = 0x00C then b2n m.zeroized * 2 ^ 31 + b2n m.frozen * 2 ^ 30 + sat 255 m.alarms * 2 ^ 16 + m.tamperSeen
  else if 0x010 ≤ o ∧ o < 0x020 then (fuse s ((o - 0x010) / 4)).toNat
  else v.toNat

def readEvq (s : State) (o : Nat) (v : U32) : Nat :=
  let e := s.obs.evq
  if o = 0x000 then v.toNat + b2n e.consAct * 2
  else if o = 0x010 then b2n e.pinHi * 2 ^ 31 + occ s * 2 ^ 24 + avail s * 2 ^ 16 + v.toNat
  else if o = 0x03C then e.hrTail
  else if o = 0x040 then e.hrHead
  else v.toNat

def readSen (s : State) (o : Nat) (v : U32) : Nat :=
  let p := s.aon.pwr
  if o = 0x008 then
    s.aon.sen.lines * 2 ^ 28 + (s.aon.sen.watches.filter fun e => e.2.armed).length * 2 ^ 16 + v.toNat
  else if o = 0x014 then
    b2n (p.pwrReq != p.pwrAck) * 2 ^ 31 + p.pwrCode * 2 ^ 8 + p.pwrLevel * 2 ^ 4 + p.pwrRule
  else if 0x100 ≤ o ∧ o < 0x200 ∧ o % 0x10 = 0 then v.toNat + b2n (gruleOf s ((o - 0x100) / 0x10)).active
  else if 0x400 ≤ o ∧ o < 0x800 then wstatWord s ((o - 0x400) / 4)
  else v.toNat

def readLens (s : State) (o : Nat) (v : U32) : Nat :=
  let l := s.obs.lens
  if o = 0x004 then
    b2n l.oos * 2 ^ 31 + b2n l.spareUsed * 2 ^ 30 + (if l.spareUsed then l.failed else 0x1F) * 2 ^ 16 + resFree s
  else v.toNat

def readEgr (s : State) (o : Nat) (v : U32) : Nat :=
  let e := s.obs.egr
  if o = 0x000 then
    e.state * 2 ^ 28 + e.lanes * 2 ^ 23 + b2n e.repaired * 2 ^ 22 + e.lastDown * 2 ^ 8 + e.lastFault
  else if o = 0x008 then e.slots.length * 2 ^ 16 + e.credits
  else v.toNat

def readFlt (s : State) (o : Nat) (v : U32) : Nat :=
  let h := s.obs.hang
  if 0x040 ≤ o ∧ o < 0x080 then sectWord s ((o - 0x040) / 4)
  else if o = 0x110 then v.toNat + b2n s.aon.pwr.hedgerDown * 2 ^ 6
  else if o = 0x204 then
    (match h.seq with | none => 0 | some q => if q.step ≤ 4 then 1 else 2) * 2 ^ 30 + h.lastCause * 2 ^ 28
      + sat 255 h.count * 2 ^ 16
      + maskOf ((List.range 16).filter fun p => match areaOf s p with | some a => a.held | none => false)
  else if 0x400 ≤ o ∧ o < 0x800 then lcollWord s ((o - 0x400) / 4)
  else v.toNat

def readDbg (s : State) (o : Nat) (v : U32) : Nat :=
  let d := s.obs.dbg
  if dbgDisabled s then 0
  else if o = 0x008 then
    b2n d.done * 2 ^ 31 + b2n d.denied * 2 ^ 30 + b2n d.range * 2 ^ 29 + d.check.toNat
  else v.toNat

def readFab (s : State) (o : Nat) (v : U32) : Nat :=
  let f := s.obs.fab
  if o = 0x004 then
    f.state * 2 ^ 30 + b2n s.aon.misalign * 2 ^ 29 + v.toNat + b2n f.eUp * 2 ^ 27 + b2n f.wUp * 2 ^ 26
      + b2n f.ccw * 2 ^ 25 + b2n f.root * 2 ^ 24 + f.rootId * 2 ^ 16 + f.count * 2 ^ 8 + s.aon.instId
  else if o = 0x008 then v.toNat + tc 8 (max (-128) (min 127 f.err))
  else v.toNat

/-- The value of a register at a read, pairs and latches apart. -/
def regPlain (s : State) (a : Nat) : Nat :=
  let o := offOf a
  let v := reg s a
  match blockOf a with
  | 0x0 => idWord s.build (if o < 0x10 then o / 4 else 4)
  | 0x1 => if o = 0 then s.obs.cmd.agreed * 2 ^ 24 + v.toNat + b2n s.obs.cmd.verDone * 2
           else if o = 4 then 0x1110 else 0
  | 0x2 => readPwr s o v
  | 0x3 => readTb s o v
  | 0x4 => readRing s o v
  | 0x5 => readPrv s o v
  | 0x6 => readAlm s o v
  | 0x7 => readEvq s o v
  | 0x8 => readSen s o v
  | 0x9 => readLens s o v
  | 0xA => readEgr s o v
  | 0xB => readFlt s o v
  | 0xC => readDbg s o v
  | 0xD => readFab s o v
  | b =>
    if 0x10 ≤ b ∧ b < 0x50 then
      let r := b - 0x10
      let d := dbOf s r
      if o = 0x000 then (d.tailHeld.getD d.tail)
      else if o = 0x008 then (d.headHeld.getD d.head)
      else if o = 0x010 then b2n (ringOf s r).phase * 2 ^ 31 + (ringOf s r).cqTail
      else 0
    else 0

/-- The value a read returns: a pair's `_LO` reads its low word (GT reads zero in [4:0], R40), a pair's `_HI`
reads the latch (R39). -/
def regRead (s : State) (a : Nat) : U32 :=
  match pairValue s a, loOf a with
  | some v, _ => if dbgDisabled s && blockOf a = 0xC then 0 else lo32 v
  | none, some l => if dbgDisabled s && blockOf a = 0xC then 0 else smGet (fun _ => 0) s.aon.rap.latch l
  | none, none => BitVec.ofNat 32 (regPlain s a)

end Sys2Proof.Machine
end

