-- ==== Sys2Proof/Machine/Records.lean ====
section
/-! DEFINITION. Records to bytes (chapter 9): prefixes, bodies, EVT items, canonical blocks, frames. -/

namespace Sys2Proof.Machine

/-- Type code (Table 9.5); an event is EVTX where it is not packed into an EVT record. -/
def recCode : RecBody → Nat
  | .event .. => 0x02
  | .cnt .. => 0x03
  | .epoch .. => 0x04
  | .gap .. => 0x05
  | .mark .. => 0x06
  | .clkstop .. => 0x07
  | .clkrun .. => 0x08
  | .freeze .. => 0x09
  | .lens .. => 0x0A
  | .rowSum .. => 0x0B
  | .rowOne .. => 0x0B
  | .kv .. => 0x0C
  | .watchHead .. => 0x0D
  | .watchData .. => 0x0D
  | .watchEnd .. => 0x0D
  | .hang .. => 0x0E
  | .pause .. => 0x0F
  | .resume .. => 0x10
  | .keygen .. => 0x11
  | .remap .. => 0x12
  | .sent .. => 0x13
  | .alarm .. => 0x14
  | .rfp .. => 0x15
  | .digest .. => 0x16
  | .fence .. => 0x17
  | .opsm .. => 0x18

/-- Size class (Table 9.5). -/
def recClass (b : RecBody) : Nat :=
  match recCode b with
  | 0x02 => 1 | 0x04 => 2 | 0x05 => 2 | 0x06 => 1 | 0x07 => 0 | 0x08 => 0 | 0x09 => 1 | 0x0C => 2
  | 0x0F => 1 | 0x10 => 1 | 0x11 => 1 | 0x12 => 1 | 0x13 => 2 | 0x14 => 1 | 0x17 => 1
  | _ => 3

/-- Cut records (R205): CNT, OPSM, EPOCH, and LENS of KIND 0. -/
def isCut : RecBody → Bool
  | .cnt .. => true
  | .opsm .. => true
  | .epoch .. => true
  | .lens _ kind _ _ => kind == 0
  | _ => false

/-- Deferred records (R205): HANG and SENT. -/
def isDeferred : RecBody → Bool
  | .hang .. => true
  | .sent .. => true
  | _ => false

/-- Event records (R214): events, MARK, KV and ROWCHK of kind ROW. -/
def isEvent : RecBody → Bool
  | .event .. => true
  | .mark .. => true
  | .kv .. => true
  | .rowOne .. => true
  | _ => false

/-- Watch DATA follows R152 in place of R214. -/
def isWatchData : RecBody → Bool
  | .watchData .. => true
  | _ => false

/-- Consent bit that the record needs (Table 9.5). -/
def recConsent (b : RecBody) : Option Nat :=
  match recCode b with
  | 0x02 => some 1 | 0x03 => some 0 | 0x06 => some 1 | 0x0A => some 2 | 0x0B => some 2 | 0x0C => some 1
  | 0x0D => some 3 | 0x13 => some 7 | 0x18 => some 0
  | _ => none

/-- The group of a cut leads the records of its stamp, and nothing comes between its records (R215). -/
def recRank (b : RecBody) : Nat :=
  match b with
  | .freeze .. => 0
  | _ => if isCut b then 0 else 1

/-- FLAGS [7:2], SPEC and bytes 8 onward of a record of class 0 to 2 (Table 9.6). -/
def recFixed : RecBody → Nat × Nat × List Byte
  | .event unit word sampled => (b2n sampled, unit, le 8 word.toNat)
  | .epoch forced lost source num merged skipped ignored start =>
    (b2n forced + 2 * b2n lost, source,
      le 4 num ++ le 2 merged ++ le 2 skipped ++ le 1 ignored ++ zeros 7 ++ le 8 start)
  | .gap noEnd split unit cause start count =>
    (b2n noEnd + 2 * b2n split, unit + cause * 2 ^ 12, le 8 start ++ le 6 count ++ zeros 10)
  | .mark stale unit kind layer oper step =>
    (b2n stale, unit + kind * 2 ^ 12, le 2 layer ++ le 2 oper ++ le 4 step)
  | .clkstop wake unit => (b2n wake, unit, [])
  | .clkrun sleep unit => (b2n sleep, unit, [])
  | .freeze fabric own id cause delta lostUnits fabSeq =>
    (b2n fabric + 2 * b2n own, id, le 1 cause ++ [0] ++ le 2 (sat 0xFFF delta) ++ le 2 (sat 0xFFF lostUnits) ++ le 2 fabSeq)
  | .kv odd psz unit kind site role layer oper page refs step =>
    (b2n odd + 2 * b2n psz, unit + kind * 2 ^ 12,
      le 4 (site + role * 2 ^ 20) ++ le 2 layer ++ le 2 oper ++ le 3 page ++ le 1 refs
        ++ le 2 (if psz then 256 else 16) ++ zeros 2 ++ le 4 step ++ zeros 4)
  | .pause cause => (0, cause, zeros 8)
  | .resume cause pauseStamp => (0, cause, le 8 pauseStamp)
  | .keygen job dir gen seq => (0, gen, le 1 job ++ le 1 dir ++ zeros 2 ++ le 4 seq)
  | .remap release unit oldPort newPort => (b2n release, unit, le 2 oldPort ++ le 2 newPort ++ zeros 4)
  | .sent watch kind lines arg start fin =>
    (0, watch, le 1 (kind + lines * 16) ++ zeros 3 ++ le 4 arg.toNat ++ le 8 start ++ le 8 fin)
  | .alarm cause action arg => (0, cause + action * 16, le 4 arg.toNat ++ zeros 4)
  | .fence ring tag => (0, ring, le 4 tag.toNat ++ zeros 4)
  | _ => (0, 0, [])

/-- Bytes 8 onward of a record of class 3 (Table 9.7). -/
def recExt : RecBody → List Byte
  | .cnt unit lost cutKind cutId mask words =>
    le 2 (unit + b2n lost * 2 ^ 12) ++ le 1 cutKind ++ [0] ++ le 4 cutId ++ le 4 mask ++ zeros 4
      ++ words.flatMap fun w => le 8 w.toNat
  | .lens slot kind cutId image =>
    le 2 slot ++ le 1 kind ++ [0] ++ le 4 cutId ++ image.flatMap fun w => le 8 w.toNat
  | .rowSum kind tap site oper step maxResc counts hist =>
    le 4 (site + tap * 2 ^ 20 + kind * 2 ^ 21) ++ le 4 (oper + maxResc * 2 ^ 16) ++ le 4 step
      ++ (counts.flatMap fun c => le 4 c) ++ zeros 4 ++ hist.flatMap fun c => le 4 c
  | .rowOne tap site oper step rowId outcome cause late nresc lastResc dacc blocks keys maxW denomW =>
    le 4 (site + tap * 2 ^ 20 + 2 * 2 ^ 21) ++ le 4 oper ++ le 4 step
      ++ le 4 (rowId + outcome * 2 ^ 24 + cause * 2 ^ 27 + b2n late * 2 ^ 30)
      ++ le 4 (nresc + lastResc * 2 ^ 12 + dacc * 2 ^ 24) ++ le 4 (blocks + keys * 2 ^ 12)
      ++ le 4 maxW.toNat ++ le 4 denomW.toNat ++ zeros 8
  | .watchHead watch seq site role fmt scale source kv psz bound sealed tokenUnits layer oper step va expect =>
    le 1 (watch * 4) ++ [0] ++ le 2 seq
      ++ le 4 (site + role * 2 ^ 20 + fmt * 2 ^ 24 + scale * 2 ^ 28 + source * 2 ^ 30)
      ++ le 1 (b2n kv + 2 * b2n psz + 4 * b2n bound + 8 * b2n sealed) ++ [0] ++ le 2 tokenUnits
      ++ le 2 layer ++ le 2 oper ++ le 4 step ++ le 6 va ++ zeros 2 ++ le 4 expect ++ zeros 8
  | .watchData watch seq sect offset _ _ _ payload =>
    le 1 (1 + watch * 4) ++ [0] ++ le 2 seq ++ le 4 offset ++ le 2 (payload.length + sect * 2 ^ 12)
      ++ zeros 6 ++ padTo (ceilDiv payload.length 8 * 8) payload
  | .watchEnd watch seq status irreg _ faults bytes =>
    le 1 (2 + watch * 4) ++ [0] ++ le 2 seq ++ le 1 (status + 8 * b2n irreg) ++ le 3 (sat 0xFFFFFF faults)
      ++ le 4 bytes ++ zeros 4
  | .hang g t endGt bytes freezeId firstUnit cause status depth ratio cancelled lateTrig units =>
    le 8 g ++ le 8 t ++ le 8 endGt ++ le 4 bytes ++ le 2 freezeId ++ le 2 firstUnit
      ++ le 1 (cause + status * 4 + depth * 32) ++ le 1 (ratio + cancelled * 4) ++ le 1 lateTrig ++ [0]
      ++ le 2 (sat 0xFFF units) ++ zeros 18
  | .rfp fw lb level ratio govreq fixed cause clkOp pwrOp spare attr =>
    le 4 fw ++ le 1 lb ++ le 1 level ++ le 1 (ratio + 4 * b2n govreq + 8 * b2n fixed) ++ le 1 cause
      ++ le 4 clkOp.toNat ++ le 4 pwrOp.toNat ++ zeros 8 ++ be 32 spare.toNat ++ be 32 attr.toNat
  | .digest final lossy notime n content timing =>
    le 1 (b2n final + 2 * b2n lossy + 4 * b2n notime) ++ zeros 7 ++ le 8 n
      ++ be 32 content.toNat ++ be 32 timing.toNat
  | .opsm cls cutKind cutId counters =>
    le 1 cls ++ le 1 cutKind ++ zeros 2 ++ le 4 cutId ++ counters.flatMap fun w => le 8 w.toNat
  | _ => []

/-- A record's bytes (R202, R203), given DELTA and its FLAGS [1:0]. -/
def recBytes (b : RecBody) (delta : Nat) (late cut : Bool) : List Byte :=
  let hdr := recCode b * 4 + recClass b
  if recClass b < 3 then
    let (f, spec, tail) := recFixed b
    le 1 hdr ++ le 1 (b2n late + 2 * b2n cut + 4 * f) ++ le 2 spec ++ le 4 delta ++ tail
  else
    let tail := recExt b
    le 1 hdr ++ le 2 (8 + tail.length) ++ le 1 (b2n late + 2 * b2n cut) ++ le 4 delta ++ tail

/-! ## EVT items (R210, R211) -/

/-- The key of an event (Table 9.8). -/
def evtKey (unit : Nat) (word : U64) : U64 :=
  BitVec.ofNat 64 (unit + fld word 60 4 * 2 ^ 12 + fld word 40 20 * 2 ^ 16 + fld word 32 8 * 2 ^ 36)

/-- Payload mode and bytes: the shortest that spells the payload (DESIGN CHOICE, log entry 14). -/
def evtPay (last pay : U32) : Nat × List Byte :=
  let d := (pay - last).toNat
  if d = 0 then (0, [])
  else if d < 2 ^ 7 ∨ 2 ^ 32 - 2 ^ 7 ≤ d then (1, le 1 d)
  else if d < 2 ^ 15 ∨ 2 ^ 32 - 2 ^ 15 ≤ d then (2, le 2 d)
  else (3, le 4 pay.toNat)

/-- One item: index, key where new, B, DTX and PAY. -/
def evtItem (idx : Option Nat) (key : U64) (last pay : U32) (base prev stamp : Nat) : List Byte :=
  let (pm, bytes) := evtPay last pay
  let near := decide (prev ≤ stamp + 16) && decide (stamp ≤ prev + 46)
  let dt := if near then stamp + 16 - prev else 63
  (match idx with | some i => le 1 i | none => 0xFF#8 :: le 8 key.toNat)
    ++ le 1 (pm * 64 + dt) ++ (if near then [] else le 4 (stamp - base)) ++ bytes

/-! ## Canonical blocks (R217, R218) -/

/-- The unit-lane block of Table 9.10. -/
def laneBlock (kind unit ordinal : Nat) (word : U64) (step time : Nat) : List Byte :=
  le 1 kind ++ [0] ++ le 2 unit ++ le 6 ordinal ++ zeros 2 ++ le 8 word.toNat ++ le 4 step ++ le 8 time

/-- Kind, unit, rebuilt event word and step of a record of the unit lane. -/
def laneOf : RecBody → Option (Nat × Nat × U64 × Nat)
  | .event unit word _ => some (0x01, unit, word, 0)
  | .mark _ unit kind layer oper step =>
    some (0x06, unit, BitVec.ofNat 64
      (1 * 2 ^ 60 + kind * 2 ^ 56 + layer * 2 ^ 40 + step % 256 * 2 ^ 32 + oper * 2 ^ 16), step)
  | .kv _ psz unit kind site _ _ _ page refs step =>
    some (0x0C, unit, BitVec.ofNat 64
      (8 * 2 ^ 60 + site * 2 ^ 40 + (b2n psz * 128 + kind) * 2 ^ 32 + page * 2 ^ 8 + refs), step)
  | _ => none

/-- A byte string with bytes [o, o + n) set to zero. -/
def blank (o n : Nat) (bs : List Byte) : List Byte := bs.take o ++ zeros n ++ bs.drop (o + n)

/-- Records that enter the content digest as their own bytes (R217): DELTA and FLAGS zero, and in a LENS
image header words 0 [47:32], 12 and 13 zero. -/
def recCanon : RecBody → Option (List Byte)
  | .lens slot 1 cutId image =>
    let bs := recBytes (.lens slot 1 cutId image) 0 false false
    some (blank (16 + 96) 16 (blank (16 + 4) 2 bs))
  | .rowOne tap site oper step rowId outcome cause late nresc lastResc dacc blocks keys maxW denomW =>
    some (recBytes (.rowOne tap site oper step rowId outcome cause late nresc lastResc dacc blocks keys maxW denomW)
      0 false false)
  | .watchHead watch seq site role fmt scale source kv psz bound sealed tu layer oper step va expect =>
    if source = 0 then
      some (recBytes (.watchHead watch seq site role fmt scale source kv psz bound sealed tu layer oper step va expect)
        0 false false)
    else none
  | .watchData watch seq sect offset sealed bound tap payload =>
    if tap then some (recBytes (.watchData watch seq sect offset sealed bound tap payload) 0 false false) else none
  | .watchEnd watch seq status irreg tap faults bytes =>
    if tap then some (recBytes (.watchEnd watch seq status irreg tap faults bytes) 0 false false) else none
  | _ => none

/-! ## Frames (R193 to R196) -/

/-- The 32-byte header (Table 9.2). -/
def frameHeader (f : Frame) (isSealed : Bool) : List Byte :=
  le 2 0x5752 ++ le 1 1 ++ le 1 (f.part + f.keygen * 64) ++ le 1 f.job
    ++ le 1 (b2n isSealed + 2 * b2n f.bound + 4 * b2n f.first + 8 * b2n f.last + 16 * b2n f.cuts)
    ++ le 2 f.recs ++ le 4 f.ctx ++ le 4 f.seq ++ le 8 f.gtBase ++ le 1 f.inst ++ [0]
    ++ le 2 f.body.length ++ zeros 4

/-- The plain copy of a frame, 4,096 bytes. -/
def framePlain (f : Frame) : List Byte :=
  let b := frameHeader f false ++ padTo 4040 f.body
  b ++ le 4 (crc32c b) ++ le 4 f.seq ++ zeros 16

/-- The frame key (R281). -/
def frameKey (jobKey : List Byte) (f : Frame) : List Byte :=
  Config.hkdf jobKey [] ("WRN1-FRM".toUTF8.toList.map (fun c => BitVec.ofNat 8 c.toNat)
    ++ le 1 f.part ++ le 1 f.job ++ [0] ++ le 1 f.keygen ++ le 4 f.ctx ++ le 1 f.inst) 32

/-- The sealed copy of a frame (R196, R281): 4,040 bytes of ciphertext, CRC, echo and tag. -/
def frameSeal (jobKey : List Byte) (f : Frame) : List Byte :=
  let h := frameHeader f true
  let ct := Config.gcmSeal (frameKey jobKey f) (le 4 f.seq ++ le 8 f.gtBase) h (padTo 4040 f.body)
  let b := h ++ bytesAt ct 0 4040
  b ++ le 4 (crc32c b) ++ le 4 f.seq ++ bytesAt ct 4040 16

end Sys2Proof.Machine
end

