-- ==== Sys2Proof/Machine/Ops.lean ====
section
/-! DEFINITION. Operations that many commands share: Boxwood pushes, records to contexts, wake events, freeze
scheduling, completions, SMP requests, and what follows every command. -/

namespace Sys2Proof.Machine

/-! ## Status codes (Table 10.13) -/

def stOk : Nat := 0
def stAbsent : Nat := 1
def stBadFormat : Nat := 2
def stBadLength : Nat := 3
def stNoConsent : Nat := 4
def stFence : Nat := 5
def stSpilled : Nat := 6
def stNoResource : Nat := 7
def stKeyState : Nat := 8
def stTimeout : Nat := 9
def stAborted : Nat := 10
def stReserved : Nat := 11
def stBadOpcode : Nat := 12

/-! ## Boxwood items (R173 to R175) -/

/-- Class and priority of an item kind (Table 8.3). -/
def kindCls (k : Nat) : Nat × Nat :=
  match k with
  | 0x01 => (0, 1) | 0x02 => (0, 2) | 0x03 => (0, 3) | 0x04 => (0, 3) | 0x05 => (0, 5)
  | 0x10 => (1, 1) | 0x11 => (1, 6)
  | 0x20 => (2, 0) | 0x21 => (2, 2) | 0x22 => (2, 4) | 0x23 => (2, 4)
  | 0x30 => (3, 2) | 0x31 => (3, 4)
  | 0x40 => (4, 1) | 0x41 => (4, 2) | 0x42 => (4, 6)
  | 0x50 => (5, 2) | 0x51 => (5, 1)
  | 0x60 => (6, 2) | 0x61 => (6, 2) | 0x62 => (6, 6)
  | 0x70 => (7, 3) | 0x71 => (7, 3)
  | _ => (7, 7)

/-- An item of a kind, with its class and priority. -/
def mkItem (kind part src : Nat) (arg : U32) (gt : Nat) : Item :=
  ⟨(kindCls kind).2, (kindCls kind).1, part, kind, src, arg, gtMod gt⟩

/-- A discarded item adds 1 to its class's overflow count (R175), and OVF is set where the count rises (Table 8.8);
OBS registers hold nothing under `RST_N`. -/
def countOvf (cls : Nat) (s : State) : State :=
  if s.aon.pwr.rstN && decide (fld (reg s (aEvq + 0x18 + 4 * (cls / 4))) (8 * (cls % 4)) 8 < 255) then
    orReg (aEvq + 0x24) 4 (bumpReg (aEvq + 0x18 + 4 * (cls / 4)) (8 * (cls % 4)) 8 1 s)
  else s

/-- The item a holding register keeps: the one of higher priority, the older at equal priority (R175). -/
def keepItem (old new : Item) : Item := if new.prio < old.prio then new else old

/-- A source produces an item: source number `src` within its class. Class 1 is held by the Sentinel, source 0
of class 2 by Blackthorn, the others in the OBS domain. -/
def push (src : Nat) (i : Item) (s : State) : State :=
  if i.pclass = 1 then
    match s.aon.sen.hold with
    | none => onSen (fun n => { n with hold := some i }) s
    | some o => countOvf 1 (onSen (fun n => { n with hold := some (keepItem o i) }) s)
  else if i.pclass = 2 ∧ src = 0 then
    match s.aon.alm.hold with
    | none => onAlm (fun n => { n with hold := some i }) s
    | some o => countOvf 2 (onAlm (fun n => { n with hold := some (keepItem o i) }) s)
  else
    match s.obs.evq.holds.find? fun h => h.cls == i.pclass && h.src == src with
    | none => onEvq (fun e => { e with holds := e.holds ++ [⟨i.pclass, src, i⟩] }) s
    | some o => countOvf i.pclass (onEvq (fun e => { e with
        holds := modFirst (fun h => h.cls == i.pclass && h.src == src)
          (fun h => { h with item := keepItem o.item i }) e.holds }) s)

/-- The row check's holding register in the Lens class. -/
def rowSrc : Nat := 16

/-- The row check pushes its items for the armed contexts one after the other: the next as its holding register is
empty (R142, R175). -/
def nextRowItem (s : State) : State :=
  if s.obs.evq.holds.any fun h => h.cls == 3 && h.src == rowSrc then s
  else match s.obs.lens.rowDue with
    | [] => s
    | e :: rest => push rowSrc e.2 (onLens (fun l => { l with rowDue := rest }) s)

/-- Items that have waited 16 OBS cycles are pushed whatever their register holds (R142). -/
def dueRowItems (s : State) : State :=
  let late := s.obs.lens.rowDue.filter fun e => decide (e.1 ≤ now s)
  late.foldl (fun acc e => push rowSrc e.2 acc)
    (onLens (fun l => { l with rowDue := l.rowDue.filter fun e => !decide (e.1 ≤ now s) }) s)

/-- OCC moves from `old` to its present value: pins, crossings, counts and the largest value (R189, R190). -/
def occMoved (old : Nat) (s : State) : State :=
  let n := occ s
  let hwm := fld (reg s (aEvq + 0xC)) 0 7
  let lwm := fld (reg s (aEvq + 0xC)) 16 7
  let s := onEvq (fun e => { e with
    pinHi := if n ≥ hwm then true else if n ≤ lwm then false else e.pinHi }) s
  let s := if fld (reg s (aEvq + 0x10)) 8 7 < n then
    setReg (aEvq + 0x10) (setFld (reg s (aEvq + 0x10)) 8 7 n) s else s
  let s := if old < hwm ∧ hwm ≤ n then
    bumpReg (aEvq + 0x14) 8 8 1 (orReg (aEvq + 0x24) 2 (orReg (aEvq + 0x10) 2 s)) else s
  if lwm < old ∧ n ≤ lwm then
    bumpReg (aEvq + 0x14) 0 8 1 (orReg (aEvq + 0x24) 8 (orReg (aEvq + 0x10) 1 s)) else s

/-! ## Consent and records to contexts (R14, R206, R240) -/

/-- Consent bits of partition p at a stamp (R275). -/
def consentAtGt (s : State) (p t : Nat) : Nat :=
  let q := partOf s p
  match q.consentLog.find? fun e => decide (t < e.1) with
  | some e => e.2
  | none => q.consent

/-- Consent bits: COUNTERS 0, EVENTS 1, LENS 2, WATCH 3, HANG_DUMP 4, EGRESS 5, HOST_COPY 6, TIMING 7. -/
def hasConsent (s : State) (p b : Nat) : Bool := (partOf s p).consent.testBit b

/-- Is a record stamped t offered to the context (R240)? -/
def offeredAt (c : CtxSt) (t : Nat) : Bool :=
  c.spans.any fun e => decide (e.1 ≤ t) && (match e.2 with | none => true | some b => decide (t < b))

/-- Does consent of the context's partition admit the record (R206)? -/
def admitted (s : State) (c : CtxSt) (r : Rec) : Bool :=
  match recConsent r.body with
  | none => true
  | some b => (consentAtGt s c.part r.stamp).testBit b

/-- Place in the reorder hold: stamps rising, the freeze group first among equals (R84, R402). -/
def holdRec (r : Rec) (h : List Rec) : List Rec :=
  insertBy (fun y x => decide (x.stamp < y.stamp) ||
    (x.stamp == y.stamp && decide (recRank x.body < recRank y.body))) r h

/-- A record reaches one context's reorder hold whatever its state. -/
def giveRec (x : Nat) (r : Rec) : State → State :=
  onCtx x fun c => { c with hold := holdRec r c.hold }

/-- A record is offered to one context. -/
def offerRec (x : Nat) (r : Rec) (s : State) : State :=
  match ctxOf s x with
  | some c => if offeredAt c r.stamp && admitted s c r then giveRec x r s else s
  | none => s

/-- The open contexts of the table. -/
def ctxIds (s : State) : List Nat := (s.obs.ctxs.filter fun e => e.2.isSome).map (·.1)

/-- Does a context trace unit u: its partition owns it and its unit range holds it. -/
def tracesUnit (s : State) (c : CtxSt) (u : Nat) : Bool :=
  c.part == (unitOf s u).owner && decide (c.unitFirst ≤ u) && decide (u ≤ c.unitLast)

/-- Did a context trace unit u at GT t, by the owner that u had then (R266)? -/
def tracedAt (s : State) (c : CtxSt) (u t : Nat) : Bool :=
  c.part == ownerAt s u t && decide (c.unitFirst ≤ u) && decide (u ≤ c.unitLast)

/-- Offer to every context that meets `f`, with the record it gives for it. -/
def offerWhere (f : CtxSt → Bool) (r : CtxSt → Rec) (s : State) : State :=
  (ctxIds s).foldl (fun acc x => match ctxOf s x with
    | some c => if f c then offerRec x (r c) acc else acc
    | none => acc) s

def offerAll (r : Rec) : State → State := offerWhere (fun _ => true) (fun _ => r)
def offerPart (p : Nat) (r : Rec) : State → State := offerWhere (fun c => c.part == p) (fun _ => r)
def offerUnit (u : Nat) (r : Rec) (s : State) : State := offerWhere (fun c => tracedAt s c u r.stamp) (fun _ => r) s

/-! ## Wake events (R16, R321, R324, R326, R361) -/

/-- Credits withheld during step 2 of sleep entry are returned (R324, R371). -/
def returnWithheld (s : State) : State :=
  s.obs.hed.colls.foldl (fun acc e =>
    onColl e.1 (fun c => { c with withheld := [] })
      (e.2.withheld.foldl (fun a p => onPort p (fun t =>
        { t with mirror := sat 4 (t.mirror + 1), cret := (t.cret + 1) % 8 }) a) acc)) s

/-- The ratio that `OBS_CLK_SEL` takes for the next request. -/
def nextSel (s : State) : Nat :=
  match s.obs.hang.seq with
  | some _ => 2
  | none => fld (reg s aTbClk) 0 2

/-- `OBS_CLK_REQ` is to rise: at once where `OBS_CLK_SEL` carries the ratio and an AON edge has come since the fall of
`OBS_CLK_ACK`, else at an AON edge (R361). -/
def requestClk (s : State) : State :=
  if s.aon.pwr.relWait || s.aon.pwr.clkSel != nextSel s then onPwr (fun p => { p with reqDue := true }) s
  else onPwr (fun p => { p with clkReq := true, reqDue := false }) s

/-- At an AON edge with the clock released, `OBS_CLK_SEL` takes the ratio to be requested, or, where it carries it, a
request that is due rises (R324, R361). -/
def edgeRequest (s : State) : State :=
  let p := s.aon.pwr
  if p.clkReq || p.clkAck then s
  else if p.clkSel ≠ nextSel s then
    let sel := nextSel s
    onPwr (fun p => { p with clkSel := sel, relWait := false }) s
  else if p.reqDue then onPwr (fun p => { p with clkReq := true, reqDue := false, relWait := false }) s
  else onPwr (fun p => { p with relWait := false }) s

/-- A wake event of a source (Table 14.7): recorded, and the clock requested where it is withdrawn. -/
def wake (src : Nat) (s : State) : State :=
  let p := s.aon.pwr
  let noted := fun (q : Pwr) => if q.rstN && q.wake.isNone then { q with wake := some (src, now s) } else q
  if p.clkAck then
    if p.switching then s
    else match p.stage with
      | .awake => s
      | .draining => returnWithheld (onPwr (fun q => { q with stage := .awake }) s)
      | .zeroed | .dropped => onPwr (fun q => { noted q with reqDue := true }) s
  else if p.clkReq then s
  else requestClk (onPwr noted s)

/-! ## Freezes (R77 to R80) -/

/-- The ID of the next distinct freeze (R80). -/
def nextFreezeId (s : State) : Nat := s.obs.cut.issued % 0xFFFF + 1

/-- A new freeze takes the next ID; at an equal T it takes the lower ID of the one cut (R79, R80). -/
def newFreeze (t cause : Nat) (fabric : Bool) (fabSeq : Nat) (own : List Nat) (hw : Bool) (s : State) : Freeze :=
  let id := match (freezes s).find? fun f => f.t == t with
    | some f => f.id
    | none => nextFreezeId s
  ⟨id, t, cause, fabric, fabSeq, own, s.obs.cut.main, hw⟩

/-- A trigger or command joins a freeze (R79, R96). -/
def joinFreeze (cause : Nat) (own : List Nat) (f : Freeze) : Freeze :=
  { f with cause := f.cause ||| cause ||| 16, own := f.own ++ own.filter fun p => !f.own.contains p }

/-- The freeze is issued: its copies run, and its T is kept under its ID (R80, R125). -/
def addIssued (f : Freeze) (c : Cut) : Cut :=
  { c with issued := c.issued + 1, times := smPut natD c.times f.id f.t }

/-- A hardware trigger at G (R78, R79): none while `RST_N` is low; it joins a pending hardware freeze. -/
def hwFreeze (g cause : Nat) (own : Nat) (s : State) : State :=
  if !s.aon.pwr.rstN then s
  else match s.obs.cut.hw with
    | some f => onCut (fun c => { c with hw := some (joinFreeze cause [own] f) }) s
    | none =>
      let f := newFreeze (gtMod (g + 1024)) cause false 0 [own] true s
      onCut (fun c => addIssued f { c with hw := some f }) s

/-- A trigger of Table 4.2: after step 3 of a hang sequence it schedules nothing and is counted (R166). -/
def trigger (g cause own : Nat) (s : State) : State :=
  match s.obs.hang.seq with
  | some q =>
    if q.step ≥ 4 then onHang (fun h => { h with seq := some { q with lateTrig := sat 255 (q.lateTrig + 1) } }) s
    else hwFreeze g cause own s
  | none => hwFreeze g cause own s

/-- The pending hardware freeze's ID and T. -/
def hwIdT (s : State) : Nat × Nat :=
  match s.obs.cut.hw with | some f => (f.id, f.t) | none => (0, 0)

/-- A software freeze at T (R79): its ID, or none where four are pending and none is joined. -/
def swFreeze (t : Nat) (fabric : Bool) (fabSeq : Nat) (own : List Nat) (s : State) : Option Nat × State :=
  match s.obs.cut.sw.find? fun f => decide (f.t ≤ t + 63) && decide (t ≤ f.t + 63) with
  | some f =>
    (some f.id, onCut (fun c => { c with sw := modFirst (fun g => g.id == f.id) (fun g =>
      let j := joinFreeze 1 own g
      if fabric && !g.fabric then { j with fabric := true, fabSeq := fabSeq } else j) c.sw }) s)
  | none =>
    if s.obs.cut.sw.length ≥ 4 then (none, s)
    else
      let f := newFreeze t 1 fabric fabSeq own false s
      (some f.id, onCut (fun c => addIssued f { c with sw := c.sw ++ [f] }) s)

/-! ## SMP requests -/

/-- Stream ID of a partition (R265). -/
def sidOf (s : State) (p : Nat) : Nat := fld (reg s (aPrv + 0x80 + 4 * p)) 0 16

/-- A metered piece joins the queue. -/
def addPiece (p : Piece) : State → State := onSmp fun m => { m with pieces := m.pieces ++ [p] }

/-- Words as pieces of at most 4,096 bytes that cross no 4 KiB boundary (R352, R365), the last with its own purpose. -/
def cutPieces (fuel : Nat) (cls part : Nat) (w last : WrWhat) (addr : Nat) (data : List U64) : List Piece :=
  match fuel with
  | 0 => []
  | f + 1 =>
    let n := (4096 - addr % 4096) / 8
    if data.length ≤ n then [⟨cls, ceilDiv data.length 8, part, last, addr, data⟩]
    else ⟨cls, ceilDiv n 8, part, w, addr, data.take n⟩ :: cutPieces f cls part w last (addr + 8 * n) (data.drop n)

/-- The pieces of words at an address. -/
def piecesOf (cls part : Nat) (w last : WrWhat) (addr : Nat) (data : List U64) : List Piece :=
  cutPieces (data.length / 512 + 2) cls part w last addr data

def addPieces (cls part : Nat) (w last : WrWhat) (addr : Nat) (data : List U64) (s : State) : State :=
  onSmp (fun m => { m with pieces := m.pieces ++ piecesOf cls part w last addr data }) s

/-- A metered read of 64-byte units: a piece without data for each part within 4 KiB. -/
def readPieces (cls part : Nat) (w : WrWhat) (addr units : Nat) (s : State) : State :=
  onSmp (fun m => { m with
    pieces := m.pieces ++ (piecesOf cls part w w addr (List.replicate (8 * units) 0)).map fun p => { p with data := [] } }) s

/-- A read is issued under the lowest free tag; none is free while 128 are outstanding (R366). -/
def issueRead (what : RdWhat) (part addr units : Nat) (s : State) : Option State :=
  match lowestFree 128 (s.obs.smp.rdOut.map (·.tag)) with
  | none => none
  | some t => some (onSmp (fun m => { m with rdOut := m.rdOut ++ [⟨t, sidOf s part, what, addr, units⟩] }) s)

/-- A write is issued under the lowest free tag. -/
def issueWrite (p : Piece) (s : State) : Option State :=
  match lowestFree 128 (s.obs.smp.wrOut.map (·.tag)) with
  | none => none
  | some t => some (onSmp (fun m => { m with
      wrOut := m.wrOut ++ [⟨t, sidOf s p.part, p.what, p.addr, p.data, p.part⟩] }) s)

/-- An unmetered write is issued at once, or waits as a piece of class 0 for a tag (R352). -/
def writeNow (p : Piece) (s : State) : State :=
  match issueWrite p s with
  | some t => t
  | none => addPiece { p with cls := 0 } s

/-! ## Completions (R235, R245, R246) -/

/-- The engine's command `seq` leaves the ring's lists. -/
def dropHeld (seq : Nat) (g : Ring) : Ring :=
  { g with
    fetched := delFirst (fun h => h.seq == seq) g.fetched
    parked := delFirst (fun h => h.seq == seq) g.parked
    cur := match g.cur with | some h => if h.seq = seq then none else some h | none => none }

/-- The completion entry (Table 10.12). -/
def entryOf (s : State) (r : Nat) (d : Desc) (status : Nat) (result : U32) : Entry :=
  ⟨d.w.getD 1 0, status, ringPart s r, fld (d.w.getD 0 0) 0 8, (ringOf s r).phase, engGt s, result⟩

/-- The entry's two memory words. -/
def entryWords (e : Entry) : List U64 :=
  [BitVec.ofNat 64 (e.tag.toNat + e.status * 2 ^ 32 + e.part * 2 ^ 40 + e.opcode * 2 ^ 48 + b2n e.phase * 2 ^ 56),
   BitVec.ofNat 64 (e.gt % 2 ^ 32 + e.result.toNat * 2 ^ 32)]

/-- The piece that writes an entry at index j. -/
def entryPiece (s : State) (r seq j : Nat) (e : Entry) (noirq : Bool) : Piece :=
  ⟨1, 1, e.part, .completion r seq e noirq, (ringOf s r).cqBase + 16 * j, entryWords e⟩

/-- A command completes: its entry is queued, `CQ_TAIL` and PHASE move on (R224, R246). -/
def complete (r : Nat) (h : Held) (status : Nat) (result : U32) (s : State) : State :=
  let g := ringOf s r
  let e := entryOf s r h.d status result
  let quiet := bit (h.d.w.getD 0 0) 12
  let s := addPiece (entryPiece s r h.seq g.cqTail e quiet) s
  onRing r (fun g => dropHeld h.seq { g with
    cqTail := if g.cqTail + 1 = ringM s r then 0 else g.cqTail + 1
    phase := if g.cqTail + 1 = ringM s r then !g.phase else g.phase
    noirq := g.noirq ++ [(g.cqTail, quiet, false)]
    unacked := g.unacked ++ [h.seq] }) s

/-- The command in progress or parked with this engine sequence. -/
def heldOf (s : State) (r seq : Nat) : Option Held :=
  let g := ringOf s r
  match g.cur with
  | some h => if h.seq = seq then some h else g.parked.find? fun x => x.seq == seq
  | none => g.parked.find? fun x => x.seq == seq

/-- Complete the command with this sequence, where the ring holds it. -/
def completeSeq (r seq status : Nat) (result : U32) (s : State) : State :=
  match heldOf s r seq with
  | some h => complete r h status result s
  | none => s

/-- An MSI write of a ring (R247). -/
def addMsi (r k : Nat) (s : State) : State :=
  let d := reg s (aRing r + 0x24) + BitVec.ofNat 32 k
  let a := (ringOf s r).msia
  addPiece ⟨1, 1, ringPart s r, .msi r a d, a, [BitVec.ofNat 64 d.toNat]⟩ s

/-- PEND rises (R246, R247). -/
def raisePend (r : Nat) (s : State) : State :=
  if (ringOf s r).pend then s
  else
    let t := onRing r (fun g => { g with pend := true }) s
    if bit (reg s (aRing r + 0x28)) 8 then addMsi r 0 t else t

/-! ## What follows every command -/

/-- The lowest ring of partition 0 that sends an MSI for line k (R247). -/
def lineRing (s : State) (k : Nat) : Option Nat :=
  (List.range 64).find? fun r =>
    ringPart s r == 0 && bit (reg s (aRing r + 0x28)) 8 && bit (reg s (aRing r + 0x28)) k

/-- A rise of `IRQ[k]` sends its MSI. -/
def lineMsi (before : State) (k : Nat) (s : State) : State :=
  if s.aon.pwr.rstN && !irqLine before k && irqLine s k then
    match lineRing s k with
    | some r => addMsi r k s
    | none => s
  else s

/-- MSIs of the lines that rose, the credit at a change into or out of cadence mode, and the wake by a hold condition
that arose while the core sleeps (R247, R324, R326, R356). -/
def settle (before : State) (s : State) : State :=
  let s := [1, 2, 3, 4, 5, 6, 7].foldl (fun acc k => lineMsi before k acc) s
  let s := if cadence before = cadence s then s else onSmp (fun m => { m with credit := 0 }) s
  let p := s.aon.pwr
  let entering := p.clkAck && p.stage != .awake && !p.switching
  if p.aonRstN && (entering || (!p.clkAck && !p.clkReq)) && anyHold s && !anyHold before
  then wake 7 s else s

/-- A command goes on with `f`, then with what follows every command; in scan test no effect of it is defined (R398). -/
def run (f : State → State) (s : State) : Answer := .next (if s.scan then inScan s else settle s (f s))

/-- The OBS domain's own commands happen only while it runs. -/
def inObs (f : State → State) (s : State) : State := if obsRuns s then f s else s

end Sys2Proof.Machine
end

