-- ==== Sys2Proof/Machine/Links.lean ====
section
/-! DEFINITION. Shared operations of the egress port and the fabric ports: flit replay, sealed messages, frame
slots, link down, routing (chapter 13), and counts split by cuts. -/

namespace Sys2Proof.Machine

/-! ## Counts and cuts (R75, R91) -/

/-- The boundaries of a schedule that stand and are not yet taken (R90). -/
def standing (e : EpEntry) : List Nat :=
  e.next.filter fun t => match e.stop with | some x => decide (t < x) | none => true

/-- The boundaries of partition p not yet taken, earliest first. -/
def boundsOf (s : State) (p : Nat) : List Nat :=
  let e := epochOf s p
  (sortBy id (e.entries.flatMap standing ++ e.forcedTb.toList)).eraseDups

/-- The earliest boundary of partition p not yet taken. -/
def boundOf (s : State) (p : Nat) : Option Nat := (boundsOf s p).head?

def bankD (_ : Nat) : Bank := default

/-- An increment stamped t goes before every boundary, or after the latest boundary at or below it; `f` takes the GT
at which that stretch of the bank ends: the next boundary, or `lim` where none comes before it. -/
def splitAdd (bd : List Nat) (lim t : Nat) (f : Nat → Bank → Bank) (b : Split) : Split :=
  let fin := ((bd.filter fun x => decide (t < x)).head?.map (min lim)).getD lim
  match (bd.filter fun x => decide (x ≤ t)).getLast? with
  | some x => { b with after := smMod bankD b.after x (f fin) }
  | none => { b with live := f fin b.live }

/-- Beyond every GT: the end of a stretch that no cut ends yet. -/
def noEnd : Nat := 2 ^ 80

/-- Change the running bank, each pending freeze and each cut that a takeover may go back to, given the GT at which
each ends. -/
def onCuts (g : Nat → Split → Split) (c : Cut) : Cut :=
  let fz := fun (z : Freeze) => { z with bank := g z.t z.bank }
  { c with
    main := g noEnd c.main, sw := c.sw.map fz, hw := c.hw.map fz
    marks := c.marks.map fun m => { m with bank := g m.t m.bank } }

/-- An increment stamped t of partition p: the running bank, and each cut that it precedes. -/
def countTo (p t : Nat) (f : Nat → Bank → Bank) (s : State) : State :=
  let bd := boundsOf s p
  onCut (onCuts fun lim b => if t < lim then splitAdd bd lim t f b else b) s

/-- The same for an increment that no restart within a stretch discards. -/
def count (p t : Nat) (f : Bank → Bank) : State → State := countTo p t fun _ => f

/-- Counts of the links restart at no boundary (R86). -/
def countLink (t : Nat) (f : Bank → Bank) (s : State) : State :=
  onCut (onCuts fun lim b => if t < lim then { b with live := f b.live } else b) s

/-- One more event, at its stamp, in a port's count (R86). -/
def portCount (k n : Nat) (m : SMap Nat) : SMap Nat := smMod natD m k (· + n)

/-- The instance-wide sum of a count. -/
def portSum (m : SMap Nat) : Nat := m.foldl (fun n e => n + e.2) 0

/-! ## Sealed messages (R298) -/

/-- A string as the key derivations have it. -/
def ascii (t : String) : List Byte := t.toUTF8.toList.map fun c => BitVec.ofNat 8 c.toNat

/-- A message in clear. -/
def plainMsg (mtype : Nat) (body : List Byte) : List Byte :=
  le 1 mtype ++ [0] ++ le 2 (4 + body.length) ++ body

/-- A message of link class. -/
def sealMsg (key : List Byte) (ctr mtype : Nat) (body : List Byte) : List Byte :=
  let h := le 1 mtype ++ [0] ++ le 2 (28 + body.length) ++ le 8 ctr
  h ++ Config.gcmSeal key (le 8 ctr ++ zeros 4) h body

/-- The counter and body of a message of link class, where it authenticates and its counter rises. -/
def openMsg (key : List Byte) (last : Option Nat) (m : List Byte) : Option (Nat × List Byte) :=
  let ctr := leAt m 4 8
  if (match last with | some c => decide (c < ctr) | none => true) then
    match Config.gcmOpen key (le 8 ctr ++ zeros 4) (bytesAt m 0 12) (bytesAt m 12 (leAt m 2 2 - 12)) with
    | some b => some (ctr, b)
    | none => none
  else none

/-! ## Flits (R294, R295, R308) -/

/-- A flit as it leaves (Table 13.2): byte 1 is DST and byte 3 SRC on the fabric (R308), zero on the egress port. -/
def flitBytes (l : Link) (k : KFlit) : List Byte :=
  let h := le 1 (k.ftype + 16 * b2n l.nak + 32 * b2n k.fs.isSome) ++ le 1 k.dst ++ le 1 (k.fs.getD 0) ++ le 1 k.src
    ++ le 4 k.seq ++ le 4 l.recvSeq ++ zeros 4 ++ (padTo 232 k.payload).take 232 ++ zeros 4
  h ++ le 4 (crc32c h)

/-- What a link sends with nothing to send, or with its replay buffer full: IDLE repeats the last FSEQ (R295). -/
def idleFlit (l : Link) : List Byte := flitBytes l { (default : KFlit) with seq := l.sendSeq }

/-- A flit waits for room; FREEZE and BEACON go before all others (R315). -/
def linkAdd (k : KFlit) (l : Link) : Link :=
  { l with waiting := insertBy (fun y z => decide (y.ftype < 3) && decide (3 ≤ z.ftype)) k l.waiting }

/-- The next waiting flit is sent: FSEQ advances by 1, and the flit is kept until an ACK covers it; under a link key its
message is sealed (R309, R310). -/
def linkPut (key : Option (List Byte)) (l : Link) (k : KFlit) : Link :=
  let q := (l.sendSeq + 1) % 2 ^ 32
  let sealedMsg := match key with
    | some y => if k.clear.isEmpty then none else some (sealMsg y l.outCtr (leAt k.clear 0 1) (k.clear.drop 4))
    | none => none
  let k := { k with seq := q, payload := padTo 232 (sealedMsg.getD k.payload) }
  let l := { l with sendSeq := q, outCtr := l.outCtr + b2n sealedMsg.isSome }
  { l with kept := l.kept ++ [{ k with wire := flitBytes l k }] }

/-- Waiting flits are sent while the replay buffer of `cap` flits has room. -/
def linkRun (cap : Nat) (key : Option (List Byte)) (l : Link) : Link :=
  let n := cap - l.kept.length
  (l.waiting.take n).foldl (linkPut key) { l with waiting := l.waiting.drop n }

/-- One frame joins the link's byte stream, which is packed 232 bytes to a flit; the first flit marks its start. -/
def linkFrame (dst src : Nat) (bytes : List Byte) (l : Link) : Link :=
  let stream := l.out ++ bytes
  let n := stream.length / 232
  { l with
    waiting := l.waiting ++ (List.range n).map fun i => { (default : KFlit) with
      ftype := 1, dst := dst, src := src, fs := if i = 0 then some l.out.length else none
      payload := (stream.drop (232 * i)).take 232 }
    out := stream.drop (232 * n) }

/-- A replay: every kept flit is sent again, with the present ACK and NAK. -/
def linkResend (l : Link) : Link := { l with kept := l.kept.map fun k => { k with wire := flitBytes l k } }

/-- An ACK frees the flits it covers. -/
def linkAck (ack : Nat) (l : Link) : Link :=
  match l.kept.findIdx? fun k => k.seq == ack with
  | some i => { l with kept := l.kept.drop (i + 1), ackSeq := ack, replays := 0, retried := false }
  | none => l

/-- A flit's CRC holds. -/
def flitGood (f : List Byte) : Bool := f.length == 256 && crc32c (f.take 252) == leAt f 252 4

/-- The link after a flit of a known type: accepted where its FSEQ follows, else NAK is set; IDLE takes no FSEQ. -/
def linkTake (ftype maxType fseq : Nat) (l : Link) : Bool × Link :=
  if ftype = 0 then (false, if fseq = l.recvSeq then l else { l with nak := true })
  else if ftype ≤ maxType ∧ fseq = (l.recvSeq + 1) % 2 ^ 32 then (true, { l with recvSeq := fseq, nak := false })
  else (false, { l with nak := true })

/-! ## Fabric sending (R309, R310, R315, R316) -/

/-- Does the port's link leave the package? -/
def portX (s : State) (east : Bool) : Bool := bit (reg s aFab) (if east then 17 else 16)

/-- The end of a link that leaves the package accepts its neighbour by the hash of the neighbour's device public key
(R309). -/
def peerOk (s : State) (east : Bool) : Bool :=
  !portX s east || Config.sha384 (Config.compressKey (Config.neighbourKey east)) ==
    (List.range 12).flatMap fun w => le 4 (reg s (aFab + (if east then 0x100 else 0x140) + 4 * w)).toNat

/-- Does the port carry flits: trained, not failed, its neighbour accepted? -/
def portUp (s : State) (east : Bool) : Bool := (if east then s.obs.fab.eUp else s.obs.fab.wUp) && peerOk s east

/-- Key of a cross-package link, from the two device key pairs (R309; log entry 85): its first half seals what travels
eastward. -/
def fabKey (s : State) (east outbound : Bool) : List Byte :=
  let z := Config.ecdh (s.aon.keys.device.getD []) (Config.neighbourKey east)
  let k := Config.hkdf (z ++ z) [] (ascii "WRN1-FAB") 64
  if east == outbound then k.take 32 else k.drop 32

def linkOf (s : State) (east : Bool) : Link := if east then s.obs.fab.linkE else s.obs.fab.linkW

def onLink (east : Bool) (g : Link → Link) : State → State :=
  onFab fun f => if east then { f with linkE := g f.linkE } else { f with linkW := g f.linkW }

/-- A port changes its queue of flits, and sends what its 64-flit replay buffer takes (R308). -/
def portRun (east : Bool) (g : Link → Link) (s : State) : State :=
  let key := if portX s east then some (fabKey s east true) else none
  onLink east (fun l => linkRun 64 key (g l)) s

/-- One flit of a message on one port, sealed where the link leaves the package. -/
def portForward (src : Nat) (east : Bool) (ftype dst mtype : Nat) (body : List Byte) : State → State :=
  let m := plainMsg mtype body
  portRun east (linkAdd { (default : KFlit) with ftype := ftype, dst := dst, src := src, clear := m, payload := m })

/-- A message of this instance on one port. -/
def portSend (east : Bool) (ftype dst mtype : Nat) (body : List Byte) (s : State) : State :=
  portForward s.aon.instId east ftype dst mtype body s

/-- Does a flit to `dst` travel east: the direction of R316, the other way where that port is down (R317)? -/
def goesEast (s : State) (dst : Nat) : Bool :=
  let f := s.obs.fab
  let hops := match f.members.find? fun m => m.id == dst with | some m => m.hops | none => 0
  let east := !f.ccw || decide (hops ≤ f.members.length - hops)
  if east then portUp s true || !portUp s false else !portUp s false && portUp s true

/-- A message to one instance. -/
def fabSend (dst ftype mtype : Nat) (body : List Byte) (s : State) : State :=
  portSend (goesEast s dst) ftype dst mtype body s

/-- A message to every instance on each port that is up. -/
def fabBoth (ftype mtype : Nat) (body : List Byte) (s : State) : State :=
  let s := if portUp s true then portSend true ftype 0x3F mtype body s else s
  if portUp s false then portSend false ftype 0x3F mtype body s else s

/-- A broadcast has been taken, travelling in a direction. -/
def noteSeen (what : List Byte) (east : Bool) (s : State) : State :=
  let t := now s
  onFab (fun f => { f with seen := ⟨what, east, t⟩ :: f.seen.filter fun e => decide (t < e.seenAt + 320000) }) s

/-- A broadcast of this instance: the shorter way round with 8 or more members, eastward with fewer (R316). -/
def fabCast (ftype mtype : Nat) (what body : List Byte) (s : State) : State :=
  if s.obs.fab.ccw then fabBoth ftype mtype body (noteSeen what true (noteSeen what false s))
  else
    let east := portUp s true || !portUp s false
    portSend east ftype 0x3F mtype body (noteSeen what east s)

/-- Has the broadcast been taken before? -/
def seenBefore (s : State) (what : List Byte) : Bool := s.obs.fab.seen.any fun e => e.what == what

/-- A repeat of a broadcast that has been sent on; with fewer than 8 members, the same broadcast turned back at a failed
link is no repeat (R315, R317). -/
def isRepeat (s : State) (what : List Byte) (east : Bool) : Bool :=
  s.obs.fab.seen.any fun e => e.what == what && (s.obs.fab.ccw || e.east == east)

/-- The root's outcome of a forwarded frame (Table 13.13, R316). -/
def sendOutcome (origin : Nat) (f : Frame) (outcome cause : Nat) : State → State :=
  fabSend origin 2 0x26 (le 1 f.part ++ le 1 f.job ++ le 1 outcome ++ le 1 cause ++ le 4 f.ctx ++ le 4 f.seq)

/-! ## Egress frames (R301 to R304) -/

def egrSkipped (s : State) : State := if s.build.egress then bumpReg (aEgr + 0xC) 0 32 1 s else s

/-- Flits that the station's link may keep: none are sent while it retrains (R292, R295). -/
def egrCap (e : Egr) : Nat := if e.retraining.isSome then 0 else 512

/-- The egress port changes its queue of flits, and sends what its replay buffer takes. -/
def egrRun (g : Link → Link) : State → State := onEgr fun e => { e with link := linkRun (egrCap e) none (g e.link) }

/-- A CTRL flit to the station. -/
def egrPut (m : List Byte) : State → State := egrRun (linkAdd { (default : KFlit) with ftype := 2, payload := m })

/-- A message to the station under the link key. -/
def egrSend (mtype : Nat) (body : List Byte) (s : State) : State :=
  let e := s.obs.egr
  egrPut (sealMsg e.outKey e.outCtr mtype body) (onEgr (fun e => { e with outCtr := e.outCtr + 1 }) s)

/-- A SEQ of this instance's context has been sent. -/
def noteSent (f : Frame) : State → State :=
  let mine := fun (r : SeqRun) => r.part == f.part && r.job == f.job && r.ctx == f.ctx && (r.last + 1) % 2 ^ 32 == f.seq
  let add := fun (l : List SeqRun) =>
    if l.any mine then modFirst mine (fun r => { r with last := f.seq }) l else l ++ [⟨f.part, f.job, f.ctx, f.seq, f.seq⟩]
  onEgr fun e => { e with sentSeqs := add e.sentSeqs }

/-- Lost frames as ranges: consecutive frames of one context of one instance are joined (R304). -/
def lossRanges : List ESlot → List (ESlot × Nat)
  | [] => []
  | x :: xs =>
    match lossRanges xs with
    | (y, n) :: r =>
      if y.frame.part = x.frame.part ∧ y.frame.job = x.frame.job ∧ y.frame.ctx = x.frame.ctx ∧ y.origin = x.origin
        ∧ y.frame.seq = (x.frame.seq + 1) % 2 ^ 32 then (x, n + 1) :: r
      else (x, 1) :: (y, n) :: r
    | [] => [(x, 1)]

/-- Slots that meet `p` are lost with a cause (Table 13.5): counted, reported to the station while UP, and to the
frame's origin. -/
def loseSlots (p : ESlot → Bool) (cause : Nat) (s : State) : State :=
  let gone := s.obs.egr.slots.filter p
  if gone.isEmpty then s
  else
    let s := onEgr (fun e => { e with slots := e.slots.filter fun x => !p x }) s
    let s := bumpReg (aEgr + 0x10) 0 32 gone.length s
    let s := gone.foldl (fun a x => if x.origin = a.aon.instId then a else sendOutcome x.origin x.frame 2 cause a) s
    if s.obs.egr.state = 3 ∨ s.obs.egr.state = 4 then
      (lossRanges gone).foldl (fun a r => egrSend 5 (le 1 r.1.origin ++ le 1 r.1.frame.part ++ le 1 r.1.frame.job
        ++ le 1 cause ++ le 4 r.1.frame.ctx ++ le 4 r.1.frame.seq ++ le 4 r.2 ++ zeros 4) a) s
    else s

/-- Frames are sent in order of entry, one credit each, while the replay buffer has room (R295, R302, R303). -/
def egrPump (fuel : Nat) (s : State) : State :=
  match fuel with
  | 0 => s
  | n + 1 =>
    let e := s.obs.egr
    if (e.state = 3 ∨ e.state = 4) ∧ e.credits > 0 ∧ !s.aon.alm.frozen ∧ e.link.waiting.isEmpty
        ∧ e.link.kept.length < egrCap e then
      match e.slots.find? fun x => x.sentAt.isNone || x.resend with
      | some x =>
        let t := now s
        let s := if x.origin = s.aon.instId then noteSent x.frame s else s
        egrPump n (egrRun (linkFrame 0 0 x.sealedBytes) (onEgr (fun e => { e with
          credits := e.credits - 1
          slots := modFirst (fun y => y.sentAt.isNone || y.resend)
            (fun y => { y with sentAt := some (y.sentAt.getD t), resend := false }) e.slots }) s))
      | none => s
    else s

/-- Frames held and not yet sent are withheld, each counted as skipped (R288). -/
def withholdEgress (s : State) : State :=
  let gone := s.obs.egr.slots.filter fun x => x.sentAt.isNone
  let s := onEgr (fun e => { e with slots := e.slots.filter fun x => x.sentAt.isSome }) s
  gone.foldl (fun a x => if x.origin = a.aon.instId then egrSkipped a else sendOutcome x.origin x.frame 1 0 a) s

/-- A sealed frame asks for a slot at the root: its outcome is skipped where none is free, the state is not UP or
frames are withheld (R288, R301). -/
def egrEnter (f : Frame) (bytes : List Byte) (origin : Nat) (s : State) : State :=
  let e := s.obs.egr
  if e.state = 3 ∧ e.slots.length < s.build.egressSlots ∧ !s.aon.alm.frozen then
    egrPump 1 (onEgr (fun e => { e with slots := e.slots ++ [⟨f, bytes, none, 0, false, origin⟩] }) s)
  else if origin = s.aon.instId then egrSkipped s
  else sendOutcome origin f 1 0 s

/-- A frame leaves for the root on the fabric while the port's replay buffer can take it (R316). -/
def fabFrame (f : Frame) (bytes : List Byte) (s : State) : State :=
  let east := goesEast s s.obs.fab.rootId
  if portUp s east ∧ (linkOf s east).kept.length + (linkOf s east).waiting.length + 18 ≤ 64 ∧ !s.aon.alm.frozen then
    countLink f.gtBase (fun b => { b with fsent := portCount (b2n east) 1 b.fsent })
      (onFab (fun b => { b with sent := b.sent ++ [{ f with body := [] }] })
        (portRun east (linkFrame s.obs.fab.rootId s.aon.instId bytes) (noteSent f s)))
  else egrSkipped s

/-! ## Link down and partner faults (R305, R306) -/

/-- The link goes down (R305): slots are lost, the keys and the link's state go, a LINK_DOWN item follows. -/
def egrDown (reason : Nat) (s : State) : State :=
  if s.obs.egr.state = 0 then s
  else
    let s := onEgr (fun e => { e with state := 0 }) s
    let s := loseSlots (fun _ => true) 5 s
    let s := onEgr (fun e => { e with
      lanes := 0, retraining := none, lastDown := reason, link := default, credits := 0, inbox := [], outKey := []
      inKey := [], ephemeral := [], stationKey := [], coreNonce := [], hello := [], outCtr := 0, inCtr := none
      lastMsg := none, loopback := false }) s
    orReg (aEgr + 0x1C) 2 (push 0 (mkItem 0x60 0 0 (BitVec.ofNat 32 reason) (engGt s)) s)

/-- CLOSE is sent where the link has its keys, and the link goes down. -/
def egrCloseWith (reason : Nat) (s : State) : State :=
  let st := s.obs.egr.state
  egrDown reason (if st = 3 ∨ st = 4 then egrSend 6 (le 1 reason ++ zeros 3) s else s)

/-- A partner fault of a kind (Table 13.6); AUTH_LIM counts kinds 1, 2, 4 and 6 (R306). -/
def egrFault (kind : Nat) (s : State) : State :=
  let s := onEgr (fun e => { e with
    lastFault := kind
    authFaults := if kind = 1 then sat 255 (e.authFaults + 1) else e.authFaults
    limFaults := if kind = 1 ∨ kind = 2 ∨ kind = 4 ∨ kind = 6 then e.limFaults + 1 else e.limFaults }) s
  let s := if kind = 1 then bumpReg (aEgr + 0x18) 0 32 1 s else s
  let s := orReg (aEgr + 0x1C) 4
    (push 0 (mkItem 0x61 0 0 (BitVec.ofNat 32 (kind + s.obs.egr.authFaults * 256)) (engGt s)) s)
  if fld (reg s (aEgr + 4)) 16 8 ≤ s.obs.egr.limFaults then egrCloseWith 5 s else s

/-! ## Fabric items (Table 13.9) -/

def fabMember (id reason : Nat) (s : State) : State :=
  orReg (aFab + 0xC) 2
    (push 0 (mkItem 0x50 0 id (BitVec.ofNat 32 (reason + s.obs.fab.count * 256)) (engGt s)) s)

def rootChange (new old cause : Nat) (s : State) : State :=
  orReg (aFab + 0xC) 4 (push 0 (mkItem 0x51 0 new (BitVec.ofNat 32 (old + cause * 256)) (engGt s)) s)

end Sys2Proof.Machine
end

