-- ==== Sys2Proof/Machine/Writer.lean ====
section
/-! DEFINITION. The trace writer (chapter 9): horizons, frames under construction, compression, digests, the close
of a frame, and the commands that place records and age frames. -/

namespace Sys2Proof.Machine

/-! ## Latencies and horizons (R29, R81, R402) -/

/-- A latency word in force: what a write left takes effect two OBS cycles after it (R40). -/
def latReg (s : State) (a : Nat) : U32 :=
  match s.aon.tb.latOld.find? fun e => e.1 == a && decide (now s < e.2.2) with
  | some e => e.2.1
  | none => reg s a

/-- L_p of a probe port (R29). -/
def latOf (s : State) (p : Nat) : Nat :=
  let c := p / 16
  fld (latReg s (0x3100 + 4 * (c / 4))) (8 * (c % 4)) 8 + fld (latReg s (0x3800 + 4 * (p / 8))) (4 * (p % 8)) 4

/-- D_c of a collector (R81). -/
def delayOf (s : State) (c : Nat) : Nat :=
  (List.range 16).foldl (fun acc k => max acc (latOf s (16 * c + k))) 0 + corrOf s.aon.pwr.ratio

/-- Horizon of a collector. -/
def horizonOf (s : State) (c : Nat) : Nat := collGt s c - delayOf s c

/-- Collectors that serve their ports: neither LOST nor in a takeover. -/
def servingColls (s : State) : List Nat :=
  (List.range s.build.nColl).filter fun c => (collOf s c).lost.isNone && (collOf s c).taking.isNone

/-- L_t of a tap (R99). -/
def tapLat (s : State) (t : Nat) : Nat := fld (latReg s aLens) (8 * t) 8

/-- Horizon of a tap (R402). -/
def tapHorizon (s : State) (t : Nat) : Nat := lensGt s - tapLat s t - corrOf s.aon.pwr.ratio

/-- The writer's horizon (R402). -/
def writerHorizon (s : State) : Nat :=
  let xs := (servingColls s).map (horizonOf s) ++ (if s.build.lens then [tapHorizon s 0, tapHorizon s 1] else [])
  xs.foldl min (now s + 1)

/-! ## Staging (R211, R214) -/

/-- Frame buffers in use: closed frames and frames under construction. -/
def openFrames (s : State) : Nat :=
  (s.obs.ctxs.filter fun e => match e.2 with | some c => c.frame.isSome | none => false).length

def freeBufs (s : State) : Nat := s.build.frameBufs - (s.obs.smp.frames.length + openFrames s)

/-- Dictionaries lent to frames under construction (R211). -/
def dictsLent (s : State) : Nat :=
  (s.obs.ctxs.filter fun e => match e.2 with
    | some c => (match c.frame with | some f => f.dict.isSome | none => false) | none => false).length

/-! ## Frames under construction -/

def pad8 (n : Nat) : Nat := ceilDiv n 8 * 8

/-- Body bytes used, the EVT record under construction included. -/
def bodyLen (f : FrameB) : Nat :=
  f.body.length + (match f.evt with | some e => pad8 (12 + e.items.length) | none => 0)

/-- Does the stamp lie in the frame's window (R203)? -/
def inWindow (f : FrameB) (t : Nat) : Bool := decide (f.base ≤ t) && decide (t < f.base + 2 ^ 32)

/-- The EVT record under construction is written out (R210). -/
def endEvt (f : FrameB) : FrameB :=
  match f.evt with
  | none => f
  | some e =>
    { f with
      evt := none
      body := f.body ++ [7#8] ++ le 2 (pad8 (12 + e.items.length)) ++ le 1 (b2n e.late + 4 * b2n e.sampled)
        ++ le 4 (e.stamp - f.base) ++ le 2 e.n ++ zeros 2 ++ padTo (pad8 (12 + e.items.length) - 12) e.items
      recs := f.recs + 1 }

/-- A fresh frame whose first record is stamped t (R203). -/
def newFrame (s : State) (t : Nat) : FrameB :=
  ⟨t - 16, now s, [], none, if dictsLent s < s.build.dictionaries then some [] else none, 0, false, false, false, decide (freeBufs s ≤ 16)⟩

/-- How an event goes into a frame: as an item of the dictionary's index, of a new key, or as EVTX (R211). -/
def dictIndex (f : FrameB) (key : U64) : Option Nat :=
  match f.dict with
  | none => none
  | some d => match d.findIdx? fun e => e.1 == key with
    | some i => some i
    | none => if d.length < 255 then some d.length else none

/-- One event into a frame, where it fits. -/
def addEvent (f : FrameB) (c : CtxSt) (t unit : Nat) (word : U64) (sampled : Bool) : Option FrameB :=
  let key := evtKey unit word
  let pay := BitVec.setWidth 32 word
  match f.dict, dictIndex f key with
  | some d, some i =>
    let isNew := i == d.length
    let last := match d[i]? with | some e => e.2 | none => 0
    let d' := if isNew then d ++ [(key, pay)] else d.set i (key, pay)
    let idx := if isNew then none else some i
    let cont := match f.evt with | some e => e.sampled == sampled && decide (e.n < 65535) | none => false
    let f0 := if cont then f else endEvt f
    let e := match f0.evt with
      | some e => e
      | none => ⟨t, sampled, t, 0, [], decide (t < c.highest)⟩
    let e' := { e with items := e.items ++ evtItem idx key last pay f.base e.prev t, prev := t, n := e.n + 1 }
    let f' := { f0 with evt := some e', dict := some d' }
    if bodyLen f' ≤ 4040 then some f' else none
  | _, _ =>
    let f0 := endEvt f
    let f' := { f0 with
      body := f0.body ++ recBytes (.event unit word sampled) (t - f.base) (decide (t < c.highest)) false
      recs := f0.recs + 1 }
    if bodyLen f' ≤ 4040 then some f' else none

/-- One record other than an event into a frame, where it fits. -/
def addRecord (f : FrameB) (c : CtxSt) (r : Rec) : Option FrameB :=
  let f0 := endEvt f
  let late := !isCut r.body && !isDeferred r.body && decide (r.stamp < c.highest)
  let f' := { f0 with
    body := f0.body ++ recBytes r.body (r.stamp - f.base) late (isCut r.body)
    recs := f0.recs + 1
    cuts := f0.cuts || isCut r.body
    bound := f0.bound || (match r.body with | .watchData _ _ _ _ _ b _ _ => b | _ => false)
    clear := f0.clear || (match r.body with | .watchData _ _ _ _ z b _ _ => b && !z | _ => false) }
  if bodyLen f' ≤ 4040 then some f' else none

/-- A record into a frame, where its stamp and size fit. -/
def addTo (f : FrameB) (c : CtxSt) (r : Rec) : Option FrameB :=
  if !inWindow f r.stamp then none
  else match r.body with
    | .event unit word sampled => addEvent f c r.stamp unit word sampled
    | _ => addRecord f c r

/-! ## Digests (R217, R218) -/

def sumSha (acc : U256) (bs : List Byte) : U256 := acc + Config.sha256 bs

/-- The sums after a record is written to the context. -/
def digestRec (r : Rec) (c : CtxSt) : CtxSt :=
  let c := match r.body with
    | .mark _ _ 0 _ _ _ => { c with refStamp := r.stamp }
    | .gap .. => { c with lossy := true }
    | _ => c
  match laneOf r.body with
  | some (kind, unit, word, step) =>
    let o := smGet natD c.ordinals unit
    { c with
      content := sumSha c.content (laneBlock kind unit o word step 0)
      timing := sumSha c.timing (laneBlock kind unit o word step ((r.stamp + 2 ^ 64 - c.refStamp) % 2 ^ 64))
      ncanon := c.ncanon + 1
      ordinals := smPut natD c.ordinals unit (o + 1) }
  | none => match recCanon r.body with
    | some bs => { c with content := sumSha c.content bs, ncanon := c.ncanon + 1 }
    | none => c

/-- The highest stamp that R204 compares with. -/
def raiseHighest (r : Rec) (c : CtxSt) : CtxSt :=
  if isCut r.body || isDeferred r.body then c else { c with highest := max c.highest r.stamp }

/-! ## Closing a frame (R197, R198, R301, R290) -/

/-- The job's entry in the key store. -/
def jobOf (s : State) (p j : Nat) : Option JobKey := s.aon.keys.jobs.find? fun k => k.part == p && k.job == j

/-- Newest outbound generation of a job: number and key. -/
def outGen (s : State) (p j : Nat) : Option Gen := (jobOf s p j).bind fun k => k.outb.head?

/-- The outbound key of a generation that is still held. -/
def outKeyOf (s : State) (p j g : Nat) : Option (List Byte) :=
  (jobOf s p j).bind fun k => (k.outb.find? fun x => x.gen == g).map (·.key)

def hbSkip (p : Nat) (s : State) : State := bumpReg (aPrv + 0x40 + 4 * p) 8 8 1 s

/-- A closed frame of a context with EGR set asks for egress (R276, R301). -/
def frameToEgress (f : Frame) (s : State) : State :=
  if !s.build.egress then s
  else match outKeyOf s f.part f.job f.keygen with
    | some k =>
      if hasConsent s f.part 5 then
        let bytes := frameSeal k f
        if s.obs.fab.root then egrEnter f bytes s.aon.instId s else fabFrame f bytes s
      else egrSkipped s
    | none => egrSkipped s

/-- May a sealed copy go to the host bounce ring (R276, R288)? -/
def hostAllowed (s : State) (f : Frame) : Bool :=
  hasConsent s f.part 6 && (outKeyOf s f.part f.job f.keygen).isSome && !s.aon.alm.frozen

/-- The context's open frame is closed and queued (R198): with LAST, for a command that waits for it, or by the work of a
command that does not. -/
def closeFrame (x : Nat) (last : Bool) (waiter cause : Option (Nat × Nat)) (s : State) : State :=
  match ctxOf s x with
  | none => s
  | some c => match c.frame with
    | none => s
    | some fb =>
      let b := endEvt fb
      let gen := match outGen s c.part c.job with | some g => g.gen | none => 0
      let f : Frame := ⟨c.part, c.job, x, c.seq, gen, b.cuts, last, c.first, b.bound, b.recs, b.base,
        s.aon.instId, b.body, (partOf s c.part).region.isSome, c.host, waiter, cause, now s⟩
      let s := setCtx x (some { c with
        frame := none, first := false, seq := (c.seq + 1) % 2 ^ 32
        framesSinceArm := sat (2 ^ 32 - 1) (c.framesSinceArm + 1) }) s
      let s := if b.clear then (if c.egr || c.host then egrSkipped s else s)
        else if c.egr then frameToEgress f s else s
      let due := c.host && hostAllowed s f && !b.clear
      let s := if c.host && !due then hbSkip c.part s else s
      if f.regionDue || due then onSmp (fun m => { m with frames := m.frames ++ [{ f with hostDue := due }] }) s
      else s

/-! ## Placing records (R205, R214, R402) -/

/-- A record is written: its sums, its highest stamp, and the frame it closes. -/
def wrote (x : Nat) (r : Rec) (fb : FrameB) (s : State) : State :=
  let s := onCtx x (fun c => raiseHighest r (digestRec r { c with frame := some fb })) s
  match r.body with
  | .pause 0 =>
    match ctxOf s x with
    | some c => onCtx x (fun c => { c with pauseBy := none }) (closeFrame x false none c.pauseBy s)
    | none => s
  | .digest final .. =>
    match ctxOf s x with
    | some c => onCtx x (fun c => { c with waiters := c.waiters.drop 1 }) (closeFrame x final c.waiters.head? none s)
    | none => s
  | _ => s

/-- A DIGEST record carries the sums as they stand when it is written (R219). -/
def fillDigest (c : CtxSt) (r : Rec) : Rec :=
  match r.body with
  | .digest final _ _ _ _ _ =>
    { r with body := .digest final c.lossy c.notime c.ncanon c.content (if c.notime then 0 else c.timing) }
  | _ => r

/-- Is the open frame's room also for events: its buffer is not one of those held for control records? -/
def openTo (event : Bool) (s : State) (f : FrameB) : Bool := !event || !f.held || decide (16 ≤ freeBufs s)

/-- Write one record to a new frame; false where staging has no buffer for it: for an event, or the record that an
event brings with it, one beside the sixteen held for control records. -/
def writeNew (event : Bool) (x : Nat) (r : Rec) (s : State) : Bool × State :=
  if freeBufs s < (if event then 17 else 1) then (false, s)
  else match ctxOf s x with
    | none => (true, s)
    | some c => match addTo (newFrame s r.stamp) c r with
      | some fb => (true, wrote x r fb s)
      | none => (true, s)

/-- Write one record to the context: to its open frame, or, where it does not fit in that frame's body or window, to a
new one after the open frame's close (R198). -/
def writeRec (event : Bool) (x : Nat) (r0 : Rec) (s : State) : Bool × State :=
  match ctxOf s x with
  | none => (true, s)
  | some c =>
    let r := fillDigest c r0
    match c.frame with
    | none => writeNew event x r s
    | some f =>
      if !openTo event s f then (false, s)
      else match addTo f c r with
        | some fb => (true, wrote x r fb s)
        | none => writeNew event x r (closeFrame x false none none s)

/-- An event record that finds no room is counted in the WRITER gap (R214). -/
def dropEvent (x : Nat) (r : Rec) : State → State :=
  onCtx x fun c => { c with wgap := match c.wgap with
    | some g => some { g with count := g.count + 1 }
    | none => some ⟨r.stamp, 1⟩ }

/-- An open WRITER gap is written before the record that ends it. -/
def closeGap (event : Bool) (x : Nat) (t : Nat) (s : State) : Bool × State :=
  match (ctxOf s x).bind (·.wgap) with
  | none => (true, s)
  | some g =>
    let (done, s) := writeRec event x ⟨t, .gap false false 0xFFF 5 g.start g.count⟩ s
    (done, if done then onCtx x (fun c => { c with wgap := none }) s else s)

/-- Does the record end an open WRITER gap: an admitted event, or the context's PAUSE or DIGEST? -/
def endsGap (b : RecBody) : Bool :=
  isEvent b || (match b with | .pause _ => true | .digest .. => true | _ => false)

/-- The event records that have reached the compressor in this OBS cycle (R214). -/
def compIn (s : State) : Nat := if s.obs.smp.compAt = now s then s.obs.smp.compN else 0

/-- One more of them. -/
def compNote (s : State) : State :=
  let n := compIn s
  let t := now s
  onSmp (fun m => { m with compAt := t, compN := n + 1 }) s

/-- Place a record: an event without room, or beyond 32 in one OBS cycle, is dropped and counted; a control record
without room waits (false). -/
def placeRec (x : Nat) (r : Rec) (s : State) : Bool × State :=
  let ev := isEvent r.body
  let full := ev && decide (32 ≤ compIn s)
  let s := if ev then compNote s else s
  let (gap, s) := if full then (false, s) else if endsGap r.body then closeGap ev x r.stamp s else (true, s)
  let (done, s) := if gap then writeRec ev x r s else (false, s)
  if done then (true, s) else if ev then (true, dropEvent x r s) else (false, s)

/-- May a record stamped t be placed: the horizon has passed it, no burst buffer holds an event stamped before it, and
no freeze at or before it is pending (R84, R402)? -/
def placeable (s : State) (t : Nat) : Bool :=
  decide (t < writerHorizon s) && (servingColls s).all (fun c => (collOf s c).buf.all fun e => decide (t ≤ e.stamp)) &&
    (freezes s).all fun f => decide (t < f.t)

/-- The first of the hold whose stamp may be placed, deferred records apart. -/
def nextRec (s : State) (c : CtxSt) : Option Rec :=
  match c.hold.find? fun r => !isDeferred r.body with
  | some r => if placeable s r.stamp then some r else none
  | none => none

/-- A deferred record waits for no horizon (R205). -/
def nextDeferred (c : CtxSt) : Option Rec := c.hold.find? fun r => isDeferred r.body

def dropHold (x : Nat) (r : Rec) : State → State :=
  onCtx x fun c => { c with hold := delFirst (fun y => y == r) c.hold }

/-- While a control record waits for room, an event of its context that would be placed is dropped (R214). -/
def dropBehind (x : Nat) (s : State) : State :=
  match ctxOf s x with
  | none => s
  | some c => match c.hold.find? fun r => isEvent r.body && placeable s r.stamp with
    | some r => dropEvent x r (dropHold x r s)
    | none => s

/-- Place the next record of the hold in stamp order. -/
def placeOrdered (x : Nat) (s : State) : State :=
  match (ctxOf s x).bind (nextRec s) with
  | none => s
  | some r =>
    let (done, s) := placeRec x r s
    if done then dropHold x r s else dropBehind x s

/-- Place the next record of a resident context: a deferred one at once, or, where none waits or none finds room, the
next in order (R205, R402). -/
def placeNext (x : Nat) (s : State) : State :=
  match (ctxOf s x).bind nextDeferred with
  | none => placeOrdered x s
  | some r =>
    let (done, s) := placeRec x r s
    if done then dropHold x r s else placeOrdered x s

/-- A spilled context's entry is read before its record is placed (R243). -/
def readSpilled (x : Nat) (c : CtxSt) (s : State) : State :=
  if ((nextRec s c).isNone && (nextDeferred c).isNone) || s.obs.smp.rdOut.any (fun r => r.what == .ctxSpill x) then s
  else match issueRead (.ctxSpill x) c.part c.spillAddr 1 s with
    | some t => t
    | none => s

/-- `FRAME_AGE_TIMEOUT`: 2^20 GT after its first record entered staging the frame is closed (R198). -/
def opFrameAge (x : Nat) (s : State) : State :=
  match ctxOf s x with
  | none => s
  | some c => match c.frame with
    | none => s
    | some f => if now s ≥ f.entered + 2 ^ 20 then closeFrame x false none none s else s

end Sys2Proof.Machine
end

