-- ==== Sys2Proof/Machine/Watches.lean ====
section
/-! DEFINITION. Tensor watches and dumps (chapter 7): matching, capture, the walk through translation, DATA and END
records, and the commands of the translation port. -/

namespace Sys2Proof.Machine

/-! ## The attribution table (R59, R60) -/

/-- A valid attribution entry: partition, layer, operator, role, and the word; none where the site is unattributed. -/
def attrOf (s : State) (site : Nat) : Option U64 :=
  let e := smGet u64D s.obs.hed.attr site
  if site < s.build.attrEntries ∧ site ≠ 0xFFFFF ∧ bit e 0 then some e else none

def attrPart (e : U64) : Nat := fld e 58 6
def attrLayer (e : U64) : Nat := fld e 42 16
def attrOper (e : U64) : Nat := fld e 26 16
def attrRole (e : U64) : Nat := fld e 22 4

/-- Has the site's entry BOUND set (R155)? -/
def siteBound (s : State) (site : Nat) : Bool :=
  match attrOf s site with | some e => bit e 1 | none => false

/-! ## Dumps -/

def onDump (id : Nat) (f : Dump → Dump) : State → State :=
  onWat fun w => { w with dumps := modFirst (fun d => d.id == id) f w.dumps }

def dumpOf (s : State) (id : Nat) : Option Dump := s.obs.wat.dumps.find? fun d => d.id == id

/-- Bytes of the watch buffer in use: captured bytes, and room kept for outstanding reads (R152, R153). -/
def bufUsed (s : State) : Nat :=
  s.obs.wat.dumps.foldl (fun acc d => d.runs.foldl (fun a r => a + r.bytes.length) acc) 0
    + s.obs.smp.rdOut.foldl (fun acc r => match r.what with | .watch _ _ n => acc + n | _ => acc) 0

def bufRoom (s : State) : Nat := s.build.watchBuf - bufUsed s

/-- The watch's dump ends: END record, WATCH_END item, and the watch disarms itself at its last dump, but not at one that
lost its consent (R149, R156, R157). -/
def finishDump (d : Dump) (stamp : Nat) (s : State) : State :=
  let r : Rec := ⟨stamp, .watchEnd d.watch d.seq d.status d.irreg (d.source == 0) d.faults d.bytesOut⟩
  let s := giveRec d.ctx r s
  let s := onWat (fun w => { w with
    dumps := delFirst (fun x => x.id == d.id) w.dumps
    xlt := w.xlt.map fun x => if x.dump = d.id then { x with dead := true } else x }) s
  let s := push 0 (mkItem 0x42 d.part d.watch (BitVec.ofNat 32 d.status) stamp) s
  match watchOf s d.watch with
  | none => s
  | some w =>
    let n := w.completed + 1
    if w.no ≠ d.no then s
    else if w.ndumps ≠ 0 ∧ n ≥ w.ndumps ∧ !w.disarming ∧ d.status ≠ 4 then setWatch d.watch none s
    else setWatch d.watch (some { w with completed := n }) s

/-- A dump is ended by another act (R157): nothing more is written but its END record. -/
def endDump (id status stamp : Nat) (s : State) : State :=
  match dumpOf s id with
  | some d => finishDump { d with status := status } (min stamp (d.lastAt.getD stamp)) s
  | none => s

/-- Every dump that meets `p` is ended. -/
def endDumps (p : Dump → Bool) (status stamp : Nat) (s : State) : State :=
  (s.obs.wat.dumps.filter p).foldl (fun acc d => endDump d.id status stamp acc) s

/-- Status with which an ended dump closes: TRUNCATED before FAULTED (R157). -/
def dumpStatus (d : Dump) : Nat := if d.truncated then 1 else if d.faults > 0 then 2 else 0

/-! ## The walk (R153, R368) -/

/-- A translation is requested under the lowest free tag. -/
def askXlt (d : Dump) (off stop : Nat) (s : State) : Option State :=
  match lowestFree 64 (s.obs.wat.xlt.map (·.tag)) with
  | none => none
  | some t => some (onWat (fun x => { x with
      xlt := x.xlt ++ [⟨t, d.id, off, stop, d.va + off, d.asid, now s, false⟩] }) s)

/-- The next translation point after an offset where no range is known: the page's end, or the next 4 KiB. -/
def nextPoint (d : Dump) (off : Nat) : Nat :=
  min d.expect (if d.pageBytes = 0 then off + (4096 - (d.va + off) % 4096) else (off / d.pageBytes + 1) * d.pageBytes)

/-- Is a translation of the dump outstanding? -/
def xltBusy (s : State) (id : Nat) : Bool := s.obs.wat.xlt.any fun x => x.dump == id && !x.dead

/-- Issue translations: page by page for a KV range, one at a time otherwise. -/
def walkXlt (fuel id : Nat) (s : State) : State :=
  match fuel, dumpOf s id with
  | 0, _ => s
  | _, none => s
  | n + 1, some d => match d.more with
    | (off, stop) :: rest =>
      (match askXlt d off stop s with
      | some t => walkXlt n id (onDump id (fun d => { d with more := rest }) t)
      | none => s)
    | [] =>
      if d.next < d.expect ∧ (d.pageBytes ≠ 0 ∨ (!xltBusy s id ∧ d.todo.isEmpty)) then
        match askXlt d d.next (nextPoint d d.next) s with
        | some t => walkXlt n id (onDump id (fun e => { e with next := nextPoint d d.next }) t)
        | none => s
      else s

/-- Bytes of the dump's reads that are outstanding. -/
def readsOut (s : State) (id : Nat) : Nat :=
  s.obs.smp.rdOut.foldl (fun acc r => match r.what with | .watch i _ n => if i = id then acc + n else acc | _ => acc) 0

/-- Bytes that may still be read of a dump before its section bytes reach MAXLEN (R152). -/
def readRoom (s : State) (d : Dump) (n : Nat) : Nat := if d.limit = 0 then n else min n (d.limit - (d.got0 + readsOut s d.id))

/-- Issue reads of translated ranges while the watch buffer has room; a read stays within 4 KiB (R365). -/
def walkReads (fuel id : Nat) (s : State) : State :=
  match fuel, dumpOf s id with
  | 0, _ => s
  | _, none => s
  | n + 1, some d => match d.todo with
    | [] => s
    | (off, io, len) :: rest =>
      let k := readRoom s d (min len (4096 - io % 4096))
      if k = 0 ∨ bufRoom s < k then s
      else match issueRead (.watch id off k) d.part io (ceilDiv k 64) s with
        | none => s
        | some t => walkReads n id (onDump id (fun e => { e with
            todo := if k = len then rest else (off + k, io + k, len - k) :: rest }) t)

/-- Nothing of the walk is outstanding or still to be asked. -/
def walkDone (s : State) (d : Dump) : Bool :=
  decide (d.expect ≤ d.next) && d.more.isEmpty && d.todo.isEmpty && !xltBusy s d.id &&
  s.obs.smp.rdOut.all fun r => match r.what with | .watch i _ _ => i != d.id | _ => true

/-- The lowest offset still to come. -/
def walkFrom (s : State) (d : Dump) : Nat :=
  let xs := d.more.map (·.1) ++ d.todo.map (·.1)
    ++ ((s.obs.wat.xlt.filter fun x => x.dump == d.id && !x.dead).map (·.offset))
    ++ s.obs.smp.rdOut.filterMap fun r => match r.what with | .watch i o _ => if i = d.id then some o else none | _ => none
  xs.foldl min d.next

/-- The walk stops: what it has not read is left, and its translations are answered in vain. -/
def walkStop (d : Dump) (s : State) : State :=
  let left := !walkDone s d
  onWat (fun w => { w with
    xlt := w.xlt.map fun x => if x.dump = d.id then { x with dead := true } else x
    dumps := modFirst (fun x => x.id == d.id) (fun d => { d with
      next := d.expect, more := [], todo := [], ended := true, truncated := d.truncated || left }) w.dumps }) s

/-- The walk goes on; it ends when nothing is left, or when its section bytes reach MAXLEN (R152, R153). -/
def walk (id : Nat) (s : State) : State :=
  let s := walkReads 64 id (walkXlt 64 id s)
  match dumpOf s id with
  | some d =>
    if d.source = 0 ∨ d.ended then s
    else if d.limit ≠ 0 ∧ d.limit ≤ d.got0 then walkStop d s
    else if walkDone s d then onDump id (fun d => { d with ended := true }) s else s
  | none => s

/-- Tags and room that came free let the walks go on, in the order in which their dumps began (R153). -/
def walkAll (s : State) : State :=
  (s.obs.wat.dumps.filter fun d => d.source != 0 && !d.ended).foldl (fun acc d => walk d.id acc) s

/-! ## Captured bytes -/

/-- Bytes join the run they follow, runs in rising offset. -/
def joinRun (sect off : Nat) (bytes : List Byte) : List Run → List Run
  | [] => [⟨sect, off, bytes⟩]
  | r :: rs =>
    if r.sect = sect ∧ r.offset + r.bytes.length = off then { r with bytes := r.bytes ++ bytes } :: rs
    else if sect < r.sect ∨ (sect = r.sect ∧ off < r.offset) then ⟨sect, off, bytes⟩ :: r :: rs
    else r :: joinRun sect off bytes rs

/-- Bytes of one section enter the watch buffer, as far as it has room and MAXLEN allows (R152). -/
def capture (id sect : Nat) (bytes : List Byte) (s : State) : State :=
  match dumpOf s id with
  | none => s
  | some d =>
    let got := d.got0 + d.got1
    let n := if d.limit = 0 then bytes.length else min bytes.length (d.limit - got)
    if d.ended || d.truncated || bytes.isEmpty then s
    else if bufRoom s < bytes.length ∨ n = 0 then
      onDump id (fun d => { d with truncated := true, ended := true }) s
    else onDump id (fun d => { d with
      runs := joinRun sect (if sect = 0 then d.got0 else d.got1) (bytes.take n) d.runs
      got0 := if sect = 0 then d.got0 + n else d.got0
      got1 := if sect = 0 then d.got1 else d.got1 + n
      truncated := decide (n < bytes.length), ended := decide (n < bytes.length) }) s

/-! ## DATA and END records (R156, R284) -/

/-- Plain bytes a DATA record carries at most. -/
def dataMax (d : Dump) : Nat := if d.sealed then 3940 else 3968

/-- A sealed payload under the device-set key; its counter advances (R284). -/
def sealPayload (s : State) (d : Dump) (hdr plain : List Byte) : Option (List Byte × DevSet) :=
  match smGet noneD s.aon.keys.devset d.part with
  | some k =>
    if k.ctr < 2 ^ 48 - 1 then
      let nonce := k.salt ++ le 1 s.aon.instId ++ [0] ++ le 6 k.ctr
      some (nonce ++ Config.gcmSeal k.key nonce hdr plain, { k with ctr := k.ctr + 1 })
    else none
  | none => none

/-- The writer takes one DATA record of the dump, or its END record; nothing where neither is due. -/
def takeData (id : Nat) (s : State) : State :=
  match dumpOf s id with
  | none => s
  | some d =>
    let t := engGt s
    match d.runs with
    | [] => if d.ended then finishDump { d with status := dumpStatus d } (d.lastAt.getD t) s else s
    | r :: rs =>
      let whole := d.ended || (d.source != 0 && decide (r.offset + r.bytes.length < walkFrom s d)) || !rs.isEmpty
      if (d.source ≠ 0 ∧ walkFrom s d < r.offset) ∨ (r.bytes.length < dataMax d ∧ !whole) then s
      else
        let n := min r.bytes.length (dataMax d)
        let plain := r.bytes.take n
        let rest := if n = r.bytes.length then rs else { r with offset := r.offset + n, bytes := r.bytes.drop n } :: rs
        let pay : Option (List Byte × State) :=
          if d.sealed then
            let hdr := le 1 (1 + d.watch * 4) ++ [0] ++ le 2 d.seq ++ le 4 r.offset
              ++ le 2 ((n + 28) % 4096 + r.sect * 2 ^ 12) ++ zeros 6
            match sealPayload s d hdr plain with
            | some (bs, k) => some (bs, onKeys (fun q => { q with devset := smPut noneD q.devset d.part (some k) }) s)
            | none => none
          else some (plain, s)
        match pay with
        | none => endDump id 3 t s
        | some (bs, s) =>
          let s := offerRec d.ctx
            ⟨t, .watchData d.watch d.seq r.sect r.offset d.sealed d.bound (d.source == 0) bs⟩ s
          let s := onDump id (fun d => { d with runs := rest, bytesOut := d.bytesOut + n, lastAt := some t }) s
          let s := walkAll s
          match dumpOf s id with
          | some d => if d.ended && d.runs.isEmpty then finishDump { d with status := dumpStatus d } t s else s
          | none => s

/-! ## Matches (R149, R150) -/

/-- A match starts a dump, a second one where one is in progress, or is missed (R150). -/
def startDump (wid stamp site role layer oper step fmt scale tap : Nat) (s : State) : State :=
  match watchOf s wid with
  | none => s
  | some w =>
    let okCtx := match ctxOf s w.ctx with | some c => ctxArmed c && c.closing.isNone | none => false
    if s.obs.wat.dumps.length ≥ 16 ∨ !okCtx ∨ !hasConsent s w.part 3 then
      setWatch wid (some { w with missed := sat 255 (w.missed + 1) }) s
    else
      let expect := if w.source = 0 then 0 else if w.kv then w.len * w.tokenUnits * 64 else w.len * 64
      let bound := siteBound s site
      let id := s.obs.wat.nextDump
      let seq := w.started % 2 ^ 16
      let d : Dump := { (default : Dump) with
        id := id, watch := wid, no := w.no, va := w.va, asid := w.asid, part := w.part, ctx := w.ctx, seq := seq, source := w.source, tap := tap
        bound := bound, sealed := w.devseal, scale := scale, fmt := fmt, expect := expect
        pageBytes := if w.kv then (if w.psz then 256 else 16) * w.tokenUnits * 64 else 0
        limit := w.maxLen * 64 }
      let s := setWatch wid (some { w with started := w.started + 1 }) s
      let s := onWat (fun x => { x with dumps := x.dumps ++ [d], nextDump := x.nextDump + 1 }) s
      let s := offerRec w.ctx ⟨stamp, .watchHead wid seq site role fmt scale w.source w.kv w.psz bound w.devseal
        w.tokenUnits layer oper step (if w.source = 0 then 0 else w.va) expect⟩ s
      if w.source = 0 then s else walk id s

/-- Armed watches in ID order that meet `f`. -/
def matching (s : State) (f : Watch → Bool) : List Nat :=
  (List.range 64).filter fun k => match watchOf s k with | some w => f w | none => false

def placeMatch (w : Watch) (layer oper step : Nat) : Bool :=
  (w.layerAny || w.layer == layer) && (w.operAny || w.oper == oper)
    && decide (w.stepFirst ≤ step) && decide (step ≤ w.stepLast)

/-- An operator-end MARKER of a partition that reached its collector once the watch was armed (SOURCE 1). -/
def matchMarker (part layer oper step stamp reached : Nat) (s : State) : State :=
  (matching s fun w => w.source == 1 && w.part == part && decide (w.armedAt ≤ reached) && placeMatch w layer oper step).foldl
    (fun acc k => match watchOf s k with
      | some w => startDump k stamp w.site (match attrOf s w.site with | some e => attrRole e | none => 0)
          layer oper step 0 0 0 acc
      | none => acc) s

/-- An attributed tap stream that opens (SOURCE 0); one of the escape format matches no watch, for no record carries
code 15 (Table 0.3; DESIGN CHOICE, log entry 84). -/
def matchStream (st : Stream) (stamp tap : Nat) (s : State) : State :=
  if !st.attributed || st.fmt % 16 == 15 then s
  else (matching s fun w => w.source == 0 && w.part == st.part && w.roleMask.testBit st.role
      && placeMatch w st.layer st.oper st.step).foldl
    (fun acc k => startDump k stamp st.site st.role st.layer st.oper st.step st.fmt st.scale tap acc) s

/-! ## The translation port (R368) -/

/-- The range of a translation is left unread and counted (R153). -/
def xltFault (x : Xlt) (s : State) : State :=
  walkAll (onDump x.dump (fun d => { d with faults := d.faults + 1 }) s)

def opXltResponse (tag ioa l : Nat) (fault : Bool) (s : State) : State :=
  match s.obs.wat.xlt.find? fun x => x.tag == tag with
  | none => s
  | some x =>
    let s := onWat (fun w => { w with xlt := delFirst (fun y => y.tag == tag) w.xlt }) s
    if x.dead then walkAll s
    else if fault || decide (l < 12) || decide (30 < l) then xltFault x s
    else match dumpOf s x.dump with
      | none => walkAll s
      | some d =>
        let rangeEnd := x.offset + (2 ^ l - x.va % 2 ^ l)
        let stop := min d.expect (if d.pageBytes = 0 then rangeEnd else min rangeEnd x.stop)
        let s := onDump x.dump (fun d => { d with
          todo := d.todo ++ [(x.offset, ioa, stop - x.offset)]
          next := if d.pageBytes = 0 then max d.next stop else d.next
          more := if d.pageBytes ≠ 0 ∧ stop < x.stop then d.more ++ [(stop, x.stop)] else d.more }) s
        walkAll s

def execXltResponse (tag ioa log2sz : Nat) (fault : Bool) : State → Answer :=
  run (inObs (opXltResponse tag ioa log2sz fault))

def opXltTimeout (tag : Nat) (s : State) : State :=
  match s.obs.wat.xlt.find? fun x => x.tag == tag with
  | none => s
  | some x =>
    if x.dead || decide (now s < x.since + 1600000) then s
    else xltFault x (onWat (fun w => { w with
      xlt := modFirst (fun y => y.tag == tag) (fun y => { y with dead := true }) w.xlt }) s)

def execXltTimeout (tag : Nat) : State → Answer := run (inObs (opXltTimeout tag))

/-- Read data of a walk: bytes of the tensor, or a range left unread where the read failed. -/
def watchData (id off len : Nat) (data : List U64) (err : Bool) (s : State) : State :=
  match dumpOf s id with
  | none => s
  | some d =>
    if d.ended then s
    else if err then onDump id (fun d => { d with faults := d.faults + 1 }) s
    else onDump id (fun d => { d with
      got0 := d.got0 + len, runs := joinRun 0 off (bytesAt (toBytes data) 0 len) d.runs }) s

/-- A consent change that clears WATCH ends the partition's dumps (R157). -/
def watchConsentLost (p : Nat) (s : State) : State := endDumps (fun d => d.part == p) 4 (engGt s) s

/-- The context's next DATA record is taken while staging has room (R152, R156). -/
def takeFor (x : Nat) (s : State) : State :=
  match s.obs.wat.dumps.find? fun d => d.ctx == x && (!d.runs.isEmpty || d.ended) with
  | some d => if freeBufs s ≥ 17 then takeData d.id s else s
  | none => s

/-- `RECORD_PLACED` (R402). -/
def opRecordPlaced (x : Nat) (s : State) : State :=
  match ctxOf s x with
  | none => s
  | some c =>
    if (nextRec s c).isNone && (nextDeferred c).isNone then takeFor x s
    else if c.resident then placeNext x s
    else readSpilled x c s

end Sys2Proof.Machine
end

