-- ==== Sys2Proof/Machine/Keys.lean ====
section
/-! DEFINITION. The key store's generations (R279 to R283), consent in force (R275), and the commands on them. -/

namespace Sys2Proof.Machine

/-! ## Generations (R282, R283) -/

def onJob (p j : Nat) (f : JobKey → JobKey) : State → State :=
  onKeys fun k => { k with jobs := modFirst (fun x => x.part == p && x.job == j) f k.jobs }

/-- Live generations of a direction: 0 outbound, 1 inbound. -/
def gensOf (k : JobKey) (dir : Nat) : List Gen := if dir = 0 then k.outb else k.inb

def setGens (dir : Nat) (g : List Gen) (k : JobKey) : JobKey :=
  if dir = 0 then { k with outb := g } else { k with inb := g }

/-- A tombstone (Table 12.4). -/
def tombstone (s : State) (f : Frame) (cause : Nat) : List U64 :=
  let b := le 2 0x5754 ++ [1] ++ le 1 f.part ++ le 1 f.job ++ le 1 cause ++ zeros 2 ++ le 4 f.ctx ++ le 4 f.seq
    ++ le 8 (now s) ++ zeros 36
  toWords (b ++ le 4 (crc32c b))

/-- Base of the host bounce ring, as taken when the ring was sized (R384). -/
def hbBase (s : State) (p : Nat) : Nat := (partOf s p).host.ptAddr

/-- Is the frame's host write outstanding? -/
def hostOut (s : State) (f : Frame) : Bool :=
  s.obs.smp.wrOut.any fun w => match w.what with | .host g => g.ctx == f.ctx && g.seq == f.seq | _ => false

/-- Frames that meet `p` and have not been handed to the host bounce ring are no longer sent there; each counts in
HB_SKIP, and one with no other copy due leaves staging. -/
def stopHost (p : Frame → Bool) (s : State) : State :=
  let stop := fun (f : Frame) => p f && f.hostDue && !hostOut s f
  let s := (s.obs.smp.frames.filter stop).foldl (fun acc f => hbSkip f.part acc) s
  let fs := s.obs.smp.frames.map fun f => if stop f then { f with hostDue := false } else f
  onSmp (fun m => { m with frames := fs.filter fun f => f.regionDue || f.hostDue }) s

/-- Frames sealed under an erased generation: lost on egress, and tombstoned in the host bounce ring, each counted in
DRAIN_DROP (R270, R282). -/
def dropUnder (by_ : Option (Nat × Nat)) (p j gen : Nat) (s : State) : State :=
  let s := loseSlots (fun x => x.frame.part == p && x.frame.job == j && x.frame.keygen == gen
    && x.origin == s.aon.instId) 4 s
  let gone := (partOf s p).hostSlots.filter fun x => x.2.job == j && x.2.keygen == gen
  let s := gone.foldl (fun acc x =>
    writeNow ⟨0, 1, p, .tomb by_, hbBase acc p + 4096 * x.1, tombstone acc x.2 2⟩ acc) s
  let s := onPart p (fun t => { t with
    hostSlots := t.hostSlots.filter fun x => !(x.2.job == j && x.2.keygen == gen) }) s
  bumpReg aPrv 8 8 gone.length (stopHost (fun f => f.part == p && f.job == j && f.keygen == gen) s)

/-- A generation is erased; a KEY_ROTATED item follows (R282). A `KEY_ROTATE` that waits learns how it ended. -/
def eraseOlder (by_ : Option (Nat × Nat)) (p j dir : Nat) (clean : Bool) (s : State) : State :=
  match jobOf s p j with
  | none => s
  | some k => match gensOf k dir with
    | newest :: old :: _ =>
      let s := onJob p j (setGens dir [newest]) s
      let s := if !clean && dir = 0 then dropUnder by_ p j old.gen s else s
      let s := push 1 (mkItem 0x23 p j (BitVec.ofNat 32 newest.gen) (engGt s)) s
      onCmd (fun c => { c with rings := c.rings.map fun e => (e.1, { e.2 with parked := e.2.parked.map fun h =>
        match h.stage with
        | .rotate g st cl =>
          if fld (h.d.w.getD 0 0) 16 6 = p ∧ fld (h.d.w.getD 3 0) 0 8 = j ∧ fld (h.d.w.getD 3 0) 8 1 = dir ∧ st = 2 then
            { h with stage := .rotate g st (cl && clean) } else h
        | _ => h }) }) s
    | _ => s

/-- Is a frame sealed under this generation still unacknowledged or unread (R282)? -/
def genInUse (s : State) (p j gen : Nat) : Bool :=
  let here := fun (f : Frame) => f.part == p && f.job == j && f.keygen == gen
  (s.obs.egr.slots.any fun x => here x.frame && x.origin == s.aon.instId)
  || s.obs.fab.sent.any here
  || ((partOf s p).hostSlots.any fun x => here x.2)
  || (s.obs.smp.frames.any fun f => here f && f.hostDue)
  || (s.obs.smp.wrOut.any fun w => match w.what with | .host f => here f | _ => false)

/-- Previous outbound generations whose frames have all been acknowledged and read are erased. -/
def sweepGens (s : State) : State :=
  s.aon.keys.jobs.foldl (fun acc k => match k.outb with
    | _ :: old :: _ => if genInUse acc k.part k.job old.gen then acc else eraseOlder none k.part k.job 0 true acc
    | _ => acc) s

/-- The contexts of a job. -/
def jobCtxs (s : State) (p j : Nat) : List Nat :=
  (ctxIds s).filter fun x => match ctxOf s x with | some c => c.part == p && c.job == j | none => false

/-- A direction advances by one generation (R282), by the work of a command or without one. -/
def advanceGen (by_ : Option (Nat × Nat)) (p j dir : Nat) (s : State) : State :=
  match jobOf s p j with
  | none => s
  | some k => match gensOf k dir with
    | [] => s
    | cur :: _ =>
      let s := eraseOlder by_ p j dir false s
      let s := if dir = 0 then (jobCtxs s p j).foldl (fun a x => closeFrame x false none by_ a) s else s
      let g := (cur.gen + 1) % 4
      let info := "WRN1-ROT".toUTF8.toList.map (fun c => BitVec.ofNat 8 c.toNat) ++ le 1 j ++ le 1 dir ++ le 1 g
      let new : Gen := ⟨g, Config.hkdf cur.key [] info 32, engGt s, []⟩
      let s := onJob p j (fun k => setGens dir (new :: gensOf k dir) k) s
      let s := (jobCtxs s p j).foldl (fun a x => match ctxOf a x with
        | some c => offerRec x ⟨engGt a, .keygen j dir g (if dir = 0 then c.seq else 0)⟩ a
        | none => a) s
      sweepGens s

/-- The first authenticated inbound message under the newest generation ends the previous one (R283). -/
def inboundSeen (p j gen : Nat) (s : State) : State :=
  match jobOf s p j with
  | some k => match k.inb with
    | newest :: _ :: _ => if newest.gen = gen then eraseOlder none p j 1 true s else s
    | _ => s
  | none => s

/-- Is the context armed anew or restored, its SEQ set and not passed on? -/
def armedAnew (b c : CtxSt) : Bool := c.state == .armed && (b.state == .opened || b.state == .saved)

/-- A context's SEQ passed from 0xFFFF_FFFF to 0: an implicit advance (R282). -/
def seqWrapped (before : State) (s : State) : State :=
  (ctxIds s).foldl (fun acc x => match ctxOf before x, ctxOf s x with
    | some b, some c =>
      if c.seq < b.seq ∧ b.seq = 2 ^ 32 - 1 ∧ armedAnew b c = false then advanceGen none c.part c.job 0 acc else acc
    | _, _ => acc) s

/-- A command that may close frames, with the implicit advance at a wrap of SEQ. -/
def inWriter (f : State → State) : State → State := inObs fun s => seqWrapped s (f s)

def execRecordPlaced (ctx : Nat) : State → Answer := run (inWriter (opRecordPlaced ctx))

def execFrameAgeTimeout (ctx : Nat) : State → Answer := run (inWriter (opFrameAge ctx))

/-- `ROTATION_TIMEOUT` (R282). -/
def opRotationTimeout (p j dir : Nat) (s : State) : State :=
  match jobOf s p j with
  | none => s
  | some k => match gensOf k dir with
    | newest :: _ :: _ =>
      if now s ≥ newest.since + 2 ^ fld (reg s aPrv) 0 6 then eraseOlder none p j dir false s else s
    | _ => s

def execRotationTimeout (p job dir : Nat) : State → Answer := run (inObs (opRotationTimeout p job dir))

/-! ## Consent in force (R275) -/

/-- Contexts of a partition that has lost TIMING (R219). -/
def loseTiming (p : Nat) (s : State) : State :=
  let f := fun (c : CtxSt) => if c.part = p ∧ c.state ≠ .opened then { c with notime := true } else c
  (ctxIds s).foldl (fun acc x => onCtx x f acc) s

/-- New consent bits in force from the engine's copy on. -/
def setConsent (p bits : Nat) (s : State) : State :=
  let old := (partOf s p).consent
  let t := engGt s
  let s := onPart p (fun q => { q with consent := bits, consentLog := q.consentLog ++ [(t, old)] }) s
  let s := if bits.testBit 7 then s else loseTiming p s
  let s := if old.testBit 6 && !bits.testBit 6 then stopHost (fun f => f.part == p) s else s
  if old.testBit 3 && !bits.testBit 3 then watchConsentLost p s else s

/-- Every key of a partition is erased (R269). -/
def eraseKeys (p : Nat) (s : State) : State :=
  onKeys (fun k => { k with
    tenant := smPut noneD k.tenant p none, devset := smPut noneD k.devset p none
    jobs := k.jobs.filter fun j => j.part != p }) s

/-- `DEVICE_KEY_DERIVED`: step 3 of the start-up sequence (R279, R330). -/
def opDeviceKey (s : State) : State :=
  let p := s.aon.pwr
  if !p.aonRstN || !p.fusesRead || p.keysDone then s
  else
    let secret := (List.range 8).flatMap fun i => le 4 (fuse s (16 + i)).toNat
    let s := if s.build.crypto && !s.aon.alm.zeroizing && !s.aon.alm.zeroized then
      onKeys (fun k => { k with device := some (Config.deviceScalar secret) }) s else s
    onPwr (fun p => { p with keysDone := true }) s

def execDeviceKeyDerived : State → Answer := run opDeviceKey

end Sys2Proof.Machine
end

