-- ==== Sys2Proof/Machine/Alarm.lean ====
section
/-! DEFINITION. Blackthorn (R287, R288): registering a cause and its actions, and the commands of its detectors. -/

namespace Sys2Proof.Machine

/-- Every partition's consent bits are cleared (R288). -/
def clearConsent (s : State) : State :=
  (List.range (npart s.build)).foldl (fun acc p => setConsent p 0 acc) s

/-- ZEROIZE: the whole key store is erased, consent is cleared, egress is closed (R288). Without crypto it only
clears consent (R279); under `RST_N` that is the partition table of `RST_N` without partition 0's consent. -/
def zeroize (s : State) : State :=
  let s := onAlm (fun m => { m with zeroizing := !m.zeroized }) s
  let s := if s.build.crypto then onKeys (fun _ => default) s else s
  let s := if s.aon.pwr.rstN then clearConsent s else onPrv (fun v => { v with parts := [] }) s
  egrDown 8 s

/-- Every armed context receives an ALARM record, with ARG zero outside partition 0. -/
def alarmRecord (c action : Nat) (arg : U32) (g : Nat) (s : State) : State :=
  offerWhere (fun _ => true) (fun x => ⟨g, .alarm c action (if x.part = 0 then arg else 0)⟩) s

/-- A Blackthorn cause registers at GT g with its ARG (R287, R288). -/
def alarm (c : Nat) (arg : U32) (g : Nat) (s : State) : State :=
  let a := almAct s c
  let s := orReg aAlm (BitVec.ofNat 32 (2 ^ c)) (onAlm (fun m => { m with alarms := sat 255 (m.alarms + 1) }) s)
  let s := push 0 (mkItem 0x20 0 c (BitVec.ofNat 32 a) g) s
  let s := alarmRecord c a arg g s
  if a = 0 then s
  else
    let s := trigger g 4 0 s
    let s := if s.aon.pwr.rstN then onAlm (fun m => { m with frozen := true }) s else s
    let s := if s.aon.pwr.rstN then
      withholdEgress (stopHost (fun _ => true) s) else s
    let s := wake 5 s
    if a = 2 then zeroize s else s

/-- `TAMPER_REGISTER`: lines high on two successive edges register once for each high level (R287). -/
def opTamper (lines : Nat) (s : State) : State :=
  if !s.aon.pwr.aonRstN then s
  else
    let new := maskOf ((maskBits 4 lines).filter fun i => !s.aon.alm.tamperHeld.testBit i)
    if new = 0 then s
    else alarm 0 (BitVec.ofNat 32 new) s.aon.tb.rootGt (onAlm (fun m => { m with
      tamperHeld := m.tamperHeld ||| new, tamperSeen := m.tamperSeen ||| new }) s)

def execTamperRegister (lines : Nat) : State → Answer := run (opTamper lines)

/-- `TAMPER_IN_RELEASE`: a line low on two successive edges may register again. -/
def opTamperRelease (line : Nat) (s : State) : State :=
  if !s.aon.pwr.aonRstN then s
  else onAlm (fun m => { m with
    tamperHeld := maskOf ((maskBits 4 m.tamperHeld).filter fun i => i != line) }) s

def execTamperInRelease (line : Nat) : State → Answer := run (opTamperRelease line)

/-- `GLITCH_DETECT`: registers once per detection. -/
def opGlitch (voltage clock : Bool) (s : State) : State :=
  if !s.aon.pwr.aonRstN || s.aon.alm.glitchHeld || !(voltage || clock) then s
  else alarm 1 (BitVec.ofNat 32 (b2n voltage + 2 * b2n clock)) s.aon.tb.rootGt
    (onAlm (fun m => { m with glitchHeld := true }) s)

def execGlitchDetect (voltage clock : Bool) : State → Answer := run (opGlitch voltage clock)

/-- `GLITCH_DETECTOR_CLEAR`: the detector reports no glitch at an AON edge. -/
def opGlitchClear (s : State) : State :=
  if !s.aon.pwr.aonRstN then s else onAlm (fun m => { m with glitchHeld := false }) s

def execGlitchDetectorClear : State → Answer := run opGlitchClear

/-- `ZEROIZE_COMPLETE`: `ZEROIZE_DONE` rises and stays high until `AON_RST_N` (R288). -/
def opZeroizeComplete (s : State) : State :=
  if s.aon.alm.zeroizing then onAlm (fun m => { m with zeroizing := false, zeroized := true }) s else s

def execZeroizeComplete : State → Answer := run opZeroizeComplete

/-- Consent violations of a partition (R277): the count, its item, and its alarm at VIOL_LIM. -/
def violation (p r opcode : Nat) (s : State) : State :=
  let s := onPart p (fun q => { q with viol := sat 255 (q.viol + 1) }) s
  let s := push 1 (mkItem 0x21 p r (BitVec.ofNat 32 opcode) (engGt s)) s
  let q := partOf s p
  if q.viol ≥ fld (reg s (aAlm + 8)) 0 8 ∧ !q.violReg then
    alarm 4 (BitVec.ofNat 32 (p + q.viol * 256)) (engGt s) (onPart p (fun q => { q with violReg := true }) s)
  else s

/-- Fence attempts of a partition (R277). -/
def fenceAttempt (p : Nat) (s : State) : State :=
  let s := onPart p (fun q => { q with fence := sat 255 (q.fence + 1) }) s
  let q := partOf s p
  if q.fence ≥ fld (reg s (aAlm + 8)) 8 8 ∧ !q.fenceReg then
    alarm 5 (BitVec.ofNat 32 (p + q.fence * 256)) (engGt s) (onPart p (fun q => { q with fenceReg := true }) s)
  else s

/-- Both counts are cleared (R277). -/
def clearViol (p : Nat) : State → State :=
  onPart p fun q => { q with viol := 0, fence := 0, violReg := false, fenceReg := false }

end Sys2Proof.Machine
end

