-- ==== Sys2Proof/Machine/Evq.lean ====
section
/-! DEFINITION. Boxwood (chapter 8): acceptance, the consumer's operations, the drain engine. -/

namespace Sys2Proof.Machine

/-! ## Acceptance (R175 to R177) -/

/-- Allotment A_k of a class. -/
def allotment (s : State) (k : Nat) : Nat := fld (reg s (aEvq + 4 + 4 * (k / 4))) (8 * (k % 4)) 6

/-- Stages that hold items of a class. -/
def stagesOf (s : State) (k : Nat) : Nat := (s.obs.evq.q.filter fun i => i.item.pclass == k).length

/-- Credits of a class (R176). -/
def evqCredits (s : State) (k : Nat) : Nat := allotment s k + (if k = 2 then 4 else 0) - stagesOf s k

/-- The occupied holding registers. -/
def holdRegs (s : State) : List HoldReg :=
  s.obs.evq.holds ++ (s.aon.sen.hold.toList.map fun i => ⟨1, 0, i⟩) ++ (s.aon.alm.hold.toList.map fun i => ⟨2, 0, i⟩)

/-- Place in the order of R175: priority, classes in round robin, sources of a class in round robin. -/
def acceptRank (s : State) (h : HoldReg) : Nat :=
  let e := s.obs.evq
  (h.item.prio * 8 + (h.cls + 8 - e.rrCls) % 8) * 4096 + (h.src + 4096 - smGet natD e.rrSrc h.cls) % 4096

/-- The first of the lowest rank. -/
def leastBy {α : Type} (key : α → Nat) : List α → Option α
  | [] => none
  | x :: xs => match leastBy key xs with
    | none => some x
    | some y => if key x ≤ key y then some x else some y

/-- The item that Boxwood accepts next. -/
def nextHold (s : State) : Option HoldReg :=
  leastBy (acceptRank s) ((holdRegs s).filter fun h => evqCredits s h.cls > 0)

/-- A holding register empties. -/
def dropHoldReg (h : HoldReg) (s : State) : State :=
  if h.cls = 1 then onSen (fun n => { n with hold := none }) s
  else if h.cls = 2 ∧ h.src = 0 then onAlm (fun n => { n with hold := none }) s
  else onEvq (fun e => { e with holds := delFirst (fun x => x.cls == h.cls && x.src == h.src) e.holds }) s

/-- The item leaves its register and the round robins move on; the row check's next item takes its place. -/
def takeHold (h : HoldReg) (s : State) : State :=
  nextRowItem <| onEvq (fun e => { e with
    rrCls := (h.cls + 1) % 8, rrSrc := smPut natD e.rrSrc h.cls ((h.src + 1) % 4096) }) (dropHoldReg h s)

/-- The item enters a stage, its age the order of acceptance (R178). -/
def addStage (i : Item) (s : State) : State :=
  occMoved (occ s) (onEvq (fun e => { e with q := e.q ++ [⟨i, e.nextAge, none⟩], nextAge := e.nextAge + 1 }) s)

/-- `BOXWOOD_ACCEPT`: one item, or the internal error of R177. -/
def opAccept (s : State) : State :=
  match nextHold s with
  | none => s
  | some h =>
    let t := takeHold h s
    if occ s ≥ 64 then alarm 7 0 (engGt s) (orReg (aEvq + 0x10) 4 t) else addStage h.item t

def execBoxwoodAccept : State → Answer := run (inObs opAccept)

/-! ## The consumer's operations (R178 to R186) -/

/-- Hedger's operations have an effect only while Hedger is the consumer in force (R186). -/
def byHedger (f : State → State) (s : State) : State := if s.obs.evq.consAct then s else inObs f s

/-- The item the selector presents: unread, lowest PRIO, then oldest (R178). -/
def presented (s : State) : Option QItem :=
  leastBy (fun i => i.item.prio * 2 ^ 64 + i.age % 2 ^ 64) (s.obs.evq.q.filter fun i => i.read.isNone)

/-- Items not raised by one partition's work (R174). -/
def platformKind (k : Nat) : Bool :=
  k == 0x01 || k == 0x30 || k == 0x40 || k == 0x41 || k == 0x20 || k == 0x50 || k == 0x51 || k == 0x60 || k == 0x61
    || k == 0x62

/-- The item as presented: ARG zero where its partition lacks EVENTS consent (R174). -/
def shown (s : State) (i : Item) : Item :=
  if platformKind i.kind || hasConsent s i.part 1 then i else { i with arg := 0 }

/-- The presented item is read: it takes RSEQ and stays in its stage (R180, R181). -/
def readItem (q : QItem) (s : State) : State :=
  let e := s.obs.evq
  onEvq (fun _ => { e with
    q := modFirst (fun i => i == q) (fun i => { i with read := some e.rseq }) e.q
    rseq := (e.rseq + 1) % 2 ^ 16, out := some (e.rseq, shown s q.item), none_ := false, stalled := false }) s

/-- `BOXWOOD_READ`: an item, NONE at OCC 64 with nothing unread, a stall otherwise; none during a change of
consumer (R180, R186). -/
def opRead (s : State) : State :=
  if s.obs.evq.changing then s
  else match presented s with
    | some q => readItem q s
    | none =>
      if occ s ≥ 64 then onEvq (fun e => { e with out := none, none_ := true }) s
      else onEvq (fun e => { e with stalled := true }) s

def execBoxwoodRead : State → Answer := run (byHedger opRead)

/-- `BOXWOOD_READ_STALL_END`: a stalled READ completes once an item is there (R180). -/
def opStallEnd (s : State) : State :=
  if !s.obs.evq.stalled then s
  else match presented s with
    | some q => readItem q s
    | none => s

def execBoxwoodReadStallEnd : State → Answer := run (byHedger opStallEnd)

/-- `BOXWOOD_MARK` (R181). -/
def opMark (s : State) : State := onEvq (fun e => { e with mark := e.rseq }) s

def execBoxwoodMark : State → Answer := run (byHedger opMark)

/-- Distance from sequence number a to b, modulo 2^16. -/
def seqDist (a b : Nat) : Nat := (b + 2 ^ 16 - a) % 2 ^ 16

/-- `BOXWOOD_REWIND`: items read from M on are unread again, and RSEQ is M (R182). -/
def opRewind (s : State) : State :=
  onEvq (fun e => { e with
    rseq := e.mark
    q := e.q.map fun i => match i.read with
      | some n => if seqDist e.mark n < seqDist e.mark e.rseq then { i with read := none } else i
      | none => i }) s

def execBoxwoodRewind : State → Answer := run (byHedger opRewind)

/-- Items in the READ state, by age of their read: distance back from RSEQ. -/
def oldestRead (s : State) : Option Nat :=
  let e := s.obs.evq
  let ns := e.q.filterMap (·.read)
  (leastBy (fun n => 2 ^ 16 - seqDist n e.rseq) (ns.map id))

/-- RELEASE(n) (R183). -/
def opRelease (n : Nat) (s : State) : State :=
  let e := s.obs.evq
  match oldestRead s with
  | none => orReg (aEvq + 0x10) 0x10 s
  | some o =>
    if seqDist o n < seqDist o e.rseq then
      occMoved (occ s) (onEvq (fun e => { e with
        q := e.q.filter fun i => match i.read with | some m => decide (seqDist o n < seqDist o m) | none => true
        mark := if seqDist o e.mark ≤ seqDist o n ∧ seqDist o e.mark < seqDist o e.rseq + 1 then (n + 1) % 2 ^ 16
          else e.mark }) s)
    else orReg (aEvq + 0x10) 0x10 s

def execBoxwoodRelease (n : Nat) : State → Answer := run (byHedger (opRelease n))

/-- `CONSUMER_CHANGE_EFFECT`: once no item is in the READ state (R186). -/
def opConsumerEffect (s : State) : State :=
  if s.obs.evq.changing && s.obs.evq.q.all (fun i => i.read.isNone) then
    onEvq (fun e => { e with
      consAct := bit (reg s aEvq) 0, changing := false, mark := e.rseq, stalled := false, batch := false, redo := false }) s
  else s

def execConsumerChangeEffect : State → Answer := run (inObs opConsumerEffect)

/-! ## The drain engine (R187, R188) -/

/-- Entries of the host event ring, 0 where there is none. -/
def hrN (s : State) : Nat :=
  let l := fld (reg s (aEvq + 0x38)) 0 5
  if l = 0 then 0 else 2 ^ l

/-- An item's two memory words (R173). -/
def itemWords (i : Item) : List U64 :=
  [BitVec.ofNat 64 i.gt,
   BitVec.ofNat 64 (i.arg.toNat + i.src * 2 ^ 32 + i.kind * 2 ^ 44 + i.part * 2 ^ 52 + i.pclass * 2 ^ 58 + i.prio * 2 ^ 61)]

/-- Up to n READs of the drain engine. -/
def drainReads : Nat → List Item → State → List Item × State
  | 0, acc, s => (acc, s)
  | n + 1, acc, s => match presented s with
    | none => (acc, s)
    | some q => drainReads n (acc ++ [shown s q.item]) (readItem q s)

/-- `DRAIN_BATCH`: MARK, up to four READs within one block, and one SMP write of them. -/
def opDrain (s : State) : State :=
  let e := s.obs.evq
  let n := hrN s
  if !e.consAct || e.changing || e.batch || n = 0 || hangHolds s || avail s = 0 then s
  else
    let room := (e.hrHead + n - e.hrTail - 1) % n
    let k := min (4 - e.hrTail % 4) (min room (avail s))
    if k = 0 then s
    else
      let s := if e.redo then s else opMark s
      let (items, s) := drainReads k [] s
      let last := (s.obs.evq.rseq + 2 ^ 16 - 1) % 2 ^ 16
      addPiece ⟨2, 1, 0, .drain items.length last items, e.hrBase + 16 * e.hrTail, items.flatMap itemWords⟩
        (onEvq (fun e => { e with batch := true, redo := false }) s)

def execDrainBatch : State → Answer := run (inObs opDrain)

/-- The batch's write is acknowledged, or returned an error (R187). -/
def drainAck (n last : Nat) (err : Bool) (s : State) : State :=
  if err then
    onEvq (fun e => { e with batch := false, redo := true }) (opRewind (orReg (aEvq + 0x10) 0x40 s))
  else
    let m := max (hrN s) 1
    let s := onEvq (fun e => { e with batch := false, hrTail := (e.hrTail + n) % m }) s
    orReg (aEvq + 0x24) 1 (opRelease last s)

/-! ## Register writes of Boxwood (R176, R186, R188, R189) -/

/-- `CONSUMER_SELECT`: a change of CONS is requested; it takes effect by R186. -/
def opConsumerSelect (v : U32) (s : State) : State :=
  let s := setReg aEvq (v &&& 1) s
  onEvq (fun e => { e with changing := bit v 0 != e.consAct }) s

/-- `CREDIT_ALLOTMENT_WRITE`: all fields, only where the eight allotments sum to 60 or less (R176). -/
def opCredits (hi : Bool) (v : U32) (s : State) : State :=
  if obsLock s then s
  else
    let a := aEvq + (if hi then 8 else 4)
    let t := setReg a (v &&& 0x3F3F3F3F) s
    if ((List.range 8).foldl (fun acc k => acc + allotment t k) 0) ≤ 60 then t else orReg (aEvq + 0x10) 8 s

/-- The pins follow OCC and the marks in force (R189). -/
def pinsNow (s : State) : State :=
  let hwm := fld (reg s (aEvq + 0xC)) 0 7
  let lwm := fld (reg s (aEvq + 0xC)) 16 7
  onEvq (fun e => { e with pinHi := if e.q.length ≥ hwm then true else if e.q.length ≤ lwm then false else e.pinHi }) s

/-- `WATERMARK_WRITE`: only where LWM < HWM ≤ 64 (R189). -/
def opWatermark (v : U32) (s : State) : State :=
  let hwm := fld v 0 7
  let lwm := fld v 16 7
  if lwm < hwm ∧ hwm ≤ 64 then pinsNow (setReg (aEvq + 0xC) (v &&& 0x007F007F) s) else s

/-- `HOST_RING_SIZE_WRITE`: 0 or 4 to 16, while Hedger is the consumer; tail and head restart (R188). -/
def opHrSize (v : U32) (s : State) : State :=
  let l := fld v 0 5
  if s.obs.evq.consAct || !(l = 0 ∨ (4 ≤ l ∧ l ≤ 16)) then s
  else onEvq (fun e => { e with
    hrTail := 0, hrHead := 0, hrBase := pair (reg s (aEvq + 0x30)) (reg s (aEvq + 0x34)) })
    (setReg (aEvq + 0x38) (BitVec.ofNat 32 l) s)

/-- `HOST_RING_HEAD_WRITE`: a value in the cyclic range from HEAD to TAIL (R188). -/
def opHrHead (v : U32) (s : State) : State :=
  let e := s.obs.evq
  let n := hrN s
  let i := fld v 0 16
  if n = 0 then (if i = 0 then s else orReg (aEvq + 0x10) 0x20 s)
  else if i < n ∧ (i + n - e.hrHead) % n ≤ (e.hrTail + n - e.hrHead) % n then
    onEvq (fun e => { e with hrHead := i }) s
  else orReg (aEvq + 0x10) 0x20 s

end Sys2Proof.Machine
end

