-- ==== Sys2Proof/Machine/Sentinel.lean ====
section
/-! DEFINITION. The Deadline Sentinel and the governor rules (chapter 11): markers, misses, alert lines, request
words, and their commands. -/

namespace Sys2Proof.Machine

/-! ## Alert lines (R254) -/

def latched (s : State) (line : Nat) : Bool := bit (reg s aSen) line

/-- The lines of a mask are driven at an AON edge; a pulsed line falls PULSE_W AON cycles later. -/
def driveLines (mask : Nat) (s : State) : State :=
  let fall := s.aon.tb.rootGt + 32 * fld (reg s aSen) 8 8
  onSen (fun n => { n with
    lines := n.lines ||| mask
    pulseEnd := (maskBits 4 mask).foldl (fun m i => smPut natD m i fall) n.pulseEnd }) s

/-- The AON edge after a miss: its lines rise, and its freeze is triggered with G = D (R252). -/
def driveDue (s : State) : State :=
  s.aon.sen.due.foldl (fun a d =>
    let a := driveLines d.lines a
    if d.freeze && a.aon.pwr.rstN then trigger d.g 8 d.part a else a) (onSen (fun n => { n with due := [], acked := 0 }) s)

/-- `PULSE_EXPIRY` (R254). -/
def opPulseExpiry (line : Nat) (s : State) : State :=
  let n := s.aon.sen
  if s.aon.pwr.aonRstN ∧ n.lines.testBit line ∧ !latched s line ∧ smGet natD n.pulseEnd line ≤ s.aon.tb.rootGt then
    onSen (fun n => { n with
      lines := maskOf ((maskBits 4 n.lines).filter fun i => i != line)
      pulseEnd := smPut natD n.pulseEnd line 0 }) s
  else s

def execPulseExpiry (line : Nat) : State → Answer := run (opPulseExpiry line)

/-- `SENTINEL_LINE_ACK`: releases latched lines; a miss in the same AON cycle keeps a line high (R254). -/
def opLineAck (v : U32) (s : State) : State :=
  if !s.build.sentinel then s
  else
    let freed := (maskBits 4 s.aon.sen.lines).filter fun i =>
      bit v i && latched s i && !s.aon.sen.due.any fun d => d.lines.testBit i
    onSen (fun n => { n with
      lines := maskOf ((maskBits 4 n.lines).filter fun i => !freed.contains i)
      acked := n.acked ||| maskOf freed }) s

/-! ## Governor rules (R259 to R262) -/

def aRule (k : Nat) : Nat := aSen + 0x100 + 0x10 * k

def ruleEn (s : State) (k : Nat) : Bool := bit (reg s (aRule k)) 31
def ruleSrc (s : State) (k : Nat) : Nat := fld (reg s (aRule k)) 27 3
def ruleCode (s : State) (k : Nat) : Nat := fld (reg s (aRule k)) 22 2
def ruleLevel (s : State) (k : Nat) : Nat := fld (reg s (aRule k)) 24 3
def ruleLog2w (s : State) (k : Nat) : Nat := fld (reg s (aRule k)) 17 5

/-- The increments kept start with the earliest window that is still to be evaluated, or that a rule enabled now would
evaluate first. -/
def incFloor (s : State) : Nat :=
  ((List.range 16).foldl (fun m k => if ruleEn s k then min m ((gruleOf s k).wEnd - 2 ^ ruleLog2w s k) else m)
    (now s / 2 ^ 24 * 2 ^ 24)) / 2 ^ 14

/-- n increments of a source on a unit (or watch), stamped t (R259). -/
def ruleCount (src unit t n : Nat) (s : State) : State :=
  if !s.build.sentinel || n == 0 then s
  else
    let lo := incFloor s
    let add := fun (m : SMap Nat) => smMod natD (m.filter fun e => decide (lo ≤ e.1)) (t / 2 ^ 14) (· + n)
    onSen (fun x => { x with incs := smMod (fun _ => []) x.incs (4 * unit + src) add }) s

/-- The units (or the watch) that a rule observes. -/
def ruleSees (s : State) (k unit : Nat) : Bool :=
  let u := reg s (aRule k + 4)
  if ruleSrc s k = 3 then fld u 0 8 == unit else decide (fld u 0 12 ≤ unit) && decide (unit ≤ fld u 16 12)

/-- The sum of the rule's window that is evaluated next: the increments stamped in it (R259). -/
def windowSum (s : State) (k : Nat) : Nat :=
  let g := gruleOf s k
  let hi := g.wEnd / 2 ^ 14
  let lo := (g.wEnd - 2 ^ ruleLog2w s k) / 2 ^ 14
  sat (2 ^ 32 - 1) ((s.aon.sen.incs.filter fun e => e.1 % 4 == ruleSrc s k && ruleSees s k (e.1 / 4)).foldl
    (fun a e => (e.2.filter fun d => decide (lo ≤ d.1) && decide (d.1 < hi)).foldl (fun a d => a + d.2) a) 0)

/-- The request word of R261: code, level, rule. -/
def requestWord (s : State) : Nat × Nat × Nat :=
  if !s.obs.smp.govreq then (0, 0, 0)
  else (List.range 16).foldl (fun best k =>
    if ruleEn s k ∧ (gruleOf s k).active then
      let c := ruleCode s k
      let l := ruleLevel s k
      if best.1 = 0 ∨ c < best.1 ∨ (c = best.1 ∧ best.2.1 < l) then (c, l, k) else best
    else best) (0, 0, 0)

/-- A change is offered while the previous one is acknowledged (R261, R362). -/
def offerReq (s : State) : State :=
  let p := s.aon.pwr
  let w := requestWord s
  if p.pwrReq != p.pwrAck || (p.pwrCode == w.1 && p.pwrLevel == w.2.1) then
    (if p.pwrReq == p.pwrAck then onPwr (fun q => { q with pwrRule := w.2.2 }) s else s)
  else onPwr (fun q => { q with pwrCode := w.1, pwrLevel := w.2.1, pwrRule := w.2.2, pwrDue := true }) s

/-- `PWR_REQ` inverts in the AON cycle after a change of the word (R362). -/
def tokenEdge (s : State) : State :=
  if s.aon.pwr.pwrDue then onPwr (fun q => { q with pwrReq := !q.pwrReq, pwrDue := false }) s else s

/-- `PWR_ACK_TOGGLE` (R362). -/
def opPwrAck (s : State) : State :=
  if s.aon.pwr.aonRstN && s.aon.pwr.pwrReq != s.aon.pwr.pwrAck then
    offerReq (onPwr (fun q => { q with pwrAck := q.pwrReq }) s) else s

def execPwrAckToggle : State → Answer := run opPwrAck

/-- A rule's state changes: its item and its SENT records (R262). -/
def ruleChanged (k : Nat) (raised : Bool) (t start : Nat) (s : State) : State :=
  let dry := !s.obs.smp.govreq
  let arg := BitVec.ofNat 32 (ruleLevel s k + 8 * b2n dry + 16 * b2n raised)
  let s := push 0 (mkItem 0x11 0 (ruleCode s k + 16 * k) arg t) s
  offerAll ⟨t, .sent k (if raised then 2 else 3) 0 arg start 0⟩ s

/-- Is the write of GRULE_A valid with the rule's other words (R260)? -/
def ruleValid (s : State) (k : Nat) (v : U32) : Bool :=
  let u := reg s (aRule k + 4)
  let raise := (reg s (aRule k + 8)).toNat
  let clear := (reg s (aRule k + 12)).toNat
  let src := fld v 27 3
  (if bit v 30 then decide (raise < clear) else decide (clear < raise))
  && decide (1 ≤ fld v 13 4) && decide (14 ≤ fld v 17 5) && decide (fld v 17 5 ≤ 24)
  && decide (src ≤ 3) && decide (1 ≤ fld v 22 2)
  && (if src = 3 then decide (fld u 0 12 < 256) && decide (fld u 16 12 = 0)
      else decide (fld u 0 12 ≤ fld u 16 12) && decide (fld u 16 12 < s.build.units))

/-- The next window end after GT t. -/
def windowEnd (t l : Nat) : Nat := (t / 2 ^ l + 1) * 2 ^ l

/-- `GOV_RULE_ENABLE`: a write of GRULE_A (R260). -/
def opRuleWrite (k : Nat) (v : U32) (s : State) : State :=
  if !s.build.sentinel then s
  else if ruleEn s k then
    if bit v 31 then s
    else
      let g := gruleOf s k
      let s := if g.active then ruleChanged k false s.aon.tb.rootGt g.runStart s else s
      offerReq (onGRule k (fun _ => default) (setReg (aRule k) (v &&& 0x7FFFE000) s))
  else if !bit v 31 then setReg (aRule k) (v &&& 0x7FFFE000) s
  else if ruleValid s k v then
    onGRule k (fun _ => { (default : GRule) with wEnd := windowEnd s.aon.tb.rootGt (fld v 17 5) })
      (setReg (aRule k) (v &&& 0xFFFFE000) s)
  else orReg (aSen + 8) 4 s

/-- The rule after a window of kind high, low or neither. -/
def ruleRun (g : GRule) (h low : Bool) (start : Nat) : GRule :=
  if !h && !low then { g with run := 0 }
  else if g.run > 0 && g.runHigh == h then { g with run := g.run + 1 }
  else { g with run := 1, runHigh := h, runStart := start }

/-- The rules whose window ends at this AON edge, while the OBS domain does not run (R259). -/
def sleepWindows (s : State) : State :=
  if obsRuns s then s
  else (List.range 16).foldl (fun a k =>
    if ruleEn a k && a.aon.tb.rootGt % 2 ^ ruleLog2w a k == 0 then
      onGRule k (fun g => { g with asleep := g.asleep ++ [a.aon.tb.rootGt] }) a
    else a) s

/-- `GOV_RULE_WINDOW_END` (R259): a window that ended while the OBS domain slept is not evaluated, and the runs
restart. -/
def opWindowEnd (k : Nat) (s : State) : State :=
  let g := gruleOf s k
  if !s.aon.pwr.aonRstN || !ruleEn s k || decide (now s < g.wEnd) then s
  else
    let l := ruleLog2w s k
    let moved := fun (x : GRule) => { x with wEnd := x.wEnd + 2 ^ l, asleep := x.asleep.filter fun e => decide (g.wEnd < e) }
    if g.asleep.contains g.wEnd then onGRule k (fun x => moved { x with run := 0 }) s
    else
      let sum := windowSum s k
      let raise := (reg s (aRule k + 8)).toNat
      let clear := (reg s (aRule k + 12)).toNat
      let dir := bit (reg s (aRule k)) 30
      let hi := if dir then decide (sum ≤ raise) else decide (raise ≤ sum)
      let low := if dir then decide (clear ≤ sum) else decide (sum ≤ clear)
      let g1 := ruleRun g hi low (g.wEnd - 2 ^ l)
      let h := fld (reg s (aRule k)) 13 4
      let flip := decide (h ≤ g1.run) && (g1.runHigh != g.active)
      let s := onGRule k (fun _ => moved { g1 with active := if flip then !g.active else g.active }) s
      if flip then offerReq (ruleChanged k (!g.active) g.wEnd g1.runStart s) else s

def execGovRuleWindowEnd (k : Nat) : State → Answer := run (opWindowEnd k)

/-! ## Deadline watches (R249 to R255) -/

/-- A miss or overrun of watch w at D (or the arrival GT); its lines are driven at the following AON edge (R252, R254,
R255). -/
def senMiss (w d start : Nat) (overrun : Bool) (s : State) : State :=
  let s := onSWatch w (fun x => { x with misses := sat (2 ^ 24 - 1) (x.misses + 1) }) s
  let x := swatchOf s w
  let s := orReg (aSen + 8) 1 (onSen (fun n => { n with
    lines := n.lines ||| (x.lines &&& n.acked)
    due := n.due ++ [⟨x.lines, x.freeze, d, x.part⟩] }) s)
  let s := push 0 (mkItem 0x10 x.part w (lo32 d) d) s
  let arg := BitVec.ofNat 32 (x.misses + x.insts.length * 2 ^ 24 + b2n overrun * 2 ^ 31)
  let s := offerPart x.part ⟨d, .sent w 0 x.lines arg start 0⟩ s
  let s := ruleCount 3 w d 1 s
  wake 4 s

/-- The open instances with one more, in order of start. -/
def addInst (i : SInst) (l : List SInst) : List SInst := insertBy (fun a b => decide (b.s < a.s)) i l

/-- A start opens an instance, or is an overrun at the AON edge at which it reaches the Sentinel (R250). -/
def senStart (w t : Nat) (s : State) : State :=
  if (swatchOf s w).insts.length < 4 then
    onSWatch w (fun x => { x with insts := addInst ⟨t, gtMod (t + x.offset), false⟩ x.insts }) s
  else senMiss w s.aon.tb.rootGt t true s

/-- An end closes the oldest open instance whose start is no later (R250). -/
def senEnd (w t : Nat) (s : State) : State :=
  let x := swatchOf s w
  match x.insts.find? fun i => decide (i.s ≤ t) with
  | none => s
  | some i =>
    let s := onSWatch w (fun x => { x with insts := delFirst (fun i => decide (i.s ≤ t)) x.insts }) s
    if i.missed then
      let arg := if t < i.d then 2 ^ 31 else sat (2 ^ 31 - 1) (t - i.d)
      offerPart x.part ⟨t, .sent w 1 x.lines (BitVec.ofNat 32 arg) i.s t⟩ s
    else s

/-- Does a marker match a kind with its layer and operator (Table 11.1)? -/
def senMatch (kind layer oper : Nat) (m : Marker) : Bool :=
  m.kind == kind && (decide (3 < kind) || m.layer == layer) && (decide (1 < kind) || m.oper == oper)

/-- Armed watches in number order that meet `f`. -/
def senArmed (s : State) (f : SWatch → Bool) : List Nat :=
  (s.aon.sen.watches.filter fun e => e.2.armed && f e.2).map (·.1)

/-- One marker acts on a watch as its end first, then as its start (R250). -/
def senApply (m : Marker) (s : State) : State :=
  (senArmed s fun x => x.part == m.owner).foldl (fun acc w =>
    let x := swatchOf s w
    let acc := if senMatch x.endKind x.eLayer x.eOper m then senEnd w m.stamp acc else acc
    if senMatch x.startKind x.sLayer x.sOper m then senStart w m.stamp acc else acc) s

/-- A collector forwards a marker that an armed watch of its owner matches; a full queue drops it (R251). -/
def senMarker (m : Marker) (s : State) : State :=
  if (senArmed s fun x => x.part == m.owner &&
      (senMatch x.startKind x.sLayer x.sOper m || senMatch x.endKind x.eLayer x.eOper m)).isEmpty then s
  else if s.aon.sen.queue.length < 64 then onSen (fun n => { n with queue := n.queue ++ [m] }) s
  else orReg (aSen + 8) 2 (bumpReg (aSen + 8) 8 8 1 s)

/-- `SENTINEL_MARKER_APPLY`: up to 8 markers in queue order (R251). -/
def opMarkerApply (s : State) : State :=
  if !s.aon.pwr.aonRstN then s
  else (s.aon.sen.queue.take 8).foldl (fun acc m => senApply m acc)
    (onSen (fun n => { n with queue := n.queue.drop 8 }) s)

def execSentinelMarkerApply : State → Answer := run opMarkerApply

/-- A `FRAME_SYNC` edge sampled in the AON domain starts the watches of kind 8 (R249). -/
def senFrame (s : State) : State :=
  (senArmed s fun x => x.startKind == 8).foldl (fun acc w => senStart w (s.aon.tb.rootGt - 64) acc) s

/-- `DEADLINE_MISS`: root GT has reached D of the oldest open instance that has not missed (R252). -/
def opDeadlineMiss (w : Nat) (s : State) : State :=
  let x := swatchOf s w
  match x.insts.find? fun i => !i.missed with
  | none => s
  | some i =>
    if s.aon.pwr.aonRstN ∧ x.armed ∧ i.d ≤ s.aon.tb.rootGt then
      senMiss w i.d i.s false (onSWatch w (fun x => { x with
        insts := modFirst (fun i => !i.missed) (fun i => { i with missed := true }) x.insts }) s)
    else s

def execDeadlineMiss (w : Nat) : State → Answer := run (opDeadlineMiss w)

end Sys2Proof.Machine
end

