-- ==== Sys2Proof/Machine/Counters.lean ====
section
/-! DEFINITION. Counters and their arithmetic (R52 to R56), stopped time (R33, R36), Bramble rings (R159, R160),
watchdog counts (R162), loss runs (R45) and the mapping of ports to logical units (R51). -/

namespace Sys2Proof.Machine

/-! ## Counter words (R52, R55, R56) -/

/-- Add to a word of `n` value bits with a sticky wrap flag above them; higher bits stay. -/
def addWrap (n : Nat) (x : U64) (k : Nat) : U64 :=
  let v := fld x 0 n + k
  let flag := bit x n || decide (2 ^ n ≤ v)
  BitVec.ofNat 64 (x.toNat / 2 ^ (n + 1) * 2 ^ (n + 1) + b2n flag * 2 ^ n + v % 2 ^ n)

/-- A programmable or fixed counter, or LOSS in the accounting word. -/
def add48 : U64 → Nat → U64 := addWrap 48

/-- An ops-matrix counter. -/
def add63 : U64 → Nat → U64 := addWrap 63

/-- Add one to a saturating field of the accounting word. -/
def bumpAcct (lo n : Nat) (x : U64) : U64 :=
  let v := fld x lo n
  if v = 2 ^ n - 1 then x else x + BitVec.ofNat 64 (2 ^ lo)

def acctMalformed : U64 → U64 := bumpAcct 56 8
def acctFence : U64 → U64 := bumpAcct 49 7
def acctLoss (x : U64) : U64 := add48 x 1

/-- Change one unit's counters in a bank. -/
def bankUnit (u : Nat) (f : UnitBank → UnitBank) (b : Bank) : Bank := { b with u := smMod ubankD b.u u f }

/-- Key of an ops-matrix counter. -/
def opsKey (p cls fmt : Nat) : Nat := p * 512 + cls * 16 + fmt

/-- Unit u's share of an ops-matrix counter. -/
def bankOps (u p cls fmt n : Nat) (b : Bank) : Bank :=
  { b with ops := smMod u64D b.ops (opsKey p cls fmt * 4096 + u) fun x => add63 x n }

/-- The counter and the unit of a share. -/
def opsOf (k : Nat) : Nat := k / 4096
def opsUnit (k : Nat) : Nat := k % 4096

/-- Two words of a counter added: the sum wraps, and the flags are ORed (R92). -/
def mergeWord (n : Nat) (x y : U64) : U64 :=
  let z := addWrap n x (fld y 0 n)
  if bit y n then z ||| BitVec.ofNat 64 (2 ^ n) else z

/-- An ops-matrix counter of a bank: the sum of its shares. -/
def opsWord (b : Bank) (k : Nat) : U64 :=
  b.ops.foldl (fun a e => if opsOf e.1 = k then mergeWord 63 a e.2 else a) 0

/-- The bits of CODE that a class uses (Table 3.2); the others are ignored (R41, R43). -/
def codeMask (cls : Nat) : Nat :=
  match cls with
  | 1 | 6 | 7 | 9 | 10 | 11 => 0xFF
  | 3 => 0x1F
  | 8 => 0x87
  | _ => 0

/-- CODE of an event, the bits its class leaves unused read as zero. -/
def evCode (w : U64) : Nat := fld w 32 8 &&& codeMask (fld w 60 4)

/-- What a selector adds for an event of a class, code and payload (Table 3.3); MODE 4 counts no event. -/
def selAdds (w : U32) (cls code : Nat) (pay : U32) : Nat :=
  if bit w 31 && fld w 24 4 == cls && (code ^^^ fld w 16 8) &&& fld w 8 8 == 0 then
    match fld w 28 3 with
    | 0 => 1
    | 1 => pay.toNat
    | 2 => fld pay 16 16
    | 3 => fld pay 0 16
    | _ => 0
  else 0

/-- What a selector adds for a loss on the unit's port. -/
def selLoss (w : U32) : Nat := if bit w 31 && fld w 28 3 == 4 then 1 else 0

/-- Does a held counter count an increment stamped t, in a stretch of a bank that ends at `fin`: from its claim on, and
not where an arm later in the stretch restarts it (R53, R75, R91, R241)? -/
def selTakes (q : Sel) (t fin : Nat) : Bool :=
  decide (q.claimed ≤ t) && (decide (q.since ≤ t) || decide (fin ≤ q.since))

/-- Add to the held programmable counters of a unit an increment stamped t. -/
def addSel (sels : SMap (Option Sel)) (n : U32 → Nat) (t fin : Nat) (b : UnitBank) : UnitBank :=
  sels.foldl (fun acc e => match e.2 with
    | some s =>
      if n s.word = 0 || !selTakes s t fin then acc
      else { acc with p := smMod u64D acc.p e.1 fun x => add48 x (n s.word) }
    | none => acc) b

/-! ## Banks added (R92) -/

/-- Two accounting words added: LOSS as a counter, FENCE and MALFORMED saturating (R55). -/
def mergeAcct (x y : U64) : U64 :=
  BitVec.ofNat 64 (fld (mergeWord 48 x y) 0 49 + sat 127 (fld x 49 7 + fld y 49 7) * 2 ^ 49
    + sat 255 (fld x 56 8 + fld y 56 8) * 2 ^ 56)

def mergeUnit (x y : UnitBank) : UnitBank :=
  { p := y.p.foldl (fun m e => smPut u64D m e.1 (mergeWord 48 (smGet u64D m e.1) e.2)) x.p
    f0 := mergeWord 48 x.f0 y.f0, f1 := mergeWord 48 x.f1 y.f1, f2 := mergeWord 48 x.f2 y.f2
    f3 := mergeWord 48 x.f3 y.f3, acct := mergeAcct x.acct y.acct }

/-- Add the units and the ops matrix of `b` into `a`. -/
def mergeBank (a b : Bank) : Bank :=
  { a with
    u := b.u.foldl (fun m e => smPut ubankD m e.1 (mergeUnit (smGet ubankD m e.1) e.2)) a.u
    ops := b.ops.foldl (fun m e => smPut u64D m e.1 (mergeWord 63 (smGet u64D m e.1) e.2)) a.ops }

/-- Every increment is in the live bank, where a freeze is copied before boundaries at or after its T. -/
def wholeBank (b : Split) : Bank := b.after.foldl (fun a e => mergeBank a e.2) b.live

/-! ## Ports and logical units (R51) -/

/-- Units of the build's ports: port and unit numbers run alike. -/
def portsOfSection (sec : Nat) : List Nat := (List.range 256).map (256 * sec + ·)

/-- A REMAP word that is not malformed on port q: code TAKE within the section and the build, or RELEASE. -/
def remapGood (b : Build) (q : Nat) (w : U64) : Bool :=
  let l := fld w 0 12
  fld w 32 8 == 1 || (fld w 32 8 == 0 && l / 256 == q / 256 && decide (l < b.units))

/-- The mapping after a REMAP event on port q. -/
def applyRemap (ports : SMap PortSt) (q : Nat) (w : U64) : SMap PortSt :=
  if fld w 32 8 = 0 then
    let l := fld w 0 12
    let cleared := (portsOfSection (q / 256)).foldl (fun m p =>
      if (smGet portD m p).unit = some l then smMod portD m p fun x => { x with unit := none } else m) ports
    smMod portD cleared q fun x => { x with unit := some l }
  else smMod portD ports q fun x => { x with unit := none }

/-- The ports of a section as mapped at stamp t. -/
def mapAt (s : State) (sec t : Nat) : SMap PortSt :=
  ((sectOf s sec).remaps.filter fun r => decide (r.1 ≤ t)).foldl (fun m r => applyRemap m r.2.1 r.2.2) s.obs.hed.ports

/-- The unit that a port carries at stamp t. -/
def unitAt (s : State) (p t : Nat) : Option Nat := (smGet portD (mapAt s (p / 256) t) p).unit

/-- The unit that a port carries after every REMAP event accepted. -/
def curUnit (s : State) (p : Nat) : Option Nat := unitAt s p (2 ^ 64)

/-- The port that carries a unit at stamp t. -/
def portOfUnit (s : State) (u t : Nat) : Option Nat :=
  let m := mapAt s (u / 256) t
  (portsOfSection (u / 256)).find? fun p => (smGet portD m p).unit == some u

/-- REMAP events that no event still to come or waiting can precede join the ports' own mapping. -/
def foldRemaps (sec : Nat) (s : State) : State :=
  let low := (List.range 16).foldl (fun acc k => (collOf s (16 * sec + k)).buf.foldl (fun a e => min a e.stamp) acc)
    (now s - 4096)
  let t := sectOf s sec
  let old := t.remaps.filter fun r => decide (r.1 < low)
  if old.isEmpty then s
  else onSect sec (fun t => { t with remaps := t.remaps.filter fun r => !decide (r.1 < low) })
    (onHed (fun h => { h with ports := old.foldl (fun m r => applyRemap m r.2.1 r.2.2) h.ports }) s)

/-- The collector that observes a unit. -/
def collOfUnit (s : State) (u : Nat) : Nat := (portOfUnit s u (2 ^ 64)).getD u / 16

/-! ## Stopped time (R33, R36) -/

/-- Stopped GT of a unit over [a, b): each bank takes the part on its side of the boundary, a pending freeze the
part before its T. -/
def addStopped (u a b : Nat) (s : State) : State :=
  let bd := boundsOf s (unitOf s u).owner
  let put := fun (n : Nat) (k : Bank) => bankUnit u (fun x => { x with f3 := add48 x.f3 n }) k
  let go := fun (stop : Nat) (z : Split) =>
    let ends := (a :: bd.filter fun t => decide (a < t) && decide (t < stop)).zip
      ((bd.filter fun t => decide (a < t) && decide (t < stop)) ++ [stop])
    ends.foldl (fun z e => if e.1 < e.2 then splitAdd bd noEnd e.1 (fun _ => put (e.2 - e.1)) z else z) z
  onCut (onCuts fun lim z => go (min b lim) z) s

/-- Count the stopped time of a unit up to t; the counters of a LOST unit hold (R73). -/
def accrue (u t : Nat) (s : State) : State :=
  match (unitOf s u).stop with
  | some (st, base) =>
    if base < t ∧ (collOf s (collOfUnit s u)).lost.isNone then onUnit u (fun x => { x with stop := some (st, t) }) (addStopped u base t s) else s
  | none => s

/-- Count the stopped time of every unit up to t. -/
def accrueAll (t : Nat) (s : State) : State := s.obs.hed.units.foldl (fun acc e => accrue e.1 t acc) s

/-! ## Bramble rings (R159, R160) -/

/-- Depth code and depth of a partition. -/
def bramCode (s : State) (p : Nat) : Nat := fld (reg s (aFlt + 0x200)) (2 * p) 2
def depthOfCode (c : Nat) : Nat := if c = 1 then 32 else if c = 2 then 128 else 0
def bramDepth (s : State) (p : Nat) : Nat := depthOfCode (bramCode s p)

/-- A word of a synthetic entry (Table 7.3). -/
def synth (code pay : Nat) : U64 := BitVec.ofNat 64 (code * 2 ^ 32 + sat 0xFFFFFFFF pay)

/-- The T of a hang sequence whose rings have not resumed. -/
def hangT (s : State) : Option Nat := s.obs.hang.seq.map (·.t)

/-- Place an entry in stamp order. -/
def ringAdd (word : U64) (t : Nat) (r : List (U64 × Nat)) : List (U64 × Nat) :=
  insertBy (fun y x => decide (x.2 < y.2)) (word, t) r

/-- Append an entry: none at depth 0 or while the rings hold, which counts an event (a synthetic entry has class 0); the
oldest is overwritten when full. -/
def appendRing (u : Nat) (word : U64) (t : Nat) (s : State) : State :=
  let d := bramDepth s (unitOf s u).owner
  if d = 0 then s
  else if (match hangT s with | some h => decide (h ≤ t) | none => false) then
    onUnit u (fun x => { x with held := x.held + b2n (fld word 60 4 != 0) }) s
  else onUnit u (fun x =>
    if x.ring.length < d then { x with ring := ringAdd word t x.ring }
    else { x with ring := (ringAdd word t x.ring).drop 1, ringWrap := true }) s

def emptyRing (u : Nat) : State → State := onUnit u fun x => { x with ring := [], ringWrap := false, held := 0 }

/-! ## The hang dump's view of a unit (R167) -/

/-- Before a change stamped t of unit u: while a hang sequence has reached its T, keep what stood at T. -/
def snapUnit (u t : Nat) (s : State) : State :=
  match hangT s with
  | none => s
  | some h =>
    let x := unitOf s u
    if t < h ∨ x.snap.isSome then s
    else
      let k : UnitSnap := ⟨x.owner, x.lastEvent, x.lastProg, (match x.stop with | some (a, _) => a | none => 0),
        x.stop.isNone, (portOfUnit s u h).getD 0x1FFF, x.restart⟩
      onUnit u (fun x => { x with snap := some k }) s

/-! ## Stops of a unit's clock (R33 to R37) -/

/-- The watchdog's count stands still over a stop when STOP_PAUSE is set (R162). -/
def wdogRun (st t : Nat) (x : UnitSt) : UnitSt :=
  match x.wdog with
  | some w => if w.stopPause then { x with wdog := some { w with base := w.base + (t - max st w.base) } } else x
  | none => x

/-- A transition joins the unit's log. -/
def noteStop (u t : Nat) (runs : Bool) : State → State :=
  onUnit u fun x => { x with stops := x.stops ++ [(t, runs)] }

/-- Was the unit's clock stopped just before GT t? -/
def stoppedAt (x : UnitSt) (t : Nat) : Bool :=
  match (x.stops.filter fun e => decide (e.1 < t)).getLast? with | some e => !e.2 | none => false

/-- A stop begins: CLKSTOP record and ring entry. -/
def beginStop (u t : Nat) (wakeFlag : Bool) (s : State) : State :=
  let s := noteStop u t false (onUnit u (fun x => { x with stop := some (t, t) }) (snapUnit u t s))
  appendRing u (synth 2 0) t (offerUnit u ⟨t, .clkstop wakeFlag u⟩ s)

/-- A stop ends: stopped time, CLKRUN record and ring entry. -/
def endStop (u t : Nat) (sleepFlag : Bool) (s : State) : State :=
  match (unitOf s u).stop with
  | none => s
  | some (st, _) =>
    let s := accrue u t (snapUnit u t s)
    let s := noteStop u t true (onUnit u (fun x => wdogRun st t { x with stop := none }) s)
    appendRing u (synth 3 0) t (offerUnit u ⟨t, .clkrun sleepFlag u⟩ s)

/-- The unit's stop follows the line of the port that carries it (R32). -/
def syncStop (u t : Nat) (s : State) : State :=
  let run := match portOfUnit s u t with | some p => (portOf s p).clk | none => true
  match (unitOf s u).stop, run with
  | none, false => beginStop u t false s
  | some _, true => endStop u t false s
  | _, _ => s

/-! ## Loss runs (R45) -/

/-- A GAP record of a run's part. -/
def gapRec (u stamp start n : Nat) (split : Bool) : Rec := ⟨stamp, .gap false split u 1 start n⟩

/-- The pending cuts of a unit: the T of each pending freeze and its owner's boundary. -/
def cutsOf (s : State) (u : Nat) : List Nat :=
  sortBy id ((freezes s).map (·.t) ++ boundsOf s (unitOf s u).owner)

/-- The open run is split at every pending cut after its start and at or before t. -/
def splitRun (p t : Nat) (s : State) : State :=
  match (portOf s p).run with
  | none => s
  | some r => match unitAt s p r.first with
    | none => s
    | some u => (cutsOf s u).foldl (fun acc c => match (portOf acc p).run with
      | none => acc
      | some r =>
        if r.start < c ∧ c ≤ t then
          let acc := if r.count > 0 then offerUnit u (gapRec u (c - 1) r.start r.count true) acc else acc
          onPort p (fun x => { x with run := some { r with start := c, count := 0, split := true } }) acc
        else acc) s

/-- A loss stamped t on port p. -/
def lossAt (p t : Nat) (s : State) : State :=
  match unitAt s p t with
  | none => s
  | some u =>
    let x := unitOf s u
    let p0 := ownerAt s u t
    let s := splitRun p t s
    let s := onPort p (fun q => { q with run := match q.run with
      | some r => some { r with count := r.count + 1, total := r.total + 1 }
      | none => some ⟨t, 1, 1, t, false⟩ }) s
    if p0 ≠ x.owner then s
    else
      let s := countTo p0 t (fun fin => bankUnit u fun b =>
        addSel x.sels selLoss t fin { b with acct := acctLoss b.acct }) s
      ruleCount 2 u t 1 s

/-- The run closes at the next accepted event, stamped t. -/
def closeRun (p t : Nat) (s : State) : State :=
  let s := splitRun p t s
  match (portOf s p).run with
  | none => s
  | some r =>
    let s := onPort p (fun q => { q with run := none }) s
    match unitAt s p r.first with
    | none => s
    | some u =>
      let s := if r.count > 0 then offerUnit u (gapRec u t r.start r.count r.split) s else s
      appendRing u (synth 1 r.total) r.first s

end Sys2Proof.Machine
end

