-- ==== Sys2Proof/Machine/Hedgerow.lean ====
section
/-! DEFINITION. Hedgerow (chapter 3): probe events, collectors, heartbeats, takeovers and spares. -/

namespace Sys2Proof.Machine

/-! ## Stamps and credit (R28, R44, R46, R369) -/

/-- The stamp of an event that leaves the synchroniser of port p now. -/
def portStamp (s : State) (p : Nat) : Nat := collGt s (p / 16) - latOf s p - corrOf s.aon.pwr.ratio

/-- The collector serves its ports. -/
def serving (s : State) (c : Nat) : Bool :=
  let k := collOf s c
  k.cal && k.taking.isNone && k.lost.isNone

/-- The credit spent on an event is returned as the event leaves the buffer: withheld during step 2 of sleep
entry, none while the copy is not calibrated (R44, R46, R324). -/
def returnCredit (p : Nat) (s : State) : State :=
  let c := p / 16
  if !(collOf s c).cal then s
  else if s.aon.pwr.stage == .draining then onColl c (fun k => { k with withheld := k.withheld ++ [p] }) s
  else onPort p (fun t => { t with mirror := sat 4 (t.mirror + 1), cret := (t.cret + 1) % 8 }) s

/-- The four credits that a calibrated collector returns to a port (R46). -/
def fourCredits (p : Nat) : State → State :=
  onPort p fun t => { t with mirror := 4, cret := (t.cret + 4) % 8 }

/-- The class of an event word. -/
def evClass (w : U64) : Nat := fld w 60 4

/-- An event is accepted: it spends a credit, closes the port's run and enters the burst buffer. -/
def acceptEvent (p t : Nat) (w : U64) (s : State) : State :=
  let s := onPort p (fun x => { x with mirror := x.mirror - 1 }) (closeRun p t s)
  let s := onColl (p / 16) (fun k => { k with buf := k.buf ++ [⟨p, t, w, none, engGt s⟩] }) s
  if evClass w = 9 ∧ remapGood s.build p w then
    onSect (p / 256) (fun x => { x with
      remaps := insertBy (fun y z => decide (z.1 < y.1)) (t, p, w) x.remaps }) s
  else s

/-- A valid on a detached port is a loss that the section switch counts (R69): it opens no run. -/
def lossDetached (p t : Nat) (s : State) : State :=
  match unitAt s p t with
  | none => s
  | some u =>
    if ownerAt s u t ≠ (unitOf s u).owner then s
    else ruleCount 2 u t 1 (count (unitOf s u).owner t (bankUnit u fun b => { b with acct := acctLoss b.acct }) s)

/-- `PROBE_VALID`: the switch sees the valid; on a detached port it is a loss (R69), a port without a unit counts it
in its section (R51), and the mirror decides between an event and a loss. -/
def opProbe (p : Nat) (w : U64) (s : State) : State :=
  if s.build.units ≤ p then s
  else
    let t := portStamp s p
    let k := collOf s (p / 16)
    let s := onPort p (fun x => { x with offered := x.offered ++ [t] }) s
    if k.taking.isSome || k.lost.isSome then lossDetached p t s
    else
      let s := if (curUnit s p).isNone then bumpReg (aFlt + 0x80 + 4 * (p / 256)) 0 32 1 s else s
      if (portOf s p).mirror = 0 then lossAt p t s else acceptEvent p t w s

def execProbeValid (port : Nat) (w : U64) : State → Answer := run (inObs (opProbe port w))

/-! ## What an event is (R41, R42, R50, R60) -/

/-- Is the event malformed (R42, R51)? -/
def malformed (b : Build) (p : Nat) (w : U64) : Bool :=
  match evClass w with
  | 0 => true
  | 1 => decide (6 ≤ fld w 56 4)
  | 3 => decide (19 ≤ fld w 32 5) || fld w 0 4 == 15
  | 9 => !remapGood b p w
  | c => decide (12 ≤ c)

/-- Classes attributed by site (Table 3.2). -/
def bySite (c : Nat) : Bool := c == 3 || c == 4 || c == 6 || c == 7 || c == 8 || c == 10 || c == 11

/-- The site's entry for a class attributed by site. -/
def evAttr (s : State) (w : U64) : Option U64 := if bySite (evClass w) then attrOf s (fld w 40 20) else none

/-- The partition that an event of unit u stamped t resolves to. -/
def evPart (s : State) (u t : Nat) (w : U64) : Nat :=
  match evAttr s w with | some e => attrPart e | none => ownerAt s u t

/-! ## Counters (R53, R54, R56, R259) -/

/-- PAYLOAD of an event, the bits its class reserves read as zero (R43). -/
def evPay (w : U64) : U32 :=
  BitVec.setWidth 32 w &&& (match evClass w with | 1 => 0xFFFF0000 | 3 => 0xFFFFFF0F | 9 => 0xFFF | _ => 0xFFFFFFFF)

/-- Fixed and held programmable counters of the unit, and the ops matrix; none for an event stamped before the unit's
last change of owner, which zeroed them (R266). -/
def countEvent (u t : Nat) (w : U64) (s : State) : State :=
  let x := unitOf s u
  if ownerAt s u t ≠ x.owner then s
  else
    let pay := evPay w
    let c := evClass w
    let s := countTo x.owner t (fun fin => bankUnit u fun b =>
      let b := addSel x.sels (fun q => selAdds q c (evCode w) pay) t fin b
      if c = 5 then { b with f0 := add48 b.f0 (fld pay 16 16), f1 := add48 b.f1 (fld pay 0 16) }
      else if c = 4 then { b with f2 := add48 b.f2 pay.toNat } else b) s
    let dead := s.obs.cut.opsDead.contains (opsKey (evPart s u t w) (fld w 32 5) (fld pay 0 4))
      && (boundsOf s x.owner).all fun b => decide (t < b)
    let s := if c = 3 ∧ fld pay 8 24 ≠ 0 ∧ dead = false then
      count x.owner t (bankOps u (evPart s u t w) (fld w 32 5) (fld pay 0 4) (fld pay 8 24)) s else s
    if c = 5 then ruleCount 1 u t (fld pay 0 16) (ruleCount 0 u t (fld pay 16 16) s) else s

/-- A progress event restarts the unit's watchdog (R162). -/
def progress (u t : Nat) (w : U64) (s : State) : State :=
  let x := unitOf s u
  let isProg := match x.wdog with | some d => d.prog || evClass w == 4 | none => evClass w == 4
  if isProg then onUnit u (fun x => { x with
    lastProg := t
    wdog := x.wdog.map fun d => { d with base := max d.base t, expired := false } }) s
  else s

/-! ## Records (R57, R64, R65, R144, R145) -/

/-- Does a range of sites of the context hold the site? -/
def siteIn (c : CtxSt) (site : Nat) : Bool := decide (c.siteFirst ≤ site) && decide (site ≤ c.siteLast)

/-- Does the event match the context's selection (R64)? -/
def selected (s : State) (c : CtxSt) (u t : Nat) (w : U64) : Bool :=
  let k := evClass w
  let onUnit := tracedAt s c u t && c.classMask.testBit k
  if !bySite k then onUnit
  else
    onUnit && (siteIn c (fld w 40 20) || ((evAttr s w).isNone && siteIn c 0xFFFFF))
      && !(match evAttr s w with | some e => bit e 3 | none => false)

/-- Classes that mode SAMPLE samples (Table 3.9). -/
def sampledClass (k : Nat) : Bool := k == 3 || k == 4 || k == 5 || k == 6 || k == 7 || k == 10

/-- ODD of a KV event (R144). -/
def kvOdd (kind refs : Nat) : Bool :=
  if kind = 0 ∨ kind = 2 then refs != 1 else if kind = 1 then decide (refs < 2) else false

/-- The record that a matching event becomes in a context that takes it. -/
def evRecord (s : State) (u t : Nat) (w : U64) (sampled : Bool) : RecBody :=
  let step := stepOf s (ownerAt s u t)
  match evClass w with
  | 1 => .mark (fld w 32 8 != step % 256) u (fld w 56 4) (fld w 40 16) (fld w 16 16) step
  | 8 =>
    let kind := fld w 32 3
    if kind ≥ 5 then .event u w sampled
    else
      let (l, o, r) := match evAttr s w with
        | some e => (attrLayer e, attrOper e, attrRole e)
        | none => (0xFFFF, 0xFFFF, 0)
      .kv (kvOdd kind (fld w 0 8)) (bit w 39) u kind (fld w 40 20) r l o (fld w 8 24) (fld w 0 8) step
  | _ => .event u w sampled

/-- The event is offered to one context (R65): sampling counts the matching events of the sampled classes. -/
def offerEvent (u t : Nat) (w : U64) (x : Nat) (s : State) : State :=
  match ctxOf s x with
  | none => s
  | some c =>
    if c.mode = 0 ∨ !offeredAt c t ∨ !selected s c u t w then s
    else if c.mode = 2 && sampledClass (evClass w) then
      let n := smGet natD c.samples u
      let s := onCtx x (fun c => { c with samples := smPut natD c.samples u (n + 1) }) s
      if n % 2 ^ c.k = 0 then offerRec x ⟨t, evRecord s u t w true⟩ s else s
    else offerRec x ⟨t, evRecord s u t w false⟩ s

/-! ## Items (R66) -/

/-- Does the partition hold an ARMED context? -/
def partArmed (s : State) (p : Nat) : Bool :=
  s.obs.ctxs.any fun e => match e.2 with | some c => ctxArmed c && c.part == p | none => false

/-- From acceptance of its close on, a partition's events feed the operator view and no other output (R269). -/
def partQuiet (s : State) (p : Nat) : Bool := decide (2 ≤ (partOf s p).state)

/-- The item an urgent event pushes. -/
def urgentItem (s : State) (u t : Nat) (w : U64) : Option Item :=
  let p := ownerAt s u t
  if partQuiet s p || (!partArmed s p && (unitOf s u).wdog.isNone) then none
  else if evClass w = 11 then some (mkItem 0x02 p u (evPay w) t)
  else if evClass w = 8 ∧ fld w 32 3 = 4 then some (mkItem 0x03 p u (evPay w) t)
  else if (match evAttr s w with | some e => bit e 2 | none => false) then
    some (mkItem 0x05 p u (BitVec.ofNat 32 (evCode w * 2 ^ 20 + fld w 40 20)) t)
  else none

/-! ## Processing (R47, R48) -/

/-- Order of R47: stamp, port, a transition after the events of its port. -/
def bufKey (e : BufEv) : Nat := (e.stamp * 65536 + e.port) * 2 + b2n e.clk.isSome

/-- A REMAP event's own effects: the records of its unit, and the stops that follow the lines (R51). -/
def remapEffects (p t : Nat) (w : U64) (s : State) : State :=
  let sec := p / 256
  let before := smGet portD (((sectOf s sec).remaps.filter fun r => decide (r.1 < t)).foldl
    (fun m r => applyRemap m r.2.1 r.2.2) s.obs.hed.ports) p
  let oldOf := fun (u : Nat) =>
    let m := ((sectOf s sec).remaps.filter fun r => decide (r.1 < t)).foldl
      (fun m r => applyRemap m r.2.1 r.2.2) s.obs.hed.ports
    ((portsOfSection sec).find? fun q => (smGet portD m q).unit == some u).getD 0x1FFF
  if fld w 32 8 = 0 then
    let l := fld w 0 12
    let s := snapUnit l t s
    let s := offerUnit l ⟨t, .remap false l (oldOf l) p⟩ s
    let s := syncStop l t s
    match before.unit with | some v => syncStop v t (snapUnit v t s) | none => s
  else match before.unit with
    | some v => syncStop v t (offerUnit v ⟨t, .remap true v p 0x1FFF⟩ (snapUnit v t s))
    | none => s

/-- The unit for which an event counts: a RELEASE counts for the unit its port carried before it. -/
def evUnit (s : State) (p t : Nat) (w : U64) : Option Nat :=
  if evClass w = 9 ∧ fld w 32 8 = 1 then unitAt s p (t - 1) else unitAt s p t

/-- Steps 3 to 6 of R48 for an event neither malformed nor fenced, which reached the collector at `at_`. -/
def takeEvent (p u t at_ : Nat) (w : U64) (s : State) : State :=
  let owner := ownerAt s u t
  let s := if evClass w = 2 then
    let s := onHang (fun h => { h with seq := h.seq.map fun q =>
      if q.t ≤ t ∧ (q.steps.find? fun e => e.1 == owner).isNone then { q with steps := q.steps ++ [(owner, stepOf s owner)] }
      else q }) s
    onHed (fun h => { h with steps := smPut natD h.steps owner (fld w 0 32) }) s else s
  let s := progress u t w (countEvent u t w s)
  let s := if owner = (unitOf s u).owner then appendRing u w t s else s
  let s := (ctxIds s).foldl (fun acc x => offerEvent u t w x acc) s
  let s := match urgentItem s u t w with | some i => push (p / 16) i s | none => s
  if evClass w = 1 then
    let layer := fld w 40 16
    let oper := fld w 16 16
    let s := if fld w 56 4 = 1 then matchMarker owner layer oper (stepOf s owner) t at_ s else s
    senMarker ⟨fld w 56 4, layer, oper, owner, t⟩ s
  else s

/-- One event leaves the buffer and is processed. -/
def procEvent (p t at_ : Nat) (w : U64) (s : State) : State :=
  let s := returnCredit p s
  let s := if evClass w = 9 ∧ remapGood s.build p w then remapEffects p t w s else s
  let s := countLink t (fun b => { b with
    rsent := portCount (p / 256) 1 b.rsent, rrecv := portCount (p / 256) 1 b.rrecv }) s
  match evUnit s p t w with
  | none => s
  | some u =>
    let s := onUnit u (fun x => { x with lastEvent := t }) (snapUnit u t s)
    let owner := ownerAt s u t
    let acct := fun (f : U64 → U64) =>
      if owner = (unitOf s u).owner then count owner t (bankUnit u fun b => { b with acct := f b.acct }) s else s
    if malformed s.build p w then acct acctMalformed
    else if evPart s u t w ≠ owner then acct acctFence
    else takeEvent p u t at_ w s

/-- A transition of `CLK_ACTIVE` is processed (R33): the watchdog of the unit and its item (Table 3.10). -/
def procClk (p t : Nat) (level : Bool) (s : State) : State :=
  match unitAt s p t with
  | none => s
  | some u =>
    if level then endStop u t false s
    else if (unitOf s u).stop.isSome then s
    else
      let s := beginStop u t false s
      if (unitOf s u).wdog.isSome && !partQuiet s (unitOf s u).owner then
        push (p / 16) (mkItem 0x04 (unitOf s u).owner u 0 t) s else s

/-- The collector's next flit leaves: an injected CRC error is spent, and the flit is replayed (Table 18.8). -/
def flitSent (c : Nat) (s : State) : State :=
  let p := (collOf s c).phys
  onDbg (fun d => { d with flitErr := d.flitErr.filter (· != p) }) s

/-- The next entry of a collector's buffer leaves it. -/
def procNext (c : Nat) (s : State) : State :=
  match leastBy bufKey (collOf s c).buf with
  | none => s
  | some e =>
    let s := onColl c (fun k => { k with buf := delFirst (fun x => bufKey x == bufKey e) k.buf }) s
    let s := match e.clk with | some l => procClk e.port e.stamp l s | none => procEvent e.port e.stamp e.reached e.word s
    foldRemaps (c / 16) (flitSent c s)

/-- `COLLECTOR_EVENT_PROCESS`. -/
def opProcess (c : Nat) (s : State) : State := if c < s.build.nColl then procNext c s else s

def execCollectorEventProcess (c : Nat) : State → Answer := run (inObs (opProcess c))

/-- A transition enters the buffer, in which it takes its place among the events (R30, R47). -/
def clkEdge (p : Nat) (level : Bool) (s : State) : State :=
  onColl (p / 16) (fun k => { k with buf := k.buf ++ [⟨p, portStamp s p, 0, some level, engGt s⟩] }) s

/-- Does the core take transitions of `CLK_ACTIVE`: it runs, and is not past step 3 of sleep entry (R37)? -/
def takesClk (s : State) : Bool :=
  obsRuns s && s.aon.pwr.stage != .zeroed && s.aon.pwr.stage != .dropped

/-- The line of port p takes a level: a transition is stamped while its collector observes the port (R33, R37). -/
def opClk (p : Nat) (level : Bool) (s : State) : State :=
  if s.build.units ≤ p ∨ (portOf s p).clk = level then s
  else
    let s := onPort p (fun t => { t with clk := level }) s
    if takesClk s && serving s (p / 16) then clkEdge p level s else s

def execClkActiveFall (port : Nat) : State → Answer := run (opClk port false)
def execClkActiveRise (port : Nat) : State → Answer := run (opClk port true)

/-! ## Heartbeats (R27, R68) -/

/-- Ports of a collector. -/
def portsOf (c : Nat) : List Nat := (List.range 16).map (16 * c + ·)

/-- The mirrors of a collector's ports read 0 (R46). -/
def dropMirrors (c : Nat) (s : State) : State :=
  (portsOf c).foldl (fun acc p => onPort p (fun t => { t with mirror := 0 }) acc)
    (onColl c (fun k => { k with withheld := [] }) s)

/-- `HEARTBEAT_ARRIVAL`: a copy more than 1 GT off is a drift error, and that collector alone is recalibrated. -/
def opHeartbeat (c copy : Nat) (s : State) : State :=
  let k := collOf s c
  if s.build.nColl ≤ c ∨ !serving s c ∨ s.obs.hed.hbStop.contains k.phys then s
  else
    let s := onColl c (fun k => { k with misses := 0 }) s
    if copy ≤ now s + 1 ∧ now s ≤ copy + 1 then onColl c (fun k => { k with th := copy }) s
    else
      let s := orReg (aFlt + 0x110) 2 (orReg aTbStat 4 s)
      dropMirrors c (onTb (fun t => { t with calDone := false })
        (onColl c (fun k => { k with cal := false, driftGap := some (now s) }) s))

def execHeartbeatArrival (c copy : Nat) : State → Answer := run (inObs (opHeartbeat c copy))

/-! ## Failure and takeover (R69 to R73, R340, R341, R390) -/

/-- Units whose ports logical collector c serves after `RST_N`: those its takeover restores. -/
def unitsOf (s : State) (c : Nat) : List Nat := (portsOf c).filterMap fun p => curUnit s p

/-- Is the mark a cut of partition p? -/
def markOf (p : Nat) (m : CutMark) : Bool := match m.part with | none => true | some q => q == p

/-- Is GT t a cut of partition p? -/
def isCutOf (s : State) (p t : Nat) : Bool := s.obs.cut.marks.any fun m => m.t == t && markOf p m

/-- Tc (R70): the latest cut of every affected unit's partition that was final 16 GT before Th; 0 with none. -/
def cutBefore (s : State) (c th : Nat) : Nat :=
  let owners := ((unitsOf s c).map fun u => (unitOf s u).owner).eraseDups
  ((s.obs.cut.marks.filter fun m => decide (m.t + 16 ≤ th) && owners.all fun p => isCutOf s p m.t).map (·.t)).foldl max 0

/-- What a takeover can no longer need of a unit's log of stops. -/
def trimStops (low : Nat) (x : UnitSt) : UnitSt :=
  let old := x.stops.filter fun e => decide (e.1 < low)
  { x with stops := old.drop (old.length - 1) ++ x.stops.filter fun e => decide (low ≤ e.1) }

/-- A cut is marked with its live bank; what no takeover can need any more is dropped. -/
def addMark (m : CutMark) (s : State) : State :=
  let s := onCut (fun c => { c with marks := c.marks ++ [m] }) s
  let tcs := (List.range s.build.nColl).map fun c => match (collOf s c).taking, (collOf s c).lost with
    | some k, _ => k.tc
    | none, some tc => tc
    | none, none => cutBefore s c (collOf s c).th
  let low := tcs.foldl min m.t
  let trim := fun (v : PortSt) => { v with offered := v.offered.filter fun x => decide (low ≤ x) }
  onHed (fun h => { h with ports := smMap portD trim h.ports, units := smMap unitD (trimStops low) h.units })
    (onCut (fun c => { c with marks := c.marks.filter fun x => decide (low ≤ x.t) }) s)

/-! ### Values at Tc (R69, R70, R73, R335) -/

/-- The live bank of partition p at its cut tc; zero where there was none. -/
def bankAt (s : State) (p tc : Nat) : Bank :=
  match s.obs.cut.marks.find? fun m => m.t == tc && markOf p m with
  | some m => wholeBank m.bank
  | none => default

/-- A bank whose unit u holds the counters `x` and the shares `o` of the ops matrix. -/
def putUnit (u : Nat) (x : UnitBank) (o : SMap U64) (b : Bank) : Bank :=
  { b with
    u := smPut ubankD b.u u x
    ops := o.foldl (fun m e => smPut u64D m e.1 e.2) (b.ops.filter fun e => opsUnit e.1 != u) }

/-- Did a boundary of partition p restart its live counters after tc and up to t? -/
def restartedIn (s : State) (p tc t : Nat) : Bool :=
  s.obs.cut.marks.any fun m => m.restart && markOf p m && decide (tc < m.t) && decide (m.t ≤ t)

/-- Unit u's counters and its shares of the ops matrix go back to their values at Tc, in the running bank and in every
cut after Tc; a restart after Tc leaves none of the shares. -/
def restoreUnit (tc u : Nat) (s : State) : State :=
  let p := (unitOf s u).owner
  let b := bankAt s p tc
  let x := smGet ubankD b.u u
  let o := b.ops.filter fun e => opsUnit e.1 == u
  let ofCut := fun (t : Nat) => if restartedIn s p tc t then [] else o
  let put := fun (t : Nat) (z : Split) =>
    { live := putUnit u x (ofCut t) z.live, after := z.after.map fun e => (e.1, putUnit u default [] e.2) : Split }
  let und := match (epochOf s p).undrained with
    | some e => if tc < e.fin then some (if e.start ≤ tc then o else []) else none
    | none => none
  onCut (fun c =>
    let c := onCuts (fun lim z => if tc < lim then put lim z else z) c
    { c with
      shadow := c.shadow.map fun z => if tc < z.t then { z with bank := putUnit u (smGet ubankD z.bank.u u) (ofCut z.t) z.bank } else z
      epochBank := match und with
        | some o => putUnit u (smGet ubankD c.epochBank.u u) o c.epochBank
        | none => c.epochBank }) s

/-- The cuts after Tc already final report the units with LOST (R70, R73). -/
def loseCuts (tc : Nat) (us : List Nat) (s : State) : State :=
  us.foldl (fun acc u =>
    let sh := match acc.obs.cut.shadow with | some z => decide (tc < z.t) | none => false
    let ep := match (epochOf acc (unitOf acc u).owner).undrained with | some e => decide (tc < e.fin) | none => false
    if sh || ep then onUnit u (fun x => { x with shadowLost := x.shadowLost || sh, epochLost := x.epochLost || ep }) acc
    else acc) s

/-! ### The spare -/

/-- The lowest-numbered idle spare of a section. -/
def idleSpare (s : State) (sec : Nat) : Option Nat := leastBy id (sectOf s sec).idle

/-- Logical collectors of a section with a takeover in progress. -/
def takings (s : State) (sec : Nat) : List (Nat × Takeover) :=
  (List.range 16).filterMap fun k => (collOf s (16 * sec + k)).taking.map fun x => (16 * sec + k, x)

/-- Collectors of the build whose copies are due a calibration (R25): those that serve, and chosen spares. -/
def toCalibrate (s : State) : List Nat :=
  (List.range s.build.nColl).filter fun c =>
    let k := collOf s c
    match k.taking with
    | some x => x.spare.isSome && !x.cal
    | none => k.lost.isNone && !k.cal

/-- CAL_DONE is set once every present collector is calibrated (R25). -/
def settleCal (s : State) : State :=
  if !s.aon.tb.full && (toCalibrate s).isEmpty then onTb (fun t => { t with calDone := true }) s else s

/-- The units of collector c are marked LOST (R73): their counters hold their values at Tc. -/
def loseColl (c td tc : Nat) (s : State) : State :=
  let us := unitsOf s c
  let s := onColl c (fun k => { k with taking := none, lost := some tc }) s
  let s := us.foldl (fun acc u => restoreUnit tc u acc) s
  settleCal (us.foldl (fun acc u => offerUnit u ⟨td, .gap true false u 3 tc 0⟩ acc) s)

/-- The takeover of a section that has waited longest takes the lowest idle spare, whose calibration begins, unless
another of the section still runs (R69, R340). -/
def startTakeover (sec : Nat) (s : State) : State :=
  let ts := takings s sec
  match leastBy (fun e => e.2.td) ts with
  | none => s
  | some (c, k) =>
    if ts.any fun e => e.2.spare.isSome then s
    else match idleSpare s sec with
      | none => ts.foldl (fun acc e => loseColl e.1 e.2.td e.2.tc acc) s
      | some j =>
        let s := onSect sec (fun x => { x with idle := x.idle.filter (· != j), checking := x.checking ++ [j] }) s
        let s := onColl c (fun q => { q with taking := some { k with spare := some (32 * sec + j) } }) s
        let s := onTb (fun t => { t with calDone := false }) s
        if (sectOf s sec).idle.isEmpty then orReg (aFlt + 0x110) 8 s else s

/-- A takeover of collector c from Tc: it takes a spare or waits for the section's earlier takeover, or, with no idle
spare left for it, its units are marked LOST (R69, R73, R340). -/
def beginTakeover (c td tc : Nat) (s : State) : State :=
  let sec := c / 16
  let waiting := (takings s sec).filter fun e => e.2.spare.isNone
  if (sectOf s sec).idle.length ≤ waiting.length then loseColl c td tc s
  else startTakeover sec (onColl c (fun k => { k with taking := some ⟨td, tc, none, false, false⟩, lost := none }) s)

/-- The spare a collector's COLL_FAIL item names: one that waits will be given the lowest idle one. -/
def spareArg (s : State) (c : Nat) : Nat :=
  match (collOf s c).taking with
  | some k => k.spare.getD (match idleSpare s (c / 16) with | some j => 32 * (c / 16) + j | none => 0xFFF)
  | none => 0xFFF

/-- What leaves with a failed collector: its buffer, its credits and its ports' open runs. -/
def detach (c : Nat) (s : State) : State :=
  let gone := (collOf s c).buf
  let s := onColl c (fun k => { k with buf := [], cal := false }) s
  let lives := fun (r : Nat × Nat × U64) => !gone.any fun e => e.port == r.2.1 && e.stamp == r.1 && e.word == r.2.2
  let s := onSect (c / 16) (fun x => { x with remaps := x.remaps.filter lives }) s
  dropMirrors c ((portsOf c).foldl (fun acc p => onPort p (fun t => { t with run := none }) acc) s)

/-- A failure is declared at Td (R68, R69). -/
def declareFailed (c td : Nat) (s : State) : State :=
  let k := collOf s c
  let tc := cutBefore s c k.th
  let s := loseCuts tc (unitsOf s c) (detach c s)
  let s := setReg 0xB00C (lo32 td) (setReg 0xB010 (hi32 td)
    (setReg (aFlt + 8) (BitVec.ofNat 32 (2 ^ 31 + k.phys * 2 ^ 16 + c)) s))
  let s := onSect (c / 16) (fun x => { x with out := x.out ++ [k.phys % 32] }) s
  let s := beginTakeover c td tc (orReg (aFlt + 0x110) 4 s)
  push c (mkItem 0x01 0 c (BitVec.ofNat 32 (spareArg s c)) td) s

/-- `HEARTBEAT_MISS`: counted when the next is due, the third in succession declares the collector failed. -/
def opHeartbeatMiss (c : Nat) (s : State) : State :=
  let k := collOf s c
  if s.build.nColl ≤ c ∨ !serving s c ∨ now s < k.th + 16384 * (k.misses + 2) then s
  else if k.misses ≥ 2 then declareFailed c (now s) s
  else onColl c (fun k => { k with misses := k.misses + 1 }) s

def execHeartbeatMiss (c : Nat) : State → Answer := run (inObs (opHeartbeatMiss c))

/-! ### The resume -/

/-- Valids offered on the port of a unit over [a, b). -/
def offeredIn (s : State) (p a b : Nat) : Nat :=
  ((portOf s p).offered.filter fun t => decide (a ≤ t) && decide (t < b)).length

/-- The unit's stops at Tr (R34): the records inside [Tc, Tr) are discarded, so the last GT before Tr brings the records
back to the stop or the run that stood at Tc, and from Tr on the stop follows the line. -/
def resumeStop (tc tr u : Nat) (s : State) : State :=
  let x := unitOf s u
  let was := stoppedAt x tc
  let s := match was, x.stop with
    | false, some _ => noteStop u tc true (offerUnit u ⟨tr - 1, .clkrun false u⟩ (onUnit u (fun x => { x with stop := none }) s))
    | true, none => noteStop u tc false (offerUnit u ⟨tr - 1, .clkstop false u⟩ (onUnit u (fun x => { x with stop := some (tr, tr) }) s))
    | _, _ => onUnit u (fun x => { x with stop := x.stop.map fun e => (e.1, tr) }) s
  syncStop u tr s

/-- One unit at Tr: its live counters go back to Tc, its ring is cut there, its contexts receive the GAP record, and its
stop follows the line (R34, R70, R160). -/
def resumeUnit (tc tr p u : Nat) (s : State) : State :=
  let n := offeredIn s p tc tr
  let s := restoreUnit tc u (if stoppedAt (unitOf s u) tc then accrue u tc s else s)
  let s := onUnit u (fun x => { x with ring := x.ring.filter (fun e => decide (e.2 < tc)), restart := max x.restart tr }) s
  let s := appendRing u (synth 5 n) tc s
  let s := offerUnit u ⟨tr, .gap false false u 2 tc n⟩ s
  resumeStop tc tr u s

/-- Partitions that own one of the units. -/
def ownersOf (s : State) (us : List Nat) : List Nat := (us.map fun u => (unitOf s u).owner).eraseDups

/-- The spare's rows are checked: the incarnation rises and the routers take it (Table 3.11, R71). -/
def routersUpdated (c : Nat) (s : State) : State :=
  match (collOf s c).taking with
  | some ⟨td, tc, some j, cal, false⟩ =>
    let n := (collOf s c).inc % 255 + 1
    onHed (fun h => { h with physInc := smPut physIncD h.physInc j n })
      (onColl c (fun x => { x with inc := n, taking := some ⟨td, tc, some j, cal, true⟩ }) s)
  | _ => s

/-- May the takeover of c end: its spare's copy is calibrated, earlier ones of its section have ended, and no forced
boundary of its partitions is still to be taken (Table 15.3, R95)? -/
def mayResume (s : State) (c : Nat) (k : Takeover) : Bool :=
  k.spare.isSome && k.cal && (ownersOf s (unitsOf s c)).all fun p => (epochOf s p).forcedTb.isNone

/-- `TAKEOVER_RESUME` at Tr (R69, R70, R71, R95): the ports switch to the spare. -/
def opResume (c : Nat) (s : State) : State :=
  match (collOf s c).taking with
  | none => s
  | some k =>
    if s.build.nColl ≤ c ∨ !mayResume s c k then s
    else
      let tr := now s
      let s := routersUpdated c s
      let j := k.spare.getD 0
      let s := onColl c (fun x => { x with
        phys := j, taking := none, lost := none, cal := true, th := tr, misses := 0
        lastTake := some (k.tc, tr), driftGap := none }) s
      let s := onSect (c / 16) (fun x => { x with checking := x.checking.filter (· != j % 32) }) s
      let s := bumpReg (aFlt + 4) 24 8 1 s
      let us := unitsOf s c
      let s := (portsOf c).foldl (fun acc p => match curUnit acc p with
        | some u => resumeUnit k.tc tr p u acc
        | none => acc) s
      let s := (portsOf c).foldl (fun acc p => fourCredits p acc) s
      startTakeover (c / 16)
        ((ownersOf s us).foldl (fun acc p => onEpoch p (fun e => { e with forcedTb := some tr }) acc) s)

def execTakeoverResume (c : Nat) : State → Answer := run (inObs (opResume c))

/-- `FENCED_COLLECTOR_SPEAKS` (R71, R72): only a collector declared failed and still out. What it sends is dropped and
counted, and its heartbeat is answered FENCED. -/
def opFenced (phys : Nat) (s : State) : State :=
  let sec := phys / 32
  let x := sectOf s sec
  if sec < s.build.sections ∧ x.out.contains (phys % 32) ∧ !x.oos.contains (phys % 32) then
    let s := bumpReg aFlt 0 32 1 (orReg (aFlt + 0x110) 1 (bumpReg (aFlt + 4) 16 8 1 s))
    onSect sec (fun x => { x with
      fenced := if x.fenced.contains (phys % 32) then x.fenced else x.fenced ++ [phys % 32] }) s
  else s

def execFencedCollectorSpeaks (phys : Nat) : State → Answer := run (inObs (opFenced phys))

/-- A spare becomes idle: LOST units of its section are taken over, lowest collector first (R341). -/
def spareIdle (sec : Nat) (s : State) : State :=
  match (List.range 16).find? fun k => (collOf s (16 * sec + k)).lost.isSome with
  | some k =>
    let c := 16 * sec + k
    match (collOf s c).lost with
    | some tc => beginTakeover c (now s) tc s
    | none => s
  | none => s

/-- The logical collector for which a spare is being checked. -/
def takerOf (s : State) (phys : Nat) : Option Nat :=
  ((takings s (phys / 32)).find? fun e => e.2.spare == some phys).map (·.1)

/-- The spare chosen for collector c fails its row check: the next idle spare is chosen (Table 15.3). -/
def spareFails (phys c : Nat) (s : State) : State :=
  startTakeover (phys / 32)
    (onColl c (fun k => { k with taking := k.taking.map fun t => { t with spare := none, cal := false, ready := false } })
      (onSect (phys / 32) (fun x => { x with
        checking := x.checking.filter (· != phys % 32), out := x.out ++ [phys % 32], oos := x.oos ++ [phys % 32] }) s))

/-- Firmware's test of an idle spare, before READY (Table 14.4, step 7): one that fails leaves the pool. -/
def spareTested (phys : Nat) (pass : Bool) (s : State) : State :=
  let j := phys % 32
  if pass then s
  else onSect (phys / 32) (fun x => { x with
    idle := x.idle.filter (· != j), out := x.out ++ [j], oos := x.oos ++ [j] }) s

/-- `COLLECTOR_SELF_TEST_DONE` (R72, R330, R341): the check of a chosen spare, and firmware's test of a fenced
collector or, before READY, of an idle spare. -/
def opSelfTest (phys : Nat) (pass : Bool) (s : State) : State :=
  let sec := phys / 32
  let j := phys % 32
  let x := sectOf s sec
  if s.build.sections ≤ sec then s
  else match takerOf s phys with
    | some c => if pass then routersUpdated c s else spareFails phys c s
    | none =>
      if !s.aon.pwr.fwOk ∨ s.aon.pwr.hedgerDown then s
      else if x.idle.contains j ∧ !s.aon.pwr.ready then spareTested phys pass s
      else if !x.fenced.contains j then s
      else if pass then
        spareIdle sec (bumpReg (aFlt + 4) 8 8 1 (onHed (fun h => { h with physInc := smPut physIncD h.physInc phys 0 })
          (onSect sec (fun x => { x with
            idle := x.idle ++ [j], out := x.out.filter (· != j), fenced := x.fenced.filter (· != j) }) s)))
      else bumpReg (aFlt + 4) 0 8 1 (onSect sec (fun x => { x with
          fenced := x.fenced.filter (· != j), oos := x.oos ++ [j] }) s)

def execCollectorSelfTestDone (phys : Nat) (pass : Bool) : State → Answer := run (inObs (opSelfTest phys pass))

end Sys2Proof.Machine
end

