-- ==== Sys2Proof/Machine/Operands.lean ====
section
/-! DEFINITION. Element formats, block scales, bins and exact sums of the Numeric Lens (R100, R103 to R117), and
the slot image (R113). -/

namespace Sys2Proof.Machine

/-! ## Formats (Table 5.3) -/

/-- Element width in bits. -/
def fmtBits (f : Nat) : Nat :=
  match f with
  | 0 => 32 | 8 => 32 | 1 => 16 | 2 => 16 | 9 => 16 | 5 => 6 | 6 => 6 | 7 => 4 | 12 => 4 | 13 => 4 | 15 => 0
  | _ => 8

/-- Full count of a beat (Table 5.2). -/
def fmtFull (f : Nat) : Nat :=
  match fmtBits f with
  | 4 => 512 | 6 => 320 | 8 => 256 | 16 => 128 | 32 => 64 | _ => 1023

/-- P of Table 5.3. -/
def fmtP (f : Nat) : Nat :=
  match f with
  | 0 => 23 | 1 => 7 | 2 => 10 | 3 => 3 | 4 => 2 | 5 => 2 | 6 => 3 | 7 => 1 | 8 => 31 | 9 => 15 | 10 => 7 | 11 => 7
  | 12 => 3 | 13 => 3 | _ => 0

/-- May the format be block-scaled (R104)? -/
def fmtScalable (f : Nat) : Bool := (decide (3 ≤ f) && decide (f ≤ 7)) || (decide (10 ≤ f) && decide (f ≤ 13))

def fmtInt (f : Nat) : Bool := decide (8 ≤ f) && decide (f ≤ 13)

/-- Exponent bits, fraction bits and bias of a float format. -/
def fmtFloat (f : Nat) : Nat × Nat × Nat :=
  match f with
  | 0 => (8, 23, 127) | 1 => (8, 7, 127) | 2 => (5, 10, 15) | 3 => (4, 3, 7) | 4 => (5, 2, 15) | 5 => (3, 2, 3)
  | 6 => (2, 3, 1) | _ => (2, 1, 1)

/-- Formats with infinities. -/
def fmtInf (f : Nat) : Bool := f == 0 || f == 1 || f == 2 || f == 4

/-- A decoded element: (−1)^neg × m × 2^e where it is finite; `sat`: the max finite value or an integer extreme;
`small`: a subnormal float, or an integer of magnitude 1. -/
structure Val where
  nan : Bool
  byScale : Bool
  inf : Bool
  neg : Bool
  sat : Bool
  small : Bool
  m : Nat
  e : Int
deriving DecidableEq, Repr, Inhabited

def valNan : Val := { (default : Val) with nan := true }

def decodeFloat (f c : Nat) : Val :=
  let (E, M, b) := fmtFloat f
  let x := nfld c M E
  let t := nfld c 0 M
  let neg := c.testBit (E + M)
  let top := 2 ^ E - 1
  if fmtInf f && x == top then (if t = 0 then { (default : Val) with inf := true, neg := neg } else valNan)
  else if f = 3 ∧ x = top ∧ t = 7 then valNan
  else
    let maxX := if fmtInf f then top - 1 else top
    let maxT := if f = 3 then 6 else 2 ^ M - 1
    { nan := false, byScale := false, inf := false, neg := neg, sat := x == maxX && t == maxT, small := x == 0
      m := if x = 0 then t else 2 ^ M + t
      e := (if x = 0 then 1 else (x : Int)) - b - M }

def decodeInt (f c : Nat) : Val :=
  let w := fmtBits f
  let uns := f == 11 || f == 13
  let v : Int := if uns then (c : Int) else sgn w c
  { nan := false, byScale := false, inf := false, neg := decide (v < 0)
    sat := if uns then c == 2 ^ w - 1 else c == 2 ^ (w - 1) || c == 2 ^ (w - 1) - 1
    small := v.natAbs == 1, m := v.natAbs, e := 0 }

/-- Decode one element. -/
def decodeElem (f c : Nat) : Val :=
  if fmtInt f then decodeInt f c
  else if f = 14 then
    (if c = 255 then valNan else { (default : Val) with m := 1, e := (c : Int) - 127, sat := c == 254 })
  else decodeFloat f c

/-! ## Block scales (Table 5.4, R106, R107) -/

/-- Elements per scale; 0 without scales. -/
def scaleBlock (k : Nat) : Nat := if k = 1 then 32 else if k = 0 then 0 else 16

/-- P added to the element's. -/
def scaleP (k : Nat) : Nat := if k = 3 then 4 else 0

/-- Decode a scale. -/
def decodeScale (k c : Nat) : Val := if k = 3 then decodeFloat 3 c else { decodeElem 14 c with sat := false }

/-- The scaled value, formed exactly. -/
def scaleVal (v sc : Val) : Val :=
  if sc.nan || (sc.m == 0 && v.inf) then { valNan with byScale := true }
  else if v.nan then v
  else { v with neg := v.neg != sc.neg, m := v.m * sc.m, e := v.e + sc.e, small := v.small }

/-- Binade of a non-zero finite value. -/
def binade (m : Nat) (e : Int) : Int := (Nat.log2 m : Int) + e

/-- Bin of the scale histogram. -/
def scaleBin (sc : Val) : Nat :=
  if sc.nan then 31 else if sc.m = 0 then 0
  else 1 + (min 29 (max 0 ((binade sc.m sc.e + 60) / 4))).toNat

/-! ## Exact values -/

/-- Drop trailing zero bits. -/
def strip : Nat → Int → Int → Dyadic
  | 0, m, e => ⟨m, e⟩
  | n + 1, m, e => if m = 0 then ⟨0, 0⟩ else if m % 2 = 0 then strip n (m / 2) (e + 1) else ⟨m, e⟩

def dyad (m e : Int) : Dyadic := strip 700 m e

/-- The finite value of an element. -/
def Dyadic.ofVal (v : Val) : Dyadic := dyad (if v.neg then -(v.m : Int) else v.m) v.e

/-- Both values in units of the smaller exponent. -/
def dyAlign (a b : Dyadic) : Int × Int :=
  let e := min a.e b.e
  (a.m * 2 ^ (a.e - e).toNat, b.m * 2 ^ (b.e - e).toNat)

def dyLt (a b : Dyadic) : Bool := let (x, y) := dyAlign a b; decide (x < y)
def dySub (a b : Dyadic) : Dyadic := let (x, y) := dyAlign a b; dyad (x - y) (min a.e b.e)
def dyAbs (a : Dyadic) : Dyadic := { a with m := a.m.natAbs }

def optMin : Option Dyadic → Option Dyadic → Option Dyadic
  | some a, some b => if dyLt b a then some b else some a
  | some a, none => some a
  | none, y => y

def optMax : Option Dyadic → Option Dyadic → Option Dyadic
  | some a, some b => if dyLt a b then some b else some a
  | some a, none => some a
  | none, y => y

/-- IEEE 754 binary64 of an exact value. -/
def toBinary64 (d : Dyadic) : U64 :=
  if d.m = 0 then 0
  else
    let a := d.m.natAbs
    let l := Nat.log2 a
    let b := (l : Int) + d.e
    if 52 < l ∨ b < -1022 ∨ 1023 < b then Config.binary64 d.m d.e
    else BitVec.ofNat 64 (b2n (decide (d.m < 0)) * 2 ^ 63 + (b + 1023).toNat * 2 ^ 52 + (a * 2 ^ (52 - l) - 2 ^ 52))

/-- The least bfloat16 code at or above a magnitude (R115). -/
def bf16Up (m : Nat) (e : Int) : Nat :=
  if m = 0 then 0
  else
    let b := binade m e
    let k := if b < -126 then -133 else b - 7
    let q := if k ≤ e then m * 2 ^ (e - k).toNat else ceilDiv m (2 ^ (k - e).toNat)
    min 0x7F80 (if b < -126 then q else ((b + 127).toNat * 128 + (q - 128)))

/-! ## Bins (R108 to R111) -/

/-- How a slot bins: wide-range or fixed, origin, step, P_eff, and unit sums (R109, R110). -/
structure BinCfg where
  origin : Int
  step : Nat
  peff : Nat
  unit1 : Bool
  pair : Bool
  scaled : Bool
  intFmt : Bool
deriving DecidableEq, Repr, Inhabited

/-- A fixed-origin slot (R109). -/
def fixedOrigin (fmt scale : Nat) (pair : Bool) : Bool :=
  scale == 0 && !pair && ((decide (2 ≤ fmt) && decide (fmt ≤ 7)) || (decide (9 ≤ fmt) && decide (fmt ≤ 13)))

/-- Lowest normal binade of a float, or 1 for integers. -/
def fixedO (fmt : Nat) : Int :=
  match fmt with
  | 2 => -14 | 3 => -6 | 4 => -14 | 5 => -2 | 6 => 0 | 7 => 0 | _ => 1

def binCfg (k : Slot) : BinCfg :=
  let fixed := fixedOrigin k.fmt k.scale k.pair
  { origin := if fixed then fixedO k.fmt else k.origin
    step := if fixed then 1 else 2 ^ k.binStep
    peff := if k.pair then max (fmtP k.fmt) (fmtP k.qfmt + scaleP k.scale) + 1 else fmtP k.fmt + scaleP k.scale
    unit1 := !k.pair && k.scale == 0 && fmtInt k.fmt
    pair := k.pair, scaled := k.scale != 0, intFmt := fmtInt k.fmt }

/-- Exponent of L(k). -/
def unitExp (c : BinCfg) (k : Nat) : Int :=
  if c.unit1 then 0
  else if k = 1 then c.origin - c.peff
  else c.origin + ((k : Int) - 2) * c.step - c.peff

/-- The bin by binade, and whether it was clamped low or high (R109). -/
def binByBinade (c : BinCfg) (b : Int) : Nat × Bool × Bool :=
  let k := 2 + (b - c.origin) / c.step
  if k < 2 then (2, true, false) else if 61 < k then (61, false, true) else (k.toNat, false, false)

/-- Largest count of a bin. -/
def maxCount : Nat := 2 ^ 40 - 1

/-- One element into a bin below saturation; a saturated bin only sets SAT. -/
def putBin (k : Nat) (f : Bin → Bin) (i : Img) : Img :=
  let b := smGet (fun _ => default) i.bins k
  if b.n ≥ maxCount then { i with sat := true }
  else { i with bins := smIns i.bins k { f b with n := b.n + 1 } }

/-- A finite value's contribution to a bin (R110): truncated quotient, its square, and whether a remainder was lost. -/
def putValue (c : BinCfg) (k : Nat) (d : Dyadic) (i : Img) : Img :=
  let x := unitExp c k
  let q : Int := if x ≤ d.e then d.m * 2 ^ (d.e - x).toNat else Int.tdiv d.m (2 ^ (x - d.e).toNat)
  let lossy := decide (d.e < x) && Int.tmod d.m (2 ^ (x - d.e).toNat) != 0
  let i := putBin k (fun b => { b with sum := b.sum + q, sq := b.sq + q.natAbs ^ 2 }) i
  if lossy then { i with trunc := sat (2 ^ 40 - 1) (i.trunc + 1) } else i

/-- A non-zero finite value goes to its bin by binade. -/
def putWide (c : BinCfg) (d : Dyadic) (i : Img) : Img :=
  let (k, lo, hi) := binByBinade c (binade d.m.natAbs d.e)
  if hi then { putBin 61 id i with clampHi := sat (2 ^ 40 - 1) (i.clampHi + 1) }
  else if lo then putValue c 2 d { i with clampLo := sat (2 ^ 40 - 1) (i.clampLo + 1) }
  else putValue c k d i

/-- A finite value enters the extremes (R114). -/
def putExtreme (d : Dyadic) (i : Img) : Img :=
  { i with mn := optMin i.mn (some d), mx := optMax i.mx (some d), amx := optMax i.amx (some (dyAbs d)) }

/-- A stamp enters the image's first and last stamps, and one element its count. -/
def putStamp (t : Nat) (i : Img) : Img :=
  { i with
    elems := sat (2 ^ 48 - 1) (i.elems + 1), lastStamp := max i.lastStamp t
    firstStamp := match i.firstStamp with | some x => some (min x t) | none => some t }

def putNeg (i : Img) : Img := { i with neg := sat (2 ^ 40 - 1) (i.neg + 1) }

/-- One element (R108, R110, R111, R114). -/
def putElem (c : BinCfg) (v : Val) (t : Nat) (i : Img) : Img :=
  let i := putStamp t i
  if v.nan then
    putBin 63 (fun b => if v.byScale then { b with s1 := b.s1 + 1 } else { b with s0 := b.s0 + 1 }) i
  else if v.inf then
    let i := if v.neg then putNeg i else i
    putBin 62 (fun b => if v.neg then { b with s0 := b.s0 + 1 } else { b with s1 := b.s1 + 1 }) i
  else
    let d := Dyadic.ofVal v
    let i := putExtreme d (if d.m < 0 then putNeg i else i)
    if v.sat then putBin 62 (fun b => if v.neg then { b with q0 := b.q0 + 1 } else { b with q1 := b.q1 + 1 }) i
    else if v.m = 0 then putBin 0 (fun b => if v.neg then { b with s0 := b.s0 + 1 } else b) i
    else if v.small && (!c.intFmt || !c.scaled) then putValue c 1 d i
    else putWide c d i

/-- One pair (R117): source s and scaled partner q. -/
def putPair (c : BinCfg) (s q : Val) (t : Nat) (i : Img) : Img :=
  let i := putStamp t i
  let i := if q.sat && !q.nan && !q.inf then { i with satPairs := sat (2 ^ 24 - 1) (i.satPairs + 1) } else i
  if s.nan || q.nan then
    putBin 63 (fun b => if q.byScale then { b with s1 := b.s1 + 1 } else { b with s0 := b.s0 + 1 }) i
  else if s.inf || q.inf then
    let neg := if s.inf && q.inf && s.neg == q.neg then false else if q.inf then q.neg else !s.neg
    let i := if neg then putNeg i else i
    putBin 62 (fun b => if neg then { b with s0 := b.s0 + 1 } else { b with s1 := b.s1 + 1 }) i
  else
    let d := dySub (Dyadic.ofVal q) (Dyadic.ofVal s)
    let i := putExtreme d (if d.m < 0 then putNeg i else i)
    if d.m = 0 then putBin 0 id i else putWide c d i

/-- A block's scale enters the histogram and SCALE_NEG (R106, R107). -/
def putScale (sc : Val) (i : Img) : Img :=
  let k := scaleBin sc
  { i with
    hist := smIns i.hist k (sat 0xFFFFFFFF (smGet natD i.hist k + 1))
    scaleNeg := if sc.neg && !sc.nan && sc.m != 0 then sat 0xFFFFFFFF (i.scaleNeg + 1) else i.scaleNeg }

/-! ## Merging (R92, R112, R123) -/

/-- Two bins of index k; `fr` numbers the free value of a bin that saturates here. -/
def binAdd (fr k : Nat) (a b : Bin) : Bin :=
  if a.n ≥ maxCount ∨ b.n = 0 then a
  else if b.n ≥ maxCount ∧ a.n = 0 then b
  else if maxCount < a.n + b.n then { Config.freeBin fr k with n := maxCount }
  else ⟨a.n + b.n, a.sum + b.sum, a.sq + b.sq, a.s1 + b.s1, a.s0 + b.s0, a.q1 + b.q1, a.q0 + b.q0⟩

def mergeBins (fr : Nat) (a b : SMap Bin) : SMap Bin :=
  b.foldl (fun acc e => smIns acc e.1 (binAdd fr e.1 (smGet (fun _ => default) acc e.1) e.2)) a

/-- Does a bin pass saturation in the merge? -/
def binOver (a b : SMap Bin) : Bool :=
  b.any fun e => decide (maxCount < (smGet (fun _ => (default : Bin)) a e.1).n + e.2.n)

/-- The merge of two images: of one slot's commits, or of two epochs. -/
def imgAdd (fr : Nat) (a b : Img) : Img :=
  { bins := mergeBins fr a.bins b.bins
    hist := b.hist.foldl (fun acc e => smIns acc e.1 (sat 0xFFFFFFFF (smGet natD acc e.1 + e.2))) a.hist
    mn := optMin a.mn b.mn, mx := optMax a.mx b.mx, amx := optMax a.amx b.amx
    neg := sat (2 ^ 40 - 1) (a.neg + b.neg), clampLo := sat (2 ^ 40 - 1) (a.clampLo + b.clampLo)
    clampHi := sat (2 ^ 40 - 1) (a.clampHi + b.clampHi), trunc := sat (2 ^ 40 - 1) (a.trunc + b.trunc)
    elems := sat (2 ^ 48 - 1) (a.elems + b.elems), streams := sat (2 ^ 32 - 1) (a.streams + b.streams)
    scaleNeg := sat (2 ^ 32 - 1) (a.scaleNeg + b.scaleNeg), lostElems := sat (2 ^ 40 - 1) (a.lostElems + b.lostElems)
    satPairs := sat (2 ^ 24 - 1) (a.satPairs + b.satPairs), merged := sat 0xFFFF (a.merged + b.merged)
    firstStamp := match a.firstStamp, b.firstStamp with
      | some x, some y => some (min x y) | some x, none => some x | none, y => y
    lastStamp := max a.lastStamp b.lastStamp
    sat := a.sat || b.sat || binOver a.bins b.bins, incomplete := a.incomplete || b.incomplete }

/-- Elements lost to an image (R116, R120, R127). -/
def imgLost (n : Nat) : Img := { (default : Img) with lostElems := sat (2 ^ 40 - 1) n, incomplete := true }

/-! ## The slot image (R113) -/

/-- What a reader finds beside the statistics: cut ID, KIND and the flags. -/
structure ImgTag where
  slot : Nat
  cutId : Nat
  kind : Nat
  cutLost : Bool
  foreign : Bool
  unbound : Bool
deriving DecidableEq, Repr, Inhabited

/-- Word 0 of an image. -/
def imgWord0 (g : ImgTag) (k : Slot) (i : Img) : Nat :=
  g.slot * 2 ^ 48 + g.cutId % 2 ^ 16 * 2 ^ 32 + k.part * 2 ^ 28 + k.fmt * 2 ^ 24 + k.qfmt * 2 ^ 20 + k.scale * 2 ^ 18
    + b2n k.pair * 2 ^ 17 + b2n (!k.resident) * 2 ^ 16 + b2n g.cutLost * 2 ^ 15 + b2n i.incomplete * 2 ^ 14
    + b2n i.sat * 2 ^ 13 + g.kind * 2 ^ 11

/-- The 32 bytes of a bin as four words. -/
def binWords (k : Nat) (b : Bin) : List U64 :=
  let sub := k == 0 || k == 62 || k == 63
  let sum := if sub then b.s1 * 2 ^ 40 + b.s0 else tc 88 b.sum
  let sq := if sub then b.q1 * 2 ^ 40 + b.q0 else b.sq
  let w := b.n + sum * 2 ^ 40 + sq * 2 ^ 128
  [BitVec.ofNat 64 w, BitVec.ofNat 64 (w / 2 ^ 64), BitVec.ofNat 64 (w / 2 ^ 128), BitVec.ofNat 64 (w / 2 ^ 192)]

/-- Histogram counts as words. -/
def histWords (h : SMap Nat) : List U64 :=
  (List.range 16).map fun k => BitVec.ofNat 64 (smGet natD h (2 * k) + smGet natD h (2 * k + 1) * 2 ^ 32)

/-- A slot image as 288 words. -/
def imageWords (g : ImgTag) (k : Slot) (i : Img) : List U64 :=
  [BitVec.ofNat 64 (imgWord0 g k i),
   (match i.mn with | some d => toBinary64 d | none => 0x7FF0000000000000),
   (match i.mx with | some d => toBinary64 d | none => 0xFFF0000000000000),
   (match i.amx with | some d => toBinary64 d | none => 0),
   BitVec.ofNat 64 i.neg, BitVec.ofNat 64 i.clampLo, BitVec.ofNat 64 i.clampHi, BitVec.ofNat 64 i.trunc,
   BitVec.ofNat 64 i.elems, BitVec.ofNat 64 (i.streams + i.scaleNeg * 2 ^ 32),
   BitVec.ofNat 64 (i.lostElems + i.satPairs * 2 ^ 40), BitVec.ofNat 64 i.merged,
   BitVec.ofNat 64 (i.firstStamp.getD 0), BitVec.ofNat 64 i.lastStamp, 0,
   BitVec.ofNat 64 (k.binStep * 2 ^ 10 + tc 10 k.origin)]
  ++ ((List.range 64).flatMap fun j => binWords j (smGet (fun _ => default) i.bins j)) ++ histWords i.hist

/-- Words of a read, made up to the length asked for. -/
def fitWords (n : Nat) (ws : List U64) : List U64 := ws.take n ++ List.replicate (n - ws.length) 0

/-- The value of a binary64 word. -/
def ofBinary64 (w : U64) : Dyadic :=
  let x := fld w 52 11
  let f := fld w 0 52
  let m : Int := if x = 0 then f else f + 2 ^ 52
  dyad (if bit w 63 then -m else m) ((max x 1 : Nat) - 1075)

/-- A bin from its four words. -/
def binOf (k : Nat) (ws : List U64) : Bin :=
  let w := (ws.getD 0 0).toNat + (ws.getD 1 0).toNat * 2 ^ 64 + (ws.getD 2 0).toNat * 2 ^ 128 + (ws.getD 3 0).toNat * 2 ^ 192
  let sum := nfld w 40 88
  let sq := nfld w 128 128
  if k == 0 || k == 62 || k == 63 then
    ⟨nfld w 0 40, 0, 0, nfld sum 40 40, nfld sum 0 40, nfld sq 40 40, nfld sq 0 40⟩
  else ⟨nfld w 0 40, sgn 88 sum, sq, 0, 0, 0, 0⟩

/-- The statistics of an image that has been read (Table 5.7). -/
def imgOfWords (ws : List U64) : Img :=
  let w := fun (i : Nat) => ws.getD i 0
  let e := fun (i : Nat) (no : U64) => if w i = no then none else some (ofBinary64 (w i))
  { bins := ((List.range 64).map fun k => (k, binOf k (ws.drop (16 + 4 * k)))).filter fun b => b.2 != default
    hist := ((List.range 32).map fun k => (k, fld (w (272 + k / 2)) (32 * (k % 2)) 32)).filter fun b => b.2 != 0
    mn := e 1 0x7FF0000000000000, mx := e 2 0xFFF0000000000000, amx := e 3 0
    neg := fld (w 4) 0 40, clampLo := fld (w 5) 0 40, clampHi := fld (w 6) 0 40, trunc := fld (w 7) 0 40
    elems := fld (w 8) 0 48, streams := fld (w 9) 0 32, scaleNeg := fld (w 9) 32 32
    lostElems := fld (w 10) 0 40, satPairs := fld (w 10) 40 24, merged := fld (w 11) 0 16
    firstStamp := if fld (w 8) 0 48 = 0 then none else some (w 12).toNat, lastStamp := (w 13).toNat
    sat := bit (w 0) 13, incomplete := bit (w 0) 14 }

/-- An image without values: unbound, foreign, or without the freeze asked for (R125). -/
def emptyImage (g : ImgTag) (w0 : Nat) : List U64 :=
  BitVec.ofNat 64 (w0 + b2n g.foreign * 2 ^ 10 + b2n g.unbound * 2 ^ 9) :: List.replicate 287 0

end Sys2Proof.Machine
end

