-- ==== Sys2Proof/Machine/Rows.lean ====
section
/-! DEFINITION. The attention-row check (R130 to R142): row side records, rows, outcomes, summaries and records. -/

namespace Sys2Proof.Machine

/-! ## binary32 values (R133) -/

/-- Order of binary32 values that are not NaN, both zeros equal. -/
def f32Key (x : U32) : Int := if bit x 31 then -(fld x 0 31 : Int) else (fld x 0 31 : Int)

def f32Nan (x : U32) : Bool := decide (0x7F800000 < fld x 0 31)
def f32Inf (x : U32) : Bool := fld x 0 31 == 0x7F800000
def f32NegInf (x : U32) : Bool := x == 0xFF800000
def f32Zero (x : U32) : Bool := fld x 0 31 == 0

/-- A row side record (Table 6.1). -/
structure RowRec where
  mx : U32
  denom : U32
  id : Nat
  block : Nat
  keys : Nat
  dacc : Nat
  last : Bool
deriving DecidableEq, Repr, Inhabited

def rowRec (w : BitVec 128) : RowRec :=
  ⟨BitVec.ofNat 32 (fld w 96 32), BitVec.ofNat 32 (fld w 64 32), fld w 40 24, fld w 28 12, fld w 12 16, fld w 8 4, bit w 7⟩

/-! ## Checks (Table 6.2) -/

/-- Cause with which a record marks its row BAD, 0 for none; `prev` is the row before it, none at BLOCK 0. -/
def rowCause (prev : Option Row) (r : RowRec) : Nat :=
  let seq := match prev with | some p => r.block != (p.block + 1) % 4096 | none => false
  let dec := match prev with
    | some p => !f32Nan r.mx && !f32Nan p.mx && decide (f32Key r.mx < f32Key p.mx) | none => false
  let value := f32Nan r.mx || r.mx == 0x7F800000 || f32Nan r.denom || f32Inf r.denom
    || (bit r.denom 31 && !f32Zero r.denom)
  let dacc := decide (3 ≤ r.dacc) || (match prev with | some p => r.dacc != p.dacc | none => false)
  let incons := (match prev with | some p => decide (r.keys < p.keys) | none => false)
    || (r.keys == 0 && (!f32NegInf r.mx || !f32Zero r.denom))
    || (r.keys != 0 && f32NegInf r.mx) || (f32NegInf r.mx && !f32Zero r.denom)
  if seq then 1 else if dec then 2 else if value then 3 else if dacc then 4 else if incons then 5 else 0

/-- Is the record a rescale of its row (R134)? -/
def isRescale (p : Row) (r : RowRec) : Bool :=
  r.block != 0 && !f32Nan r.mx && !f32Nan p.mx && !f32Inf p.mx && decide (f32Key p.mx < f32Key r.mx)

/-- The row after a record. -/
def rowStep (prev : Option Row) (r : RowRec) : Row :=
  match prev with
  | none =>
    { id := r.id, mx := r.mx, denom := r.denom, keys := r.keys, block := r.block, dacc := r.dacc, nresc := 0
      lastResc := 0, late := false, bad := rowCause none r }
  | some p =>
    let q := { p with mx := r.mx, denom := r.denom, keys := r.keys, block := r.block, dacc := r.dacc }
    if p.bad ≠ 0 then q
    else
      let q := { q with bad := rowCause (some p) r }
      if isRescale p r then { q with nresc := sat 4095 (p.nresc + 1), lastResc := r.block, late := r.last } else q

/-! ## Outcomes (Table 6.3, R136) -/

/-- The lower bound 1 − ε of a format (Table 6.4), and the power of ε. -/
def denLow (dacc : Nat) : U32 := if dacc = 0 then 0x3F7FFFFC else if dacc = 1 then 0x3F7C0000 else 0x3F7F8000
def epsPow (dacc : Nat) : Nat := if dacc = 0 then 22 else if dacc = 1 then 6 else 9

/-- DENOM > KEYS × (1 + ε), formed exactly. -/
def denHigh (r : Row) : Bool :=
  let v := decodeFloat 0 r.denom.toNat
  let x := epsPow r.dacc
  decide (r.keys * (2 ^ x + 1) * 2 ^ 149 < v.m * 2 ^ (v.e + 149).toNat * 2 ^ x)

/-- The outcome of a decided row. -/
def rowOutcome (r : Row) : Nat :=
  if r.bad ≠ 0 then 5
  else if r.keys = 0 ∧ f32NegInf r.mx ∧ f32Zero r.denom then 2
  else if f32Key r.denom < f32Key (denLow r.dacc) then 3
  else if r.keys < 0xFFFF ∧ denHigh r then 4
  else if r.denom = 0x3F800000 then 1
  else 0

/-! ## Counting and recording (R135, R137, R139 to R142) -/

def sat32 (x : Nat) : Nat := sat 0xFFFFFFFF x

/-- A decided row enters its part's counts. -/
def sumRow (r : Row) (t : Nat) (a : RowSum) : RowSum :=
  let o := rowOutcome r
  let one := fun (k : Nat) => b2n (o == k)
  let a := { a with
    rows := sat32 (a.rows + 1), last := max a.last t, empty := sat32 (a.empty + one 2), denLow := sat32 (a.denLow + one 3)
    denHigh := sat32 (a.denHigh + one 4), len1 := sat32 (a.len1 + one 1), bad := sat32 (a.bad + one 5) }
  if o = 5 then a
  else
    let bin := if r.nresc = 0 then 0 else min r.lastResc 15
    { a with
      rescales := sat32 (a.rescales + r.nresc), maxResc := max a.maxResc r.nresc, late := sat32 (a.late + b2n r.late)
      hist := smPut natD a.hist bin (sat32 (smGet natD a.hist bin + 1)) }

/-- Is the row an error row for a policy (R142)? -/
def rowIsErr (o : Nat) (policy : U32) : Bool := o == 3 || o == 4 || o == 5 || (o == 2 && bit policy 27)

/-- Does the policy select the row for a record (Table 6.5)? -/
def rowSelected (r : Row) (policy : U32) : Bool :=
  let o := rowOutcome r
  (bit policy 30 && rowIsErr o policy) || (bit policy 29 && r.late) || (bit policy 28 && o == 1)

/-- Does a context receive ROWCHK records of a stream (R140)? -/
def rowCtx (st : Stream) (c : CtxSt) : Bool :=
  c.part == st.part && bit c.policy 31 && decide (c.siteFirst ≤ st.site) && decide (st.site ≤ c.siteLast)

/-- The ROW record of a row. -/
def rowBody (tap : Nat) (st : Stream) (r : Row) : RecBody :=
  .rowOne tap st.site st.oper st.step r.id (rowOutcome r) r.bad r.late r.nresc r.lastResc r.dacc r.block
    r.keys r.mx r.denom

/-- One context's ROW record, or a count in SUPPRESSED beyond its LIMIT. -/
def rowRecord (tap t : Nat) (st : Stream) (r : Row) (x : Nat) (a : RowSum × State) : RowSum × State :=
  match ctxOf a.2 x with
  | none => a
  | some c =>
    if !rowCtx st c || !offeredAt c t || !rowSelected r c.policy then a
    else
      let n := smGet natD a.1.recsPer x
      let l := fld c.policy 22 4
      if l < 15 ∧ 2 ^ l ≤ n then
        ({ a.1 with supp := smPut natD a.1.supp x (sat32 (smGet natD a.1.supp x + 1)) }, a.2)
      else ({ a.1 with recsPer := smPut natD a.1.recsPer x (n + 1) }, offerRec x ⟨t, rowBody tap st r⟩ a.2)

/-- The item of a stream's first error row, for each armed context of the partition with ROW_URG; they are pushed one
after the other within 16 OBS cycles (R142). -/
def rowItems (tap t : Nat) (st : Stream) (o : Nat) (s : State) : State :=
  nextRowItem <| (ctxIds s).foldl (fun acc x => match ctxOf s x with
    | some c =>
      if ctxArmed c && c.part == st.part && bit c.policy 26 && rowIsErr o c.policy && !st.rowErr
          && !(bit c.policy 27 && st.rowEmpty) then
        onLens (fun l => { l with rowDue := l.rowDue ++
          [(now acc + 16 * incOf acc.aon.pwr.ratio,
            mkItem 0x31 st.part 0 (BitVec.ofNat 32 (x + o * 2 ^ 20 + tap * 2 ^ 23)) t)] }) acc
      else acc
    | none => acc) s

/-- A row of the stream is decided by a beat stamped t, in the part of key `key` (R135). -/
def decideRow (tap t key : Nat) (r : Row) (a : Stream × State) : Stream × State :=
  let (st, s) := a
  let o := rowOutcome r
  let sum := sumRow r t (smGet (fun _ => default) st.rowParts key)
  let s := rowItems tap t st o s
  let (sum, s) := (ctxIds s).foldl (fun acc x => rowRecord tap t st r x acc) (sum, s)
  ({ st with
    rowParts := smIns st.rowParts key sum
    rowErr := st.rowErr || o == 3 || o == 4 || o == 5, rowEmpty := st.rowEmpty || o == 2 }, s)

/-- A record that the table does not track (R132). -/
def untracked (key : Nat) (st : Stream) : Stream :=
  let a := smGet (fun _ => default) st.rowParts key
  { st with rowParts := smIns st.rowParts key { a with untracked := sat32 (a.untracked + 1) } }

/-- A row side record of an attributed stream (R132). -/
def rowRecordIn (tap t key : Nat) (r : RowRec) (a : Stream × State) : Stream × State :=
  let (st, s) := a
  let old := (rowsOf s tap).find? fun x => x.id == r.id
  let rest := (rowsOf s tap).filter fun x => x.id != r.id
  if r.block = 0 then
    let (st, s) := match old with
      | some p => decideRow tap t key { p with bad := if p.bad = 0 then 7 else p.bad } (st, setRows tap rest s)
      | none => (st, s)
    if rest.length ≥ 1024 then (untracked key st, s)
    else
      let q := rowStep none r
      if r.last then decideRow tap t key q (st, s) else (st, setRows tap (rest ++ [q]) s)
  else match old with
    | none => (untracked key st, s)
    | some p =>
      let q := rowStep (some p) r
      if r.last then decideRow tap t key q (st, setRows tap rest s)
      else (st, setRows tap (modFirst (fun x => x.id == r.id) (fun _ => q) (rowsOf s tap)) s)

/-- At the close, rows still open are decided as UNFINISHED (R132). -/
def finishRows (tap t key : Nat) (a : Stream × State) : Stream × State :=
  (rowsOf a.2 tap).foldl (fun acc p => decideRow tap t key { p with bad := if p.bad = 0 then 6 else p.bad } acc)
    (a.1, setRows tap [] a.2)

/-- A STREAM (kind 0) or PART (kind 1) record to the contexts that receive it. -/
def rowSummary (kind tap t : Nat) (st : Stream) (a : RowSum) (s : State) : State :=
  (ctxIds s).foldl (fun acc x => match ctxOf s x with
    | some c => if rowCtx st c then
        offerRec x ⟨t, .rowSum kind tap st.site st.oper st.step a.maxResc
          [a.rows, a.rescales, a.late, a.empty, a.denLow, a.denHigh, a.len1, a.bad, a.untracked, smGet natD a.supp x]
          ((List.range 16).map fun k => smGet natD a.hist k)⟩ acc
      else acc
    | none => acc) s

/-- A part without decided rows is not written; its other counts go to the next part. -/
def rowCarry (a b : RowSum) : RowSum :=
  { b with
    untracked := sat32 (a.untracked + b.untracked)
    supp := a.supp.foldl (fun m e => smPut natD m e.1 (sat32 (smGet natD m e.1 + e.2))) b.supp }

/-- PART records of the parts below T (R140). The part from T on becomes the part without a pending cut, unless a boundary
at the same T follows (`again`, R93). -/
def rowCut (tap t : Nat) (again : Bool) (st : Stream) (s : State) : Stream × State :=
  let below := st.rowParts.filter fun e => decide (e.1 < t)
  let above := st.rowParts.filter fun e => decide (t < e.1)
  let here := smGet (fun _ => (default : RowSum)) st.rowParts t
  let key := if again then t else 0
  let a := below.foldl (fun acc e => (if acc.rows = 0 then rowCarry acc e.2 else e.2)) (default : RowSum)
  if a.rows > 0 then ({ st with rowParts := smIns above key here }, rowSummary 1 tap a.last st a s)
  else ({ st with rowParts := smIns above key (rowCarry a here) }, s)

/-- PART records of all parts but the last, which is the STREAM record's. -/
def rowParts (tap t : Nat) (st : Stream) : List (Nat × RowSum) → RowSum → State → State
  | [], a, s => rowSummary 0 tap t st a s
  | [(_, b)], a, s => rowSummary 0 tap t st (rowCarry a b) s
  | (_, b) :: rest, a, s =>
    let c := rowCarry a b
    if c.rows > 0 then rowParts tap t st rest default (rowSummary 1 tap c.last st c s) else rowParts tap t st rest c s

/-- At a close stamped t, whose part has key `key`: PART records for the cuts still pending below it, then the STREAM
record of what follows the last (R140). -/
def rowClose (tap t key : Nat) (st : Stream) (s : State) : State :=
  rowParts tap t st (smIns st.rowParts key (smGet (fun _ => default) st.rowParts key)) default s

end Sys2Proof.Machine
end

