-- ==== Sys2Proof/Machine/Lens.lean ====
section
/-! DEFINITION. The Numeric Lens (chapter 5): taps, streams, commits, pairs, lane groups, and slots at a cut. -/

namespace Sys2Proof.Machine

/-! ## Cuts of a slot (R122) -/

/-- The pending cuts that act on a partition's slots. -/
def pendCuts (s : State) (p : Nat) : List Nat := (freezes s).map (·.t) ++ boundsOf s p

/-- The latest pending cut at or below a stamp, 0 for none. -/
def cutKey (s : State) (p t : Nat) : Nat := ((pendCuts s p).filter fun c => decide (c ≤ t)).foldl max 0

def imgD (_ : Nat) : Img := default

/-- Parts merged key by key. -/
def partAdd (fr key : Nat) (i : Img) (m : SMap Img) : SMap Img := smIns m key (imgAdd fr (smGet imgD m key) i)

/-- Elements of every part. -/
def partElems (m : SMap Img) : Nat := m.foldl (fun acc e => acc + e.2.elems) 0

/-! ## Commits (R120, R122) -/

def onSlot (k : Nat) (f : Slot → Slot) (s : State) : State :=
  match slotOf s k with
  | some x => setSlot k (some (f x)) s
  | none => s

/-- A part reaches its slot: the live image, or what waits for a cut not yet copied. Nothing of a partition that is
not OPEN is committed (Table 12.3). -/
def commitPart (k key : Nat) (i : Img) (s : State) : State :=
  match slotOf s k with
  | none => s
  | some x =>
    let fr := s.draws
    if (partOf s x.part).state ≠ 1 then s
    else draw (if key ≠ 0 ∧ (pendCuts s x.part).contains key then setSlot k (some { x with post := partAdd fr key i x.post }) s
      else setSlot k (some { x with live := imgAdd fr x.live i }) s)

def commitParts (k : Nat) (parts : SMap Img) (s : State) : State :=
  parts.foldl (fun acc e => commitPart k e.1 e.2 acc) s

/-- The live image as a reader finds it: data from a pending cut on follow the copy that they force, and at a boundary
the live image has restarted (R122). -/
def liveView (s : State) (x : Slot) : Img :=
  (x.post.foldl (fun (a : Img × Nat) e =>
    if (boundsOf s x.part).any fun b => decide (a.2 < b) && decide (b ≤ e.1) then (e.2, e.1)
    else (imgAdd s.draws a.1 e.2, e.1)) (x.live, 0)).1

/-! ## Spilled slots (R119, R120) -/

def onSpill (j : Nat) (f : SpillQ → SpillQ) : State → State :=
  onLens fun l => { l with spill := modFirst (fun q => q.job == j) f l.spill }

/-- The images that a piece of work reads: the live image, and the cut buffer 2,304 bytes above it. -/
def spillAreas (x : Slot) (w : SpillWhat) : List Nat :=
  let live := if x.stored then [x.spillAddr] else []
  match w with
  | .commit .. => live
  | .cut _ _ boundary _ _ =>
    live ++ (if boundary ∧ (x.buf = .epoch ∨ x.buf = .both) then [x.spillAddr + 2304] else [])
  | .epoch => [x.spillAddr + 2304]
  | .drained => []
  | .read _ _ id =>
    if id = 0 then live
    else if (x.buf = .freeze ∨ x.buf = .both) ∧ x.bufId = id then [x.spillAddr + 2304] else []

/-- A spilled slot's write is queued or outstanding. -/
def spillWriting (s : State) (k : Nat) : Bool :=
  (s.obs.smp.pieces.any fun p => p.what == .lensSpill k) || s.obs.smp.wrOut.any fun w => w.what == .lensSpill k

/-- Do two pieces of work keep their order: on one slot, or commits of one tap? -/
def spillOrder (a b : SpillQ) : Bool :=
  a.slot == b.slot || (match a.what, b.what with
    | .commit (some t) _, .commit (some u) _ => t == u
    | _, _ => false)

/-- May the work's reads be made? -/
def spillTurn (s : State) (q : SpillQ) : Bool :=
  !spillWriting s q.slot && (s.obs.lens.spill.takeWhile fun o => o.job != q.job).all fun o => !spillOrder o q

/-- Has all that the work reads arrived? -/
def spillReady (q : SpillQ) : Bool :=
  match q.asked with
  | some n => decide (8 * n ≤ q.got.foldl (fun acc e => acc + e.2.length) 0)
  | none => false

/-- The reads are asked for: metered pieces without data (R352). -/
def spillAsk (q : SpillQ) (s : State) : State :=
  match slotOf s q.slot with
  | none => s
  | some x =>
    let as := spillAreas x q.what
    as.foldl (fun acc a => readPieces 3 x.part (.lensRead q.job) a 36 acc)
      (onSpill q.job (fun q => { q with asked := some (36 * as.length) }) s)

/-- The words read of the image at an address. -/
def spillWords (q : SpillQ) (a : Nat) : List U64 :=
  (q.got.filter fun e => decide (a ≤ e.1) && decide (e.1 < a + 2304)).flatMap (·.2)

/-- The slot with the images that have been read. -/
def spillLoad (q : SpillQ) (x : Slot) : Slot :=
  let as := spillAreas x q.what
  let x' := if as.contains x.spillAddr then { x with live := imgOfWords (spillWords q x.spillAddr) } else x
  if as.contains (x.spillAddr + 2304) then { x' with bufImg := imgOfWords (spillWords q (x.spillAddr + 2304)) } else x'

/-- A spilled slot's live image is written back. -/
def spillWrite (k : Nat) (s : State) : State :=
  match slotOf s k with
  | some x => addPieces 3 x.part (.lensSpill k) (.lensSpill k) x.spillAddr
      (imageWords ⟨k, 0, 0, false, false, false⟩ x x.live) (setSlot k (some { x with stored := true }) s)
  | none => s

/-- A spilled slot's cut image is written, 2,304 bytes above the live image. -/
def spillWriteCut (k id kind : Nat) (s : State) : State :=
  match slotOf s k with
  | some x => addPieces 3 x.part (.lensSpill k) (.lensSpill k) (x.spillAddr + 2304)
      (imageWords ⟨k, id, kind, false, false, false⟩ x x.bufImg) s
  | none => s

/-- Parts, and elements lost before, enter the live image that has been read, and it is written back (R120). -/
def spillCommit (k : Nat) (parts : SMap Img) (s : State) : State :=
  match slotOf s k with
  | none => s
  | some x =>
    if (partOf s x.part).state ≠ 1 then s
    else
      let s := if x.lostDue = 0 then s
        else setSlot k (some { x with lostDue := 0, live := imgAdd 0 x.live (imgLost x.lostDue) }) s
      spillWrite k (commitParts k parts s)

/-! ## Cut buffers (R123) -/

/-- The cut buffer after an epoch boundary; `both`: the freeze with this ID falls at the same GT (Table 5.9). -/
def bufBoundary (fr : Nat) (both : Bool) (id : Nat) (x : Slot) : Slot :=
  match x.buf with
  | .empty =>
    { x with buf := if both then .both else .epoch, bufImg := x.live, bufId := id, live := default
             cutLost := false }
  | .freeze =>
    { x with buf := if both then .both else .epoch, bufImg := x.live, bufId := id, live := default
             cutLost := false }
  | _ =>
    let i := imgAdd fr x.bufImg x.live
    { x with buf := .epoch, bufImg := { i with merged := sat 0xFFFF (x.bufImg.merged + 1) }
             live := default }

/-- The cut buffer after a freeze: an epoch image is not displaced (Table 5.9). -/
def bufFreeze (id : Nat) (x : Slot) : Slot :=
  match x.buf with
  | .epoch => x
  | .both => { x with buf := .epoch }
  | _ => { x with buf := .freeze, bufImg := x.live, bufId := id, cutLost := false }

/-- The cut buffer after the epoch has been drained. -/
def bufDrained (x : Slot) : Slot :=
  match x.buf with
  | .epoch => { x with buf := .empty, bufImg := default }
  | .both => { x with buf := .freeze }
  | _ => x

/-- Committed data from the cut on reaches the live image after the copy. -/
def joinPost (k t : Nat) (s : State) : State :=
  match slotOf s k with
  | none => s
  | some x => match x.post.find? fun e => e.1 == t with
    | some e =>
      let fr := s.draws
      draw (setSlot k (some { x with post := smDel x.post t, live := imgAdd fr x.live e.2 }) s)
    | none => s

/-- Does a further cut of the slot at the same GT follow (R93)? -/
def cutAgain (s : State) (k t : Nat) : Bool :=
  (match slotOf s k with | some x => (boundsOf s x.part).contains t | none => false)
  || s.obs.lens.spill.any fun q => q.slot == k && (match q.what with | .cut u .. => u == t | _ => false)

/-- The copy of a spilled slot's live image at a cut, and what is written back. -/
def spillCut (k t id : Nat) (boundary both : Bool) (cutId : Nat) (s : State) : State :=
  match slotOf s k with
  | none => s
  | some x =>
    let fr := s.draws
    let taken := boundary || x.buf = .empty || x.buf = .freeze
    let s := draw (setSlot k (some (if boundary then bufBoundary fr both id x else bufFreeze id x)) s)
    let joins := !cutAgain s k t && x.post.any fun e => e.1 == t
    let s := if joins then joinPost k t s else s
    let s := if taken then spillWriteCut k (if boundary then cutId else id) (if boundary then 2 else 1) s else s
    if boundary || joins then spillWrite k s else s

/-- The work's effect, once what it reads is there; a command goes on with its own turn. -/
def spillDo (q : SpillQ) (s : State) : State :=
  let s := onLens (fun l => { l with spill := delFirst (fun o => o.job == q.job) l.spill }) s
  let s := onSlot q.slot (spillLoad q) s
  match q.what with
  | .commit _ parts => spillCommit q.slot parts s
  | .cut t id boundary both cutId => spillCut q.slot t id boundary both cutId s
  | .drained => onSlot q.slot bufDrained s
  | .epoch | .read .. => s

/-- Work whose turn has come asks for its reads; what needs no further command takes effect. -/
def spillPump (fuel : Nat) (s : State) : State :=
  match fuel with
  | 0 => s
  | n + 1 => match s.obs.lens.spill.find? fun q => q.asked.isNone && spillTurn s q with
    | some q => spillPump n (spillAsk q s)
    | none => match s.obs.lens.spill.find? fun q => spillReady q
          && (match q.what with | .commit (some _) _ => false | _ => true) with
      | some q => spillPump n (spillDo q s)
      | none => s

def spillNext (s : State) : State := spillPump (2 * s.obs.lens.spill.length + 2) s

/-- Work joins the list. -/
def addJob (k : Nat) (w : SpillWhat) (s : State) : State :=
  onLens (fun l => { l with spill := l.spill ++ [⟨l.nextJob, k, w, none, []⟩], nextJob := l.nextJob + 1 }) s

/-- Parts reach their slot: a spilled slot's wait for its image. -/
def commitTo (k : Nat) (parts : SMap Img) (s : State) : State :=
  match slotOf s k with
  | none => s
  | some x =>
    if parts.isEmpty then s else if x.resident then commitParts k parts s
    else spillNext (addJob k (.commit none parts) s)

/-- A closed stream's parts reach their slot: at once, or through the tap's queue of eight (R120). -/
def commitStream (tap k : Nat) (parts : SMap Img) (s : State) : State :=
  match slotOf s k with
  | none => s
  | some x =>
    if x.resident then commitParts k parts s
    else if (spillOf s tap).length < 8 then spillNext (addJob k (.commit (some tap) parts) s)
    else bumpReg (aLens + 0x18) (16 + 8 * tap) 8 1 (onSlot k (fun x => { x with lostDue := x.lostDue + partElems parts }) s)

/-- `SPILL_COMMIT_DONE` (R120): the front of the queue whose image has been read is added and written back. -/
def opSpillDone (tap : Nat) (s : State) : State :=
  match spillOf s tap with
  | q :: _ => if spillReady q then spillNext (spillDo q s) else s
  | [] => s

def execSpillCommitDone (tap : Nat) : State → Answer := run (inObs (opSpillDone tap))

/-- Words of the images of a spilled slot have been read; a failed read is made again. -/
def spillArrived (job addr units : Nat) (ws : List U64) (err : Bool) (s : State) : State :=
  match s.obs.lens.spill.find? fun q => q.job == job with
  | none => s
  | some q => match slotOf s q.slot with
    | none => s
    | some x =>
      if err then readPieces 3 x.part (.lensRead job) addr units s
      else spillNext (onSpill job (fun q => { q with got := smIns q.got addr (fitWords (8 * units) ws) }) s)

/-! ## Counts of unbound elements and bad streams -/

def addUnbound (tap n : Nat) : State → State := onLens fun l =>
  if tap = 0 then { l with unb0 := sat (2 ^ 48 - 1) (l.unb0 + n) } else { l with unb1 := sat (2 ^ 48 - 1) (l.unb1 + n) }

def badStream (tap : Nat) (s : State) : State := bumpReg (aLens + 0x18) (8 * tap) 8 1 s

/-! ## Channel absmax (R115) -/

/-- Element i of a stream with magnitude |v| (none: infinite). -/
def putChan (k : Slot) (i : Nat) (v : Val) (chan : SMap Nat) : SMap Nat :=
  if k.chanCount = 0 || v.nan then chan
  else
    let a := k.chanBase + i % k.chanCount
    smPut natD chan a (max (smGet natD chan a) (if v.inf then 0x7F80 else bf16Up v.m v.e))

/-! ## Elements of a beat (R100, R105) -/

/-- Element code j of a beat. -/
def elemCode (fmt : Nat) (b : Beat) (j : Nat) : Nat := fld b.data (fmtBits fmt * j) (fmtBits fmt)

/-- Scale code of element j. -/
def scaleCode (scale : Nat) (b : Beat) (j : Nat) : Nat := fld b.scales (8 * (j / scaleBlock scale)) 8

/-- Element j, scaled. -/
def elemVal (fmt scale : Nat) (b : Beat) (j : Nat) : Val :=
  let v := decodeElem fmt (elemCode fmt b j)
  if scale = 0 then v else scaleVal v (decodeScale scale (scaleCode scale b j))

/-- Elements a beat carries. -/
def beatCount (fmt : Nat) (b : Beat) : Nat := min b.count (fmtFull fmt)

/-- The scales of a beat's blocks. -/
def putScales (st : Stream) (b : Beat) (n : Nat) (i : Img) : Img :=
  (List.range (ceilDiv n (scaleBlock st.scale))).foldl
    (fun acc m => putScale (decodeScale st.scale (fld b.scales (8 * m) 8)) acc) i

/-- A beat's elements and scales into a part. -/
def putBeat (c : BinCfg) (st : Stream) (b : Beat) (t : Nat) (i : Img) : Img :=
  let n := beatCount st.fmt b
  let i := if st.scale = 0 then i else putScales st b n i
  (List.range n).foldl (fun acc j => putElem c (elemVal st.fmt st.scale b j) t acc) i

/-! ## Pairs (R116, R117) -/

def onPair (id : Nat) (f : PairSt → PairSt) : State → State :=
  onLens fun l => { l with pairs := modFirst (fun p => p.id == id) f l.pairs }

def pairOf (s : State) (id : Nat) : Option PairSt := s.obs.lens.pairs.find? fun p => p.id == id

/-- Elements waiting for their partners. -/
def addWaiting (cap : Nat) (q xs : List (Nat × Nat × Nat)) : List (Nat × Nat × Nat) × Nat :=
  let room := cap - q.length
  (q ++ xs.take room, (xs.drop room).length)

/-- The partner code of a queue entry: element, and scale above it. -/
def pairVal (k : Slot) (c : Nat) : Val :=
  let v := decodeElem k.qfmt (nfld c 0 32)
  if k.scale = 0 then v else scaleVal v (decodeScale k.scale (c / 2 ^ 32))

/-- Pairs of equal index leave both queues: the matched pairs, what still waits, and what was passed over on each tap. -/
def matchPairs (fuel : Nat) (a b : List (Nat × Nat × Nat)) (out : List ((Nat × Nat × Nat) × (Nat × Nat × Nat))) :
    List ((Nat × Nat × Nat) × (Nat × Nat × Nat)) × List (Nat × Nat × Nat) × List (Nat × Nat × Nat) × Nat × Nat :=
  match fuel, a, b with
  | n + 1, x :: xs, y :: ys =>
    if x.1 = y.1 then matchPairs n xs ys (out ++ [(x, y)])
    else if x.1 < y.1 then let r := matchPairs n xs (y :: ys) out; (r.1, r.2.1, r.2.2.1, r.2.2.2.1 + 1, r.2.2.2.2)
    else let r := matchPairs n (x :: xs) ys out; (r.1, r.2.1, r.2.2.1, r.2.2.2.1, r.2.2.2.2 + 1)
  | _, a, b => (out, a, b, 0, 0)

/-- Form the pairs of a pair state; a pair lies on the later stamp's side of a cut. -/
def formPairs (id : Nat) (s : State) : State :=
  match pairOf s id with
  | none => s
  | some p => match slotOf s p.slot with
    | none => s
    | some k =>
      let (ms, a, b, skip0, skip1) := matchPairs (p.q0.length + p.q1.length + 1) p.q0 p.q1 []
      let (a, la) := addWaiting 2048 [] a
      let (b, lb) := addWaiting 2048 [] b
      let c := binCfg k
      let parts := ms.foldl (fun m e =>
        let t := max e.1.2.2 e.2.2.2
        let key := cutKey s k.part t
        smIns m key (putPair c (decodeElem k.fmt e.1.2.1) (pairVal k e.2.2.1) t (smGet imgD m key))) p.parts
      let chan := ms.foldl (fun m e => putChan k e.1.1 (decodeElem k.fmt e.1.2.1) m) s.obs.lens.chan
      onLens (fun l => { l with chan := chan })
        (onPair id (fun p => { p with
          q0 := a, q1 := b, parts := parts, lost0 := p.lost0 + la + skip0, lost1 := p.lost1 + lb + skip1 }) s)

/-- Elements of one tap that a pair holds or has lost, unpaired. -/
def unpaired (tap : Nat) (p : PairSt) : Nat := if tap = 0 then p.q0.length + p.lost0 else p.q1.length + p.lost1

/-- Both streams have closed: what stayed unpaired is lost, and the pair is committed. A TAP0 stream that has closed alone
waits for a partner until the window ends (R116). -/
def closePair (id : Nat) (s : State) : State :=
  match pairOf s id with
  | none => s
  | some p =>
    if p.open0 || p.open1 || !p.joined then s
    else
      let lost := unpaired 0 p + unpaired 1 p
      let key := match p.parts.getLast? with | some e => e.1 | none => 0
      let last := { smGet imgD p.parts key with streams := 1 }
      let last := if lost = 0 then last else imgAdd 0 last (imgLost lost)
      commitStream 0 p.slot (smIns p.parts key last)
        (onLens (fun l => { l with pairs := delFirst (fun q => q.id == id) l.pairs }) s)

/-- The TAP0 stream of a pair that found no partner is counted unbound (R116). -/
def unpair (id : Nat) (s : State) : State :=
  match pairOf s id with
  | none => s
  | some p =>
    let s := onLens (fun l => { l with pairs := delFirst (fun q => q.id == id) l.pairs }) s
    let s := addUnbound 0 (unpaired 0 p) s
    match tapOf s 0 with
    | some st => if st.pairOf = some id then setTap 0 (some { st with pairOf := none, slot := none }) s else s
    | none => s

/-- `PAIR_WINDOW_EXPIRY`: no partner within 64 OBS cycles. -/
def opPairExpiry (s : State) : State :=
  match s.obs.lens.pairs.find? fun p => !p.joined && decide (p.since + 64 * incOf s.aon.pwr.ratio ≤ now s) with
  | some p => unpair p.id s
  | none => s

def execPairWindowExpiry : State → Answer := run (inObs opPairExpiry)

/-! ## Streams (R101, R102, R105) -/

/-- Does a slot take a stream (R102)? A pair slot takes an unscaled TAP0 stream of its source format (R116). -/
def slotTakes (k : Slot) (tap : Nat) (st : Stream) : Bool :=
  st.attributed && k.part == st.part && decide (k.siteFirst ≤ st.site) && decide (st.site ≤ k.siteLast)
  && decide (k.operFirst ≤ st.oper) && decide (st.oper ≤ k.operLast) && k.roleMask.testBit st.role
  && decide (k.stepFirst ≤ st.step) && decide (st.step ≤ k.stepLast) && k.fmt == st.fmt
  && decide (k.boundAt ≤ st.openedAt)
  && (if k.pair then tap == 0 && st.scale == 0 else k.scale == st.scale)

/-- The lowest slot that takes the stream, none while the Lens is out of service. -/
def slotFor (s : State) (tap : Nat) (st : Stream) : Option Nat :=
  if s.obs.lens.oos || !s.build.lens || (st.scale != 0 && !fmtScalable st.fmt) then none
  else (s.obs.lens.slots.find? fun e => match e.2 with | some k => slotTakes k tap st | none => false).map (·.1)

/-- The pair that a TAP1 stream joins. -/
def pairFor (s : State) (st : Stream) : Option PairSt :=
  s.obs.lens.pairs.find? fun p => !p.joined && st.attributed && p.part == st.part
    && decide (now s ≤ p.since + 64 * incOf s.aon.pwr.ratio)
    && (match slotOf s p.slot with | some k => k.qfmt == st.fmt && k.scale == st.scale | none => false)

/-- The stream of a FIRST beat. -/
def newStream (s : State) (b : Beat) (t : Nat) : Stream :=
  let site := b.site % 2 ^ 20
  let a := attrOf s site
  let part := match a with | some e => attrPart e | none => 0
  { (default : Stream) with
    fmt := b.fmt, scale := b.scale, site := site, part := part, attributed := a.isSome, openedAt := t
    layer := match a with | some e => attrLayer e | none => 0xFFFF
    oper := match a with | some e => attrOper e | none => 0xFFFF
    role := match a with | some e => attrRole e | none => 0
    step := if a.isSome then stepOf s part else 0 }

/-- A stream opens: its slot or its pair, and the watches that match it (R149). -/
def openStream (tap : Nat) (b : Beat) (t : Nat) (s : State) : State :=
  let st := newStream s b t
  let s := if st.scale ≠ 0 ∧ !fmtScalable st.fmt then badStream tap s else s
  let joins := if tap = 1 then pairFor s st else none
  let s := match joins with
    | some p => setTap 1 (some { st with slot := some p.slot, pairOf := some p.id })
        (onPair p.id (fun p => { p with joined := true, open1 := true }) s)
    | none => match slotFor s tap st with
      | none => setTap tap (some st) s
      | some k =>
        if (match slotOf s k with | some x => x.pair | none => false) then
          let id := s.obs.lens.nextPair
          setTap tap (some { st with slot := some k, pairOf := some id }) (onLens (fun l => { l with
            nextPair := l.nextPair + 1
            pairs := l.pairs ++ [⟨id, k, st.part, now s, false, true, false, [], [], 0, 0, []⟩] }) s)
        else setTap tap (some { st with slot := some k }) s
  matchStream st t tap s

/-- A dump from the tap captures a beat: elements, then scales (R151, R152). -/
def captureBeat (tap : Nat) (st : Stream) (b : Beat) (s : State) : State :=
  let n := beatCount st.fmt b
  let w := fmtBits st.fmt
  let data := le (ceilDiv (n * w) 8) b.data.toNat
  let scales := if st.scale = 0 then [] else le (ceilDiv n (scaleBlock st.scale)) b.scales.toNat
  (s.obs.wat.dumps.filter fun d => d.source == 0 && d.tap == tap && !d.ended).foldl (fun acc d =>
    let acc := if !b.last && decide (n < fmtFull st.fmt) then onDump d.id (fun d => { d with irreg := true }) acc else acc
    if bufRoom acc < data.length + scales.length then
      onDump d.id (fun d => { d with truncated := true, ended := true }) acc
    else capture d.id 1 scales (capture d.id 0 data acc)) s

/-- The tap's dumps end with their stream. -/
def endCapture (tap : Nat) : State → State := onWat fun w => { w with
  dumps := w.dumps.map fun d => if d.source = 0 ∧ d.tap = tap then { d with ended := true } else d }

/-- A beat's elements go to the stream's part, its pair, or the unbound count. -/
def binBeat (tap : Nat) (b : Beat) (t : Nat) (s : State) : State :=
  match tapOf s tap with
  | none => s
  | some st =>
    let n := beatCount st.fmt b
    let base := st.beats * fmtFull st.fmt
    let st' := { st with beats := st.beats + 1, elems := st.elems + n, lastStamp := t }
    let s := if fmtFull st.fmt < b.count then badStream tap s else s
    let s := setTap tap (some st') s
    let replaced := s.obs.lens.replacing.any fun g => g / 8 = tap
    match st.pairOf, st.slot.bind (slotOf s), replaced with
    | _, some _, true => if s.build.lens then addUnbound tap n s else s
    | some id, some _, false =>
      let xs := (List.range n).map fun j =>
        (base + j, elemCode st.fmt b j + (if tap = 1 ∧ st.scale ≠ 0 then scaleCode st.scale b j * 2 ^ 32 else 0), t)
      let s := if tap = 1 ∧ st.scale ≠ 0 then
        let key := cutKey s st.part t
        onPair id (fun p => { p with parts := smIns p.parts key (putScales st b n (smGet imgD p.parts key)) }) s
        else s
      formPairs id (onPair id (fun p => if tap = 0 then { p with q0 := p.q0 ++ xs } else { p with q1 := p.q1 ++ xs }) s)
    | none, some k, false =>
      let key := cutKey s st.part t
      let parts := smIns st.parts key (putBeat (binCfg k) st b t (smGet imgD st.parts key))
      let chan := (List.range n).foldl (fun m j => putChan k (base + j) (elemVal st.fmt st.scale b j) m) s.obs.lens.chan
      onLens (fun l => { l with chan := chan }) (setTap tap (some { st' with parts := parts }) s)
    | _, none, _ => if s.build.lens then addUnbound tap n s else s

/-- The beat's row side record, for an attributed stream (R130, R131). -/
def rowBeat (tap : Nat) (b : Beat) (t : Nat) (s : State) : State :=
  match tapOf s tap with
  | none => s
  | some st =>
    if !b.rowv || !st.attributed || !s.build.lens then s
    else
      let (st, s) := rowRecordIn tap t (cutKey s st.part t) (rowRec b.row) (st, s)
      setTap tap (some st) s

/-- The tap's stream closes; t stamps its STREAM record. -/
def closeStream (tap t : Nat) (s : State) : State :=
  match tapOf s tap with
  | none => s
  | some st =>
    let s := if st.attributed && s.build.lens then
      let key := cutKey s st.part t
      let (st, s) := finishRows tap t key (st, s)
      rowClose tap t key st s else s
    let s := endCapture tap (setTap tap none s)
    match st.pairOf, st.slot with
    | some id, some _ =>
      closePair id (onPair id (fun p => if tap = 0 then { p with open0 := false } else { p with open1 := false }) s)
    | _, some k =>
      let key := match st.parts.getLast? with | some e => e.1 | none => 0
      commitStream tap k (smIns st.parts key { smGet imgD st.parts key with streams := 1 }) s
    | _, none => s

/-! ## Lane groups (R127, R128) -/

/-- A stream's uncommitted parts are lost to its slot. -/
def discardParts (tap : Nat) (s : State) : State :=
  match tapOf s tap with
  | none => s
  | some st => match st.pairOf, st.slot with
    | some id, some k => match pairOf s id with
      | some p => commitTo k [(0, imgLost (partElems p.parts + unpaired 0 p + unpaired 1 p))]
          (onPair id (fun p => { p with parts := [], q0 := [], q1 := [], lost0 := 0, lost1 := 0 }) s)
      | none => s
    | _, some k => commitTo k (st.parts.map fun e => (e.1, imgLost e.2.elems)) (setTap tap (some { st with parts := [] }) s)
    | _, none => s

/-- An open stream feeds no slot any more: its uncommitted elements are counted unbound. -/
def unbindStream (tap : Nat) (s : State) : State :=
  match tapOf s tap with
  | none => s
  | some st => match st.pairOf, st.slot with
    | some id, _ => match pairOf s id with
      | some p =>
        let s := onLens (fun l => { l with pairs := delFirst (fun q => q.id == id) l.pairs }) s
        let s := addUnbound 0 (partElems p.parts + unpaired 0 p) s
        let s := if p.joined then addUnbound 1 (partElems p.parts + unpaired 1 p) s else s
        [0, 1].foldl (fun acc u => match tapOf acc u with
          | some st => if st.pairOf = some id then setTap u (some { st with pairOf := none, slot := none, parts := [] }) acc else acc
          | none => acc) s
      | none => setTap tap (some { st with pairOf := none, slot := none }) s
    | none, some _ => setTap tap (some { st with slot := none, parts := [] }) (addUnbound tap (partElems st.parts) s)
    | none, none => s

/-- Lane group g fails its residue check on a beat stamped t; out of service there is none to fail (R127, R128). -/
def laneFails (g t : Nat) (s : State) : State :=
  if s.obs.lens.oos then s else
  let tap := g / 8
  let s := onLens (fun l => { l with inject := l.inject.filter (· != g) }) s
  let s := push g (mkItem 0x30 0 g 0 t) (discardParts tap s)
  if s.obs.lens.spareUsed then
    unbindStream 1 (unbindStream 0 (onLens (fun l => { l with oos := true }) s))
  else orReg (aFlt + 0x110) 0x10 (onLens (fun l => { l with spareUsed := true, failed := g, replacing := some g }) s)

/-- `LANE_SPARE_CONNECTED`: the spare group takes the failed group's place. -/
def opSpareConnected (s : State) : State := onLens (fun l => { l with replacing := none }) s

def execLaneSpareConnected : State → Answer := run (inObs opSpareConnected)

/-! ## Beats (R101) -/

/-- One beat of a tap. -/
def opTapBeat (tap : Nat) (b : Beat) (s : State) : State :=
  if 2 ≤ tap ∨ (!s.build.lens && !s.build.watch) then s
  else
    let t := tapHorizon s tap
    if b.first = false ∧ (tapOf s tap).isNone then
      badStream tap (if s.build.lens then addUnbound tap (beatCount b.fmt b) s else s)
    else
      let s := if b.first && (tapOf s tap).isSome then closeStream tap t (badStream tap s) else s
      let s := if b.first then openStream tap b t s else s
      let s := match tapOf s tap with | some st => captureBeat tap st b s | none => s
      let s := rowBeat tap b t (binBeat tap b t s)
      let s := match (b.fails.map fun g => 8 * tap + g % 8).or (s.obs.lens.inject.find? fun g => g / 8 == tap) with
        | some g => if s.build.lens then laneFails g t s else s
        | none => s
      if b.last then closeStream tap t s else s

def execTapBeat (tap : Nat) (b : Beat) : State → Answer := run (inObs (opTapBeat tap b))

/-! ## Slots at a cut (R122, R123) -/

def partsBelow (t : Nat) (m : SMap Img) : SMap Img := m.filter fun e => decide (e.1 < t)
def partsAfter (t : Nat) (m : SMap Img) : SMap Img := m.filter fun e => decide (t ≤ e.1)

/-- What stands before the cut at T in streams and pairs reaches the slot (R122). -/
def commitBelow (k t : Nat) (s : State) : State :=
  let s := [0, 1].foldl (fun acc u => match tapOf acc u with
    | some st => if st.slot = some k ∧ st.pairOf.isNone then
        commitTo k (partsBelow t st.parts) (setTap u (some { st with parts := partsAfter t st.parts }) acc) else acc
    | none => acc) s
  (s.obs.lens.pairs.filter fun p => p.slot == k).foldl (fun acc p =>
    commitTo k (partsBelow t p.parts) (onPair p.id (fun p => { p with parts := partsAfter t p.parts }) acc)) s

/-- Work on a spilled slot that commits what lies before the cut at T only, and what of it follows the cut. -/
def splitJob (k t : Nat) (q : SpillQ) : SpillQ × Option SpillWhat :=
  match q.what with
  | .commit tap parts =>
    let after := partsAfter t parts
    if q.slot = k ∧ !after.isEmpty then ({ q with what := .commit tap (partsBelow t parts) }, some (.commit tap after))
    else (q, none)
  | _ => (q, none)

/-- Parts keyed by the cut just made belong to no pending cut any more. -/
def rekey (t : Nat) (m : SMap Img) : SMap Img :=
  match m.find? fun e => e.1 == t with
  | some e => smIns (smDel m t) 0 (imgAdd 0 (smGet imgD (smDel m t) 0) e.2)
  | none => m

def rekeyJob (k t : Nat) (q : SpillQ) : SpillQ :=
  match q.what with
  | .commit tap parts => if q.slot = k then { q with what := .commit tap (rekey t parts) } else q
  | _ => q

def rekeySlot (k t : Nat) (s : State) : State :=
  let s := [0, 1].foldl (fun acc u => match tapOf acc u with
    | some st => if st.slot = some k then setTap u (some { st with parts := rekey t st.parts }) acc else acc
    | none => acc) s
  onLens (fun l => { l with
    pairs := l.pairs.map fun p => if p.slot = k then { p with parts := rekey t p.parts } else p
    spill := l.spill.map (rekeyJob k t) }) s

/-- The cut of a spilled slot waits for its images, behind the commits before it and ahead of those after it. -/
def cutSpilled (k t id : Nat) (boundary both : Bool) (cutId : Nat) (s : State) : State :=
  let qs := s.obs.lens.spill.map (splitJob k t)
  let s := onLens (fun l => { l with spill := qs.map (·.1) }) s
  let s := addJob k (.cut t id boundary both cutId) s
  let s := if boundary then addJob k .epoch s else s
  (qs.filterMap (·.2)).foldl (fun acc w => addJob k w acc) s

/-- The cut at T acts on slot k: a freeze with this ID, or a boundary, at which `both` says that the freeze is the same
cut. While a boundary of the slot falls at the same T, what lies after the cut waits for it (R93). -/
def cutSlot (k t id : Nat) (boundary both : Bool) (cutId : Nat) (s : State) : State :=
  let s := commitBelow k t s
  match slotOf s k with
  | none => s
  | some x =>
    let fr := s.draws
    if x.resident then
      let s := draw (setSlot k (some (if boundary then bufBoundary fr both id x else bufFreeze id x)) s)
      if cutAgain s k t then s else rekeySlot k t (joinPost k t s)
    else
      let s := cutSpilled k t id boundary both cutId s
      spillNext (if (boundsOf s x.part).contains t then s else rekeySlot k t s)

/-- Bound slots of a partition (none: of every partition), in ID order. -/
def slotsOf (s : State) (p : Option Nat) : List Nat :=
  (s.obs.lens.slots.filter fun e => match e.2 with
    | some k => (match p with | some q => k.part == q | none => true) | none => false).map (·.1)

/-- Row summaries of the open streams at the cut at T (R140). -/
def rowCuts (t : Nat) (p : Option Nat) (s : State) : State :=
  [0, 1].foldl (fun acc u => match tapOf acc u with
    | some st => if st.attributed && (match p with | some q => st.part == q | none => true) then
        let (st, acc) := rowCut u t ((boundsOf acc st.part).contains t) st acc
        setTap u (some st) acc else acc
    | none => acc) s

/-- A freeze at T with this ID becomes final in the Lens. -/
def lensFreeze (t id : Nat) (s : State) : State :=
  (slotsOf s none).foldl (fun acc k => cutSlot k t id false false 0 acc) (rowCuts t none s)

/-- The epoch number that an image in memory carries: that of the partition's lowest armed context, for a context has its
own numbers (R97, Table 5.7; DESIGN CHOICE, log entry 83). -/
def cutNumber (s : State) (p : Nat) : Nat :=
  match (ctxIds s).filterMap (fun x => (ctxOf s x).filter fun c => c.part == p && ctxArmed c) with
  | c :: _ => c.epochNum % 2 ^ 16
  | [] => 0

/-- A boundary of partition p at T in the Lens; `same` is the freeze that falls at the same GT. -/
def lensBoundary (p t : Nat) (same : Option Nat) (s : State) : State :=
  (slotsOf s (some p)).foldl (fun acc k =>
    cutSlot k t (same.getD 0) true same.isSome (cutNumber acc p) acc) (rowCuts t (some p) s)

/-- Is work on a slot under way? -/
def spillBusy (s : State) (k : Nat) : Bool := s.obs.lens.spill.any fun q => q.slot == k

/-- The partition's epoch has been drained (Table 5.9). -/
def lensDrained (p : Nat) (s : State) : State :=
  (slotsOf s (some p)).foldl (fun acc k =>
    if spillBusy acc k then addJob k .drained acc else onSlot k bufDrained acc) s

end Sys2Proof.Machine
end

