-- ==== Sys2Proof/Machine/Quickset.lean ====
section
/-! DEFINITION. Quickset's shared operations (chapter 14): changes of ratio, entry to sleep, and how a grant and a
calibration act on Hedgerow. -/

namespace Sys2Proof.Machine

/-! ## Changes of ratio (R38, R164, R361) -/

/-- The ratio that Quickset wants: 32 in step 4 of a hang sequence, the ratio in force in its other steps, and
`WRN_TB_CLK.RATIO` at every other time. -/
def wantRatio (s : State) : Nat :=
  match s.obs.hang.seq with
  | some q => if q.step = 4 then 2 else s.aon.pwr.ratio
  | none => fld (reg s aTbClk) 0 2

/-- A change of ratio starts with step 2 of R324 once no freeze is pending. -/
def maybeSwitch (s : State) : State :=
  let p := s.aon.pwr
  if obsRuns s && !p.switching && p.stage != .zeroed && p.stage != .dropped && (freezes s).isEmpty && wantRatio s != p.ratio then
    onPwr (fun p => { p with stage := .draining, switching := true }) s
  else s

/-! ## Entry to sleep (R37, R324) -/

/-- Every burst buffer is empty. -/
def buffersEmpty (s : State) : Bool := s.obs.hed.colls.all fun e => e.2.buf.isEmpty

/-- Some boundary stamped before t is still to be taken. -/
def boundsBefore (s : State) (t : Nat) : Bool :=
  (List.range (npart s.build)).any fun p => (boundsOf s p).any fun b => decide (b < t)

/-- The stops in force end at their collectors' copies, with flag SLEEP. -/
def endStops (s : State) : State :=
  (s.obs.hed.units.filter fun e => e.2.stop.isSome).foldl (fun acc e =>
    endStop e.1 (collGt acc ((portOfUnit acc e.1 (2 ^ 64)).getD e.1 / 16)) true acc) s

/-- Every credit mirror reads 0 and no copy is calibrated. -/
def loseCopies (s : State) : State :=
  (List.range s.build.nColl).foldl (fun acc c =>
    dropMirrors c (onColl c (fun k => { k with
      cal := false, misses := 0, taking := k.taking.map fun x => { x with cal := false } }) acc)) s

/-- The end of step 3: `OBS_CLK_REQ` falls once every boundary stamped before is final (R94, R324). -/
def dropRequest (s : State) : State :=
  if s.aon.pwr.stage != .zeroed || boundsBefore s (now s) then s
  else
    let t := now s
    onPwr (fun p => { p with clkReq := false, stage := .dropped, sleepFrom := some t }) (loseCopies s)

/-- Step 3 of R324: mirrors to 0, stops ended, and the request falls. -/
def sleepStep3 (s : State) : State :=
  let s := (List.range s.build.nColl).foldl (fun acc c => dropMirrors c acc) (endStops s)
  dropRequest (onPwr (fun p => { p with stage := .zeroed }) s)

/-- `IDLE_DELAY_EXPIRY`: no hold condition for 2^IDLE_DLY GT in LISTEN or ACTIVE (R324, step 2). -/
def opIdleExpiry (s : State) : State :=
  let p := s.aon.pwr
  if obsRuns s && p.ready && !p.waking && p.stage == .awake && !p.switching && !anyHold s
      && decide (p.idleSince + 2 ^ fld (reg s aPwrCtl) 0 5 ≤ s.aon.tb.rootGt) then
    onPwr (fun p => { p with stage := .draining }) s
  else s

def execIdleDelayExpiry : State → Answer := run opIdleExpiry

/-- `SLEEP_BUFFERS_DRAINED`: the burst buffers are empty; a change of ratio also waits for pending freezes (R38). -/
def opDrained (s : State) : State :=
  let p := s.aon.pwr
  if obsRuns s && p.stage == .draining && buffersEmpty s
      && (if p.switching then (freezes s).isEmpty else !anyHold s) then sleepStep3 s
  else if obsRuns s then dropRequest s else s

def execSleepBuffersDrained : State → Answer := run opDrained

/-- `OBS_CLK_RELEASE`: the SoC drops `OBS_CLK_ACK` after the request fell. For a change of ratio, a recorded wake
event or a hold condition the request rises again, at an AON edge (R324, R361). -/
def opClkRelease (s : State) : State :=
  let p := s.aon.pwr
  if !p.aonRstN || !p.clkAck || p.clkReq then s
  else
    let t := now s
    let held := anyHold s
    onPwr (fun p => { p with
      clkAck := false, stage := .awake, relWait := true
      reqDue := p.reqDue || p.switching || p.wake.isSome || held
      wake := if p.wake.isNone && !p.switching && held && p.ready then some (7, t) else p.wake }) s

def execObsClkRelease : State → Answer := run opClkRelease

/-- `OBS_CLK_ACK_DROP_EARLY`: the OBS domain is free until `RST_N`, unless
`RST_N` is low; the AON domain goes on (R257, R361). -/
def opAckDrop (s : State) : State :=
  let p := s.aon.pwr
  if p.aonRstN && p.clkAck && p.clkReq then
    let s := onPwr (fun p => { p with clkAck := false }) s
    if p.rstN then draw { s with obs := Config.freeObs s.draws } else s
  else s

def execObsClkAckDropEarly : State → Answer := run opAckDrop

/-! ## Grant and calibration (R25, R37, R321, R326) -/

/-- Step 4 of start-up reads the repair words 32 to 255 (R378, R395). -/
def startRepair (s : State) : State :=
  let p := s.aon.pwr
  if p.rstN && p.clkAck && p.granted && p.fusesRead && !p.sramDone && !p.fuseReq then
    onPwr (fun p => { p with fuseReq := true, fuseAddr := 32, repairs := [], rejected := 0 }) s
  else s

/-- A value of `DB_TAIL`: N or more is ignored and sets DB_ERR (R223). -/
def checkTail (r v : Nat) (s : State) : State :=
  if v < ringN s r then onDb r (fun d => { d with tail := v }) s else orReg (aRing r + 0x18) 2 s

/-- A value of `CQ_HEAD` in the cyclic range from `CQ_HEAD` to `CQ_TAIL`: entries are consumed, the CQ_FULL episode
ends, and PEND clears unless entries without NOIRQ remain; another value sets CQ_ERR (R224, R226, R246). -/
def checkHead (r v : Nat) (s : State) : State :=
  let m := ringM s r
  let g := ringOf s r
  let h := (dbOf s r).head
  if v < m ∧ (v + m - h) % m ≤ (g.cqTail + m - h) % m then
    let left := g.noirq.filter fun e => decide ((e.1 + m - v) % m < (g.cqTail + m - v) % m)
    onDb r (fun d => { d with head := v })
      (onRing r (fun g => { g with full := false, noirq := left, pend := g.pend && left.any fun e => !e.2.1 && e.2.2 }) s)
  else orReg (aRing r + 0x18) 4 s

/-- Doorbell writes held during sleep are checked once the domain runs (R223). -/
def applyHeld (s : State) : State :=
  s.aon.db.foldl (fun acc e =>
    let acc := onDb e.1 (fun d => { d with tailHeld := none, headHeld := none }) acc
    let acc := match e.2.tailHeld with | some v => checkTail e.1 v acc | none => acc
    match e.2.headHeld with | some v => checkHead e.1 v acc | none => acc) s

/-- The OBS domain takes a grant while `RST_N` is high: the wake is counted, and calibration begins. -/
def useGrant (s : State) : State :=
  let t := now s
  let s := match s.aon.pwr.wake with
    | some (src, g) => onPwr (fun p => { p with lastSrc := src, lastLat := sat 0xFFFF (t - g), wake := none })
        (bumpReg aPwrStat 8 8 1 s)
    | none => s
  let s := onPwr (fun p => { p with waking := p.ready, granted := true, switching := false, stage := .awake }) s
  let s := onTb (fun b => { b with calDone := false, full := true }) s
  let s := onSmp (fun m => { m with credit := 0 }) s
  startRepair s

/-- `OBS_CLK_GRANT`: nothing is done with a grant while `RST_N` is low (R321); the ratio granted up to the T of a hang
sequence is in force at T (Table 7.7). -/
def opGrant (s : State) : State :=
  let p := s.aon.pwr
  if !p.aonRstN || !p.clkReq || p.clkAck then s
  else
    let s := onPwr (fun p => { p with clkAck := true, ratio := p.clkSel }) s
    let cut := fun (q : HangSeq) => if now s ≤ q.t then { q with ratioCut := p.clkSel } else q
    let s := onHang (fun h => { h with seq := h.seq.map cut }) s
    if p.rstN then applyHeld (useGrant s) else s

def execObsClkGrant : State → Answer := run opGrant

/-- One copy is calibrated: its alignment is open within ±1 GT (R26). A spare's is that of its takeover. -/
def setCopy (c : Nat) (s : State) : State :=
  let t := now s
  draw (onColl c (fun k =>
    let k := { k with skew := (Config.copyAlign s.draws c).val - 1 }
    match k.taking with
    | some x => { k with taking := some { x with cal := true } }
    | none => { k with cal := true, th := t, misses := 0 }) s)

/-- The copies of the command engine and of the Lens. -/
def setEngines (s : State) : State :=
  draw (onHed (fun h => { h with
    engSkew := (Config.copyAlign s.draws 256).val - 1, lensSkew := (Config.copyAlign s.draws 257).val - 1 }) s)

/-- A unit's stop after its collector's copy is set follows the line: after a wake a low line begins a stop with flag
WAKE (R32, R37). -/
def wakeStop (woke : Bool) (c p : Nat) (s : State) : State :=
  match curUnit s p with
  | none => s
  | some u =>
    if woke && !(portOf s p).clk && (unitOf s u).stop.isNone then beginStop u (collGt s c) true s
    else syncStop u (collGt s c) s

/-- What a drift error leaves: a GAP record of cause TIMEBASE for each traced unit of the collector (R27). -/
def driftRecords (c : Nat) (s : State) : State :=
  match (collOf s c).driftGap with
  | none => s
  | some g =>
    let t := now s
    let s := (unitsOf s c).foldl (fun acc u => offerUnit u ⟨t, .gap false false u 4 g 0⟩ acc) s
    onColl c (fun k => { k with driftGap := none }) s

/-- A collector ends its calibration: stops, credits, and its gap. A spare does not serve the ports yet. -/
def finishCopy (woke : Bool) (c : Nat) (s : State) : State :=
  if (collOf s c).taking.isSome then setCopy c s
  else
  let s := driftRecords c (setCopy c s)
  let s := (portsOf c).foldl (fun acc p => wakeStop woke c p acc) s
  (portsOf c).foldl (fun acc p => fourCredits p acc) s

/-- The gap of a lock error ends: it covers every unit of each context (R24). -/
def lockRecords (s : State) : State :=
  match s.aon.tb.lockGap with
  | none => s
  | some g => onTb (fun b => { b with lockGap := none }) (offerAll ⟨now s, .gap false false 0xFFF 4 g 0⟩ s)

/-! ## Epoch boundaries during a sleep (R94) -/

/-- A schedule after a sleep over [a, b): its boundaries there are skipped, and counted. -/
def skipEntry (a b : Nat) (e : EpEntry) : EpEntry × Nat :=
  let lim := match e.stop with | some x => min x b | none => b
  if e.sched.source = 1 then
    match e.next with
    | t :: _ =>
      if a ≤ t ∧ t < lim then
        let n := ceilDiv (lim - t) e.sched.period
        ({ e with next := [t + n * e.sched.period] }, n)
      else (e, 0)
    | [] => (e, 0)
  else
    let gone := e.next.filter fun t => decide (a ≤ t) && decide (t < lim)
    ({ e with next := e.next.filter fun t => !(decide (a ≤ t) && decide (t < lim)) }, gone.length)

/-- Schedules that a later one has replaced by GT t are dropped. -/
def dropEntries (t : Nat) (es : List EpEntry) : List EpEntry :=
  let live := es.filter fun e => match e.stop with | some x => decide (t < x) | none => true
  if live.isEmpty then es.drop (es.length - 1) else live

/-- Every partition's boundaries in [a, b) are skipped. -/
def skipBounds (a b : Nat) (s : State) : State :=
  (List.range (npart s.build)).foldl (fun acc p => onEpoch p (fun x =>
    let r := x.entries.map (skipEntry a b)
    { x with
      entries := dropEntries (b - 1) (r.map (·.1))
      skipped := sat 0xFFFF (x.skipped + r.foldl (fun n y => n + y.2) 0) }) acc) s

/-- The round trip that a full calibration found (R25): from 4 to 96 GT. -/
def noteRtt (rtt : Nat) (s : State) : State :=
  if s.aon.tb.full then onTb (fun b => { b with maxRtt := max 4 (min 96 rtt) }) s else s

/-- Every copy due is calibrated (R25): copies, stops, credits, gaps, skipped boundaries and the lock window. A full
calibration counts once, single copies each. -/
def calibrate (rtt : Nat) (s : State) : State :=
  let cs := toCalibrate s
  let full := s.aon.tb.full
  let woke := s.aon.pwr.sleepFrom.isSome || (full && s.aon.tb.lockGap.isNone)
  let s := noteRtt rtt s
  let s := if full then setEngines s else s
  let s := cs.foldl (fun acc c => finishCopy woke c acc) s
  let s := lockRecords s
  let s := match s.aon.pwr.sleepFrom with
    | some a => onPwr (fun p => { p with sleepFrom := none }) (skipBounds a (now s) s)
    | none => s
  onPwr (fun p => { p with idleSince := if p.waking then s.aon.tb.rootGt else p.idleSince, waking := false })
    (onTb (fun b => { b with
      calDone := true, full := false, recalCnt := sat 255 (b.recalCnt + if full then 1 else cs.length)
      lockStart := if full then b.rootGt else b.lockStart }) s)

/-- Is a calibration due: of every copy once the start-up has zeroed SRAM (Table 14.4), or of one? After step 3 of a
sleep entry no copy is calibrated before the next grant (R324). -/
def calDue (s : State) : Bool :=
  (s.aon.pwr.stage == .awake || s.aon.pwr.stage == .draining) &&
    ((s.aon.tb.full && s.aon.pwr.sramDone) || (!s.aon.tb.full && !(toCalibrate s).isEmpty))

/-- `LOCK_WINDOW_END`: more than 1 cycle off is a lock error, and every copy is recalibrated, a chosen spare's included
(R24, R340); the windows run on while a single copy is recalibrated. -/
def opLockWindow (n : Nat) (s : State) : State :=
  let b := s.aon.tb
  if !obsRuns s || b.full || decide (b.rootGt < b.lockStart + 32768) then s
  else
    let want := 1024 * (if s.aon.pwr.ratio = 2 then 32 else if s.aon.pwr.ratio = 1 then 16 else 8)
    if n ≤ want + 1 ∧ want ≤ n + 1 then onTb (fun b => { b with lockStart := b.rootGt }) s
    else
      let s := orReg (aFlt + 0x110) 2 (orReg aTbStat 2 s)
      onTb (fun b => { b with calDone := false, full := true, lockGap := some b.lockStart })
        (loseCopies s)

def execLockWindowEnd (count : Nat) : State → Answer := run (opLockWindow count)

/-- `RATIO_WRITE`: encoding 3 leaves the field; another ratio than that in force starts a change (R38, R40). -/
def opRatioWrite (v : U32) (s : State) : State :=
  if !s.aon.pwr.aonRstN ∨ fld v 0 2 = 3 then s else maybeSwitch (setReg aTbClk (v &&& 3) s)


end Sys2Proof.Machine
end

