-- ==== Sys2Proof/Machine/Hang.lean ====
section
/-! DEFINITION. Hang sequences (R163 to R171): their start, the dump areas, and their end. -/

namespace Sys2Proof.Machine

/-! ## Step 1 (R164, R166) -/

def onSeq (f : HangSeq → HangSeq) : State → State := onHang fun h => { h with seq := h.seq.map f }

/-- Pending software and fabric freezes with T at or after the hang T are cancelled. -/
def cancelSw (t : Nat) (s : State) : Nat × State :=
  let gone := s.obs.cut.sw.filter fun f => decide (t ≤ f.t)
  (gone.length, onCut (fun c => { c with
    sw := c.sw.filter fun f => !decide (t ≤ f.t), cancelled := c.cancelled ++ gone.map (·.id) }) s)

/-- A hang sequence starts at trigger GT g, or its trigger joins or is counted in the one that runs. -/
def hangStart (g cause firstUnit own : Nat) (s : State) : State :=
  let s := trigger g 2 own s
  if s.obs.hang.seq.isSome then s
  else
    let (id, t) := hwIdT s
    let (n, s) := cancelSw t s
    let q : HangSeq := ⟨1, cause, g, t, id, firstUnit, 0, n, s.aon.pwr.ratio, [], [], none⟩
    let s := onHang (fun h => { h with seq := some q, count := sat 255 (h.count + 1), lastCause := cause }) s
    orReg (aFlt + 0x208) 1 (push 1 (mkItem 0x40 0 firstUnit (BitVec.ofNat 32 (id + cause * 2 ^ 16)) g) s)

/-- `HANG_IN_RISE` (R31, R163, R327). -/
def opHangIn (s : State) : State :=
  if !s.aon.pwr.aonRstN then s
  else if !s.aon.pwr.rstN then
    let s := orReg aPwrStat 1 s
    if s.aon.pwr.clkReq then s
    else if s.aon.pwr.clkAck then onPwr (fun p => { p with reqDue := true }) s
    else requestClk s
  else wake 3 (hangStart (s.aon.tb.rootGt - 64) 1 0xFFF 0 s)

def execHangInRise : State → Answer := run opHangIn

/-- The GT at which a watchdog's count reaches 2^n, where it does (R162). -/
def wdogDue (x : UnitSt) : Option Nat :=
  match x.wdog with
  | none => none
  | some w =>
    if w.expired then none
    else match x.stop with
      | some (st, _) => if w.stopPause ∧ st < w.base + 2 ^ w.log2p then none else some (w.base + 2 ^ w.log2p)
      | none => some (w.base + 2 ^ w.log2p)

/-- `WATCHDOG_EXPIRY`: the unit's collector decides it when its horizon passes G. -/
def opWatchdog (u : Nat) (s : State) : State :=
  let c := collOfUnit s u
  match wdogDue (unitOf s u) with
  | none => s
  | some g =>
    if u < s.build.units ∧ serving s c ∧ g ≤ horizonOf s c ∧ (collOf s c).buf.all (fun e => decide (g ≤ e.stamp)) then
      let s := onUnit u (fun x => { x with wdog := x.wdog.map fun w => { w with expired := true } }) s
      wake 6 (hangStart g 0 u (unitOf s u).owner s)
    else s

def execWatchdogExpiry (u : Nat) : State → Answer := run (inObs (opWatchdog u))

/-! ## What the dump reports (R167, R272) -/

/-- The owner of a unit at T. -/
def ownerAtT (s : State) (u : Nat) : Nat :=
  match (unitOf s u).snap with | some k => k.owner | none => (unitOf s u).owner

/-- Units that partition p owns at T. -/
def dumpUnits (s : State) (p : Nat) : List Nat := (List.range s.build.units).filter fun u => ownerAtT s u == p

/-- LOST: values lost to the shadow bank, or a takeover of the unit's collector during the sequence (R166). -/
def dumpLost (s : State) (q : HangSeq) (u : Nat) : Bool :=
  let k := collOf s (collOfUnit s u)
  (unitOf s u).shadowLost || k.taking.isSome || k.lost.isSome
    || (match k.lastTake with | some (_, tr) => decide (q.g ≤ tr) | none => false)

/-- The unit's values in the shadow bank. -/
def shadowUnit (s : State) (u : Nat) : UnitBank :=
  match s.obs.cut.shadow with | some b => smGet ubankD b.bank.u u | none => default

/-- P0 to P15 and F0 to F3. -/
def counterWords (b : UnitBank) : List U64 :=
  (List.range 16).map (fun k => smGet u64D b.p k) ++ [b.f0, b.f1, b.f2, b.f3]

/-- Ring depth of a partition at T, as a code. -/
def codeAtT (s : State) (q : HangSeq) (p : Nat) : Nat :=
  match q.bram with | some w => fld w (2 * p) 2 | none => bramCode s p

/-- The unit state of Table 7.6. -/
def unitState (s : State) (q : HangSeq) (p u : Nat) (lost : Bool) (acct : U64) : List U64 :=
  let x := unitOf s u
  let k := match x.snap with
    | some k => k
    | none => ⟨x.owner, x.lastEvent, x.lastProg, (match x.stop with | some (a, _) => a | none => 0),
        x.stop.isNone, (portOfUnit s u q.t).getD 0x1FFF, x.restart⟩
  let inc := (collOf s ((if k.port = 0x1FFF then u else k.port) / 16)).inc
  let w := x.wdog
  let step := match q.steps.find? fun e => e.1 == p with | some e => e.2 | none => stepOf s p
  [BitVec.ofNat 64 (u + k.port * 2 ^ 12 + p * 2 ^ 25 + inc * 2 ^ 29 + b2n k.clk * 2 ^ 37 + b2n lost * 2 ^ 38
      + b2n x.ringWrap * 2 ^ 39 + x.ring.length * 2 ^ 40 + b2n w.isSome * 2 ^ 48
      + b2n (q.cause == 0 && q.firstUnit == u) * 2 ^ 49),
   BitVec.ofNat 64 k.lastProg,
   match w with
   | some w => BitVec.ofNat 64 (w.log2p + b2n w.prog * 2 ^ 8 + b2n w.stopPause * 2 ^ 9)
   | none => 0,
   BitVec.ofNat 64 k.lastEvent, acct, BitVec.ofNat 64 step, BitVec.ofNat 64 k.stop, 0]

/-- One unit block: state, counters, ring. -/
def unitBlock (s : State) (q : HangSeq) (p u : Nat) : List U64 :=
  let lost := dumpLost s q u
  let b := if lost then default else shadowUnit s u
  let d := depthOfCode (codeAtT s q p)
  let ring := (unitOf s u).ring.flatMap fun e => [e.1, BitVec.ofNat 64 e.2]
  unitState s q p u lost b.acct ++ counterWords b ++ ring.take (2 * d) ++ List.replicate (2 * d - ring.length) 0

/-- Sums of Table 12.6 over the units: wrap, busy, stall, idle, power, loss, malformed and fenced. -/
structure OpSums where
  wrap : Bool
  busy : Nat
  stall : Nat
  idle : Nat
  power : Nat
  loss : Nat
  bad : Nat
deriving DecidableEq, Repr, Inhabited

/-- GT of a unit's last counter restart, up to T: the rise of `RST_N` where nothing restarted them since (R272). -/
def restartAtT (s : State) (u : Nat) : Nat := max s.aon.pwr.rstAt <|
  match (unitOf s u).snap with | some k => k.restart | none => (unitOf s u).restart

def addUnitSums (s : State) (q : HangSeq) (a : OpSums) (u : Nat) : OpSums :=
  if dumpLost s q u then a
  else
    let b := shadowUnit s u
    let f3 := fld b.f3 0 48
    { wrap := a.wrap || bit b.f0 48 || bit b.f1 48 || bit b.f3 48 || bit b.acct 48
      busy := a.busy + fld b.f0 0 48, stall := a.stall + fld b.f1 0 48, idle := a.idle + f3
      power := a.power + (q.t - restartAtT s u - f3), loss := a.loss + fld b.acct 0 48
      bad := a.bad + fld b.acct 49 7 + fld b.acct 56 8 }

def sat64 (x : Nat) : U64 := BitVec.ofNat 64 (sat (2 ^ 64 - 1) x)

/-- The operator-view block of partition p (R272). -/
def opView (s : State) (q : HangSeq) (p : Nat) : List U64 :=
  let us := dumpUnits s p
  let a := us.foldl (addUnitSums s q) default
  [BitVec.ofNat 64 (p + (partOf s p).state * 16 + consentAtGt s p q.t * 2 ^ 8 + us.length * 2 ^ 16 + b2n a.wrap * 2 ^ 29),
   BitVec.ofNat 64 q.t, sat64 a.busy, sat64 a.stall, sat64 a.idle, sat64 a.power, sat64 a.loss,
   BitVec.ofNat 64 (sat 0xFFFF a.bad)]

/-- The HANG record of partition p (Table 7.7). -/
def hangRec (s : State) (q : HangSeq) (p status units bytes endGt : Nat) : RecBody :=
  let first := if q.firstUnit ≠ 0xFFF ∧ ownerAtT s q.firstUnit = p then q.firstUnit else 0xFFF
  .hang q.g q.t endGt bytes q.freezeId first q.cause status (codeAtT s q p) q.ratioCut q.cancelled q.lateTrig units

/-! ## Step 5 (R165, R167, R168) -/

/-- May the area of partition p be written? -/
def areaReady (s : State) (p : Nat) : Bool :=
  match areaOf s p with | some a => !a.held | none => false

/-- Units whose blocks fit an area with the two closing blocks. -/
def fitUnits (s : State) (q : HangSeq) (p : Nat) : List Nat :=
  if (consentAtGt s p q.t).testBit 4 then
    match areaOf s p with
    | some a => (dumpUnits s p).take ((a.units * 64 - 128) / (224 + 16 * depthOfCode (codeAtT s q p)))
    | none => []
  else []

/-- Status, unit blocks and bytes of the dump of partition p. -/
def dumpShape (s : State) (q : HangSeq) (p : Nat) : Nat × Nat × Nat :=
  match areaOf s p with
  | none => (4, 0, 0)
  | some a =>
    if a.held then (3, 0, 0)
    else
      let n := (fitUnits s q p).length
      let full := decide (n = (dumpUnits s p).length)
      (if !(consentAtGt s p q.t).testBit 4 then 1 else if full then 0 else 2, n,
        n * (224 + 16 * depthOfCode (codeAtT s q p)) + 128)

/-- Write a dump's pieces without waiting for the governor (R352). -/
def hangPieces (p : Nat) (addr : Nat) (data : List U64) (s : State) : State :=
  (piecesOf 0 p (.hang p false) (.hang p false) addr data).foldl (fun acc x => writeNow x acc) s

/-- Partitions, lowest first, until one has an area to write: those without receive only their records. -/
def dumpNext (fuel p : Nat) (s : State) : State :=
  match fuel, s.obs.hang.seq with
  | 0, _ => s
  | _, none => s
  | n + 1, some q =>
    if npart s.build ≤ p then s
    else if areaReady s p then
      match areaOf s p with
      | some a => hangPieces p a.addr ((fitUnits s q p).flatMap (unitBlock s q p) ++ opView s q p) s
      | none => s
    else
      let (st, units, bytes) := dumpShape s q p
      dumpNext n (p + 1) (onSeq (fun q => { q with done := q.done ++ [(p, st, units, bytes, now s)] }) s)

/-- Step 5 begins. -/
def hangDump (s : State) : State := dumpNext 17 0 (onSeq (fun q => { q with step := 5 }) s)

/-- Is a write of the dump other than a HANG record still to be acknowledged? -/
def hangBusy (s : State) (p : Nat) : Bool :=
  (s.obs.smp.wrOut.any fun w => w.what == .hang p false) || (s.obs.smp.pieces.any fun x => x.what == .hang p false)

/-- A write of partition p's area has been accepted: after the operator view the HANG record is written, after
the record the area is held and the next partition follows. -/
def hangAck (p : Nat) (final : Bool) (s : State) : State :=
  match s.obs.hang.seq, areaOf s p with
  | some q, some a =>
    if final then
      dumpNext 17 (p + 1) (setArea p (some { a with held := true }) s)
    else if hangBusy s p then s
    else
      let (st, units, bytes) := dumpShape s q p
      let t := now s
      let s := onSeq (fun q => { q with done := q.done ++ [(p, st, units, bytes, t)] }) s
      writeNow ⟨0, 1, p, .hang p true, a.addr + (bytes - 64),
        toWords (recBytes (hangRec s q p st units bytes t) 0 false false)⟩ s
  | _, _ => s

/-- After the hang freeze became final: the dump at ratio 32, else the change of ratio (R164, steps 3 to 5). -/
def hangFinal (s : State) : State :=
  if s.aon.pwr.ratio = 2 ∧ !s.aon.pwr.switching then hangDump s
  else maybeSwitch (onSeq (fun q => { q with step := 4 }) s)

/-- Rings resume, each with a HOLD entry. -/
def ringsResume (t : Nat) (s : State) : State :=
  (List.range s.build.units).foldl (fun acc u =>
    let n := (unitOf acc u).held
    appendRing u (synth 4 n) t (onUnit u (fun x => { x with snap := none, held := 0 }) acc)) s

/-- Each partition's armed contexts receive its HANG record. -/
def hangRecords (q : HangSeq) (s : State) : State :=
  q.done.foldl (fun acc d => (ctxIds acc).foldl (fun a x => match ctxOf a x with
    | some c => if c.part = d.1 ∧ ctxArmed c ∧ c.closing.isNone ∧ (partOf a c.part).state = 1 then
        giveRec x ⟨q.t, hangRec s q d.1 d.2.1 d.2.2.1 d.2.2.2.1 d.2.2.2.2⟩ a else a
    | none => a) acc) s

/-- `HANG_DUMP_COMPLETE`: the last HANG record is written (R164, step 6). -/
def opHangComplete (s : State) : State :=
  match s.obs.hang.seq with
  | none => s
  | some q =>
    let out := (s.obs.smp.wrOut.any fun w => match w.what with | .hang _ _ => true | _ => false)
      || (s.obs.smp.pieces.any fun x => match x.what with | .hang _ _ => true | _ => false)
    if q.step ≠ 5 ∨ out ∨ q.done.length < npart s.build then s
    else
      let s := hangRecords q s
      let s := ringsResume (now s) (onHang (fun h => { h with seq := none }) s)
      let s := push 1 (mkItem 0x41 0 0 (BitVec.ofNat 32 q.freezeId) (engGt s)) s
      maybeSwitch (orReg (aFlt + 0x208) 2 s)

def execHangDumpComplete : State → Answer := run (inObs opHangComplete)

/-- `CALIBRATION_DONE`: every copy due; in step 4 of a hang sequence the dump begins (R25, R164). -/
def opCalibration (rtt : Nat) (s : State) : State :=
  if !calDue s then s
  else
    let s := calibrate rtt s
    match s.obs.hang.seq with
    | some q => if q.step = 4 ∧ s.aon.pwr.ratio = 2 then hangDump s else maybeSwitch s
    | none => maybeSwitch s

def execCalibrationDone (rtt : Nat) : State → Answer := run (inObs (opCalibration rtt))

end Sys2Proof.Machine
end

