-- ==== Sys2Proof/Machine/Cuts.lean ====
section
/-! DEFINITION. Freezes and epoch boundaries becoming final, and the taking of epoch records (chapter 4). -/

namespace Sys2Proof.Machine

/-! ## Finality (R81, R84) -/

/-- Every part of the instance is final for the cut at t: horizons 16 GT past it, nothing stamped below it waiting. -/
def finalAt (s : State) (t : Nat) : Bool :=
  (servingColls s).all (fun c => (collOf s c).cal && decide (t + 16 ≤ horizonOf s c))
  && s.obs.hed.colls.all (fun e => e.2.buf.all fun x => decide (t ≤ x.stamp))
  && (!s.build.lens || (decide (t + 16 ≤ tapHorizon s 0) && decide (t + 16 ≤ tapHorizon s 1)))

/-- A takeover's gap, or a change of owner at t or later, makes the values of a unit at t unknown (R70, R266). -/
def lostAt (s : State) (u t : Nat) : Bool :=
  let k := collOf s (collOfUnit s u)
  decide (0 < (unitOf s u).restart ∧ t ≤ (unitOf s u).restart)
  || (match k.taking with | some x => decide (x.tc < t) | none => false)
  || (match k.lost with | some tc => decide (tc < t) | none => false)
  || (match k.lastTake with | some (tc, tr) => decide (tc < t) && decide (t ≤ tr) | none => false)

/-! ## Banks -/

/-- Part of a bank that belongs to partition p: its units and its ops-matrix column. -/
def bankPart (s : State) (p : Nat) (b : Bank) : Bank :=
  { (default : Bank) with
    u := b.u.filter fun e => (unitOf s e.1).owner == p, ops := b.ops.filter fun e => opsOf e.1 / 512 == p }

/-- A bank without the part of partition p. -/
def bankRest (s : State) (p : Nat) (b : Bank) : Bank :=
  { b with u := b.u.filter (fun e => (unitOf s e.1).owner != p), ops := b.ops.filter fun e => opsOf e.1 / 512 != p }

/-- The live part of partition p restarts: what was stamped at or after the boundary at t becomes its live part. -/
def restartSplit (s : State) (p t : Nat) (b : Split) : Split :=
  let a := smGet bankD b.after t
  let rest := smPut bankD b.after t (bankRest s p a)
  { live := mergeBank (bankRest s p b.live) (bankPart s p a), after := rest }

/-! ## Records of a cut (R87, R205, R215) -/

/-- The CNT record of unit u for a context: the counters it holds, the fixed counters and the accounting word. -/
def cntRec (s : State) (x : Nat) (bank : Bank) (u : Nat) (lost : Bool) (kind id t : Nat) : Rec :=
  if lost then ⟨t, .cnt u true kind id 0 []⟩
  else
    let b := smGet ubankD bank.u u
    let held := (List.range 16).filter fun k =>
      match smGet noneD (unitOf s u).sels k with | some q => q.ctx == x | none => false
    ⟨t, .cnt u false kind id (maskOf held + 0x1F0000)
      (held.map (fun k => smGet u64D b.p k) ++ [b.f0, b.f1, b.f2, b.f3, b.acct])⟩

/-- OPSM records of a partition: one for each op class from 0 to 18 with a counter that is not zero. -/
def opsRecs (bank : Bank) (p kind id t : Nat) : List Rec :=
  (List.range 19).filterMap fun c =>
    let ws := (List.range 16).map fun f => opsWord bank (opsKey p c f)
    if ws.all (· == 0) then none else some ⟨t, .opsm c kind id ws⟩

/-- Logical units that a context traces, ascending. -/
def tracedUnits (s : State) (c : CtxSt) : List Nat :=
  (List.range s.build.units).filter fun u => tracesUnit s c u

/-- The FREEZE group of one context. -/
def freezeGroup (f : Freeze) (fin : Nat) (x : Nat) (s : State) : State :=
  match ctxOf s x with
  | none => s
  | some c =>
    let us := tracedUnits s c
    let lost := us.filter fun u => (unitOf s u).shadowLost
    let n := if s.obs.cut.opsLost.contains c.part then max 1 lost.length else lost.length
    let s := offerRec x ⟨f.t, .freeze f.fabric (f.own.contains c.part) f.id f.cause (fin - f.t) n f.fabSeq⟩ s
    match s.obs.cut.shadow with
    | none => s
    | some b =>
      let s := us.foldl (fun a u => offerRec x (cntRec a x b.bank u (lost.contains u) 0 f.id f.t) a) s
      (opsRecs b.bank c.part 0 f.id f.t).foldl (fun a r => offerRec x r a) s

/-! ## `FREEZE_FINAL` (R75 to R87, R96) -/

/-- The pending freezes with the earliest T: they form one cut under the lowest ID (R79). -/
def headFreezes (s : State) : List Freeze :=
  match leastBy (fun f : Freeze => f.t) (freezes s) with
  | some f => (freezes s).filter fun g => g.t == f.t
  | none => []

/-- The freezes of one cut as one: causes together, owners together, the lowest ID. -/
def mergeFreezes (f : Freeze) (fs : List Freeze) : Freeze :=
  fs.foldl (fun a g => { a with
    id := min a.id g.id, cause := a.cause ||| g.cause, own := a.own ++ g.own.filter (fun p => !a.own.contains p)
    fabric := a.fabric || g.fabric, fabSeq := if g.fabric then g.fabSeq else a.fabSeq }) f

/-- Open loss runs of the chosen units are split at the cut (R45). -/
def splitRuns (t : Nat) (who : Nat → Bool) (s : State) : State :=
  (s.obs.hed.ports.filter fun e => e.2.run.isSome).foldl (fun acc e =>
    match (portOf acc e.1).run.bind fun r => unitAt acc e.1 r.first with
    | some u => if who u then splitRun e.1 t acc else acc
    | none => acc) s

/-- The shadow bank takes the cut. -/
def takeShadow (f : Freeze) (fin : Nat) (s : State) : State :=
  let lost := (List.range s.build.units).filter fun u => lostAt s u f.t
  let s := (List.range s.build.units).foldl (fun a u =>
    if (unitOf a u).shadowLost = lost.contains u then a else onUnit u (fun x => { x with shadowLost := lost.contains u }) a) s
  onCut (fun c => { c with
    shadow := some ⟨f.id, f.t, fin, f.fabric, f.fabSeq, wholeBank f.bank⟩
    sw := c.sw.filter (fun g => g.t != f.t)
    hw := match c.hw with | some g => if g.t = f.t then none else some g | none => none }) s

/-- The hang sequence after its freeze became final, and a change of ratio that the freeze delayed. -/
def afterFreeze (t : Nat) (s : State) : State :=
  match s.obs.hang.seq with
  | some q => if q.step = 1 ∧ q.t = t then hangFinal s else s
  | none => maybeSwitch s

/-- `FREEZE_FINAL`: the earliest pending freeze, once final and after every earlier boundary. -/
def opFreezeFinal (s : State) : State :=
  match headFreezes s with
  | [] => s
  | g :: _ =>
    if !finalAt s g.t || boundsBefore s g.t then s
    else
      let fin := now s
      let s := splitRuns g.t (fun _ => true) (accrueAll g.t s)
      match headFreezes s with
      | [] => s
      | g :: gs' =>
        let f := mergeFreezes g gs'
        let s := lensFreeze f.t f.id (takeShadow f fin s)
        let s := (ctxIds s).foldl (fun a x => freezeGroup f fin x a) s
        let s := onCut (fun c => { c with opsLost := [] }) s
        afterFreeze f.t (addMark ⟨f.t, none, false, ⟨wholeBank f.bank, []⟩⟩ s)

def execFreezeFinal : State → Answer := run (inObs opFreezeFinal)

/-! ## `EPOCH_BOUNDARY` (R91 to R95) -/

/-- SOURCE in force at GT t (R90, R97): that of the latest schedule whose first boundary has come, until OFF completes; OFF
without one. -/
def sourceAt (e : EpochSt) (t : Nat) : Nat :=
  match (e.entries.filter fun x => match x.first with | some b => decide (b ≤ t) | none => false).getLast? with
  | some x => (match x.off with | some o => if o ≤ t then 0 else x.sched.source | none => x.sched.source)
  | none => 0

/-- A schedule after its boundary at t has been taken: PERIOD determines the next. -/
def stepEntry (t : Nat) (e : EpEntry) : EpEntry :=
  if e.next.contains t then
    { e with next := if e.sched.source = 1 then [t + e.sched.period] else e.next.filter (· != t) } else e

/-- The epochs of a partition after the boundary at t. -/
def stepEpoch (t : Nat) (und : Option Undrained) (e : EpochSt) : EpochSt :=
  { e with
    entries := dropEntries t (e.entries.map (stepEntry t))
    forcedTb := if e.forcedTb = some t then none else e.forcedTb
    start := t, skipped := 0, ignored := 0, undrained := und }

/-- Does an armed context of the partition, not closing, wait for the epoch (R92, R240)? -/
def epochAwaited (s : State) (p : Nat) : Bool :=
  (ctxIds s).any fun x => match ctxOf s x with
    | some c => c.part == p && ctxArmed c && c.closing.isNone
    | none => false

/-- The epoch bank of partition p is drained. -/
def drainEpoch (p : Nat) (s : State) : State :=
  let s := onCut (fun c => { c with epochBank := bankRest s p c.epochBank }) s
  let s := (s.obs.hed.units.filter fun e => e.2.owner == p && e.2.epochLost).foldl
    (fun a e => onUnit e.1 (fun x => { x with epochLost := false }) a) s
  lensDrained p (onEpoch p (fun e => { e with undrained := none }) s)

/-- The undrained epoch after one more boundary at t. -/
def nextUndrained (e : EpochSt) (t : Nat) : Undrained :=
  let forced := e.forcedTb == some t
  let src := sourceAt e t
  match e.undrained with
  | none => ⟨e.start, t, 0, e.skipped, e.ignored, forced, src⟩
  | some u => { u with
      fin := t, merged := sat 0xFFFF (u.merged + 1), skipped := sat 0xFFFF (u.skipped + e.skipped)
      ignored := sat 255 (u.ignored + e.ignored), forced := forced, source := src }

/-- The unit's live counters restart at the boundary. -/
def restartUnit (t u : Nat) (s : State) : State :=
  let lost := lostAt s u t
  let s := snapUnit u t s
  if (unitOf s u).restart = t ∧ !lost then s
  else
    let kept := (epochOf s (unitOf s u).owner).undrained.isSome
    onUnit u (fun x => { x with restart := max x.restart t, epochLost := (kept && x.epochLost) || lost }) s

/-- The boundary at t of partition p acts on its counters. -/
def latchEpoch (p t : Nat) (s : State) : State :=
  let e := epochOf s p
  let us := (List.range s.build.units).filter fun u => (unitOf s u).owner == p
  let own := bankPart s p s.obs.cut.main.live
  let s := onCut (fun c => { c with
    epochBank := mergeBank (if e.undrained.isSome then c.epochBank else bankRest s p c.epochBank) own
    opsDead := c.opsDead.filter fun k => k / 512 != p }) s
  let s := onCut (onCuts fun lim b => if t < lim then restartSplit s p t b else b) s
  let s := us.foldl (fun a u => restartUnit t u a) s
  onEpoch p (stepEpoch t (some (nextUndrained e t))) s

/-- The epoch that ends at t is the first after an EPOCH_SET of the partition: its number in every context is 0. -/
def renumberEpochs (p t : Nat) (s : State) : State :=
  if (epochOf s p).renumber.any (fun c => decide (c < t)) then
    let s := onEpoch p (fun e => { e with renumber := e.renumber.filter fun c => decide (t ≤ c) }) s
    (ctxIds s).foldl (fun a x => onCtx x (fun c => if c.part = p then { c with epochNum := 0 } else c) a) s
  else s

/-- `EPOCH_BOUNDARY`: the earliest boundary of p, once final and after every freeze at or before it (R93). -/
def opBoundary (p : Nat) (s : State) : State :=
  match boundOf s p with
  | none => s
  | some t =>
    if !finalAt s t || (freezes s).any (fun f => decide (f.t ≤ t)) then s
    else
      let us := (List.range s.build.units).filter fun u => (unitOf s u).owner == p
      let s := us.foldl (fun a u => accrue u t a) s
      let s := splitRuns t (fun u => (unitOf s u).owner == p) s
      let same := match s.obs.cut.shadow with | some b => if b.t = t then some b.id else none | none => none
      let s := addMark ⟨t, some p, true, default⟩ (lensBoundary p t same (latchEpoch p t (renumberEpochs p t s)))
      dropRequest (if epochAwaited s p then s else drainEpoch p s)

def execEpochBoundary (p : Nat) : State → Answer := run (inObs (opBoundary p))

/-! ## `EPOCH_RECORDS_TAKEN` (R92, R97) -/

/-- LENS records of KIND 0: the partition's slots whose cut buffers hold the epoch. -/
def lensRecs (s : State) (p num t : Nat) : List Rec :=
  (slotsOf s (some p)).filterMap fun k => match slotOf s k with
    | some x =>
      if x.buf = .epoch ∨ x.buf = .both then
        some ⟨t, .lens k 0 num (imageWords ⟨k, num, 2, x.cutLost, false, false⟩ x x.bufImg)⟩
      else none
    | none => none

/-- Does the context receive the epoch's records? -/
def takesEpoch (p : Nat) (u : Undrained) (c : CtxSt) : Bool :=
  c.part == p && ctxArmed c && c.closing.isNone && offeredAt c u.fin

/-- The epoch group of context x, in the order of R97: CNT, OPSM and LENS records, then the EPOCH record. -/
def epochRecs (p : Nat) (u : Undrained) (x : Nat) (c : CtxSt) (s : State) : List Rec :=
  let us := tracedUnits s c
  let lost := us.filter fun v => (unitOf s v).epochLost
  let b := s.obs.cut.epochBank
  let isLost := !lost.isEmpty || s.obs.cut.opsLost.contains p
  us.map (fun v => cntRec s x b v (lost.contains v) 1 c.epochNum u.fin) ++
  opsRecs b p 1 c.epochNum u.fin ++ lensRecs s p c.epochNum u.fin ++
  [⟨u.fin, .epoch u.forced isLost u.source c.epochNum u.merged u.skipped u.ignored u.start⟩]

/-- The epoch group of one context, its records offered to it; the context's epoch number advances. -/
def epochGroup (p : Nat) (u : Undrained) (x : Nat) (s : State) : State :=
  match ctxOf s x with
  | none => s
  | some c =>
    if !takesEpoch p u c then s
    else
      let s := (epochRecs p u x c s).foldl (fun a r => offerRec x r a) s
      onCtx x (fun c => { c with epochNum := (c.epochNum + 1) % 2 ^ 32 }) s

/-- Frames that records of these lengths fill, placed in turn from a new frame on: no record spans two (R202). -/
def framesFilled (lens : List Nat) : Nat :=
  (lens.foldl (fun (a : Nat × Nat) n => if a.2 + n ≤ 4040 then (a.1, a.2 + n) else (a.1 + 1, n)) (0, 4040)).1

/-- Frame buffers that the epoch's records of every context can need. -/
def groupBufs (p : Nat) (u : Undrained) (s : State) : Nat :=
  (ctxIds s).foldl (fun n x => match ctxOf s x with
    | none => n
    | some c =>
      if !takesEpoch p u c then n
      else n + framesFilled ((epochRecs p u x c s).map fun r => (recBytes r.body 0 false true).length)) 0

/-- Staging has room for the epoch's records (R92): for all of them, or, where they exceed what staging can hold at
once, no closed frame is left in it. -/
def epochRoom (p : Nat) (u : Undrained) (s : State) : Bool :=
  decide (0 < freeBufs s) && (s.obs.smp.frames.isEmpty || decide (groupBufs p u s ≤ freeBufs s))

/-- Do FREEZE groups stamped at or before t still wait in the partition's contexts? -/
def freezeHeld (s : State) (p t : Nat) : Bool :=
  (ctxIds s).any fun x => match ctxOf s x with
    | some c => c.part == p && c.hold.any fun r => match r.body with
        | .freeze .. => decide (r.stamp ≤ t) | _ => false
    | none => false

/-- `EPOCH_RECORDS_TAKEN`: staging has room, and the cuts up to the boundary stand in order (R84, R92). -/
def opEpochTaken (p : Nat) (s : State) : State :=
  match (epochOf s p).undrained with
  | none => s
  | some u =>
    if !epochRoom p u s ∨ (slotsOf s (some p)).any (spillBusy s) ∨ (freezes s).any (fun f => decide (f.t ≤ u.fin)) ∨ freezeHeld s p u.fin then s
    else
      let s := (ctxIds s).foldl (fun a x => epochGroup p u x a) s
      drainEpoch p (onCut (fun c => { c with opsLost := c.opsLost.filter (· != p) }) s)

def execEpochRecordsTaken (p : Nat) : State → Answer := run (inObs (opEpochTaken p))

/-! ## `FRAME_SYNC_RISE` (R31, R90, R249) -/

/-- Does the edge at g set a boundary of this schedule: FSYNC, and not replaced by g + 1024? -/
def edgeTakes (g : Nat) (x : EpEntry) : Bool :=
  x.sched.source == 2 && (match x.stop with | some y => decide (g + 1024 < y) | none => true)

/-- The schedule's boundaries at t and later give way to a later schedule whose first boundary is t. -/
def capEntry (t : Nat) (x : EpEntry) : EpEntry :=
  { x with stop := some (match x.stop with | some z => min z t | none => t) }

/-- The latest schedule that takes the edge gets its boundary; those accepted before it give way at it, those accepted
after it have none so early and stand. -/
def edgeEntries (g : Nat) : List EpEntry → List EpEntry
  | [] => []
  | x :: l =>
    if l.any (edgeTakes g) then capEntry (g + 1024) x :: edgeEntries g l
    else if edgeTakes g x then { x with next := x.next ++ [g + 1024], first := some (x.first.getD (g + 1024)) } :: l
    else x :: l

/-- The edge stamped g: a boundary 1,024 GT later, unless it comes less than 25,600 GT after the previous edge that set
one. -/
def edgeEpoch (g : Nat) (e : EpochSt) : EpochSt :=
  if !e.entries.any (edgeTakes g) then e
  else if (match e.lastEdge with | some l => decide (g < l + 25600) | none => false) then
    { e with ignored := sat 255 (e.ignored + 1) }
  else { e with lastEdge := some g, entries := edgeEntries g e.entries }

/-- The OBS domain stamps the edge while it runs; the AON domain samples it for the Sentinel. -/
def opFrameSync (s : State) : State :=
  if !s.aon.pwr.aonRstN then s
  else
    let s := if obsRuns s && s.aon.pwr.stage != .dropped && s.aon.pwr.sleepFrom.isNone then
      let g := engGt s - corrOf s.aon.pwr.ratio
      (List.range (npart s.build)).foldl (fun a p => onEpoch p (edgeEpoch g) a) s else s
    senFrame s

def execFrameSyncRise : State → Answer := run opFrameSync

end Sys2Proof.Machine
end

