-- ==== Sys2Proof/Machine/Engine.lean ====
section
/-! DEFINITION. The command engine (chapter 10): the fields of a descriptor, the checks of Table 10.5, parking, buffer
reads and writes, and the flow that every opcode takes. -/

namespace Sys2Proof.Machine

/-! ## Fields (R228, R229) -/

def dw (h : Held) (i : Nat) : U32 := h.d.w.getD i 0
def opOf (h : Held) : Nat := fld (dw h 0) 0 8
def dPart (h : Held) : Nat := fld (dw h 0) 16 6
def dCtx (h : Held) : Nat := fld (dw h 2) 0 20
/-- The I/O address in words i and i + 1. -/
def dAddr (h : Held) (i : Nat) : Nat := pair (dw h i) (dw h (i + 1) &&& 0xFFFF)
def dLen (h : Held) (i : Nat) : Nat := fld (dw h i) 0 24

/-! ## Opcodes (Table 10.7, Table 0.6, R231) -/

def opKnown (c : Nat) : Bool :=
  [0x00, 0x01, 0x10, 0x11, 0x12, 0x13, 0x14, 0x15, 0x16, 0x20, 0x21, 0x22, 0x30, 0x31, 0x40, 0x41, 0x42, 0x50, 0x51,
   0x52, 0x60, 0x61, 0x62, 0x70, 0x71, 0x72, 0x73, 0x74, 0x75, 0x80, 0x81, 0x90].contains c

/-- Opcodes whose unit the build lacks (Table 0.6). -/
def opAbsent (b : Build) (h : Held) : Bool :=
  let c := opOf h
  (!b.lens && (c == 0x40 || c == 0x41 || c == 0x42)) || (!b.watch && (c == 0x50 || c == 0x51))
  || (!b.egress && (c == 0x80 || c == 0x81)) || (!b.fabric && c == 0x90)
  || (!b.sentinel && (c == 0x60 || c == 0x61)) || (b.attrEntries == 0 && (c == 0x30 || c == 0x31))
  || (!b.crypto && (c == 0x72 || c == 0x73 || c == 0x75 || c == 0x80 || (c == 0x70 && dPart h != 0)))

def opPlatform (c : Nat) : Bool := [0x70, 0x71, 0x74, 0x62, 0x80, 0x81, 0x90].contains c

/-- Platform opcodes whose PARTITION names a target. -/
def opTarget (c : Nat) : Bool := c == 0x70 || c == 0x71 || c == 0x74

/-- Does the descriptor name a context in word 2? -/
def opCtx (h : Held) : Bool :=
  let c := opOf h
  (decide (0x11 ≤ c) && decide (c ≤ 0x16)) || c == 0x50 || (c == 0x01 && bit (dw h 3) 0)

/-- The parameter bits of words 3 to 15; the others are reserved (R238). -/
def opMask (c : Nat) : List U32 :=
  let a : U32 := 0xFFFFFFFF
  match c with
  | 0x01 => [1]
  | 0x10 => [0x00FF033F, 0x0FFF0FFF, 0xFFFF, 0xFFFFF, 0xFFFFF, a, 0xFFFFFF, a, 0xFFFF, a, 0xFFFF]
  | 0x15 => [a, 0xFFFF, 0xFFFFFF]
  | 0x16 => [a, 0xFFFF, 0xFFFFFF, 0xFFFFFF, a, 0xFFFF, a, 0xFFFF]
  | 0x20 => [a, a, 1]
  | 0x21 => [3, a, 0x1FF, a, a]
  | 0x22 => [0x1FFFF, 0x0FFF0FFF, a, 0xFFFF, 0xFFFFFF]
  | 0x30 => [0xFFFFF, a, 0xFFFF, 0xFFFFFF]
  | 0x31 => [0xFFFFF, 0xFFFFF]
  | 0x40 => [0xFFFFF, 0xFFFFF, a, a, a, 0x37FFFFFF, 0x3FF, 0xFFFF, 0x1FFFF, a, 0xFFFF]
  | 0x41 => [0xFFFF, 0xFFFF, 0x3FFFF, a, 0xFFFF, 0xFFFFFF]
  | 0x42 => [0x1FFFF]
  | 0x50 => [a, 0xFEFFFFFF, a, a, 0xFFFFF, a, a, 0xFFFFFF, 0xFFF, 0xFFFFFF]
  | 0x51 => [0x13F]
  | 0x60 => [0x1FFF, a, a, 0xFF, a, 0xFF]
  | 0x61 => [0xFF]
  | 0x62 => [0x3007F]
  | 0x70 => [a, 0xFFFF, 0xFFFFFF, a, 0xFFFF, 0x8001FFFF, a, 0xFFFF]
  | 0x72 => [0x1FF, a, 0xFFFF, 0xFFFFFF]
  | 0x73 => [0x1FF]
  | 0x75 => [a, 0xFFFF, 0xFFFFFF]
  | 0x80 => [a, 0xFFFF, 0xFFFFFF, 0xFFFF]
  | 0x81 => [1]
  | _ => []

/-- Bits of words 3 to 15 set outside a mask. -/
def outside (m : List U32) (h : Held) : Bool :=
  (List.range 13).any fun i => dw h (3 + i) &&& ~~~ (m.getD i 0) != 0

/-- A reserved field of words 3 to 15 is not zero. -/
def reservedBad (h : Held) : Bool := outside (opMask (opOf h)) h

/-! ## Buffers (R229, R388) -/

/-- A buffer of a descriptor: address, length in 64-byte units, required, and the least length its opcode needs. -/
structure Buf where
  addr : Nat
  len : Nat
  req : Bool
  least : Nat
deriving DecidableEq, Repr, Inhabited

/-- First address of partition p's buffer window, and the first above it. -/
def winBase (s : State) (p : Nat) : Nat := pair (reg s (aPrv + 0x300 + 0x10 * p)) (reg s (aPrv + 0x304 + 0x10 * p))
def winLim (s : State) (p : Nat) : Nat := pair (reg s (aPrv + 0x308 + 0x10 * p)) (reg s (aPrv + 0x30C + 0x10 * p))

/-- Does [addr, addr + 64 × len) lie in the window of partition p? -/
def inWin (s : State) (p addr len : Nat) : Bool := decide (winBase s p ≤ addr) && decide (addr + 64 * len ≤ winLim s p)

/-- R229 for one buffer; an absent optional buffer passes. -/
def bufBad (s : State) (p : Nat) (b : Buf) : Bool :=
  if b.addr = 0 then b.req || b.len != 0
  else b.addr % 64 != 0 || b.len == 0 || decide (2 ^ 48 < b.addr + 64 * b.len) || !inWin s p b.addr b.len
    || decide (b.len < b.least)

/-- A buffer of implied length, optional by its address. -/
def implied (addr len : Nat) : Buf := ⟨addr, if addr = 0 then 0 else len, false, 0⟩

/-- 64-byte units of the save image of n units (R244). -/
def saveUnits (n : Nat) : Nat := ceilDiv (256 + 8 * n) 64

/-- 64-byte units of the `LENS_READ` output of one slot (R125). -/
def slotUnits (s : State) (chan : Bool) (k : Nat) : Nat :=
  36 + (if chan then (match slotOf s k with | some x => ceilDiv (2 * x.chanCount) 64 | none => 0) else 0)

/-- Units of the output of `LENS_READ` over the slots that exist. -/
def lensUnits (s : State) (first n : Nat) (chan : Bool) : Nat :=
  (List.range (min n (65536 - first))).foldl (fun acc i => acc + slotUnits s chan (first + i)) 1

/-- Units of the output of `READ_SHADOW` (R89). -/
def shadowUnits (h : Held) : Nat :=
  let a := fld (dw h 4) 0 12
  let b := fld (dw h 4) 16 12
  1 + 3 * (if a ≤ b then b - a + 1 else 0) + (if bit (dw h 3) 16 then 64 else 0)

/-- The buffers of a descriptor. -/
def opBufs (s : State) (h : Held) : List Buf :=
  match opOf h with
  | 0x10 => [⟨dAddr h 10, dLen h 9, false, 0⟩, implied (dAddr h 12) 1]
  | 0x15 => [⟨dAddr h 3, dLen h 5, true,
      match ctxOf s (dCtx h) with | some c => saveUnits (c.unitLast + 1 - c.unitFirst) | none => 0⟩]
  | 0x16 => [⟨dAddr h 3, dLen h 5, true, 0⟩, ⟨dAddr h 7, dLen h 6, false, 0⟩, implied (dAddr h 9) 1]
  | 0x22 => [⟨dAddr h 5, dLen h 7, true, shadowUnits h⟩]
  | 0x30 => [⟨dAddr h 4, dLen h 6, true, 0⟩]
  | 0x40 => [implied (dAddr h 12) 72]
  | 0x41 => [⟨dAddr h 6, dLen h 8, true, lensUnits s (fld (dw h 3) 0 16) (fld (dw h 4) 0 16) (bit (dw h 5) 16)⟩]
  | 0x52 => if fld (dw h 3) 0 4 = 0 then [⟨dAddr h 4, dLen h 6, false, 2⟩] else []
  | 0x70 => [⟨dAddr h 3, dLen h 5, false, 0⟩, ⟨dAddr h 6, ceilDiv (8 * fld (dw h 8) 0 17) 64, true, 0⟩,
      ⟨dAddr h 9, 1, true, 0⟩]
  | 0x72 => [⟨dAddr h 4, dLen h 6, true, 0⟩]
  | 0x75 => [⟨dAddr h 3, dLen h 5, true, 0⟩]
  | 0x80 => [⟨dAddr h 3, dLen h 5, true, 0⟩]
  | _ => []

/-- Partition whose window and stream ID the descriptor's buffers use (R388). -/
def bufPart (s : State) (r : Nat) (h : Held) : Nat := if opTarget (opOf h) then dPart h else ringPart s r

/-! ## The checks of Table 10.5 -/

/-- R231 and R232: none where the descriptor passes, else whether it names what another partition holds or is a
platform opcode of another ring (R277). -/
def fenced (s : State) (r : Nat) (h : Held) : Option Bool :=
  let c := opOf h
  let p := ringPart s r
  if opPlatform c && p != 0 then some true
  else if opPlatform c && !opTarget c && dPart h != 0 then some false
  else if !opPlatform c && dPart h != p then some false
  else if c != 0x70 && c != 0x74 && (partOf s (dPart h)).state != 1 then some false
  else if opCtx h then
    match ctxOf s (dCtx h) with
    | some x => if x.part = p then none else some true
    | none => some false
  else none

/-- The first status that applies, and whether it is a breach (R277). -/
def common (s : State) (r : Nat) (h : Held) : Option (Nat × Bool) :=
  let c := opOf h
  let lvl := s.obs.cmd.agreed
  if lvl = 0 ∨ fld (dw h 0) 8 4 ≠ lvl % 16 then some (stBadFormat, false)
  else if !opKnown c || (lvl == 0x10 && (c == 0x15 || c == 0x16)) then some (stBadOpcode, false)
  else if opAbsent s.build h then some (stAbsent, false)
  else if dw h 0 &&& 0xFFC0C000 != 0 || decide (16 ≤ dPart h) || dw h 2 &&& 0xFFF00000 != 0
      || (!opCtx h && dCtx h != 0) then some (stReserved, false)
  else match fenced s r h with
    | some b => some (stFence, b)
    | none => if (opBufs s h).any (bufBad s (bufPart s r h)) then some (stBadLength, false) else none

/-! ## Completing and parking (R234, R235) -/

/-- A command completes with a status; a missing consent and a breach are counted (R277). -/
def finish (r : Nat) (h : Held) (st : Nat) (res : U32) (breach : Bool) (s : State) : State :=
  let p := ringPart s r
  let s := if st = stNoConsent then violation p r (opOf h) s else s
  let s := if breach then fenceAttempt p s else s
  complete r h st res s

/-- A command completes with a status other than success, without a breach. -/
def fail (r : Nat) (h : Held) (st : Nat) (s : State) : State := finish r h st 0 false s

def isParked (s : State) (r : Nat) (h : Held) : Bool := (ringOf s r).parked.any fun x => x.seq == h.seq

/-- Where the command stands, once it is held or parked. -/
def setStage (r seq : Nat) (st : Stage) : State → State :=
  let f := fun (x : Held) => if x.seq = seq then { x with stage := st } else x
  onRing r fun g => { g with cur := g.cur.map f, parked := g.parked.map f }

/-- May the command park: it is parked already, or fewer than 8 are? -/
def canPark (s : State) (r : Nat) (h : Held) : Bool := isParked s r h || decide ((ringOf s r).parked.length < 8)

/-- The command is parked with a stage, in the ring's order. -/
def park (r : Nat) (h : Held) (st : Stage) (s : State) : State :=
  onRing r (fun g =>
    let g := dropHeld h.seq g
    { g with parked := insertBy (fun y x => decide (x.seq < y.seq)) { h with stage := st } g.parked }) s

/-- The command holds up its ring while it reads (R234). -/
def hold (r : Nat) (h : Held) (st : Stage) (s : State) : State :=
  if isParked s r h then setStage r h.seq st s
  else onRing r (fun g => { dropHeld h.seq g with cur := some { h with stage := st } }) s

/-- Objects a descriptor names: kind 0 context, 1 slot, 2 watch, 3 Sentinel watch; first and last. -/
def names (h : Held) : List (Nat × Nat × Nat) :=
  let c := opOf h
  if opCtx h then [(0, dCtx h, dCtx h)]
  else if c = 0x41 then
    (if fld (dw h 4) 0 16 = 0 then [] else [(1, fld (dw h 3) 0 16, fld (dw h 3) 0 16 + fld (dw h 4) 0 16 - 1)])
  else if c = 0x42 then [(1, fld (dw h 3) 0 16, fld (dw h 3) 0 16)]
  else if c = 0x51 then [(2, fld (dw h 3) 0 6, fld (dw h 3) 0 6)]
  else if c = 0x60 ∨ c = 0x61 then [(3, fld (dw h 3) 0 8, fld (dw h 3) 0 8)]
  else []

/-- Do two descriptors name one object? -/
def clash (a b : Held) : Bool :=
  (names a).any fun x => (names b).any fun y => x.1 == y.1 && decide (x.2.1 ≤ y.2.2) && decide (y.2.1 ≤ x.2.2)

/-- Earlier commands of the ring that have not completed. -/
def earlier (s : State) (r : Nat) (h : Held) : List Held :=
  ((ringOf s r).parked ++ (ringOf s r).cur.toList).filter fun x => decide (x.seq < h.seq)

/-- The stage in which the command must wait before it is checked, if any (R235, Table 10.3). -/
def mustWait (s : State) (r : Nat) (h : Held) : Option Stage :=
  if bit (dw h 0) 13 && !(earlier s r h).isEmpty then some .serial
  else if (earlier s r h).any (clash h) then some .behind
  else none

/-- The command waits its turn; then the checks of Table 10.5, its own, and its effect (R230, R235). -/
def command (f : Nat → Held → State → State) (r : Nat) (h : Held) (s : State) : State :=
  match mustWait s r h with
  | some st => if canPark s r h then park r h st s else s
  | none => match common s r h with
    | some (st, b) => finish r h st 0 b s
    | none => f r h s

/-- A command whose reserved fields come first among its own checks (R230). -/
def checked (f : Nat → Held → State → State) (r : Nat) (h : Held) (s : State) : State :=
  if reservedBad h then fail r h stReserved s else f r h s

/-- The front descriptor of ring r, where the engine may check it: none past a `FENCE` that has not completed (R234,
R236). -/
def frontOf (s : State) (r : Nat) : Option Held :=
  let g := ringOf s r
  if 64 ≤ r || g.cur.isSome || g.parked.any (fun h => opOf h == 0x01) then none else g.fetched.head?

/-- The engine takes up the front descriptor of ring r where it meets `p`. -/
def atFront (p : Held → Bool) (f : Nat → Held → State → State) (r : Nat) (s : State) : State :=
  match frontOf s r with
  | some h => if p h then command f r h s else s
  | none => s

def execOp (c : Nat) (f : Nat → Held → State → State) (r : Nat) : State → Answer :=
  run (inWriter (atFront (fun h => opOf h == c) f r))

/-! ## Reading buffers (R365, R404) -/

/-- Units of the next read of a buffer: it stays within 4 KiB. -/
def chunkUnits (addr units done : Nat) : Nat := min (units - done) ((4096 - (addr + 64 * done) % 4096) / 64)

/-- Words read of buffer `step`. -/
def gotOf (got : List (List U64)) (step : Nat) : List U64 := got.getD step []

/-- Ask for the next part of a buffer; none where no tag is free. -/
def askBuf (r : Nat) (h : Held) (step addr units : Nat) (got : List (List U64)) (s : State) : Option State :=
  let done := (gotOf got step).length / 8
  issueRead (.cmd r h.seq step) (bufPart s r h) (addr + 64 * done) (chunkUnits addr units done) s

/-- A command begins to read a buffer: it holds its ring, or parks. -/
def beginRead (holds : Bool) (r : Nat) (h : Held) (step addr units : Nat) (got : List (List U64)) (s : State) : State :=
  if !holds && !canPark s r h then s
  else match askBuf r h step addr units got s with
    | some t => if holds then hold r h (.read step got) t else park r h (.read step got) t
    | none => s

/-- Buffer `step` of a command: address and units to read. -/
def bufAt (h : Held) (step : Nat) : Nat × Nat :=
  match opOf h, step with
  | 0x10, _ => (dAddr h 10, dLen h 9)
  | 0x16, 0 => (dAddr h 3, min (dLen h 5) (saveUnits 4096))
  | 0x16, _ => (dAddr h 7, dLen h 6)
  | 0x30, _ => (dAddr h 4, dLen h 6)
  | 0x70, 0 => (dAddr h 6, ceilDiv (8 * fld (dw h 8) 0 17) 64)
  | 0x70, _ => (dAddr h 3, 2)
  | 0x72, _ => (dAddr h 4, 5)
  | 0x75, _ => (dAddr h 3, 3)
  | _, _ => (dAddr h 3, 3)

/-- The words of each buffer after one more part of buffer `step`. -/
def addGot (step : Nat) (ws : List U64) (got : List (List U64)) : List (List U64) :=
  (List.range (max got.length (step + 1))).map fun i => if i = step then gotOf got i ++ ws else gotOf got i

/-! ## Writing outputs (R354, class 6) -/

/-- An output's pieces are queued and the command waits for their acknowledgements. -/
def writeOut (r : Nat) (h : Held) (addr : Nat) (data : List U64) (refused : Bool) (s : State) : State :=
  let n := (piecesOf 6 (ringPart s r) (.out r h.seq false) (.out r h.seq true) addr data).length
  let s := addPieces 6 (ringPart s r) (.out r h.seq false) (.out r h.seq true) addr data s
  park r h (.output (ceilDiv data.length 8) n false refused) s

/-! ## The RFP record (R344 to R346) -/

/-- The attribution-table digest of a partition. -/
def attrDigest (s : State) (p : Nat) : U256 :=
  Config.sha256 (s.obs.hed.attr.flatMap fun e =>
    match attrOf s e.1 with
    | some w => if attrPart w = p then le 4 e.1 ++ le 8 w.toNat else []
    | none => [])

/-- The spare-map digest. -/
def spareDigest (s : State) : U256 :=
  Config.sha256 (((List.range s.build.nColl).flatMap fun c => le 2 (collOf s c).phys)
    ++ le 1 (if s.build.lens && s.obs.lens.spareUsed then s.obs.lens.failed else 0x1F)
    ++ (List.range s.build.units).flatMap fun u => le 2 ((portOfUnit s u (2 ^ 64)).getD 0x1FFF))

/-- An RFP record for partition p: cause 0 arm, 1 attribution change, 2 restore. -/
def rfpRec (s : State) (p cause t : Nat) : Rec :=
  ⟨t, .rfp (if s.aon.pwr.fwFail then 0 else s.aon.pwr.fwVer) (fld (reg s (aFlt + 0x100 + 8)) 0 8) s.obs.cmd.agreed
    s.aon.pwr.ratio s.obs.smp.govreq s.obs.smp.fixed cause (reg s (aFlt + 0x100)) (reg s (aFlt + 0x104))
    (spareDigest s) (attrDigest s p)⟩

end Sys2Proof.Machine
end

