-- ==== Sys2Proof/Machine/Contexts.lean ====
section
/-! DEFINITION. `NOP`, `FENCE` and the context opcodes (R236, R240 to R244). -/

namespace Sys2Proof.Machine

/-! ## `NOP` and `FENCE` -/

def doNop (r : Nat) (h : Held) (s : State) : State := finish r h stOk 0 false s

def execNop (r : Nat) : State → Answer := execOp 0x00 (checked doNop) r

/-- The command whose work a write is, where none waits for its answer. -/
def writeBy : WrWhat → Option (Nat × Nat)
  | .frame f | .host f => f.cause
  | .tomb b | .ctrlBlock _ b _ | .hostBlock _ b _ => b
  | _ => none

/-- Is an SMP write that a command of ring r before `seq` issued still to be acknowledged: a completion entry, the frame
that a PAUSE record will close or that its work closed, a tombstone or a control block? -/
def writesOwed (s : State) (r seq : Nat) : Bool :=
  let mine := fun (b : Option (Nat × Nat)) => match b with | some (q, n) => q == r && decide (n < seq) | none => false
  (ringOf s r).unacked.any (fun q => decide (q < seq))
  || s.obs.ctxs.any (fun e => match e.2 with | some c => mine c.pauseBy | none => false)
  || s.obs.smp.frames.any (fun f => mine f.cause)
  || s.obs.smp.pieces.any (fun p => mine (writeBy p.what)) || s.obs.smp.wrOut.any (fun w => mine (writeBy w.what))

/-- Every earlier command has completed and every SMP write it issued is acknowledged. -/
def fenceMet (s : State) (r : Nat) (h : Held) : Bool := (earlier s r h).isEmpty && !writesOwed s r h.seq

/-- The fence completes, with its FENCE record where MARK is set. -/
def endFence (r : Nat) (h : Held) (s : State) : State :=
  let t := engGt s
  let s := if bit (dw h 3) 0 then offerRec (dCtx h) ⟨t, .fence r (dw h 1)⟩ s else s
  finish r h stOk 0 false s

def doFence (r : Nat) (h : Held) (s : State) : State :=
  if fenceMet s r h then endFence r h s else if canPark s r h then park r h .fence s else s

def execFence (r : Nat) : State → Answer := execOp 0x01 (checked doFence) r

/-! ## Selectors (R53, R242) -/

/-- One entry of a selector list: selector, unit, counter and the zero field. -/
structure SelEntry where
  sel : U32
  unit : Nat
  k : Nat
  rest : Nat
deriving DecidableEq, Repr, Inhabited

/-- The entries of a selector list; all-zero words are padding. -/
def selEntries (ws : List U64) : List SelEntry :=
  (ws.filter fun w => w != 0).map fun w =>
    ⟨BitVec.setWidth 32 w, fld w 32 12, fld w 44 4, fld w 48 16⟩

/-- A reserved encoding of Table 3.3. -/
def selReserved (w : U32) : Bool :=
  let m := fld w 28 3
  let c := fld w 24 4
  decide (5 ≤ m) || fld w 0 8 != 0 || (m != 4 && (c == 0 || decide (12 ≤ c)))

/-- Does some (unit, counter) pair appear twice? -/
def selTwice : List SelEntry → Bool
  | [] => false
  | e :: es => es.any (fun x => x.unit == e.unit && x.k == e.k) || selTwice es

/-- The first status of R242 that the entries give, and whether it is a breach. -/
def selStatus (s : State) (p : Nat) (es : List SelEntry) : Option (Nat × Bool) :=
  if es.any (fun e => selReserved e.sel || e.rest != 0) || selTwice es then some (stReserved, false)
  else if es.any fun e => decide (s.build.units ≤ e.unit) then some (stBadLength, false)
  else if es.any fun e => (unitOf s e.unit).owner != p then some (stFence, true)
  else if es.any fun e => (smGet noneD (unitOf s e.unit).sels e.k).isSome then some (stNoResource, false)
  else none

/-- The context claims its counters: they count what is stamped from the claim on (R53). -/
def claim (x : Nat) (es : List SelEntry) (s : State) : State :=
  let t := engGt s
  es.foldl (fun acc e => onUnit e.unit (fun u => { u with
    sels := smPut noneD u.sels e.k (some ⟨e.sel, x, t, 0⟩) }) acc) s

/-- The counters the context holds are released: they keep their values and stop. -/
def releaseSels (x : Nat) (s : State) : State :=
  s.obs.hed.units.foldl (fun acc e => if e.2.sels.any (fun q => match q.2 with | some z => z.ctx == x | none => false)
    then onUnit e.1 (fun u => { u with
      sels := u.sels.filter fun q => match q.2 with | some z => z.ctx != x | none => true }) acc
    else acc) s

/-- The held counters restart from zero at GT t, by stamp (R75, R91, R241). -/
def zeroSels (x p t : Nat) (s : State) : State :=
  s.obs.hed.units.foldl (fun acc e =>
    let ks := e.2.sels.filterMap fun q => match q.2 with | some z => if z.ctx = x then some q.1 else none | none => none
    if ks.isEmpty then acc
    else
      let acc := count p t (bankUnit e.1 fun b => { b with p := ks.foldl (fun m k => smPut u64D m k 0) b.p }) acc
      onUnit e.1 (fun v => { v with sels := v.sels.map fun q =>
        (q.1, q.2.map fun z => if z.ctx = x then { z with since := t } else z) }) acc) s

/-! ## Entries (R243) -/

/-- The first number from k on that the rising list leaves out. -/
def firstGap (k : Nat) : List Nat → Nat
  | [] => k
  | x :: xs => if x = k then firstGap (k + 1) xs else k

/-- Resident entries in use: a saved context holds none. -/
def residentCtxs (s : State) : Nat :=
  (s.obs.ctxs.filter fun e => match e.2 with | some c => c.resident && c.state != .saved | none => false).length

/-- Where an entry goes: resident, spilled at an address, or nowhere. -/
def placement (s : State) (mode spill : Nat) : Option (Bool × Nat) :=
  if residentCtxs s < s.build.ctxEntries then some (true, 0)
  else if mode = 0 ∧ spill ≠ 0 then some (false, spill)
  else none

/-! ## `CTX_OPEN` -/

/-- The checks on the descriptor's words (R242). -/
def openWords (s : State) (h : Held) : Option Nat :=
  if reservedBad h || fld (dw h 3) 0 2 == 3 || dw h 8 &&& 0x3FFFFF != 0 then some stReserved
  else if fld (dw h 4) 16 12 < fld (dw h 4) 0 12 ∨ s.build.units ≤ fld (dw h 4) 16 12
      ∨ fld (dw h 7) 0 20 < fld (dw h 6) 0 20 ∨ 8192 < dLen h 9 then some stBadLength
  else none

/-- A context as its descriptor opens it. -/
def newCtx (p : Nat) (h : Held) (resident : Bool) (spill : Nat) : CtxSt :=
  { (default : CtxSt) with
    part := p, job := fld (dw h 3) 16 8, state := .opened, mode := fld (dw h 3) 0 2, k := fld (dw h 3) 2 4
    classMask := fld (dw h 5) 0 16, unitFirst := fld (dw h 4) 0 12, unitLast := fld (dw h 4) 16 12
    siteFirst := fld (dw h 6) 0 20, siteLast := fld (dw h 7) 0 20, policy := dw h 8
    egr := bit (dw h 3) 8, host := bit (dw h 3) 9, resident := resident, spillAddr := spill }

/-- The entries of the selector list have been read. -/
def openSels (ws : List U64) (r : Nat) (h : Held) (s : State) : State :=
  let p := ringPart s r
  let es := selEntries ws
  match selStatus s p es with
  | some (st, b) => finish r h st 0 b s
  | none =>
    let x := firstGap 0 (s.obs.ctxs.map (·.1))
    match placement s (fld (dw h 3) 0 2) (dAddr h 12) with
    | none => fail r h stNoResource s
    | some (resident, spill) =>
      if 2 ^ 20 ≤ x then fail r h stNoResource s
      else
        finish r h (if resident then stOk else stSpilled) (lo32 x) false
          (claim x es (setCtx x (some (newCtx p h resident spill)) s))

def doCtxOpen (r : Nat) (h : Held) (s : State) : State :=
  match openWords s h with
  | some st => fail r h st s
  | none =>
    if dLen h 9 = 0 then openSels [] r h s
    else beginRead true r h 0 (dAddr h 10) (dLen h 9) [] s

def execCtxOpen (r : Nat) : State → Answer := execOp 0x10 doCtxOpen r

/-! ## States (Table 10.9) -/

/-- The context the descriptor names, in a state that admits the opcode; a breach of Table 10.9 is `ABORTED`. -/
def withCtx (ok : CtxState → Bool) (f : CtxSt → Nat → Held → State → State) (r : Nat) (h : Held) (s : State) : State :=
  match ctxOf s (dCtx h) with
  | none => fail r h stFence s
  | some c => if ok c.state then f c r h s else fail r h stAborted s

/-- Records stamped t or later are no longer offered. -/
def closeSpan (t : Nat) (c : CtxSt) : CtxSt :=
  { c with spans := c.spans.map fun e => (e.1, match e.2 with | some b => some b | none => some t) }

/-- Records stamped t or later are offered, but to a context that is closing (R240). -/
def openSpan (t : Nat) (c : CtxSt) : CtxSt := if c.closing.isSome then c else { c with spans := (t, none) :: c.spans }

/-- `CTX_ARM` (R241, R282): the context is armed, its counters and sums restart, and its job's key advances. -/
def armCtx (c : CtxSt) (r : Nat) (h : Held) (s : State) : State :=
  let p := c.part
  if (partOf s p).region.isNone then fail r h stNoResource s
  else
    let x := dCtx h
    let t := engGt s
    let s := zeroSels x p t s
    let s := addMark ⟨t, some p, false, s.obs.cut.main⟩ s
    let s := setCtx x (some { openSpan t c with
      state := .armed, seq := 0, first := true, framesSinceArm := 0, content := 0, timing := 0, ncanon := 0
      lossy := false, notime := !hasConsent s p 7, refStamp := t, ordinals := [], samples := [], highest := 0
      epochNum := 0 }) s
    let s := onEgr (fun e => { e with sentSeqs := e.sentSeqs.filter fun q => q.ctx != x }) (offerRec x (rfpRec s p 0 t) s)
    finish r h stOk 0 false (advanceGen (some (r, h.seq)) p c.job 0 s)

def execCtxArm (r : Nat) : State → Answer := execOp 0x12 (checked (withCtx (· == .opened) armCtx)) r

/-- `CTX_PAUSE`: the PAUSE record closes the frame when it is placed; dumps of the context end (R157, R241). A context that
is closing receives no record (R240). -/
def pauseCtx (c : CtxSt) (r : Nat) (h : Held) (s : State) : State :=
  let x := dCtx h
  let t := engGt s
  let s := endDumps (fun d => d.ctx == x) 3 t s
  let s := onCtx x (fun c => { closeSpan t c with state := .paused, pauseStamp := t }) s
  finish r h stOk 0 false (if c.closing.isSome then s
    else giveRec x ⟨t, .pause 0⟩ (onCtx x (fun c => { c with pauseBy := some (r, h.seq) }) s))

def execCtxPause (r : Nat) : State → Answer := execOp 0x13 (checked (withCtx (· == .armed) pauseCtx)) r

/-- `CTX_RESUME` (R241). -/
def resumeCtx (c : CtxSt) (r : Nat) (h : Held) (s : State) : State :=
  let x := dCtx h
  let t := engGt s
  let s := onCtx x (fun c => { openSpan t c with state := .armed }) s
  finish r h stOk 0 false (offerRec x ⟨t, .resume 0 c.pauseStamp⟩ s)

def execCtxResume (r : Nat) : State → Answer := execOp 0x14 (checked (withCtx (· == .paused) resumeCtx)) r

/-! ## `CTX_SAVE` (R241, R244) -/

/-- Is a save of the context under way? -/
def saving (s : State) (x : Nat) : Bool :=
  s.obs.cmd.rings.any fun e => e.2.parked.any fun h =>
    opOf h == 0x15 && dCtx h == x && (match h.stage with | .ctxFrame _ | .output .. => true | _ => false)

/-- The records of a save, and the wait for the frame that the DIGEST record closes (DESIGN CHOICE, log entry 39: the
records that the image sums up cannot be stamped with the GT at which it has been written). Another ring's save waits
while one is under way or the context closes. -/
def saveCtx (c : CtxSt) (r : Nat) (h : Held) (s : State) : State :=
  if !canPark s r h then s
  else if c.closing.isSome || saving s (dCtx h) then park r h .behind s
  else
    let x := dCtx h
    let t := engGt s
    let s := endDumps (fun d => d.ctx == x) 3 t s
    let s := if c.state = .armed then
      giveRec x ⟨t, .pause 1⟩ (onCtx x (fun c => { closeSpan t c with pauseStamp := t }) s) else s
    let s := onCtx x (fun c => { c with waiters := c.waiters ++ [(r, h.seq)] }) s
    park r h (.ctxFrame false) (giveRec x ⟨t, .digest false false false 0 0 0⟩ s)

def execCtxSave (r : Nat) : State → Answer :=
  execOp 0x15 (checked (withCtx (fun q => q == .armed || q == .paused) saveCtx)) r

/-- The save image before its CRC (Table 10.11). -/
def saveHeader (x : Nat) (c : CtxSt) : List Byte :=
  le 2 0x5356 ++ [1] ++ le 1 c.part ++ le 1 c.job
    ++ le 1 (c.mode + c.k * 4 + b2n c.lossy * 64 + b2n c.notime * 128) ++ le 1 (b2n c.egr + 2 * b2n c.host) ++ [0]
    ++ le 4 x ++ le 4 c.seq ++ le 8 c.pauseStamp ++ le 8 c.refStamp ++ be 32 c.content.toNat ++ be 32 c.timing.toNat
    ++ le 8 c.ncanon ++ le 2 c.unitFirst ++ le 2 c.unitLast ++ le 2 c.classMask ++ zeros 2 ++ le 4 c.siteFirst
    ++ le 4 c.siteLast ++ le 4 c.policy.toNat ++ zeros 128

/-- The save image: header, unit blocks, and the CRC over the whole with its own bytes zero. -/
def saveImage (x : Nat) (c : CtxSt) : List Byte :=
  let n := c.unitLast + 1 - c.unitFirst
  let blocks := (List.range n).flatMap fun i =>
    le 6 (smGet natD c.ordinals (c.unitFirst + i)) ++ le 2 (smGet natD c.samples (c.unitFirst + i))
  let tail := padTo (64 * saveUnits n - 256) blocks
  let hd := saveHeader x c
  hd ++ le 4 (crc32c (hd ++ zeros 4 ++ tail)) ++ tail

/-- The image is written to BUF. -/
def saveOut (r : Nat) (h : Held) (s : State) : State :=
  match ctxOf s (dCtx h) with
  | none => fail r h stAborted s
  | some c => writeOut r h (dAddr h 3) (toWords (saveImage (dCtx h) c)) false s

/-- At the completion of the save the context is SAVED and gives up its counters and its entry (R241), where the image
could not be written too (R404). -/
def endSave (units : Nat) (err : Bool) (r : Nat) (h : Held) (s : State) : State :=
  let x := dCtx h
  let t := engGt s
  match ctxOf s x with
  | none => fail r h stAborted s
  | some c =>
    if c.state = .saved then fail r h stAborted s
    else
      let s := releaseSels x (onCtx x (fun c => { closeSpan t c with state := .saved, resident := false, spillAddr := 0 }) s)
      if err then fail r h stAborted s else finish r h stOk (lo32 units) false s

/-! ## `CTX_RESTORE` (R241, R244) -/

def doCtxRestore (_ : CtxSt) (r : Nat) (h : Held) (s : State) : State :=
  if 8192 < dLen h 6 then fail r h stBadLength s
  else beginRead true r h 0 (dAddr h 3) (bufAt h 0).2 [] s

def execCtxRestore (r : Nat) : State → Answer := execOp 0x16 (checked (withCtx (· == .saved) doCtxRestore)) r

/-- Status of a save image that has been read (R241). -/
def imageStatus (s : State) (r : Nat) (h : Held) (bs : List Byte) : Option Nat :=
  let n := leAt bs 106 2 + 1 - leAt bs 104 2
  let size := 64 * saveUnits n
  if leAt bs 0 2 ≠ 0x5356 ∨ leAt bs 2 1 ≠ 1 ∨ bs.length < size
      ∨ leAt bs 252 4 ≠ crc32c (blank 252 4 (bs.take size)) then some stBadFormat
  else if leAt bs 3 1 % 16 ≠ ringPart s r ∨ leAt bs 8 4 % 2 ^ 20 ≠ dCtx h then some stFence
  else none

/-- The context as its image has it. -/
def imageCtx (bs : List Byte) (c : CtxSt) : CtxSt :=
  let f := leAt bs 5 1
  let first := leAt bs 104 2
  let block := fun (i : Nat) => leAt bs (256 + 8 * i) 8
  let n := leAt bs 106 2 + 1 - first
  let table := fun (g : Nat → Nat) => (List.range n).foldl (fun m i => smPut natD m (first + i) (g (block i))) ([] : SMap Nat)
  { c with
    job := leAt bs 4 1, mode := f % 4, k := f / 4 % 16, lossy := f.testBit 6, notime := c.notime || f.testBit 7
    egr := (leAt bs 6 1).testBit 0, host := (leAt bs 6 1).testBit 1, seq := leAt bs 12 4
    pauseStamp := leAt bs 16 8, refStamp := leAt bs 24 8
    content := BitVec.ofNat 256 (ofBe (bytesAt bs 32 32)), timing := BitVec.ofNat 256 (ofBe (bytesAt bs 64 32))
    ncanon := leAt bs 96 8, unitFirst := first, unitLast := leAt bs 106 2, classMask := leAt bs 108 2
    siteFirst := leAt bs 112 4, siteLast := leAt bs 116 4, policy := BitVec.ofNat 32 (leAt bs 120 4)
    ordinals := table (fun w => w % 2 ^ 48), samples := table (fun w => w / 2 ^ 48) }

/-- Image and selectors have been read: the context is armed again. -/
def restoreCtx (got : List (List U64)) (r : Nat) (h : Held) (s : State) : State :=
  let x := dCtx h
  let p := ringPart s r
  match ctxOf s x with
  | none => fail r h stAborted s
  | some c =>
    let es := selEntries (gotOf got 1)
    match selStatus s p es with
    | some (st, b) => finish r h st 0 b s
    | none =>
      let c := imageCtx (toBytes (gotOf got 0)) c
      match placement s c.mode (dAddr h 9) with
      | none => fail r h stNoResource s
      | some (resident, spill) =>
        let t := engGt s
        let s := setCtx x (some { openSpan t c with
          state := .armed, first := true, resident := resident, spillAddr := spill, epochNum := 0
          notime := c.notime || !hasConsent s p 7 }) s
        let s := zeroSels x p t (claim x es s)
        let s := offerRec x ⟨t, .resume 1 c.pauseStamp⟩ s
        let s := offerRec x (rfpRec s p 2 t) s
        finish r h (if resident then stOk else stSpilled) 0 false (advanceGen (some (r, h.seq)) p c.job 0 s)

/-- The image has been read: its checks, then the selector list. -/
def restoreImage (got : List (List U64)) (r : Nat) (h : Held) (s : State) : State :=
  match imageStatus s r h (toBytes (gotOf got 0)) with
  | some st => fail r h st s
  | none =>
    if dLen h 6 = 0 then restoreCtx got r h s
    else match askBuf r h 1 (dAddr h 7) (dLen h 6) got s with
      | some t => setStage r h.seq (.read 1 got) t
      | none => s

/-! ## `CTX_CLOSE` (R241) -/

/-- The watches that target a context are disarmed. -/
def disarmWatches (f : Watch → Bool) (s : State) : State :=
  (List.range 64).foldl (fun acc k => match watchOf acc k with
    | some w => if f w then setWatch k none acc else acc
    | none => acc) s

/-- Every resource of the context and its ID are released. -/
def dropCtx (x : Nat) (s : State) : State := setCtx x none (releaseSels x s)

/-- Commands of any ring that have been accepted as closes of context x. -/
def closesOf (s : State) (x : Nat) : List (Nat × Held) :=
  s.obs.cmd.rings.flatMap fun e => (e.2.parked.filter fun h =>
    opOf h == 0x11 && dCtx h == x && (match h.stage with | .ctxFrame _ => true | _ => false)).map fun h => (e.1, h)

/-- The close completes with the frames written since the arm, and with it every close of the context that another ring
has had accepted. -/
def endClose (r : Nat) (h : Held) (s : State) : State :=
  match ctxOf s (dCtx h) with
  | none => finish r h stOk 0 false s
  | some c =>
    let n := lo32 c.framesSinceArm
    let more := (closesOf s (dCtx h)).filter fun e => !(e.1 == r && e.2.seq == h.seq)
    more.foldl (fun acc e => finish e.1 e.2 stOk n false acc) (finish r h stOk n false (dropCtx (dCtx h) s))

def closeCtx (c : CtxSt) (r : Nat) (h : Held) (s : State) : State :=
  let x := dCtx h
  let t := engGt s
  if c.closing.isSome then (if canPark s r h then park r h (.ctxFrame false) s else s)
  else if c.state = .opened ∨ c.state = .saved then
    endClose r h (disarmWatches (fun w => w.ctx == x) (endDumps (fun d => d.ctx == x) 3 t s))
  else if !canPark s r h then s
  else
    let s := disarmWatches (fun w => w.ctx == x) (endDumps (fun d => d.ctx == x) 3 t s)
    let s := onCtx x (fun c => { closeSpan t c with closing := some t, waiters := c.waiters ++ [(r, h.seq)] }) s
    park r h (.ctxFrame false) (giveRec x ⟨t, .digest true false false 0 0 0⟩ s)

def execCtxClose (r : Nat) : State → Answer := execOp 0x11 (checked (withCtx (fun _ => true) closeCtx)) r

end Sys2Proof.Machine
end

