-- ==== Sys2Proof/Machine/Freezes.lean ====
section
/-! DEFINITION. `FREEZE_AT`, `EPOCH_SET`, `READ_SHADOW`, `ATTR_LOAD` and `ATTR_CLEAR` (R77, R88 to R90, R61 to R63). -/

namespace Sys2Proof.Machine

/-! ## `FREEZE_AT` -/

/-- Body of a FREEZE flit (Table 13.14). -/
def freezeBody (kind req seq t inst reason : Nat) : List Byte :=
  le 1 kind ++ le 1 req ++ le 2 seq ++ le 8 t ++ le 1 inst ++ le 1 reason ++ zeros 6

/-- The next fabric sequence: 16 bits, 0 never assigned. -/
def nextFabSeq (s : State) : Nat := s.obs.fab.fabSeq % 0xFFFF + 1

/-- What a repeat of a distributed freeze is known by (R315). -/
def freezeKey (q : Nat) : List Byte := le 1 0x30 ++ le 2 q

/-- Is the elected root reachable (R318)? -/
def rootReached (s : State) : Bool :=
  let f := s.obs.fab
  f.root || ((portUp s true || portUp s false) && f.members.any fun m => m.id == f.rootId)

/-- A fabric freeze (R98, R315): the root assigns the sequence and distributes T, another member asks the root. -/
def fabricFreeze (t : Nat) (r : Nat) (h : Held) (s : State) : State :=
  let f := s.obs.fab
  let me := s.aon.instId
  if !canPark s r h then s
  else if s.aon.misalign || !rootReached s then fail r h stNoResource s
  else if f.root then
    let q := nextFabSeq s
    let s := onFab (fun f => { f with fabSeq := q }) s
    let s := if 1 < f.count then fabCast 3 0x30 (freezeKey q) (freezeBody 1 me q t 0 0) s else s
    match swFreeze t true q [ringPart s r] s with
    | (none, _) => fail r h stNoResource s
    | (some id, s) =>
      if 1 < f.count then
        park r h (.fabFreeze q (f.count - 1) id)
          (onFab (fun f => { f with freezeCmds := f.freezeCmds ++ [⟨r, h.seq, t⟩] }) s)
      else finish r h stOk (lo32 id) false s
  else
    park r h (.fabFreeze 0 f.count 0) (onFab (fun f => { f with freezeCmds := f.freezeCmds ++ [⟨r, h.seq, t⟩] })
      (fabSend f.rootId 3 0x30 (freezeBody 0 me 0 t 0 0) s))

/-- Table 4.1. -/
def doFreezeAt (r : Nat) (h : Held) (s : State) : State :=
  let fabric := bit (dw h 5) 0
  let t0 := pair (dw h 3) (dw h 4)
  let e := engGt s
  let lead := if fabric then 4096 else 1024
  let t := if t0 = 0 then gtMod (e + lead) else t0
  if fabric && !s.build.fabric then fail r h stAbsent s
  else if t0 ≠ 0 ∧ (t < e + lead ∨ e + 2 ^ 40 < t) then fail r h stTimeout s
  else if s.obs.hang.seq.isSome then fail r h stAborted s
  else if fabric then fabricFreeze t r h s
  else match swFreeze t false 0 [ringPart s r] s with
    | (none, _) => fail r h stNoResource s
    | (some id, s) => finish r h stOk (lo32 id) false s

def execFreezeAt (r : Nat) : State → Answer := execOp 0x20 (checked doFreezeAt) r

/-! ## `EPOCH_SET` (R90, Table 4.6) -/

/-- A status for the words of `EPOCH_SET`, if one applies (R239). -/
def epochStatus (h : Held) : Option Nat :=
  let src := fld (dw h 3) 0 2
  if reservedBad h || src == 3
      || (src != 1 && (dw h 4 != 0 || dw h 5 != 0 || dw h 6 != 0 || dw h 7 != 0)) then some stReserved
  else if src = 1 ∧ (pair (dw h 4) (dw h 5) < 25600 ∨ 2 ^ 40 < pair (dw h 4) (dw h 5)) then some stBadLength
  else none

/-- The first boundary BASE + k × P at or after `low`. -/
def firstBound (base p low : Nat) : Nat := if low ≤ base then base else base + ceilDiv (low - base) p * p

/-- Standing schedules end at GT t. -/
def capEntries (t : Nat) (es : List EpEntry) : List EpEntry :=
  es.map fun e => { e with stop := some (match e.stop with | some x => min x t | none => t) }

/-- A schedule accepted at GT c joins those that stand. -/
def addSchedule (c : Nat) (d : Sched) (e : EpochSt) : EpochSt :=
  match d.source with
  | 0 => { e with entries := (capEntries (c + 1024) e.entries).map fun x => { x with off := some (x.off.getD c) } }
  | 1 =>
    let b := firstBound d.base d.period (c + 1024)
    { e with entries := capEntries b e.entries ++ [⟨d, [b], some b, none, none⟩] }
  | _ => { e with entries := e.entries ++ [⟨d, [], none, none, none⟩] }

def doEpochSet (r : Nat) (h : Held) (s : State) : State :=
  match epochStatus h with
  | some st => fail r h st s
  | none =>
    let p := ringPart s r
    let c := engGt s
    let base := pair (dw h 6) (dw h 7)
    let d : Sched := ⟨fld (dw h 3) 0 2, pair (dw h 4) (dw h 5), if base = 0 then gtMod (c + 1024) else base⟩
    let s := onEpoch p (fun e => { addSchedule c d e with renumber := e.renumber ++ [c] }) s
    finish r h stOk 0 false s

def execEpochSet (r : Nat) : State → Answer := execOp 0x21 doEpochSet r

/-! ## `READ_SHADOW` (R88, R89) -/

/-- Has the freeze ID been issued since `RST_N` (R80)? -/
def freezeIssued (s : State) (id : Nat) : Bool :=
  id != 0 && (decide (id ≤ s.obs.cut.issued) || decide (0xFFFF ≤ s.obs.cut.issued))

def freezePending (s : State) (id : Nat) : Bool := (freezes s).any fun f => f.id == id

/-- Header block (Table 4.5). -/
def shadowHeader (b : Shadow) (p n : Nat) (refused : Bool) : List U64 :=
  [BitVec.ofNat 64 (b.id * 2 ^ 48 + n * 2 ^ 32 + b2n refused * 32 + b2n b.fabric * 16 + p),
   BitVec.ofNat 64 b.t, BitVec.ofNat 64 b.finalGt,
   if p = 0 then BitVec.ofNat 64 (portSum b.bank.rsent) - BitVec.ofNat 64 (portSum b.bank.rrecv) else 0,
   if p = 0 then BitVec.ofNat 64 (portSum b.bank.fsent) - BitVec.ofNat 64 (portSum b.bank.frecv) else 0, 0, 0, 0]

/-- Unit block: the FOREIGN and LOST flags leave zeros in place of values, a missing consent the accounting word. -/
def shadowBlock (s : State) (b : Shadow) (p u : Nat) (refused : Bool) : List U64 :=
  let foreign := (unitOf s u).owner != p
  let lost := !foreign && (unitOf s u).shadowLost
  let w0 := BitVec.ofNat 64 (b.id * 2 ^ 48 + b2n lost * 2 ^ 47 + b2n foreign * 2 ^ 46 + u)
  let k := if foreign || lost then default else smGet ubankD b.bank.u u
  w0 :: (if refused then List.replicate 20 0 else counterWords k) ++ [k.acct, 0, 0]

/-- The whole output. -/
def shadowOut (s : State) (b : Shadow) (p : Nat) (h : Held) (refused : Bool) : List U64 :=
  let u0 := fld (dw h 4) 0 12
  let n := fld (dw h 4) 16 12 - u0 + 1
  shadowHeader b p n refused ++ ((List.range n).flatMap fun i => shadowBlock s b p (u0 + i) refused)
    ++ (if bit (dw h 3) 16 then
      (List.range 512).map fun i => if refused then 0 else opsWord b.bank (p * 512 + i) else [])

/-- The freeze named is not pending: its output is written, or it is no longer held. -/
def shadowNow (r : Nat) (h : Held) (s : State) : State :=
  match s.obs.cut.shadow with
  | some b =>
    if b.id = fld (dw h 3) 0 16 then
      let p := ringPart s r
      let no := !hasConsent s p 0
      writeOut r h (dAddr h 5) (shadowOut s b p h no) no s
    else fail r h stAborted s
  | none => fail r h stAborted s

def doReadShadow (r : Nat) (h : Held) (s : State) : State :=
  let id := fld (dw h 3) 0 16
  if !freezeIssued s id then fail r h stReserved s
  else if s.build.units ≤ fld (dw h 4) 16 12 ∨ fld (dw h 4) 16 12 < fld (dw h 4) 0 12 then fail r h stBadLength s
  else if !canPark s r h then s
  else if freezePending s id then park r h .freeze s
  else shadowNow r h s

def execReadShadow (r : Nat) : State → Answer := execOp 0x22 (checked doReadShadow) r

/-! ## `ATTR_LOAD` and `ATTR_CLEAR` (R61 to R63, R239, R404) -/

/-- A source entry that R61 refuses by its bits. -/
def attrBad (site : Nat) (w : U64) : Bool :=
  (bit w 0 && (fld w 4 2 != 0 || decide (16 ≤ attrPart w) || decide (12 ≤ attrRole w))) || (site == 0xFFFFF && w != 0)

/-- A valid table entry of another partition. -/
def attrForeign (s : State) (p site : Nat) : Bool :=
  match attrOf s site with | some e => attrPart e != p | none => false

/-- Status of source entries from a site on, and whether it is a breach. -/
def attrStatus (s : State) (p first : Nat) (ws : List U64) : Option (Nat × Bool) :=
  let es := ws.zipIdx.map fun e => (first + e.2, e.1)
  if es.any fun e => attrBad e.1 e.2 then some (stReserved, false)
  else if es.any fun e => bit e.2 0 && attrForeign s p e.1 then some (stFence, true)
  else if es.any fun e => bit e.2 0 && attrPart e.2 != p then some (stFence, false)
  else none

/-- Write the valid entries of a list. -/
def attrWrite (first : Nat) (ws : List U64) (s : State) : State :=
  onHed (fun h => { h with attr := ws.zipIdx.foldl (fun m e =>
    if bit e.1 0 then smPut u64D m (first + e.2) e.1 else m) h.attr }) s

/-- Entries that a list writes. -/
def attrCount (ws : List U64) : Nat := (ws.filter fun w => bit w 0).length

/-- The RFP record after a change of the table, to the partition's contexts (R63). -/
def attrChanged (p : Nat) (s : State) : State := offerPart p (rfpRec s p 1 (engGt s)) s

/-- Does the range of sites lie within the table? -/
def attrInside (s : State) (first n : Nat) : Bool := decide (first + n ≤ s.build.attrEntries)

def doAttrLoad (r : Nat) (h : Held) (s : State) : State :=
  let first := fld (dw h 3) 0 20
  if first % 8 ≠ 0 || !attrInside s first (8 * dLen h 6) then fail r h stBadLength s
  else beginRead true r h 0 (dAddr h 4) (dLen h 6) [] s

def execAttrLoad (r : Nat) : State → Answer := execOp 0x30 (checked doAttrLoad) r

/-- Ask for the next group of 8 of the second pass: each is checked again as it is read (R404). -/
def askGroup (r : Nat) (h : Held) (done : Nat) (s : State) : Option State :=
  issueRead (.cmd r h.seq 1) (ringPart s r) (dAddr h 4 + 8 * done) 1 s

/-- The first pass has been read: its checks, then the second pass. -/
def attrFirst (got : List (List U64)) (r : Nat) (h : Held) (s : State) : State :=
  match attrStatus s (ringPart s r) (fld (dw h 3) 0 20) (gotOf got 0) with
  | some (st, b) => finish r h st 0 b s
  | none => match askGroup r h 0 s with
    | some t => setStage r h.seq (.read 1 []) t
    | none => s

/-- Groups of 8 written whole, up to one that now fails the checks: entries written, and whether one failed. -/
def attrGroups (fuel p site : Nat) (ws : List U64) (acc : Nat × Bool × State) : Nat × Bool × State :=
  match fuel with
  | 0 => acc
  | n + 1 =>
    if ws.isEmpty || acc.2.1 then acc
    else
      let g := ws.take 8
      if (attrStatus acc.2.2 p site g).isSome then (acc.1, true, acc.2.2)
      else attrGroups n p (site + 8) (ws.drop 8) (acc.1 + attrCount g, false, attrWrite site g acc.2.2)

/-- The load ends, with the entries written. -/
def attrEnd (st n : Nat) (r : Nat) (h : Held) (s : State) : State :=
  let s := if st = stOk ∨ 0 < n then attrChanged (ringPart s r) s else s
  finish r h st (lo32 n) false s

/-- A group of the second pass has been read: `old` holds the words of the earlier groups. -/
def attrSecond (old ws : List U64) (r : Nat) (h : Held) (s : State) : State :=
  let site := fld (dw h 3) 0 20 + old.length
  let (n, bad, s) := attrGroups ws.length (ringPart s r) site ws (attrCount old, false, s)
  if bad then attrEnd stAborted n r h s
  else if old.length + ws.length ≥ 8 * dLen h 6 then attrEnd stOk n r h s
  else match askGroup r h (old.length + ws.length) s with
    | some t => setStage r h.seq (.read 1 [[], old ++ ws]) t
    | none => s

def doAttrClear (r : Nat) (h : Held) (s : State) : State :=
  let a := fld (dw h 3) 0 20
  let b := fld (dw h 4) 0 20
  let p := ringPart s r
  if b < a || !attrInside s a (b - a + 1) then fail r h stBadLength s
  else
    let hit := (s.obs.hed.attr.filter fun e => decide (a ≤ e.1) && decide (e.1 ≤ b) && (attrOf s e.1).isSome).map (·.1)
    if hit.any (attrForeign s p) then finish r h stFence 0 true s
    else
      let s := onHed (fun q => { q with attr := hit.foldl (fun m k =>
        smPut u64D m k (smGet u64D m k &&& ~~~ 1)) q.attr }) s
      finish r h stOk (lo32 hit.length) false (attrChanged p s)

def execAttrClear (r : Nat) : State → Answer := execOp 0x31 (checked doAttrClear) r

end Sys2Proof.Machine
end

