-- ==== Sys2Proof/Machine/LensOps.lean ====
section
/-! DEFINITION. `LENS_BIND`, `LENS_READ` and `LENS_RELEASE` (R118 to R126). -/

namespace Sys2Proof.Machine

/-! ## `LENS_BIND` -/

/-- The parameters of Table 5.8 as a slot. -/
def slotOfDesc (s : State) (p : Nat) (h : Held) (resident : Bool) : Slot :=
  { (default : Slot) with
    part := p, siteFirst := fld (dw h 3) 0 20, siteLast := fld (dw h 4) 0 20, operFirst := fld (dw h 5) 0 16
    operLast := fld (dw h 5) 16 16, stepFirst := (dw h 6).toNat, stepLast := (dw h 7).toNat
    roleMask := fld (dw h 8) 0 16, fmt := fld (dw h 8) 16 4, qfmt := fld (dw h 8) 20 4, scale := fld (dw h 8) 24 2
    pair := bit (dw h 8) 26, binStep := fld (dw h 8) 28 2, origin := sgn 10 (fld (dw h 9) 0 10)
    chanBase := fld (dw h 10) 0 16, chanCount := fld (dw h 11) 0 17, resident := resident
    spillAddr := if resident then 0 else dAddr h 12, boundAt := engGt s, buf := .empty }

/-- The reserved fields and encodings of R118. -/
def bindReserved (s : State) (h : Held) : Bool :=
  let k := slotOfDesc s 0 h true
  reservedBad h || k.fmt == 15 || k.qfmt == 15 || decide (2 ^ 12 ≤ k.roleMask) || k.binStep == 3
  || (k.scale != 0 && !fmtScalable (if k.pair then k.qfmt else k.fmt))
  || (k.pair && s.obs.cmd.agreed == 0x10) || (!k.pair && k.qfmt != 0)
  || (fixedOrigin k.fmt k.scale k.pair && (k.origin != 0 || k.binStep != 0))

def bindLength (s : State) (h : Held) : Bool :=
  let k := slotOfDesc s 0 h true
  decide (k.siteLast < k.siteFirst) || decide (k.operLast < k.operFirst) || decide (k.stepLast < k.stepFirst)
  || decide (65536 < k.chanBase + k.chanCount)

/-- Channel entries of a slot read zero. -/
def zeroChan (k : Slot) : State → State := onLens fun l => { l with
  chan := l.chan.filter fun e => !(decide (k.chanBase ≤ e.1) && decide (e.1 < k.chanBase + k.chanCount)) }

def doLensBind (r : Nat) (h : Held) (s : State) : State :=
  let id := firstGap 0 (s.obs.lens.slots.map (·.1))
  let resident := decide (0 < resFree s)
  if bindReserved s h then fail r h stReserved s
  else if bindLength s h then fail r h stBadLength s
  else if s.obs.lens.oos || decide (65536 ≤ id) || (!resident && dAddr h 12 == 0) then fail r h stNoResource s
  else
    let k := slotOfDesc s (ringPart s r) h resident
    finish r h (if resident then stOk else stSpilled) (lo32 id) false (setSlot id (some k) (zeroChan k s))

def execLensBind (r : Nat) : State → Answer := execOp 0x40 doLensBind r

/-! ## `LENS_READ` -/

/-- The T of the freeze an ID names, 0 for live images. -/
def freezeT (s : State) (id : Nat) : Nat := smGet natD s.obs.cut.times id

/-- Image of slot k for a reader of partition p: live (ID 0), or of a freeze. -/
def readImage (s : State) (p id k : Nat) : List U64 :=
  let kind := if id = 0 then 0 else 1
  let w0 := k * 2 ^ 48 + id * 2 ^ 32 + kind * 2 ^ 11
  match slotOf s k with
  | none => emptyImage ⟨k, id, kind, false, false, true⟩ w0
  | some x =>
    if x.part ≠ p then emptyImage ⟨k, id, kind, false, true, false⟩ w0
    else if id = 0 then imageWords ⟨k, 0, 0, false, false, false⟩ x (liveView s x)
    else if (x.buf = .freeze ∨ x.buf = .both) ∧ x.bufId = id ∧ !x.cutLost then
      imageWords ⟨k, id, 1, false, false, false⟩ x x.bufImg
    else emptyImage ⟨k, id, 1, true, false, false⟩ (imgWord0 ⟨k, id, 1, true, false, false⟩ x default)

/-- The channel entries of slot k, padded; zeros for a reader of another partition. -/
def readChan (s : State) (p k : Nat) : List U64 :=
  match slotOf s k with
  | none => []
  | some x =>
    let es := (List.range x.chanCount).flatMap fun i =>
      le 2 (if x.part = p then smGet natD s.obs.lens.chan (x.chanBase + i) else 0)
    toWords (padTo (64 * ceilDiv (2 * x.chanCount) 64) es)

/-- Slots that `LENS_READ` names. -/
def readSlots (h : Held) : List Nat := (List.range (fld (dw h 4) 0 16)).map (fld (dw h 3) 0 16 + ·)

/-- The whole output (R125). -/
def lensOut (s : State) (p : Nat) (h : Held) (refused : Bool) : List U64 :=
  let id := fld (dw h 5) 0 16
  let hd : List U64 := [BitVec.ofNat 64 id, BitVec.ofNat 64 (freezeT s id), BitVec.ofNat 64 (fld (dw h 4) 0 16), 0, 0, 0, 0, 0]
  if refused then hd
  else hd ++ (readSlots h).flatMap fun k => readImage s p id k ++ (if bit (dw h 5) 16 then readChan s p k else [])

/-- The copy is made, and the channel entries are cleared where CHAN_CLEAR asks. -/
def lensNow (r : Nat) (h : Held) (s : State) : State :=
  let p := ringPart s r
  let no := !hasConsent s p 2
  let out := lensOut s p h no
  let s := if !no && bit (dw h 5) 17 then (readSlots h).foldl (fun a k => match slotOf a k with
    | some x => if x.part = p then zeroChan x a else a
    | none => a) s else s
  writeOut r h (dAddr h 6) out no s

/-- Do images of spilled slots still have to be read for a command? -/
def imagesDue (s : State) (r seq : Nat) : Bool :=
  s.obs.lens.spill.any fun q => match q.what with | .read a b _ => a == r && b == seq | _ => false

/-- The images of spilled slots are read before they are copied (R119); then the copy is made. -/
def lensImages (r : Nat) (h : Held) (s : State) : State :=
  let p := ringPart s r
  let id := fld (dw h 5) 0 16
  let ks := if hasConsent s p 2 then (readSlots h).filter fun k => match slotOf s k with
    | some x => x.part == p && !x.resident | none => false else []
  let s := spillNext (ks.foldl (fun a k => addJob k (.read r h.seq id) a) s)
  if imagesDue s r h.seq then park r h .images s else lensNow r h s

def doLensRead (r : Nat) (h : Held) (s : State) : State :=
  let id := fld (dw h 5) 0 16
  let n := fld (dw h 4) 0 16
  if id ≠ 0 ∧ !freezeIssued s id then fail r h stReserved s
  else if n = 0 ∨ 65536 < fld (dw h 3) 0 16 + n then fail r h stBadLength s
  else if !canPark s r h then s
  else if freezePending s id then park r h .freeze s
  else lensImages r h s

def execLensRead (r : Nat) : State → Answer := execOp 0x41 (checked doLensRead) r

/-! ## `LENS_RELEASE` -/

/-- Commits still queued for a spilled slot, and losses that wait for one, reach the live image that has been read; nothing
more is read from its spill area or written to it (R126). -/
def settleSpill (k : Nat) (s : State) : State :=
  let js := s.obs.lens.spill.filter fun q => q.slot == k
  let s := js.foldl (fun a q => match q.what with | .commit _ parts => commitParts k parts a | _ => a) s
  let s := onSlot k (fun x => if x.lostDue = 0 then x else
    { x with lostDue := 0, live := imgAdd 0 x.live (imgLost x.lostDue) }) s
  let stays := fun (x : Piece) => x.what != .lensSpill k && js.all fun q => x.what != .lensRead q.job
  spillNext (onSmp (fun m => { m with pieces := m.pieces.filter stays })
    (onLens (fun l => { l with spill := l.spill.filter fun q => q.slot != k }) s))

/-- Streams and pairs that feed slot k feed it no more (R121). -/
def unbindSlot (k : Nat) (s : State) : State :=
  let s := [0, 1].foldl (fun acc u => match tapOf acc u with
    | some st => if st.slot = some k then unbindStream u acc else acc
    | none => acc) s
  let gone := s.obs.lens.pairs.filter fun p => p.slot == k
  let s := gone.foldl (fun acc p =>
    let acc := addUnbound 0 (partElems p.parts + unpaired 0 p) acc
    if p.joined then addUnbound 1 (partElems p.parts + unpaired 1 p) acc else acc) s
  onLens (fun l => { l with pairs := l.pairs.filter fun p => p.slot != k }) s

/-- The slot is unbound; with FLUSH its live image becomes a LENS record of KIND 1 (R124). -/
def releaseSlot (k : Nat) (flush : Bool) (s : State) : State :=
  let s := unbindSlot k (settleSpill k s)
  let s := match slotOf s k with
    | some x => if flush then offerPart x.part
        ⟨engGt s, .lens k 1 0 (imageWords ⟨k, 0, 0, false, false, false⟩ x (liveView s x))⟩ s else s
    | none => s
  setSlot k none s

/-- The slot is released and the command completes. -/
def endRelease (r : Nat) (h : Held) (s : State) : State :=
  finish r h stOk 0 false (releaseSlot (fld (dw h 3) 0 16) (bit (dw h 3) 16) s)

/-- With FLUSH the image of a spilled slot is read first (R119, R124). -/
def doLensRelease (r : Nat) (h : Held) (s : State) : State :=
  let k := fld (dw h 3) 0 16
  match slotOf s k with
  | none => finish r h stOk 0 false s
  | some x =>
    if x.part ≠ ringPart s r then finish r h stFence 0 true s
    else if x.resident || !bit (dw h 3) 16 then endRelease r h s
    else if !canPark s r h then s
    else
      let s := spillNext (addJob k (.read r h.seq 0) s)
      if imagesDue s r h.seq then park r h .images s else endRelease r h s

def execLensRelease (r : Nat) : State → Answer := execOp 0x42 (checked doLensRelease) r

end Sys2Proof.Machine
end

