-- ==== Sys2Proof/Machine/Arming.lean ====
section
/-! DEFINITION. `WATCH_ARM` and `WATCH_DISARM` (R148, R158), `HANG_DUMP` (R161), `SENT_ARM` and `SENT_DISARM` (R248, R256,
R258), and `GOV_SET` (R355). -/

namespace Sys2Proof.Machine

/-! ## Watches -/

/-- The parameters of Table 7.1 as a watch. -/
def watchOfDesc (s : State) (p : Nat) (h : Held) : Watch :=
  { (default : Watch) with
    part := p, ctx := dCtx h, layer := fld (dw h 3) 16 16, oper := fld (dw h 3) 0 16, layerAny := bit (dw h 4) 31
    operAny := bit (dw h 4) 30, source := fld (dw h 4) 28 2, kv := bit (dw h 4) 27, psz := bit (dw h 4) 26
    devseal := bit (dw h 4) 25, ndumps := if fld (dw h 4) 28 2 = 2 then 1 else fld (dw h 4) 16 8
    roleMask := fld (dw h 4) 0 16, stepFirst := (dw h 5).toNat, stepLast := (dw h 6).toNat, site := fld (dw h 7) 0 20
    va := dAddr h 8, asid := fld (dw h 9) 16 16, len := dLen h 10, tokenUnits := fld (dw h 11) 0 12
    maxLen := dLen h 12, armedAt := engGt s, no := s.obs.wat.arms }

/-- Expected bytes of a read-back. -/
def expectOf (w : Watch) : Nat := if w.kv then w.len * w.tokenUnits * 64 else w.len * 64

def watchReserved (w : Watch) (h : Held) : Bool :=
  reservedBad h || w.source == 3 || decide (2 ^ 12 ≤ w.roleMask) || (w.kv && w.source == 0)
  || (w.source == 0 && (w.site != 0 || w.va != 0 || w.asid != 0 || w.len != 0 || w.tokenUnits != 0))
  || (w.source != 0 && w.roleMask != 0) || (!w.kv && w.tokenUnits != 0)

def watchLength (w : Watch) : Bool :=
  decide (w.stepLast < w.stepFirst) || w.va % 64 != 0
  || (w.source != 0 && (expectOf w == 0 || decide (0xFFFFFFC0 < expectOf w)))

/-- The first status of R148, and whether it is a breach. -/
def watchStatus (s : State) (p : Nat) (w : Watch) (h : Held) : Option (Nat × Bool) :=
  if watchReserved w h then some (stReserved, false)
  else if watchLength w then some (stBadLength, false)
  else if w.source != 0 && attrForeign s p w.site then some (stFence, true)
  else if !hasConsent s p 3 then some (stNoConsent, false)
  else if w.devseal && (smGet noneD s.aon.keys.devset p).isNone then some (stKeyState, false)
  else none

def doWatchArm (r : Nat) (h : Held) (s : State) : State :=
  let p := ringPart s r
  let w := watchOfDesc s p h
  match watchStatus s p w h, lowestFree 64 (s.obs.wat.watches.map (·.1)) with
  | some (st, b), _ => finish r h st 0 b s
  | none, none => fail r h stNoResource s
  | none, some id =>
    let s := onWat (fun x => { x with arms := x.arms + 1 }) (setWatch id (some w) s)
    let s := if w.source = 2 then
      startDump id (engGt s) w.site (match attrOf s w.site with | some e => attrRole e | none => 0)
        w.layer w.oper (stepOf s p) 0 0 0 s else s
    finish r h stOk (lo32 id) false s

def execWatchArm (r : Nat) : State → Answer := execOp 0x50 doWatchArm r

/-- The disarm's result word, with which the watch is gone (R158). -/
def endDisarm (r : Nat) (h : Held) (s : State) : State :=
  let id := fld (dw h 3) 0 6
  match watchOf s id with
  | none => finish r h stOk 0 false s
  | some w => finish r h stOk (lo32 (sat 0xFFFF w.completed + w.missed * 2 ^ 16)) false (setWatch id none s)

/-- Is a dump of the watch in progress? -/
def dumping (s : State) (id : Nat) : Bool :=
  match watchOf s id with
  | some w => s.obs.wat.dumps.any fun d => d.no == w.no
  | none => false

def doWatchDisarm (r : Nat) (h : Held) (s : State) : State :=
  let id := fld (dw h 3) 0 6
  match watchOf s id with
  | none => finish r h stOk 0 false s
  | some w =>
    if w.part ≠ ringPart s r then finish r h stFence 0 true s
    else if bit (dw h 3) 8 then
      endDisarm r h (endDumps (fun d => d.no == w.no) 3 (engGt s) (setWatch id (some { w with disarming := true }) s))
    else if !dumping s id then endDisarm r h s
    else if canPark s r h then park r h .watchEnd (setWatch id (some { w with disarming := true }) s)
    else s

def execWatchDisarm (r : Nat) : State → Answer := execOp 0x51 (checked doWatchDisarm) r

/-! ## `HANG_DUMP` -/

/-- An operation of `HANG_DUMP`, its reserved fields first; the front must name it. -/
def execHangOp (p : Nat → Bool) (mask : List U32) (f : Nat → Held → State → State) (r : Nat) : State → Answer :=
  run (inWriter (atFront (fun h => opOf h == 0x52 && p (fld (dw h 3) 0 4))
    (fun r h s => if outside mask h then fail r h stReserved s else f r h s) r))

/-- Writes of the partition's dump are under way. -/
def areaBusy (s : State) (p : Nat) : Bool :=
  (s.obs.smp.wrOut.any fun w => match w.what with | .hang q _ => q == p | _ => false)
  || s.obs.smp.pieces.any fun x => match x.what with | .hang q _ => q == p | _ => false

/-- SET_AREA; an area that is being written is replaced afterwards. The reserved operations end here. -/
def doSetArea (r : Nat) (h : Held) (s : State) : State :=
  let p := ringPart s r
  if fld (dw h 3) 0 4 ≠ 0 then fail r h stReserved s
  else if areaBusy s p then s
  else finish r h stOk 0 false
    (setArea p (if dAddr h 4 = 0 then none else some ⟨dAddr h 4, dLen h 6, false⟩) s)

def execHangDumpSetArea (r : Nat) : State → Answer :=
  execHangOp (fun o => o == 0 || decide (4 ≤ o)) [0xF, 0xFFFFFFFF, 0xFFFF, 0xFFFFFF] doSetArea r

/-- The watchdog that SET_WDOG gives a unit, restarted at GT t. -/
def newWdog (h : Held) (t : Nat) : Option Wdog :=
  let n := fld (dw h 6) 0 6
  if n = 0 then none else some ⟨n, bit (dw h 6) 8, bit (dw h 6) 9, t, false⟩

def doSetWdog (r : Nat) (h : Held) (s : State) : State :=
  let a := fld (dw h 4) 0 12
  let b := fld (dw h 5) 0 12
  let n := fld (dw h 6) 0 6
  let us := (List.range (b + 1 - a)).map (a + ·)
  if n ≠ 0 ∧ (n < 10 ∨ 40 < n) then fail r h stReserved s
  else if s.build.units ≤ b ∨ b < a then fail r h stBadLength s
  else if us.any fun u => (unitOf s u).owner != ringPart s r then finish r h stFence 0 true s
  else
    let t := engGt s
    finish r h stOk 0 false (us.foldl (fun acc u => onUnit u (fun x => { x with wdog := newWdog h t }) acc) s)

def execHangDumpSetWdog (r : Nat) : State → Answer :=
  execHangOp (fun o => o == 1) [0xF, 0xFFF, 0xFFF, 0x33F] doSetWdog r

/-- REQUEST: a hang sequence of cause 2 (R161, R163, R166). -/
def doHangRequest (r : Nat) (h : Held) (s : State) : State :=
  if ringPart s r ≠ 0 then fail r h stFence s
  else finish r h stOk 0 false (hangStart (engGt s) 2 0xFFF 0 s)

def execHangDumpRequest (r : Nat) : State → Answer := execHangOp (fun o => o == 2) [0xF] doHangRequest r

/-- RELEASE: the partition's held area may be written again. -/
def doHangRelease (r : Nat) (h : Held) (s : State) : State :=
  let p := ringPart s r
  finish r h stOk 0 false (match areaOf s p with
    | some a => setArea p (some { a with held := false }) s
    | none => s)

def execHangDumpRelease (r : Nat) : State → Answer := execHangOp (fun o => o == 3) [0xF] doHangRelease r

/-! ## Sentinel watches -/

/-- The parameters of `SENT_ARM` as a watch. -/
def sentOfDesc (p : Nat) (h : Held) : SWatch :=
  { (default : SWatch) with
    armed := true, part := p, startKind := fld (dw h 6) 0 4, endKind := fld (dw h 6) 4 4
    sLayer := fld (dw h 4) 16 16, sOper := fld (dw h 4) 0 16, eLayer := fld (dw h 5) 16 16, eOper := fld (dw h 5) 0 16
    offset := pair (dw h 7) (dw h 8), lines := fld (dw h 3) 8 4, freeze := bit (dw h 3) 12 }

/-- Reserved kinds, and fields that Table 11.1 does not compare. -/
def kindBad (isEnd : Bool) (kind layer oper : Nat) : Bool :=
  (decide (5 < kind) && (kind != 8 || isEnd)) || (decide (3 < kind) && layer != 0) || (decide (1 < kind) && oper != 0)

/-- Alert lines granted to a partition. -/
def granted (s : State) (p : Nat) : Nat := fld (reg s (aSen + 0xC + 4 * (p / 8))) (4 * (p % 8)) 4

def doSentArm (r : Nat) (h : Held) (s : State) : State :=
  let p := ringPart s r
  let w := fld (dw h 3) 0 8
  let n := sentOfDesc p h
  let old := swatchOf s w
  if reservedBad h || kindBad false n.startKind n.sLayer n.sOper || kindBad true n.endKind n.eLayer n.eOper then
    fail r h stReserved s
  else if n.offset < 2048 then fail r h stBadLength s
  else if old.armed ∧ old.part ≠ p then finish r h stFence 0 true s
  else if n.lines &&& granted s p ≠ n.lines then fail r h stFence s
  else if old.armed then fail r h stNoResource s
  else finish r h stOk 0 false (onSWatch w (fun _ => n) s)

def execSentArm (r : Nat) : State → Answer := execOp 0x60 doSentArm r

/-- A watch is disarmed without alert; lines latched stay (R256), and its count of misses since its arm still reads. -/
def sentOff (w : Nat) : State → State := onSWatch w fun x => { (default : SWatch) with misses := x.misses }

def doSentDisarm (r : Nat) (h : Held) (s : State) : State :=
  let p := ringPart s r
  let w := fld (dw h 3) 0 8
  let x := swatchOf s w
  if !x.armed then finish r h stOk 0 false s
  else if x.part = p ∨ (p = 0 ∧ (partOf s x.part).state = 0) then finish r h stOk 0 false (sentOff w s)
  else finish r h stFence 0 true s

def execSentDisarm (r : Nat) : State → Answer := execOp 0x61 (checked doSentDisarm) r

/-! ## `GOV_SET` -/

/-- The pad area that `WRN_PWR_PAD` names. -/
def padAddr (s : State) : Nat := pair (reg s 0x2028) (reg s 0x202C)

def doGovSet (r : Nat) (h : Held) (s : State) : State :=
  let share := fld (dw h 3) 0 7
  let fixed := bit (dw h 3) 16
  if reservedBad h then fail r h stReserved s
  else if share < 5 ∨ 100 < share then fail r h stBadLength s
  else if fixed && (padAddr s == 0 || !inWin s 0 (padAddr s) 64) then fail r h stBadLength s
  else
    let s := onSmp (fun m => { m with
      share := share, fixed := fixed, govreq := bit (dw h 3) 17 && s.build.sentinel, pad := padAddr s, credit := 0 }) s
    finish r h stOk 0 false (offerReq s)

def execGovSet (r : Nat) : State → Answer := execOp 0x62 doGovSet r

end Sys2Proof.Machine
end

