-- ==== Sys2Proof/Machine/Region.lean ====
section
/-! DEFINITION. Trace regions (R199 to R201, R403), host bounce rings (R290) and tombstones (R270). -/

namespace Sys2Proof.Machine

/-! ## Frames in staging -/

/-- Are two frames one? -/
def sameFrame (f g : Frame) : Bool :=
  f.part == g.part && f.ctx == g.ctx && f.seq == g.seq && f.closedAt == g.closedAt

def onRegion (p : Nat) (f : Region → Region) : State → State :=
  onPart p fun q => { q with region := q.region.map f }

def onHost (p : Nat) (f : Region → Region) : State → State := onPart p fun q => { q with host := f q.host }

/-- Is a frame write to partition p's trace region, or to its host bounce ring, outstanding? -/
def regionOut (s : State) (p : Nat) : Bool :=
  s.obs.smp.wrOut.any fun w => match w.what with | .frame f => f.part == p | _ => false

def hostWriting (s : State) (p : Nat) : Bool :=
  s.obs.smp.wrOut.any fun w => match w.what with | .host f => f.part == p | _ => false

def reading (s : State) (x : RdWhat) : Bool := s.obs.smp.rdOut.any fun r => r.what == x

/-- The oldest frame of partition p due for its trace region, and for its host bounce ring. -/
def regionFrame (s : State) (p : Nat) : Option Frame := s.obs.smp.frames.find? fun f => f.part == p && f.regionDue
def hostFrame (s : State) (p : Nat) : Option Frame := s.obs.smp.frames.find? fun f => f.part == p && f.hostDue

/-- One copy of a frame has been taken; its buffer is freed with the last (R403). -/
def frameTaken (f : Frame) (host : Bool) (s : State) : State :=
  let take := fun (g : Frame) =>
    if sameFrame f g then (if host then { g with hostDue := false } else { g with regionDue := false }) else g
  onSmp (fun m => { m with frames := (m.frames.map take).filter (fun g => g.regionDue || g.hostDue) }) s

/-! ## Slots -/

/-- Frame slots of a region, and the I/O address of one. -/
def regionN (g : Region) : Nat := 16 * g.npages
def slotAddr (g : Region) (i : Nat) : Nat := g.pages.getD (i / 16) 0 + 4096 * (i % 16)

/-- Does the last copy of RD refuse slot WR in STOP mode? -/
def refused (n : Nat) (g : Region) : Bool := (g.wr + 1) % n == g.rd

/-- May partition p's next frame be written: page entry read, no read or write of the ring outstanding, room? -/
def regionReady (s : State) (p : Nat) : Bool :=
  match (partOf s p).region with
  | none => false
  | some g => g.pageRead && !regionOut s p && !reading s (.page p) && !reading s (.regionRd p)
      && (if g.overwrite then g.rdRead else !refused (regionN g) g)

/-- WR passes the slot it stands at (R199, R201). -/
def slotPassed (n : Nat) (g : Region) : Region :=
  let full := g.overwrite && g.unread == n
  { g with
    wr := (g.wr + 1) % n
    wraps := if g.wr + 1 = n then (g.wraps + 1) % 2 ^ 32 else g.wraps
    overwritten := if full then sat 0xFFFFFFFF (g.overwritten + 1) else g.overwritten
    unread := if full then g.unread else g.unread + 1
    pageRead := g.pageRead && (g.wr + 1) % 16 != 0, rdRead := g.rdRead && (g.wr + 1) % 16 != 0 }

/-- Bytes 0 to 15 of a control block (Table 9.3). -/
def ctrlWords (g : Region) : List U64 :=
  [BitVec.ofNat 64 (g.wr + g.wraps * 2 ^ 32), BitVec.ofNat 64 (b2n g.overwrite + g.overwritten * 2 ^ 32)]

/-- The control block of partition p's region is updated, as a metered piece of class 4. -/
def ctrlUpdate (by_ : Option (Nat × Nat)) (p : Nat) (s : State) : State :=
  match (partOf s p).region with
  | some g => addPiece ⟨4, 1, p, (.ctrlBlock p by_ (now s)), g.cbAddr, ctrlWords g⟩ s
  | none => s

/-- The update after a frame: at the end of a page, and where staging holds no further frame of the partition. -/
def regionAfter (p : Nat) (s : State) : State :=
  match (partOf s p).region with
  | some g => if g.wr % 16 = 0 ∨ (regionFrame s p).isNone then ctrlUpdate none p s else s
  | none => s

/-- A frame's write to its trace region is answered: an error loses the frame to the region alone (R403). -/
def regionDone (f : Frame) (err : Bool) (s : State) : State :=
  let s := if err then bumpReg (aPrv + 0x10) 0 32 1 s else s
  let s := frameTaken f false s
  let s := onRegion f.part (fun g => slotPassed (regionN g) g) s
  let s := regionAfter f.part s
  match f.waiter with
  | some (r, seq) => setStage r seq (.ctxFrame true) s
  | none => s

/-- Slots of the host bounce ring, 0 where there is none. -/
def hostN (s : State) (p : Nat) : Nat :=
  let l := fld (reg s (aPrv + 0x108 + 0x20 * p)) 0 5
  if l = 0 then 0 else 2 ^ l

def hostUpdate (by_ : Option (Nat × Nat)) (p : Nat) (s : State) : State :=
  let g := (partOf s p).host
  addPiece ⟨5, 1, p, (.hostBlock p by_ (now s)), g.cbAddr, ctrlWords g⟩ s

/-- A frame's write to the host bounce ring is answered; an error counts in HB_SKIP (R403). -/
def hostDone (f : Frame) (addr : Nat) (err : Bool) (s : State) : State :=
  let s := if err then hbSkip f.part s else s
  let s := frameTaken f true s
  let n := hostN s f.part
  let g := (partOf s f.part).host
  if n ≠ 0 ∧ addr = g.ptAddr + 4096 * g.wr then
    let s := onHost f.part (slotPassed n) s
    if (partOf s f.part).host.wr % 16 = 0 ∨ (hostFrame s f.part).isNone then hostUpdate none f.part s else s
  else s

/-! ## Reads of RD and of page entries -/

/-- RD as the driver wrote it: a value of N or more is 0 (R201). -/
def rdValue (n : Nat) (ws : List U64) : Nat :=
  let v := fld (ws.getD 4 0) 0 32
  if v < n then v else 0

/-- A reread of RD of a trace region (R201). -/
def regionRd (p : Nat) (ws : List U64) : State → State :=
  onRegion p fun g =>
    let v := rdValue (regionN g) ws
    { g with rdRead := true, rd := v, unread := if v = g.rd then g.unread else (g.wr + regionN g - v) % regionN g }

/-- A reread of RD of a host bounce ring: slots that RD has passed are read. -/
def hostRd (p : Nat) (ws : List U64) (s : State) : State :=
  let n := hostN s p
  if n = 0 then s
  else
    let v := rdValue n ws
    let wr := (partOf s p).host.wr
    let s := onPart p (fun q => { q with
      host := { q.host with rd := v, pageRead := true }
      hostSlots := q.hostSlots.filter fun e => decide ((e.1 + n - v) % n < (wr + n - v) % n) || e.1 == wr }) s
    sweepGens s

/-- The entry of the page that WR stands in (R199). -/
def pageRead (p : Nat) (ws : List U64) : State → State :=
  onRegion p fun g =>
    let i := g.wr / 16
    { g with pages := g.pages.set i (fld (ws.getD (i % 8) 0) 16 32 * 2 ^ 16), pageRead := true }

/-- Ask for a read once. -/
def askOnce (x : RdWhat) (p addr : Nat) (s : State) : State :=
  if reading s x then s else (issueRead x p addr 1 s).getD s

/-- What partition p's trace region must read before its next frame. -/
def regionAsk (p : Nat) (s : State) : State :=
  match (partOf s p).region with
  | none => s
  | some g =>
    if (regionFrame s p).isNone || regionOut s p then s
    else
      let s := if g.pageRead then s else askOnce (.page p) p (g.ptAddr + g.wr / 16 * 8 / 64 * 64) s
      if (if g.overwrite then !g.rdRead else g.pageRead && refused (regionN g) g) then askOnce (.regionRd p) p g.cbAddr s
      else s

/-- Does the host bounce ring hold frames of an older generation, whose fate RD decides (R282)? -/
def hostOld (s : State) (p : Nat) : Bool :=
  (partOf s p).hostSlots.any fun e => match outGen s p e.2.job with
    | some g => g.gen != e.2.keygen | none => false

/-- A frame that finds no host ring, or a ring that a fresh copy of RD shows full, is counted and does not wait. -/
def hostAsk (p : Nat) (s : State) : State :=
  let n := hostN s p
  let g := (partOf s p).host
  match hostFrame s p with
  | some f =>
    if hostWriting s p then s
    else if n = 0 ∨ (refused n g ∧ g.pageRead) then frameTaken f true (hbSkip p (onHost p (fun g => { g with pageRead := false }) s))
    else if refused n g then askOnce (.hostRd p) p g.cbAddr s
    else s
  | none => if hostOld s p && n != 0 then askOnce (.hostRd p) p g.cbAddr s else s

/-- The reads that every partition's rings need. -/
def ringsAsk (s : State) : State :=
  (List.range (npart s.build)).foldl (fun acc p => hostAsk p (regionAsk p acc)) s

/-! ## Frames dropped at the drain bound (R269, R270) -/

/-- Frames of partition p not yet issued to SMP, for its region and for its host bounce ring. -/
def unissued (s : State) (p : Nat) (host : Bool) : List Frame :=
  s.obs.smp.frames.filter fun f => f.part == p && (if host then f.hostDue else f.regionDue)
    && !s.obs.smp.wrOut.any fun w => match w.what with
      | .frame g => !host && sameFrame f g | .host g => host && sameFrame f g | _ => false

/-- A tombstone for each frame at the slot it would have taken, where one is free; `k` slots from WR are taken. -/
def tombRegion (by_ : Option (Nat × Nat)) (p : Nat) (fs : List Frame) (k : Nat) (s : State) : State :=
  match fs, (partOf s p).region with
  | f :: rest, some g =>
    let n := regionN g
    let i := (g.wr + k) % n
    if !g.overwrite && (i + 1) % n == g.rd then s
    else tombRegion by_ p rest k
      (onRegion p (fun g => slotPassed n g) (writeNow ⟨0, 1, p, .tomb by_, slotAddr g i, tombstone s f 1⟩ s))
  | _, _ => s

def tombHost (by_ : Option (Nat × Nat)) (p : Nat) (fs : List Frame) (k : Nat) (s : State) : State :=
  match fs with
  | [] => s
  | f :: rest =>
    let n := hostN s p
    let g := (partOf s p).host
    let i := (g.wr + k) % n
    if n = 0 ∨ (i + 1) % n = g.rd then s
    else tombHost by_ p rest k
      (onHost p (slotPassed n) (writeNow ⟨0, 1, p, .tomb by_, g.ptAddr + 4096 * i, tombstone s f 1⟩ s))

/-- At E every frame not yet issued is dropped, replaced by tombstones and counted in DRAIN_DROP. -/
def dropDrained (by_ : Option (Nat × Nat)) (p : Nat) (s : State) : State :=
  let fr := unissued s p false
  let fh := unissued s p true
  let gone := fr ++ fh.filter fun f => !fr.any (sameFrame f)
  let s := if fr.isEmpty then s else ctrlUpdate by_ p (tombRegion by_ p fr (b2n (regionOut s p)) s)
  let s := if fh.isEmpty ∨ hostN s p = 0 then s else hostUpdate by_ p (tombHost by_ p fh (b2n (hostWriting s p)) s)
  let s := fr.foldl (fun a f => frameTaken f false a) s
  let s := fh.foldl (fun a f => frameTaken f true a) s
  bumpReg aPrv 8 8 gone.length s

end Sys2Proof.Machine
end

