-- ==== Sys2Proof/Machine/Privet.lean ====
section
/-! DEFINITION. Privet (chapter 12): owners of units, the states of a partition, consent words and key blobs. -/

namespace Sys2Proof.Machine

/-! ## Owners (R266) -/

/-- Unit u holds nothing in a bank, or in a bank split at boundaries. -/
def clearUnit (u : Nat) (b : Bank) : Bank := { b with u := smPut ubankD b.u u (ubankD u) }

def clearSplit (f : Bank → Bank) (b : Split) : Split :=
  ⟨f b.live, b.after.foldl (fun m e => smPut bankD m e.1 (f e.2)) b.after⟩

/-- A change of every bank of the machine. -/
def onBanks (f : Bank → Bank) : State → State :=
  let g := fun (z : Freeze) => { z with bank := clearSplit f z.bank }
  onCut fun c => { c with
    main := clearSplit f c.main, epochBank := f c.epochBank, sw := c.sw.map g, hw := c.hw.map g
    shadow := c.shadow.map fun b => { b with bank := f b.bank }
    marks := c.marks.map fun m => { m with bank := clearSplit f m.bank } }

/-- Unit u passes to partition q at GT t: its counters, its values in the banks and its ring are lost. -/
def changeOwner (q u t : Nat) (s : State) : State :=
  let s := snapUnit u t (accrue u t s)
  let s := match portOfUnit s u (2 ^ 64) with | some p => closeRun p t s | none => s
  let s := onBanks (clearUnit u) s
  emptyRing u (onUnit u (fun x => { x with
    owner := q, owners := x.owners.filter (fun e => decide (t < e.1 + 65536)) ++ [(t, x.owner)]
    shadowLost := true, epochLost := true, restart := max x.restart t }) s)

/-- Is a partition on its way out, or not yet free again (states 2 to 5)? -/
def partLeaving (s : State) (p : Nat) : Bool := decide (2 ≤ (partOf s p).state)

/-- May unit u pass to partition q? -/
def ownerRefused (s : State) (u q : Nat) : Bool :=
  let x := unitOf s u
  x.sels.any (fun e => e.2.isSome) || x.wdog.isSome || partLeaving s x.owner || partLeaving s q

/-- One field of `WRN_PRV_OWN[m]`. -/
def ownField (m : Nat) (v : U32) (k : Nat) (s : State) : State :=
  let u := 8 * m + k
  let q := fld v (4 * k) 4
  if s.build.units ≤ u ∨ npart s.build ≤ q ∨ (unitOf s u).owner = q then s
  else if ownerRefused s u q then orReg aPrv 0x80000000 s
  else changeOwner q u (now s) s

/-- `UNIT_OWNER_WRITE`. -/
def opOwner (m : Nat) (v : U32) (s : State) : State :=
  if 512 ≤ m then s else (List.range 8).foldl (fun acc k => ownField m v k acc) s


/-! ## States (Table 12.2) -/

/-- A partition enters a state, with its item (R267). -/
def enterState (p st : Nat) (s : State) : State :=
  push 1 (mkItem 0x22 p p (lo32 st) (engGt s)) (onPart p (fun q => { q with state := st }) s)

/-- Firmware does tasks: it runs, and its core is not held in reset (R342). -/
def fwRuns (s : State) : Bool := s.aon.pwr.fwOk && !s.aon.pwr.hedgerDown

/-- GT by which firmware must have answered a descriptor (R268, R274, R280). -/
def fwDeadline (h : Held) : Nat := h.fetchedAt + 1600000

/-- Bytes of a key or blob buffer read as step k. -/
def gotBytes (got : List (List U64)) (k : Nat) : List Byte := toBytes (gotOf got k)

def reservedIn (bs : List Byte) (rs : List (Nat × Nat)) : Bool := rs.any fun r => leAt bs r.1 r.2 != 0

/-! ## `PART_CREATE` (R268) -/

def npages (h : Held) : Nat := fld (dw h 8) 0 17

/-- Statuses before the page table is read. -/
def createStatus (s : State) (h : Held) : Option Nat :=
  let p := dPart h
  let n := dLen h 5
  if (if p = 0 then (partOf s 0).region.isSome else (partOf s p).state != 0) then some stFence
  else if npages h < 2 ∨ 65536 < npages h then some stBadLength
  else if s.build.crypto then (if n = 2 ∨ (p = 0 ∧ n = 0) then none else some stBadLength)
  else if n ≠ 0 ∨ dAddr h 3 ≠ 0 then some stBadLength
  else none

def doPartCreate (r : Nat) (h : Held) (s : State) : State :=
  match createStatus s h with
  | some st => fail r h st s
  | none => beginRead false r h 0 (dAddr h 6) (bufAt h 0).2 [] s

def execPartCreate (r : Nat) : State → Answer := execOp 0x70 (checked doPartCreate) r

/-- The key is a point on P-384 and the rest of its buffer is zero. -/
def keyGood (bs : List Byte) : Bool := Config.onP384 (bs.take 97) && (bs.drop 97).all (· == 0)

/-- The partition becomes OPEN with its region and its tenant key. -/
def partOpened (got : List (List U64)) (r : Nat) (h : Held) (s : State) : State :=
  let p := dPart h
  let key := (gotBytes got 1).take 97
  let n := npages h
  let g : Region := { (default : Region) with
    npages := n, overwrite := bit (dw h 8) 31, ptAddr := dAddr h 6, cbAddr := dAddr h 9, pages := ((gotOf got 0).take n).map (·.toNat) }
  let s := if p = 0 then s else
    (List.range 256).foldl (fun acc w => if (swatchOf acc w).armed && (swatchOf acc w).part == p then sentOff w acc else acc) s
  let s := onPart p (fun q => { q with
    region := some g, serial := 0, keySerial := 0, consentHash := []
    tenantHash := if key.isEmpty then [] else Config.sha384 key }) s
  let s := if key.isEmpty then s else onKeys (fun k => { k with tenant := smPut noneD k.tenant p (some key) }) s
  let s := if p = 0 && !s.build.crypto then s else setConsent p 0 s
  finish r h stOk 0 false (if p = 0 then s else enterState p 1 s)

/-- The page table has been read whole: its entries are checked, then the key is read. -/
def createPages (got : List (List U64)) (r : Nat) (h : Held) (s : State) : State :=
  if ((gotOf got 0).take (npages h)).any fun w => fld w 48 16 != 0 || fld w 0 16 != 0 then fail r h stReserved s
  else if dLen h 5 = 0 then
    match createStatus s h with
    | some st => fail r h st s
    | none => partOpened got r h s
  else match askBuf r h 1 (dAddr h 3) 2 got s with
    | some t => setStage r h.seq (.read 1 got) t
    | none => s

/-- Firmware has checked the key. -/
def createVerdict (got : List (List U64)) (r : Nat) (h : Held) (s : State) : State :=
  match createStatus s h with
  | some st => fail r h st s
  | none => if keyGood (gotBytes got 1) then partOpened got r h s else fail r h stBadFormat s

/-! ## `PART_CLOSE` (R269, Table 12.3) -/

/-- Rings of a partition. -/
def ringsOf (s : State) (p : Nat) : List Nat := (List.range 64).filter fun r => ringPart s r == p

/-- What the partition's rings hold parked or in progress completes with ABORTED. -/
def abortRings (p : Nat) (s : State) : State :=
  (ringsOf s p).foldl (fun acc r => ((ringOf acc r).parked ++ (ringOf acc r).cur.toList).foldl
    (fun a h => complete r h stAborted 0 a) acc) s

/-- Contexts of a partition. -/
def ctxsOf (s : State) (p : Nat) : List Nat :=
  (ctxIds s).filter fun x => match ctxOf s x with | some c => c.part == p | none => false

/-- Step 1 at GT A. -/
def closeStep1 (r seq p t : Nat) (s : State) : State :=
  let s := disarmWatches (fun w => w.part == p) (endDumps (fun d => d.part == p) 3 t s)
  let s := (ctxsOf s p).foldl (fun a x => closeFrame x false none (some (r, seq)) (onCtx x (fun c => { closeSpan t c with waiters := [], pauseBy := none }) a)) s
  let s := [0, 1].foldl (fun a u => match tapOf a u with
    | some st => if st.part = p then unbindStream u a else a
    | none => a) s
  enterState p 2 (abortRings p s)

def doPartClose (r : Nat) (h : Held) (s : State) : State :=
  let p := dPart h
  if p = 0 ∨ (partOf s p).state ≠ 1 then fail r h stFence s
  else if !canPark s r h then s
  else
    let t := engGt s
    park r h (.partClose t 0 0 1) (closeStep1 r h.seq p t s)

def execPartClose (r : Nat) : State → Answer := execOp 0x71 (checked doPartClose) r

/-- The PART_CLOSE in progress for a partition: ring, command, and the GT of its step. -/
def closingOf (s : State) (p : Nat) : Option (Nat × Held × Nat) :=
  s.obs.cmd.rings.findSome? fun e => e.2.parked.findSome? fun h =>
    if dPart h = p then (match h.stage with | .partClose _ d _ _ => some (e.1, h, d) | _ => none) else none

/-- `PART_CLOSE_DRAINING`: every record produced before A has entered staging (step 2). -/
def opDraining (p : Nat) (s : State) : State :=
  match closingOf s p with
  | none => s
  | some (r, h, _) =>
    if (partOf s p).state ≠ 2 || (ctxsOf s p).any fun x => match ctxOf s x with | some c => !c.hold.isEmpty | none => false
    then s
    else
      let s := (ctxsOf s p).foldl (fun a x => closeFrame x false none (some (r, h.seq)) a) s
      enterState p 3 (setStage r h.seq (.partClose 0 (engGt s) 0 2) s)

def execPartCloseDraining (p : Nat) : State → Answer := run (inWriter (opDraining p))

/-- Frames of the partition that are still to be written or acknowledged. -/
def drainBusy (s : State) (p : Nat) : Bool :=
  s.obs.smp.frames.any (fun f => f.part == p) || s.obs.egr.slots.any (fun x => x.frame.part == p && x.origin == s.aon.instId)
  || s.obs.fab.sent.any (fun f => f.part == p)

/-- `PART_CLOSE_DRAIN_END`: the drain is complete or its bound is reached; keys and consent go (steps 4 and 5). -/
def opDrainEnd (p : Nat) (s : State) : State :=
  match closingOf s p with
  | none => s
  | some (r, h, d) =>
    if (partOf s p).state ≠ 3 || (drainBusy s p && decide (engGt s < d + 160000)) then s
    else
      let s := dropDrained (some (r, h.seq)) p s
      let s := loseSlots (fun x => x.frame.part == p && x.origin == s.aon.instId) 3 s
      let s := eraseKeys p s
      let s := setConsent p 0 (onPart p (fun q => { q with tenantHash := [] }) s)
      let s := (List.range 256).foldl (fun a w => if (swatchOf a w).armed && (swatchOf a w).part == p then sentOff w a else a) s
      finish r h stOk 0 false (enterState p 4 s)

def execPartCloseDrainEnd (p : Nat) : State → Answer := run (inWriter (opDrainEnd p))

/-! ## `SCRUB` (R271) -/

/-- Is a `SCRUB` of the partition under way? -/
def scrubbing (s : State) (p : Nat) : Bool :=
  s.obs.cmd.rings.any fun e => e.2.parked.any fun h => dPart h == p && (match h.stage with | .scrub _ => true | _ => false)

def doScrub (r : Nat) (h : Held) (s : State) : State :=
  let p := dPart h
  let st := (partOf s p).state
  if st = 4 ∨ (st = 5 ∧ !scrubbing s p) then
    if !canPark s r h then s
    else
      let s := park r h (.scrub (engGt s + 3200000)) s
      if st = 4 then enterState p 5 s else s
  else fail r h stFence s

def execScrub (r : Nat) : State → Answer := execOp 0x74 (checked doScrub) r

/-- Entries and slots of the partition are zeroed. -/
def scrubEntries (p : Nat) (s : State) : State :=
  let s := (ctxsOf s p).foldl (fun a x => dropCtx x a) s
  let s := (slotsOf s (some p)).foldl (fun a k => match slotOf a k with
    | some x => setSlot k none (zeroChan x (unbindSlot k (settleSpill k a)))
    | none => a) s
  onHed (fun h => { h with
    attr := h.attr.filter (fun e => attrPart e.2 != p), steps := smPut natD h.steps p 0 }) s

/-- The ops-matrix column, the epochs, the ring depths and dumps in progress of a partition are zeroed. -/
def scrubBanks (p : Nat) (s : State) : State :=
  let s := onBanks (fun b => { b with ops := b.ops.filter fun e => opsOf e.1 / 512 != p }) s
  let s := onEpoch p (fun _ => epochD p) (setArea p none s)
  let gone := fun (i : Item) => if i.part = p then { i with arg := 0 } else i
  let s := onSen (fun n => { n with hold := n.hold.map gone }) s
  let s := onLens (fun l => { l with rowDue := l.rowDue.map fun e => (e.1, gone e.2) }) s
  onEvq (fun e => { e with
    q := e.q.map (fun x => if x.read.isNone then { x with item := gone x.item } else x)
    holds := e.holds.map fun x => { x with item := gone x.item } }) s

/-- Counters and watchdogs are released, and every unit passes to partition 0. -/
def scrubUnits (p : Nat) (s : State) : State :=
  ((List.range s.build.units).filter fun u => (unitOf s u).owner == p).foldl (fun a u =>
    changeOwner 0 u (now a) (onUnit u (fun x => { x with sels := [], wdog := none, lastEvent := 0, lastProg := 0 }) a)) s

/-- Firmware's work on a scrub, and its end. -/
def endScrub (r : Nat) (h : Held) (s : State) : State :=
  let p := dPart h
  let s := scrubUnits p (scrubBanks p (scrubEntries p s))
  let s := clearViol p s
  let s := onPart p (fun q => { partD p with
    host := q.host, hostSlots := q.hostSlots, state := q.state, consentLog := q.consentLog }) s
  finish r h stOk 0 false (enterState p 0 s)

/-! ## `CONSENT_LOAD` (R273 to R275) -/

/-- DEVICE_ID as fused. -/
def deviceId (s : State) : Nat := pair (fuse s 2) (fuse s 3)

def tenantKey (s : State) (p : Nat) : Option (List Byte) := smGet noneD s.aon.keys.tenant p

def keysGone (s : State) : Bool := s.aon.alm.zeroizing || s.aon.alm.zeroized

def doConsentLoad (r : Nat) (h : Held) (s : State) : State :=
  if dLen h 5 ≠ 3 then fail r h stBadLength s else beginRead false r h 0 (dAddr h 3) 3 [] s

def execConsentLoad (r : Nat) : State → Answer := execOp 0x75 (checked doConsentLoad) r

/-- Statuses 2 to 5 of R274. -/
def consentStatus (s : State) (p : Nat) (bs : List Byte) : Option Nat :=
  if leAt bs 0 2 ≠ 0x4357 ∨ leAt bs 2 1 ≠ 1 then some stBadFormat
  else if 16 ≤ leAt bs 3 1 || reservedIn bs [(5, 3), (12, 4), (24, 72)] then some stReserved
  else if leAt bs 3 1 ≠ p then some stFence
  else if keysGone s || (tenantKey s p).isNone then some stKeyState
  else none

/-- The word's identity, serial and signature hold. -/
def consentGood (s : State) (p : Nat) (bs : List Byte) : Bool :=
  leAt bs 16 8 == deviceId s && decide ((partOf s p).serial < leAt bs 8 4)
    && Config.ecdsaVerify ((tenantKey s p).getD []) (bs.take 96) (bytesAt bs 96 96)

/-- Firmware's verdict on a Consent Word. -/
def consentVerdict (got : List (List U64)) (r : Nat) (h : Held) (s : State) : State :=
  let p := ringPart s r
  let bs := (gotBytes got 0).take 192
  match consentStatus s p bs with
  | some st => fail r h st s
  | none =>
    if !consentGood s p bs then fail r h stNoConsent s
    else
      let s := onPart p (fun q => { q with serial := leAt bs 8 4, consentHash := Config.sha384 bs }) s
      finish r h stOk (lo32 (leAt bs 4 1)) false (clearViol p (setConsent p (leAt bs 4 1) s))

/-! ## `KEY_INSTALL` (R280) -/

def keyJob (h : Held) : Nat := fld (dw h 3) 0 8
def keyDevset (h : Held) : Bool := bit (dw h 3) 8

def doKeyInstall (r : Nat) (h : Held) (s : State) : State :=
  if dLen h 6 ≠ 5 then fail r h stBadLength s else beginRead false r h 0 (dAddr h 4) 5 [] s

def execKeyInstall (r : Nat) : State → Answer := execOp 0x72 (checked doKeyInstall) r

/-- Does a watch with DEVSEAL stand in the partition? -/
def devsealArmed (s : State) (p : Nat) : Bool :=
  s.obs.wat.watches.any fun e => match e.2 with | some w => w.part == p && w.devseal | none => false

/-- Statuses 2 to 5 of R280. -/
def installStatus (s : State) (p : Nat) (h : Held) (bs : List Byte) : Option Nat :=
  let dev := (leAt bs 5 1).testBit 0
  if leAt bs 0 2 ≠ 0x4B57 ∨ leAt bs 2 1 ≠ 1 ∨ !Config.onP384 (bytesAt bs 32 97) then some stBadFormat
  else if 16 ≤ leAt bs 3 1 || 2 ≤ leAt bs 5 1 || reservedIn bs [(6, 2), (24, 8), (129, 7), (208, 16)]
      || dev != keyDevset h || (dev && (leAt bs 4 1 != 0 || reservedIn bs [(176, 32)])) || (!dev && leAt bs 12 4 != 0) then
    some stReserved
  else if leAt bs 3 1 ≠ p ∨ leAt bs 4 1 ≠ keyJob h then some stFence
  else if keysGone s || (tenantKey s p).isNone || (!dev && (jobOf s p (keyJob h)).isSome)
      || (dev && (smGet noneD s.aon.keys.devset p).isSome && devsealArmed s p) then some stKeyState
  else none

/-- The keys that the blob wraps, where it opens. -/
def unwrapped (s : State) (bs : List Byte) : Option (List Byte) :=
  let z := Config.ecdh (s.aon.keys.device.getD []) (bytesAt bs 32 97)
  Config.keyUnwrap (Config.hkdf z (bs.take 32) (ascii "WRN1-KEK") 32)
    (bytesAt bs 136 (if (leAt bs 5 1).testBit 0 then 40 else 72))

/-- Firmware's verdict on a key blob: the status, or the keys. -/
def installKeys (s : State) (p : Nat) (h : Held) (bs : List Byte) : Except Nat (List Byte) :=
  match installStatus s p h bs with
  | some st => .error st
  | none =>
    if leAt bs 16 8 ≠ deviceId s ∨ leAt bs 8 4 ≤ (partOf s p).keySerial
        ∨ !Config.ecdsaVerify ((tenantKey s p).getD []) (bs.take 224) (bytesAt bs 224 96) then .error stNoConsent
    else match unwrapped s bs with
      | none => .error stNoConsent
      | some ks => if !keyDevset h && 256 ≤ s.aon.keys.jobs.length then .error stNoResource else .ok ks

def installVerdict (got : List (List U64)) (r : Nat) (h : Held) (s : State) : State :=
  let p := ringPart s r
  let bs := gotBytes got 0
  match installKeys s p h bs with
  | .error st => fail r h st s
  | .ok ks =>
    let t := engGt s
    let s := onPart p (fun q => { q with keySerial := leAt bs 8 4 }) s
    let s := if keyDevset h then
        onKeys (fun k => { k with devset := smPut noneD k.devset p (some ⟨ks, bytesAt bs 12 4, 0⟩) }) s
      else onKeys (fun k => { k with
        jobs := k.jobs ++ [⟨p, keyJob h, [⟨0, ks.take 32, t, []⟩], [⟨0, ks.drop 32, t, []⟩]⟩] }) s
    finish r h stOk 0 false s

/-! ## `KEY_ROTATE` (R283) -/

/-- Direction of a rotation. -/
def keyDir (h : Held) : Nat := fld (dw h 3) 8 1

/-- Live generations of the descriptor's job and direction; none where the job holds no keys. -/
def rotGens (s : State) (r : Nat) (h : Held) : Option (List Gen) :=
  (jobOf s (ringPart s r) (keyJob h)).map (gensOf · (keyDir h))

/-- The direction advances; the command waits for the previous generation. -/
def rotateNow (r : Nat) (h : Held) (s : State) : State :=
  match rotGens s r h with
  | some (g :: _) =>
    advanceGen (some (r, h.seq)) (ringPart s r) (keyJob h) (keyDir h) (park r h (.rotate ((g.gen + 1) % 4) 2 true) s)
  | _ => fail r h stKeyState s

def doKeyRotate (r : Nat) (h : Held) (s : State) : State :=
  match rotGens s r h with
  | none => fail r h stKeyState s
  | some gs =>
    if !canPark s r h then s
    else if gs.length ≥ 2 then park r h (.rotate 0 1 true) s
    else rotateNow r h s

def execKeyRotate (r : Nat) : State → Answer := execOp 0x73 (checked doKeyRotate) r

/-- A parked rotation goes on: the older generation is gone, or the previous one. -/
def rotateNext (g st : Nat) (clean : Bool) (r : Nat) (h : Held) (s : State) : State :=
  match rotGens s r h with
  | none => fail r h stKeyState s
  | some gs =>
    if st = 1 then (if gs.length ≤ 1 then rotateNow r h s else s)
    else if gs.length ≤ 1 || (gs.head?.map (·.gen)) != some g then
      finish r h (if clean then stOk else stTimeout) (lo32 g) false s
    else s

end Sys2Proof.Machine
end

