-- ==== Sys2Proof/Machine/Egress.lean ====
section
/-! DEFINITION. The egress port (R291 to R307): opening and closing the link, its flits and its messages. -/

namespace Sys2Proof.Machine

/-! ## The command in progress -/

/-- The parked command of the egress port completes; the port forgets it. -/
def egrEnd (st : Nat) (s : State) : State :=
  match s.obs.egr.cmd with
  | none => s
  | some (r, seq) =>
    let s := onEgr (fun e => { e with cmd := none }) s
    match heldOf s r seq with
    | some h => fail r h st s
    | none => s

/-- The port becomes CLOSED with no item: no link was up (R296). -/
def egrQuiet : State → State := onEgr fun e => { e with
  state := 0, lanes := 0, link := default, credits := 0, inbox := [], ephemeral := [], stationKey := [], coreNonce := []
  hello := [], retraining := none, lastMsg := none, loopback := false }

/-! ## `EGR_OPEN` (R296) -/

def doEgrOpen (r : Nat) (h : Held) (s : State) : State :=
  let o := dw h 6
  if fld o 0 2 ≥ 2 ∨ fld o 3 13 ≠ 0 then fail r h stReserved s
  else if dLen h 5 = 0 then fail r h stBadLength s
  else beginRead false r h 0 (dAddr h 3) (min 3 (dLen h 5)) [] s

def execEgrOpen (r : Nat) : State → Answer := execOp 0x80 (checked doEgrOpen) r

/-- Statuses of a credential of LEN `n` and of the port's state; bytes that a shorter buffer does not have are zero. -/
def openStatus (s : State) (n : Nat) (bs : List Byte) : Option Nat :=
  if reservedIn bs [(3, 1), (6, 2), (105, 7), (128, 64)] then some stReserved
  else if n ≠ 3 then some stBadLength
  else if leAt bs 0 2 ≠ 0x4557 ∨ leAt bs 2 1 ≠ 1 ∨ !Config.onP384 (bytesAt bs 8 97) ∨ leAt bs 4 2 < 1 ∨ 480 < leAt bs 4 2 then
    some stBadFormat
  else if s.obs.egr.state ≠ 0 ∨ (s.obs.fab.state ≠ 0 ∧ !s.obs.fab.root) then some stNoResource
  else if keysGone s then some stKeyState
  else if s.aon.alm.frozen then some stAborted
  else none

/-- The credential has been read: training begins. -/
def openCredential (got : List (List U64)) (r : Nat) (h : Held) (s : State) : State :=
  let bs := gotBytes got 0
  match openStatus s (dLen h 5) bs with
  | some st => fail r h st s
  | none =>
    let t := now s
    setStage r h.seq (.egrOpen 1 t) (onEgr (fun e => { e with
      state := 1, lanes := 0, wantLanes := if bit (dw h 6) 0 then 8 else 16, repaired := false, loopback := bit (dw h 6) 2
      link := default, slots := [], credits := 0, maxCred := leAt bs 4 2, stationKey := bytesAt bs 8 97
      stationId := bytesAt bs 112 16, limFaults := 0, inbox := [], lastMsg := none
      retraining := none, cmd := some (r, h.seq) }) s)

/-- Fresh random bytes of a length. -/
def fresh (i n : Nat) (s : State) : List Byte := (padTo n (Config.randomBytes s.draws i)).take n

/-- HELLO is sent (R297, step 1). -/
def sendHello (s : State) : State :=
  let eph := fresh 0 48 s
  let nonce := fresh 1 16 s
  let m := plainMsg 1 (le 1 1 ++ le 1 s.aon.instId ++ zeros 2 ++ nonce ++ le 8 (deviceId s) ++ padTo 16 s.obs.egr.stationId
    ++ (padTo 97 (Config.publicKeyFull eph)).take 97 ++ zeros 7)
  let t := now s
  draw (egrPut m (onEgr (fun e => { e with state := 2, ephemeral := eph, coreNonce := nonce, hello := m, helloAt := t }) s))

/-- `UCIE_TRAINING_DONE`: at the opening of the link, or after a retraining; 8 lanes where 16 were asked for are a repair
(R292). -/
def opTraining (lanes : Nat) (repaired : Bool) (s : State) : State :=
  let e := s.obs.egr
  let t := now s
  if !(lanes = 8 ∨ (lanes = 16 ∧ (e.state ≠ 1 ∨ e.wantLanes = 16))) then s
  else
    let up := fun (e : Egr) => { e with
      lanes := lanes, repaired := e.repaired || repaired || (lanes == 8 && e.wantLanes == 16), retraining := none, link := { e.link with lastFlit := t } }
    if e.state = 1 then
      if e.loopback then egrEnd stOk (onEgr (fun e => { up e with state := 5 }) s)
      else
        let s := sendHello (onEgr up s)
        match s.obs.egr.cmd with | some (r, seq) => setStage r seq (.egrOpen 2 t) s | none => s
    else if e.retraining.isSome then egrPump 480 (egrRun id (onEgr up s))
    else s

def execUcieTrainingDone (lanes : Nat) (repaired : Bool) : State → Answer := run (inObs (opTraining lanes repaired))

/-- Status of an opening whose bound has passed: the first of R296 that applies. -/
def openLate (s : State) : Nat := if keysGone s then stKeyState else if s.aon.alm.frozen then stAborted else stTimeout

/-- `EGR_TRAINING_TIMEOUT`: 1,600,000 GT without the end of training. -/
def opTrainingTimeout (s : State) : State :=
  match s.obs.egr.cmd.bind fun c => heldOf s c.1 c.2 with
  | some h => match h.stage with
    | .egrOpen 1 since => if now s < since + 1600000 then s else
        let st := openLate s
        egrEnd st (egrDown 1 s)
    | _ => s
  | none => s

def execEgrTrainingTimeout : State → Answer := run (inObs opTrainingTimeout)

/-- `ACCEPT_TIMEOUT`: 160,000,000 GT after HELLO. -/
def opAcceptTimeout (s : State) : State :=
  match s.obs.egr.cmd.bind fun c => heldOf s c.1 c.2 with
  | some h => match h.stage with
    | .egrOpen 2 since => if now s < since + 160000000 then s else
        let st := openLate s
        egrEnd st (egrQuiet s)
    | _ => s
  | none => s

def execAcceptTimeout : State → Answer := run (inObs opAcceptTimeout)

/-- `RETRAINING_START`: the module retrains its lanes. -/
def opRetrainStart (s : State) : State :=
  let t := now s
  if s.obs.egr.state ≥ 2 ∧ s.obs.egr.retraining.isNone then onEgr (fun e => { e with retraining := some t }) s else s

def execRetrainingStart : State → Answer := run (inObs opRetrainStart)

/-- `RETRAIN_TIMEOUT`: the link goes down with reason TRAIN (R292). -/
def opRetrainTimeout (s : State) : State :=
  match s.obs.egr.retraining with
  | some t => if t + 1600000 ≤ now s then egrDown 1 s else s
  | none => s

def execRetrainTimeout : State → Answer := run (inObs opRetrainTimeout)

/-- `OPTICAL_STATUS_POLL` (R293). -/
def opOptical (los laser : Bool) (s : State) : State := if los || laser then egrDown 2 s else s

def execOpticalStatusPoll (los laser : Bool) : State → Answer := run (inObs (opOptical los laser))

/-- `SILENCE_TIMEOUT`: no flit for 2^20 GT (R295). -/
def opSilence (s : State) : State :=
  if s.obs.egr.state ≥ 2 ∧ s.obs.egr.link.lastFlit + 2 ^ 20 ≤ now s then egrDown 4 s else s

def execSilenceTimeout : State → Answer := run (inObs opSilence)

/-! ## Flits (R294, R295, R306) -/

/-- A replay is asked for: the kept flits are sent again, and too many replays in a row retrain the link, then end it. -/
def egrReplay (s : State) : State :=
  let n := s.obs.egr.link.kept.length
  if n = 0 then s
  else
    let lim := fld (reg s (aEgr + 4)) 8 4
    let t := now s
    let s := bumpReg (aEgr + 0x14) 0 32 (min n 512) s
    let s := onEgr (fun e => { e with link := linkResend { e.link with replays := e.link.replays + 1 } }) s
    if s.obs.egr.link.replays < lim then s
    else if s.obs.egr.link.retried then egrDown 3 s
    else onEgr (fun e => { e with
      retraining := some (e.retraining.getD t), link := { e.link with replays := 0, retried := true } }) s

/-- Message types that the station sends (Table 13.4). -/
def stationMsg (m : Nat) : Bool := [0x02, 0x04, 0x06, 0x10, 0x11].contains m

/-- A message arrives: beyond one in 16 OBS cycles it is discarded, a reserved type is malformed. -/
def egrMessage (m : List Byte) (s : State) : State :=
  let t := now s
  let soon := match s.obs.egr.lastMsg with | some l => decide (t < l + 16 * incOf s.aon.pwr.ratio) | none => false
  if soon then egrFault 6 s
  else
    let s := onEgr (fun e => { e with lastMsg := some t }) s
    if stationMsg (leAt m 0 1) then onEgr (fun e => { e with inbox := e.inbox ++ [m] }) s else egrFault 2 s

/-- `OSEP_FLIT_ACK_NAK`: one flit of the station. -/
def opOsepFlit (f : List Byte) (s : State) : State :=
  if s.obs.egr.state < 2 ∨ f.length ≠ 256 then s
  else
    let t := now s
    let s := onEgr (fun e => { e with link := { e.link with lastFlit := t } }) s
    if !flitGood f then onEgr (fun e => { e with link := { e.link with nak := true } }) s
    else
      let b := leAt f 0 1
      let s := egrPump 480 (egrRun (linkAck (leAt f 8 4)) s)
      let s := if b.testBit 4 then egrReplay s else s
      if s.obs.egr.state < 2 then s
      else
        let (got, l) := linkTake (b % 16) 2 (leAt f 4 4) s.obs.egr.link
        let s := onEgr (fun e => { e with link := l }) s
        if got && b % 16 == 2 && s.obs.egr.state != 5 then egrMessage (bytesAt f 16 232) s else s

def execOsepFlitAckNak (f : List Byte) : State → Answer := run (inWriter (opOsepFlit f))

/-! ## Messages (R297 to R300) -/

/-- The front message of the port, where it is of type `m`; it leaves the inbox. -/
def withMsg (m : Nat) (f : List Byte → State → State) (s : State) : State :=
  match s.obs.egr.inbox with
  | x :: rest => if leAt x 0 1 = m then f x (onEgr (fun e => { e with inbox := rest }) s) else s
  | [] => s

/-- MLEN and byte 1 are as Table 13.12 gives them. -/
def msgShape (len : Nat) (m : List Byte) : Bool := leAt m 2 2 == len && leAt m 1 1 == 0

/-- The link comes up (R297, steps 3 and 4). -/
def linkUp (m : List Byte) (s : State) : State :=
  let e := s.obs.egr
  let st := bytesAt m 24 97
  let z := Config.ecdh e.ephemeral st ++ Config.ecdh (s.aon.keys.device.getD []) st
  let k := Config.hkdf z (e.coreNonce ++ bytesAt m 8 16) (ascii "WRN1-LNK") 64
  let s := onEgr (fun e => { e with
    state := 3, outKey := k.take 32, inKey := k.drop 32, outCtr := 0, inCtr := none, ephemeral := [], authFaults := 0 }) s
  let s := egrEnd stOk (egrSend 3 [] s)
  orReg (aEgr + 0x1C) 1 (push 0 (mkItem 0x62 0 0 0 (engGt s)) s)

/-- ACCEPT (R296, R297). -/
def takeAccept (m : List Byte) (s : State) : State :=
  let e := s.obs.egr
  if !msgShape 224 m || reservedIn m [(5, 3), (121, 7)] then egrFault 2 s
  else if e.state ≠ 2 then s
  else if leAt m 4 1 ≠ 1 || !Config.ecdsaVerify e.stationKey (e.hello ++ bytesAt m 0 128) (bytesAt m 128 96) then
    egrEnd stNoConsent (egrQuiet s)
  else linkUp m s

def execAccept : State → Answer := run (inWriter (withMsg 0x02 takeAccept))

/-- A message of link class that authenticates, with its counter taken. -/
def linkMsg (len : Nat) (f : List Byte → State → State) (m : List Byte) (s : State) : State :=
  let e := s.obs.egr
  if !msgShape len m then egrFault 2 s
  else if e.state ≠ 3 ∧ e.state ≠ 4 then egrFault 1 s
  else match openMsg e.inKey e.inCtr m with
    | none => egrFault 1 s
    | some (c, body) => f body (onEgr (fun e => { e with inCtr := some c }) s)

/-- CREDIT (R302). -/
def takeCredit (body : List Byte) (s : State) : State :=
  if leAt body 2 2 ≠ 0 then egrFault 2 s
  else
    let c := s.obs.egr.credits + leAt body 0 2
    let tooMany := s.obs.egr.maxCred < c
    let s := onEgr (fun e => { e with credits := min c e.maxCred }) s
    let s := egrPump 480 s
    if tooMany then egrFault 3 s else s

def execCredit : State → Answer := run (inWriter (withMsg 0x04 (linkMsg 32 takeCredit)))

/-- CLOSE: the partner ends the link. -/
def takeClose (body : List Byte) (s : State) : State := if reservedIn body [(1, 3)] then egrFault 2 s else egrDown 6 s

def execClose : State → Answer := run (inWriter (withMsg 0x06 (linkMsg 32 takeClose)))

/-! ## Frame acknowledgements (R299, R303) -/

/-- A drain whose last slot is free ends the link (R307). -/
def egrDrained (s : State) : State :=
  if s.obs.egr.state = 4 ∧ s.obs.egr.slots.isEmpty then egrEnd stOk (egrCloseWith 7 s) else s

/-- The inbound generation that a job message names. -/
def inGen (s : State) (p j gen : Nat) : Option Gen := (jobOf s p j).bind fun k => k.inb.find? fun g => g.gen == gen

/-- The key of a job message. -/
def jobMsgKey (g : Gen) (p j inst : Nat) : List Byte :=
  Config.hkdf g.key [] (ascii "WRN1-INB" ++ le 1 p ++ le 1 j ++ le 1 1 ++ le 1 g.gen ++ le 1 inst) 32

/-- A message of an instance has been accepted under a generation, with its counter. -/
def takeCtr (gen inst ctr : Nat) (k : JobKey) : JobKey :=
  { k with inb := modFirst (fun g => g.gen == gen) (fun g => { g with ctrs := smPut natD g.ctrs inst (ctr + 1) }) k.inb }

/-- The body of a job message that authenticates, with its counter taken; the counter lives as long as the inbound key. -/
def openJobMsg (m : List Byte) (s : State) : Option (List Byte × State) :=
  let p := leAt m 4 1
  let j := leAt m 5 1
  let inst := leAt m 7 1
  let ctr := leAt m 8 8
  match inGen s p j (leAt m 6 1) with
  | none => none
  | some g =>
    if ctr < smGet natD g.ctrs inst then none
    else match Config.gcmOpen (jobMsgKey g p j inst) (le 8 ctr ++ zeros 4) (bytesAt m 0 16) (bytesAt m 16 24) with
      | none => none
      | some b => some (b, inboundSeen p j g.gen (onJob p j (takeCtr g.gen inst ctr) s))

/-- A FACK or FNAK: another instance's is forwarded unopened, a message of this instance is opened. -/
def jobMsg (f : Nat → Nat → Nat → Nat → State → State) (m : List Byte) (s : State) : State :=
  let inst := leAt m 7 1
  if !msgShape 40 m || 16 ≤ leAt m 4 1 || 4 ≤ leAt m 6 1 || 64 ≤ inst then egrFault 2 s
  else if inst ≠ s.aon.instId then fabSend inst 2 (leAt m 0 1) (bytesAt m 4 36) s
  else match openJobMsg m s with
    | none => egrFault 1 s
    | some (b, s) =>
      if 2 ^ 20 ≤ leAt b 0 4 then egrFault 2 s
      else f (leAt m 4 1) (leAt m 5 1) (leAt b 0 4) (leAt b 4 4) s

/-- Distance from one SEQ to another. -/
def seqAfter (a b : Nat) : Nat := (b + 2 ^ 32 - a) % 2 ^ 32

/-- Is SEQ b at or after SEQ a? -/
def seqGe (a b : Nat) : Bool := decide (seqAfter a b < 2 ^ 31)

/-- The slot holds a frame of this instance's context. -/
def ctxSlot (s : State) (p j x : Nat) (e : ESlot) : Bool :=
  e.origin == s.aon.instId && e.frame.part == p && e.frame.job == j && e.frame.ctx == x

/-- Has the context's frame of this SEQ been sent? -/
def wasSent (s : State) (p j x q : Nat) : Bool :=
  (s.obs.egr.slots.any fun e => ctxSlot s p j x e && e.sentAt.isSome && e.frame.seq == q)
  || s.obs.egr.sentSeqs.any fun r => r.part == p && r.job == j && r.ctx == x
    && decide (seqAfter r.first q ≤ seqAfter r.first r.last)

/-- FACK: every sent frame of the context up to ACK_SEQ is acknowledged; a SEQ not yet sent is a BADACK fault. The root
is told of the frames that it holds for this instance (log entry 86). -/
def takeFack (p j x q : Nat) (s : State) : State :=
  if !wasSent s p j x q then egrFault 4 s
  else
    let done := fun (e : ESlot) => ctxSlot s p j x e && e.sentAt.isSome && seqGe e.frame.seq q
    let s := onEgr (fun e => { e with slots := e.slots.filter fun y => !done y }) s
    let mine := fun (g : Frame) => g.part == p && g.job == j && g.ctx == x && seqGe g.seq q
    let gone := s.obs.fab.sent.filter mine
    let s := onFab (fun f => { f with sent := f.sent.filter fun g => !mine g }) s
    egrDrained (sweepGens (gone.foldl (fun a g => sendOutcome a.obs.fab.rootId g 0 0 a) s))

def execFack : State → Answer := run (inWriter (withMsg 0x10 (jobMsg takeFack)))

/-- FNAK: the frame is sent again, and at the third it is lost. -/
def takeFnak (p j x q : Nat) (s : State) : State :=
  let isIt := fun (e : ESlot) => ctxSlot s p j x e && e.sentAt.isSome && e.frame.seq == q
  match s.obs.egr.slots.find? isIt with
  | none => s
  | some e =>
    if e.fnaks ≥ 2 then egrDrained (egrFault 5 (sweepGens (loseSlots isIt 2 s)))
    else egrPump 480 (onEgr (fun z => { z with
      slots := modFirst isIt (fun y => { y with fnaks := y.fnaks + 1, resend := true }) z.slots }) s)

def execFnak : State → Answer := run (inWriter (withMsg 0x11 (jobMsg takeFnak)))

/-- GT for which a frame waits for its acknowledgement, and a drain for its last slot (R304, R307). -/
def ackTo (s : State) : Nat := 2 ^ fld (reg s (aEgr + 4)) 0 5

/-- `FRAME_ACK_TIMEOUT`: the frame in entry i is lost with cause TIMEOUT (Table 13.5). -/
def opAckTimeout (i : Nat) (s : State) : State :=
  match s.obs.egr.slots[i]? with
  | none => s
  | some e => match e.sentAt with
    | some t => if t + ackTo s ≤ now s then egrDrained (sweepGens (loseSlots (fun x => x == e) 1 s)) else s
    | none => s

def execFrameAckTimeout (i : Nat) : State → Answer := run (inWriter (opAckTimeout i))

/-! ## `EGR_CLOSE` (R307) -/

/-- Every held frame is lost with a cause, CLOSE is sent, and the link goes down with LOCAL_CLOSE. -/
def egrLocalClose (cause : Nat) (s : State) : State := egrCloseWith 7 (sweepGens (loseSlots (fun _ => true) cause s))

def doEgrClose (r : Nat) (h : Held) (s : State) : State :=
  let e := s.obs.egr
  if e.state = 0 then finish r h stOk 0 false s
  else if !bit (dw h 3) 0 ∨ (e.state ≠ 3 ∧ e.state ≠ 4) ∨ e.slots.isEmpty then
    finish r h stOk 0 false (egrLocalClose 5 s)
  else if !canPark s r h then s
  else
    let t := now s
    let first := e.state = 3
    park r h (.egrClose (if first then t else e.closeAt)) (onEgr (fun e => if first then
      { e with state := 4, closeAt := t, cmd := some (r, h.seq) } else e) s)

def execEgrClose (r : Nat) : State → Answer := execOp 0x81 (checked doEgrClose) r

/-- `EGR_CLOSE_DRAIN_BOUND`: 2^ACK_TO GT after the close. -/
def opDrainBound (s : State) : State :=
  if s.obs.egr.state = 4 ∧ s.obs.egr.closeAt + ackTo s ≤ now s then egrEnd stOk (egrLocalClose 1 s) else s

def execEgrCloseDrainBound : State → Answer := run (inWriter opDrainBound)

end Sys2Proof.Machine
end

