-- ==== Sys2Proof/Machine/Fabric.lean ====
section
/-! DEFINITION. The Mladgor fabric (R308 to R318): flits of its two ports, discovery, Global Time, freezes, failures. -/

namespace Sys2Proof.Machine

/-! ## The members -/

/-- ROOT_PRIO and SEED of this instance. -/
def ownPrio (s : State) : Nat := fld (reg s aFab) 28 4
def ownSeed (s : State) : Nat := fld (reg s aFab) 0 16

/-- Order of election (Table 13.8). -/
def rankOf (prio seed : Nat) : Nat := prio * 65536 + seed

/-- The port by which a flit that came in on one port goes on: the other, or back where that has failed (R317). -/
def portOut (s : State) (cameEast : Bool) : Bool := if portUp s (!cameEast) then !cameEast else cameEast

/-- A message goes on in the direction in which it travels, or the other way round. -/
def goOn (cameEast : Bool) (src ftype dst mtype : Nat) (body : List Byte) (s : State) : State :=
  let out := portOut s cameEast
  if portUp s out then portForward src out ftype dst mtype body s else s

/-- A broadcast goes on once (R315). -/
def castOn (x : FMsg) (what : List Byte) (s : State) : State :=
  goOn x.east x.src x.ftype 0x3F (leAt x.payload 0 1) (bytesAt x.payload 4 (leAt x.payload 2 2 - 4))
    (noteSeen what (!x.east) s)

/-- The fabric command in progress completes. -/
def fabEnd (st : Nat) (res : U32) (s : State) : State :=
  match s.obs.fab.cmd with
  | none => s
  | some (r, seq) =>
    let s := onFab (fun f => { f with cmd := none }) s
    match heldOf s r seq with
    | some h => finish r h st res false s
    | none => s

/-- The discovery that this instance began ends with a status, which only firmware that runs gives (R343). -/
def fabDone (st : Nat) (res : U32) (s : State) : State := if fwRuns s then fabEnd st res s else s

/-- Result word of `FAB_DISCOVER` (Table 10.7). -/
def fabResult (s : State) : U32 := lo32 (s.aon.instId + s.obs.fab.count * 256)

/-! ## Flits (R308, R310) -/

/-- MLEN of the payloads of Tables 13.12 to 13.15, 0 for a type that no fabric flit of its kind carries. -/
def fabLen (ftype m : Nat) : Nat :=
  if ftype = 3 then (if m = 0x30 then 24 else 0)
  else if ftype = 4 then (if m = 0x31 then 16 else 0)
  else match m with
    | 0x20 => 8 | 0x21 => 20 | 0x22 => 72 | 0x23 => 12 | 0x24 => 12 | 0x25 => 12 | 0x26 => 16
    | 0x10 => 40 | 0x11 => 40 | _ => 0

def stale (s : State) : State := bumpReg aFlt 0 32 1 s

/-- The payload in clear: a link out of the package is opened under its key (R309, R310). -/
def openFab (east : Bool) (m : List Byte) (s : State) : Option (List Byte × State) :=
  if portX s east then
    match openMsg (fabKey s east false) (linkOf s east).inCtr m with
    | some (c, b) => some (plainMsg (leAt m 0 1) b, onLink east (fun l => { l with inCtr := some c }) s)
    | none => none
  else some (m, s)

/-- A frame's header fields, as the root reads them from the sealed bytes (Table 9.2). -/
def frameOf (bs : List Byte) (t : Nat) : Frame :=
  let fl := leAt bs 5 1
  ⟨leAt bs 3 1 % 64, leAt bs 4 1, leAt bs 8 4, leAt bs 12 4, leAt bs 3 1 / 64, fl.testBit 4, fl.testBit 3, fl.testBit 2,
    fl.testBit 1, leAt bs 6 2, leAt bs 16 8, leAt bs 24 1, [], false, false, none, none, t⟩

/-- The bytes of a source's frame stream with one more payload: a frame start that does not meet the end of a frame
drops the part of a frame before it. -/
def joinStream (fs : Option Nat) (buf pay : List Byte) : List Byte :=
  match fs with
  | some off => if (buf.length + off) % 4096 = 0 then buf ++ pay else pay.drop off
  | none => if buf.isEmpty then [] else buf ++ pay

def noBytes (_ : Nat) : List Byte := []

/-- A whole frame that a source sent to the root asks for a slot (R301, R316). -/
def frameIn (fuel : Nat) (east : Bool) (src : Nat) (s : State) : State :=
  match fuel with
  | 0 => s
  | n + 1 =>
    let bs := smGet noBytes s.obs.fab.inb src
    if bs.length < 4096 then s
    else
      let f := frameOf (bs.take 4096) (now s)
      let s := onFab (fun x => { x with inb := smPut noBytes x.inb src (bs.drop 4096) }) s
      let s := countLink f.gtBase (fun b => { b with frecv := portCount (b2n east) 1 b.frecv }) s
      frameIn n east src (if s.obs.fab.root then egrEnter f (bs.take 4096) src s else s)

/-- A frame in transit is counted by the port that it came in on and the port that it leaves by (R86, R308); one withheld
at the edge of the package is counted as skipped (R288). -/
def framePassed (east held : Bool) (f : Frame) (out : Bool) (s : State) : State :=
  let s := countLink f.gtBase (fun b => { b with frecv := portCount (b2n east) 1 b.frecv }) s
  if held then egrSkipped s
  else countLink f.gtBase (fun b => { b with fsent := portCount (b2n out) 1 b.fsent }) s

/-- A FRAME flit for another instance goes on; while frames are withheld, none leaves the package (R288). -/
def frameOn (east : Bool) (dst src : Nat) (fs : Option Nat) (pay : List Byte) (s : State) : State :=
  let out := portOut s east
  if !portUp s out then s
  else
    let held := s.aon.alm.frozen && portX s out
    let key := 2 * src + b2n east
    let bs := joinStream fs (smGet noBytes s.obs.fab.pass key) pay
    let s := if held then s
      else portRun out (linkAdd { (default : KFlit) with ftype := 1, dst := dst, src := src, fs := fs, payload := pay }) s
    if bs.length < 4096 then onFab (fun x => { x with pass := smPut noBytes x.pass key bs }) s
    else framePassed east held (frameOf (bs.take 4096) (now s)) out
      (onFab (fun x => { x with pass := smPut noBytes x.pass key (bs.drop 4096) }) s)

/-- A message for this instance waits for its command; FREEZE and BEACON go before all others (R315), and a FREEZE of
reserved KIND has no effect. -/
def queueFab (x : FMsg) (s : State) : State :=
  if x.ftype = 3 ∧ 4 ≤ leAt x.payload 4 1 then s
  else onFab (fun f => { f with
    inbox := insertBy (fun y z => decide (y.ftype < 3) && decide (3 ≤ z.ftype)) x f.inbox }) s

/-- An accepted flit: it is taken here, sent on, or both. -/
def fabTake (east : Bool) (ftype dst src : Nat) (fs : Option Nat) (pay : List Byte) (s : State) : State :=
  let me := s.aon.instId
  if ftype = 1 then
    if dst = me then
      frameIn 2 east src
        (onFab (fun f => { f with inb := smPut noBytes f.inb src (joinStream fs (smGet noBytes f.inb src) pay) }) s)
    else frameOn east dst src fs pay s
  else
    let t := leAt pay 0 1
    if fabLen ftype t = 0 ∨ leAt pay 2 2 ≠ fabLen ftype t + (if portX s east then 24 else 0) then stale s
    else match openFab east pay s with
      | none => s
      | some (m, s) =>
        if dst ≠ me ∧ dst ≠ 0x3F then goOn east src ftype dst t (bytesAt m 4 (leAt m 2 2 - 4)) s
        else if t = 0x10 ∨ t = 0x11 then onEgr (fun e => { e with inbox := e.inbox ++ [m] }) s
        else queueFab ⟨east, src, dst, ftype, m⟩ s

/-! ## Ports that fail (R317) -/

/-- Members that this instance reaches: itself alone with both ports down. -/
def reached (s : State) : Nat := if portUp s true || portUp s false then max 1 s.obs.fab.members.length else 1

/-- Flits that a failed link has not had acknowledged are sent by the other route, sealed for it where it leaves the
package. -/
def reroute (east : Bool) (s : State) : State :=
  let l := linkOf s east
  let s := onLink east (fun l => { (default : Link) with lastFlit := l.lastFlit, outCtr := l.outCtr, inCtr := l.inCtr }) s
  if portUp s (!east) then
    portRun (!east) (fun o => { o with
      waiting := o.waiting ++ (l.kept ++ l.waiting).map (fun k => { k with payload := if k.clear.isEmpty then k.payload else k.clear })
      out := if o.out.isEmpty then l.out else o.out }) s
  else s

/-- A port is down; frames that cannot reach the root any more are lost to egress. -/
def portFails (east : Bool) (s : State) : State :=
  let s := onFab (fun f => if east then { f with eUp := false } else { f with wUp := false }) s
  let s := reroute east (bumpReg (aFab + 8) 8 8 1 s)
  let s := if portUp s true || portUp s false || s.obs.fab.root then s
    else bumpReg (aEgr + 0x10) 0 32 s.obs.fab.sent.length (onFab (fun f => { f with sent := [] }) s)
  let n := reached s
  sweepGens (fabMember s.aon.instId (if east then 4 else 5) (onFab (fun f => { f with count := n }) s))

/-- A NAK: the kept flits are sent again; too many replays in a row retrain the link, then end it. -/
def fabReplay (east : Bool) (s : State) : State :=
  if (linkOf s east).kept.isEmpty then s
  else
    let s := onLink east (fun l => linkResend { l with replays := l.replays + 1 }) s
    if (linkOf s east).replays < fld (reg s (aEgr + 4)) 8 4 then s
    else if (linkOf s east).retried then portFails east s
    else onLink east (fun l => { l with replays := 0, retried := true }) s

/-- A port that is not up comes up with the fourth successive flit that passes CRC (R374). -/
def portHears (east : Bool) (s : State) : State :=
  if (if east then s.obs.fab.eUp else s.obs.fab.wUp) then s
  else if (linkOf s east).good < 3 then onLink east (fun l => { l with good := l.good + 1 }) s
  else
    let s := onFab (fun f => if east then { f with eUp := true } else { f with wUp := true })
      (onLink east (fun l => { l with good := 0 }) s)
    let n := reached s
    fabMember s.aon.instId 6 (onFab (fun f => { f with count := n }) s)

/-- A departed neighbour's flits are dropped, but during discovery and for the PROBE that begins one (R317). -/
def dropsFlit (s : State) (east : Bool) (f : List Byte) : Bool :=
  (if east then s.obs.fab.goneE else s.obs.fab.goneW) && s.obs.fab.disc.isNone
    && !(leAt f 0 1 % 16 == 2 && leAt f 16 1 == 0x20)

/-- `FABRIC_FLIT_ACK_NAK`: one flit received on a port whose neighbour is accepted. -/
def opFabFlit (east : Bool) (f : List Byte) (s : State) : State :=
  if !s.build.fabric || !s.aon.pwr.ready || f.length != 256 || !peerOk s east || dropsFlit s east f then s
  else
    let t := now s
    let s := onLink east (fun l => { l with lastFlit := t }) s
    if !flitGood f then onLink east (fun l => { l with nak := true, good := 0 }) s
    else
      let b := leAt f 0 1
      let s := portHears east s
      if !portUp s east then s else
      let s := portRun east (linkAck (leAt f 8 4)) s
      let s := if b.testBit 4 then fabReplay east s else s
      let (got, l) := linkTake (b % 16) 4 (leAt f 4 4) (linkOf s east)
      let s := onLink east (fun _ => l) s
      if got then fabTake east (b % 16) (leAt f 1 1 % 64) (leAt f 3 1 % 64)
        (if b.testBit 5 then some (leAt f 2 1) else none) (bytesAt f 16 232) s
      else s

def execFabricFlitAckNak (east : Bool) (f : List Byte) : State → Answer := run (inWriter (opFabFlit east f))

/-- The front message of the fabric's inbox, where it is of type `m` and meets `p`. -/
def withFab (m : Nat) (p : FMsg → Bool) (f : FMsg → State → State) (s : State) : State :=
  match s.obs.fab.inbox with
  | x :: rest => if leAt x.payload 0 1 = m && p x then f x (onFab (fun g => { g with inbox := rest }) s) else s
  | [] => s

/-! ## Discovery (R311, R312) -/

/-- Instance ID as PROBE and ANSWER carry it. -/
def shownId (s : State) : Nat := if s.aon.instSet then s.aon.instId else 0x3F

/-- A condition that aborts a first discovery (R311). -/
def discBusy (s : State) : Bool :=
  anyArmed s || !(freezes s).isEmpty || anySentArmed s || anyWdog s || s.obs.egr.state != 0
  || (List.range (npart s.build)).any fun p => sourceAt (epochOf s p) (now s) != 0

/-- This instance as a member, so many hops east of the prober. -/
def selfMember (hops : Nat) (s : State) : Member :=
  ⟨ownPrio s, ownSeed s, shownId s, hops, discBusy s, !s.aon.discovered⟩

/-- Body of this instance's ANSWER (Table 13.13). -/
def answerBody (hops : Nat) (s : State) : List Byte :=
  let f := s.obs.fab
  let flags := b2n f.eUp + 2 * b2n f.wUp + 4 * b2n (discBusy s) + 8 * b2n (!s.aon.discovered)
  le 1 (ownPrio s) ++ le 1 flags ++ le 2 (ownSeed s) ++ le 8 (deviceId s) ++ le 1 (shownId s) ++ le 1 hops ++ zeros 2

/-- The ANSWER goes round the ring, so that every instance lists the members (DESIGN CHOICE, log entry 53). -/
def castAnswer (hops : Nat) (s : State) : State :=
  let b := answerBody hops s
  fabCast 2 0x21 (le 1 0x21 ++ b) b s

/-- What a PROBE is known by. -/
def probeKey (who no : Nat) : List Byte := le 1 0x20 ++ le 1 who ++ le 2 no

/-- This instance takes up a discovery. -/
def discBegin (who no hops : Nat) (s : State) : State :=
  let t := now s
  let me := selfMember hops s
  onFab (fun f => { f with disc := some ⟨who, no, t, [me]⟩ }) s

/-- `FAB_DISCOVER`: PROBE both ways; with the firmware gone nothing is sent, and the command ends at its bound (R343). -/
def doFabDiscover (r : Nat) (h : Held) (s : State) : State :=
  let f := s.obs.fab
  let t := now s
  if fwRuns s && !f.eUp && !f.wUp then finish r h stOk (lo32 (1 * 256)) false s
  else if f.cmd.isSome || !canPark s r h then s
  else if !fwRuns s then park r h (.fab t) (onFab (fun f => { f with cmd := some (r, h.seq), assigned := false }) s)
  else
    let n := (f.discNo + 1) % 65536
    let who := shownId s
    let s := onFab (fun f => { f with state := 1, discNo := n, cmd := some (r, h.seq), assigned := false }) s
    let s := noteSeen (probeKey who n) true (discBegin who n 0 s)
    park r h (.fab t) (castAnswer 0 (fabBoth 2 0x20 (le 1 who ++ [0] ++ le 2 n) s))

def execFabDiscover (r : Nat) : State → Answer := execOp 0x90 (checked doFabDiscover) r

/-- PROBE: sent on once and answered (Table 13.13). -/
def takeProbe (x : FMsg) (s : State) : State :=
  let who := leAt x.payload 4 1 % 64
  let hops := leAt x.payload 5 1 + 1
  let no := leAt x.payload 6 2
  if seenBefore s (probeKey who no) then s
  else
    let east := if x.east then (256 - hops) % 256 else hops
    let s := discBegin who no east (noteSeen (probeKey who no) (!x.east) s)
    castAnswer east (goOn x.east x.src 2 0x3F 0x20 (le 1 who ++ le 1 hops ++ le 2 no) s)

def execProbe : State → Answer := run (inObs (withFab 0x20 (fun _ => true) takeProbe))

/-- The member that an ANSWER describes. -/
def answerMember (m : List Byte) : Member :=
  let fl := leAt m 5 1
  ⟨leAt m 4 1 % 16, leAt m 6 2, leAt m 16 1 % 64, leAt m 17 1, fl.testBit 2, fl.testBit 3⟩

/-- ANSWER: each instance that takes part lists the member, and a broadcast goes on. -/
def takeAnswer (x : FMsg) (s : State) : State :=
  let what := le 1 0x21 ++ bytesAt x.payload 4 16
  let first := !seenBefore s what
  let s := if x.dst = 0x3F ∧ !isRepeat s what (!x.east) then castOn x what s else noteSeen what (!x.east) s
  if first then onFab (fun f => { f with
    disc := f.disc.map fun d => { d with found := d.found ++ [answerMember x.payload] } }) s
  else s

def execAnswer : State → Answer := run (inObs (withFab 0x21 (fun _ => true) takeAnswer))

/-- The lowest instance ID, 0 to 15, that no member holds. -/
def freeId (used : List Nat) : Nat := (lowestFree 16 used).getD 0x3F

/-- IDs for members without one, eastward (R312). -/
def giveIds : List Member → List Nat → List Member
  | [], _ => []
  | m :: ms, used =>
    if m.id = 0x3F then
      let i := freeId used
      { m with id := i } :: giveIds ms (i :: used)
    else m :: giveIds ms used

/-- Members in eastward order from the prober: hop counts of 128 and more are counted from the west. -/
def eastward (ms : List Member) : List Member := sortBy (fun m => m.hops) ms

/-- Is this instance the member? -/
def isMe (s : State) (m : Member) : Bool := rankOf m.prio m.seed == rankOf (ownPrio s) (ownSeed s)

/-- The members in eastward order from the first that meets `p`. -/
def eastFrom (p : Member → Bool) (ms : List Member) : List Member :=
  let i := (ms.findIdx? p).getD 0
  ms.drop i ++ ms.take i

/-- One entry of ASSIGN. -/
def assignEntry (m : Member) : List Byte := le 4 (m.seed + m.id * 2 ^ 16 + m.prio * 2 ^ 22)

/-- This instance is a member of a ring, given in eastward order from the root: its ID, its routes, and what is new
(Table 13.8, step 5). -/
def joined (ms : List Member) (s : State) : State :=
  let old := s.obs.fab
  let id := match ms.find? (isMe s) with | some m => m.id | none => s.aon.instId
  let root := match ms with | m :: _ => m.id | [] => id
  let mine := ((eastFrom (isMe s) ms).zipIdx).map fun e => { e.1 with hops := e.2 }
  let s := onAon (fun a => { a with instId := if a.instSet then a.instId else id, instSet := true }) s
  let s := onFab (fun f => { f with
    state := if ms.length > 1 then 2 else 0, count := ms.length, ccw := decide (8 ≤ ms.length), members := mine
    rootId := root, root := root == id, assigned := true, disc := none, goneE := false, goneW := false }) s
  let new := ms.filter fun m => m.id != id && !(old.members.any fun o => o.id == m.id)
  let s := new.foldl (fun a m => fabMember m.id 1 a) s
  if root ≠ old.rootId ∨ (root == id) ≠ old.root then rootChange root old.rootId 1 s else s

/-- What a discovery that ends before assignment leaves. -/
def discStop (s : State) : State :=
  onFab (fun f => { f with
    state := if s.aon.instSet && decide (f.count > 1) then 2 else 0, disc := none }) s

/-- Do two instances share one (ROOT_PRIO, SEED) pair? -/
def sharedPair : List Member → Bool
  | [] => false
  | m :: ms => ms.any (fun x => x.prio == m.prio && x.seed == m.seed) || sharedPair ms

/-- The discovery is aborted, on the instance that began it with its command. -/
def discAbort (s : State) : State :=
  let own := s.obs.fab.state = 1
  let s := discStop s
  if own then fabDone stAborted 0 s else s

/-- Steps 2 and 3 of Table 13.8, on each instance: the checks of R311, and on the one elected root assignment. -/
def discStep (d : Disc) (s : State) : State :=
  let ms := eastward d.found
  if sharedPair ms then discAbort (orReg (aFab + 4) 0x10000000 s)
  else if ms.any fun m => m.busy && m.first then discAbort s
  else if ms.any fun m => decide (rankOf (ownPrio s) (ownSeed s) < rankOf m.prio m.seed) then s
  else
    let ms := giveIds (eastFrom (isMe s) ms) ((ms.map (·.id)).filter fun i => i != 0x3F)
    let own := s.obs.fab.state = 1
    let body := le 1 ms.length ++ le 1 (b2n (decide (8 ≤ ms.length))) ++ le 2 d.no
      ++ padTo 64 ((ms.take 16).flatMap assignEntry)
    let s := joined ms (fabCast 2 0x22 (le 1 0x22 ++ le 2 d.no) body s)
    let s := onAon (fun a => { a with discovered := true }) s
    if own then fabDone stOk (fabResult s) s else s

/-- The prober's discovery goes on: the steps fall due, or the assignment has come. -/
def discNext (since : Nat) (s : State) : State :=
  let f := s.obs.fab
  if f.assigned then (if f.root || s.aon.discovered then fabDone stOk (fabResult s) s else s)
  else if !fwRuns s || decide (now s < since + 16384) then s
  else match f.disc with
    | some d => discStep d s
    | none => s

/-- The discovery of another instance goes on at an AON edge: the steps fall due, and an end without an assignment. -/
def discEdge (s : State) : State :=
  match s.obs.fab.disc with
  | none => s
  | some d =>
    if !obsRuns s || s.obs.fab.state == 1 then s
    else if d.since + 320000 ≤ now s then onFab (fun f => { f with disc := none }) s
    else if d.since + 16384 ≤ now s then discStep d s
    else s

/-- The entries of ASSIGN, in eastward order from the root. -/
def assignMembers (m : List Byte) : List Member :=
  (List.range (min (leAt m 4 1) 16)).map fun i =>
    let e := leAt m (8 + 4 * i) 4
    ⟨nfld e 22 4, e % 65536, nfld e 16 6, 0, false, false⟩

/-- ASSIGN: sent on once; an instance that it names takes its ID, and at its first discovery asks the root for its GT
(R312, R313). -/
def takeAssign (x : FMsg) (s : State) : State :=
  let m := x.payload
  let what := le 1 0x22 ++ le 2 (leAt m 6 2)
  let first := !seenBefore s what
  let s := if x.dst = 0x3F ∧ !isRepeat s what (!x.east) then castOn x what s else noteSeen what (!x.east) s
  if !first || !((assignMembers m).any (isMe s)) then s
  else
    let s := joined (assignMembers m) s
    if s.aon.discovered || s.obs.fab.root then s
    else
      let t := now s
      onFab (fun f => { f with tokenAt := some t }) (fabSend s.obs.fab.rootId 2 0x23 (le 8 t) s)

def execAssign : State → Answer := run (inObs (withFab 0x22 (fun _ => true) takeAssign))

/-- `DISCOVERY_TIMEOUT`: 320,000 GT after the command was accepted. -/
def opDiscTimeout (s : State) : State :=
  match s.obs.fab.cmd.bind fun c => heldOf s c.1 c.2 with
  | some h => match h.stage with
    | .fab since =>
      if since + 320000 ≤ now s then fabEnd stTimeout 0 (if s.obs.fab.assigned then s else discStop s) else s
    | _ => s
  | none => s

def execDiscoveryTimeout : State → Answer := run (inObs opDiscTimeout)

/-! ## Global Time (R313, R314) -/

/-- TOKEN: the root echoes it, then sends its GT. -/
def takeToken (x : FMsg) (s : State) : State :=
  if !s.obs.fab.root then s
  else
    let s := fabSend x.src 2 0x24 (bytesAt x.payload 4 8) s
    fabSend x.src 2 0x25 (le 8 (now s)) s

def execToken : State → Answer := run (inObs (withFab 0x23 (fun _ => true) takeToken))

/-- ECHO: the round trip to the root is measured. -/
def takeEcho (x : FMsg) (s : State) : State :=
  match s.obs.fab.tokenAt with
  | none => s
  | some _ =>
    let t := now s
    onAon (fun a => { a with fabRtt := some (t - leAt x.payload 4 8) }) (onFab (fun f => { f with tokenAt := none }) s)

def execEcho : State → Answer := run (inObs (withFab 0x24 (fun _ => true) takeEcho))

/-- The F3 counts run on to the present copy, and each stop in force goes on from GT v. -/
def moveStops (v : Nat) (s : State) : State :=
  (s.obs.hed.units.filter fun e => e.2.stop.isSome).foldl (fun a e =>
    onUnit e.1 (fun x => { x with stop := some (v, v) }) (accrue e.1 (now a) a)) s

/-- The governor rules run from GT v: the increments before it are in no window (log entry 87). -/
def moveRules (v : Nat) (s : State) : State :=
  (List.range 16).foldl (fun a k =>
    if ruleEn a k then onGRule k (fun g => { g with run := 0, asleep := [], wEnd := windowEnd v (ruleLog2w a k) }) a else a)
    (onSen (fun n => { n with incs := [] }) s)

/-- The root count takes a value, and every copy is due for calibration (R25, R313). -/
def loadGt (v : Nat) (s : State) : State :=
  let v := gtMod v
  let s := moveStops v s
  let s := onTb (fun b => { b with
    rootGt := v / 32 * 32, sub := v % 32, calDone := false, full := true, lockStart := v / 32 * 32, lockGap := none }) s
  let s := onPwr (fun p => { p with idleSince := v / 32 * 32 }) (moveRules v s)
  loseCopies (onFab (fun f => { f with
    linkE := { f.linkE with lastFlit := v }, linkW := { f.linkW with lastFlit := v } }) s)

/-- GT_LOAD: the single load of R21, at the first discovery. -/
def takeGtLoad (x : FMsg) (s : State) : State :=
  if s.aon.discovered || s.obs.fab.root || !s.obs.fab.assigned then s
  else
    let s := loadGt (leAt x.payload 4 8 + (s.aon.fabRtt.getD 0 + 1) / 2) s
    let s := onAon (fun a => { a with discovered := true }) s
    fabDone stOk (fabResult s) s

def execGtLoad : State → Answer := run (inObs (withFab 0x25 (fun _ => true) takeGtLoad))

/-- BEACON: sent on once, and compared with the own root count, corrected by the delay once it has been measured. -/
def takeBeacon (x : FMsg) (s : State) : State :=
  let m := x.payload
  let what := le 1 0x31 ++ bytesAt m 4 9
  if s.obs.fab.root || seenBefore s what then s
  else
    let s := goOn x.east x.src 4 x.dst 0x31 (bytesAt m 4 9 ++ le 1 (leAt m 13 1 + 1) ++ zeros 2)
      (noteSeen what (!x.east) s)
    match s.aon.fabRtt with
    | none => s
    | some rtt =>
      if !s.aon.discovered then s
      else
        let err : Int := (leAt m 4 8 : Int) + (rtt : Int) / 2 - (now s : Int)
        let s := onFab (fun f => { f with err := err }) s
        if -2 ≤ err ∧ err ≤ 2 ∨ s.aon.misalign then s
        else fabMember s.aon.instId 3 (orReg (aFab + 0xC) 1 (onAon (fun a => { a with misalign := true }) s))

def execBeacon : State → Answer := run (inObs (withFab 0x31 (fun _ => true) takeBeacon))

/-! ## Outcomes of forwarded frames (R316) -/

/-- At the root, the origin's notice that its frame has been acknowledged frees the slot, and the outcome goes back
(log entry 86). -/
def freeSlot (x : FMsg) (s : State) : State :=
  let m := x.payload
  let isIt := fun (e : ESlot) => e.origin == x.src && e.frame.part == leAt m 4 1 % 16 && e.frame.job == leAt m 5 1
    && e.frame.ctx == leAt m 8 4 && e.frame.seq == leAt m 12 4 && e.sentAt.isSome
  match s.obs.egr.slots.find? isIt with
  | none => s
  | some e => egrDrained (sendOutcome x.src e.frame 0 0 (onEgr (fun g => { g with slots := delFirst isIt g.slots }) s))

/-- OUTCOME: the origin of a forwarded frame counts a skip or a loss (R316). -/
def takeOutcome (x : FMsg) (s : State) : State :=
  let m := x.payload
  let isIt := fun (f : Frame) => f.part == leAt m 4 1 % 16 && f.job == leAt m 5 1 && f.ctx == leAt m 8 4 && f.seq == leAt m 12 4
  if !s.obs.fab.sent.any isIt then (if s.obs.fab.root && leAt m 6 1 == 0 then freeSlot x s else s)
  else
    let s := onFab (fun f => { f with sent := delFirst isIt f.sent }) s
    let s := if leAt m 6 1 = 1 then egrSkipped s else if leAt m 6 1 = 2 then bumpReg (aEgr + 0x10) 0 32 1 s else s
    sweepGens s

def execOutcome : State → Answer := run (inObs (withFab 0x26 (fun _ => true) takeOutcome))

/-! ## Fabric freezes (R98, R315) -/

/-- The instance schedules a distributed freeze, or says why it does not: its freeze ID, or a reason of Table 13.14. -/
def scheduleFab (q t : Nat) (own : List Nat) (s : State) : Except Nat (Nat × State) :=
  if s.aon.misalign then .error 3
  else if t < engGt s + 64 then .error 2
  else if s.obs.hang.seq.isSome then .error 1
  else match swFreeze t true q own s with
    | (some id, s) => .ok (id, s)
    | (none, _) => .error 1

/-- Answer to the requester. -/
def answerFreeze (req q t kind reason : Nat) (s : State) : State :=
  fabSend req 3 0x30 (freezeBody kind req q t s.aon.instId reason) s

/-- The request of a fabric freeze leaves the list. -/
def dropFz (r seq : Nat) : State → State :=
  onFab fun f => { f with freezeCmds := f.freezeCmds.filter fun c => !(c.ring == r && c.seq == seq) }

/-- The fabric freeze completes once every instance has scheduled it. -/
def fabFreezeDone (r : Nat) (h : Held) (left id : Nat) (s : State) : State :=
  if left = 0 ∧ id ≠ 0 then finish r h stOk (lo32 id) false (dropFz r h.seq s) else s

/-- The fabric freeze is refused. -/
def fabFreezeFails (r : Nat) (h : Held) (s : State) : State := fail r h stNoResource (dropFz r h.seq s)

/-- The requests that stand: ring, command, sequence known, answers still due, own freeze ID, T. -/
def fzStanding (s : State) : List (Nat × Held × Nat × Nat × Nat × Nat) :=
  s.obs.fab.freezeCmds.filterMap fun c => match heldOf s c.ring c.seq with
    | some h => (match h.stage with | .fabFreeze q left id => some (c.ring, h, q, left, id, c.t) | _ => none)
    | none => none

/-- The request that a flit of sequence q for T belongs to: the one known by q, else the oldest of that T. -/
def fzFind (s : State) (q t : Nat) : Option (Nat × Held × Nat × Nat × Nat × Nat) :=
  let l := fzStanding s
  (l.find? fun e => e.2.2.1 == q).or (l.find? fun e => e.2.2.1 == 0 && e.2.2.2.2.2 == t)

/-- The requester's own part of its freeze: it counts itself. -/
def ownFreeze (q t : Nat) (s : State) : State :=
  match fzFind s q t with
  | some (r, h, _, left, _, _) => match scheduleFab q t [ringPart s r] s with
    | .ok (id, s) => fabFreezeDone r h (left - 1) id (setStage r h.seq (.fabFreeze q (left - 1) id) s)
    | .error _ => fabFreezeFails r h s
  | none => match scheduleFab q t [] s with
    | .ok (_, s) => s
    | .error _ => s

/-- A distributed freeze on an instance other than its requester. -/
def otherFreeze (req q t : Nat) (s : State) : State :=
  match scheduleFab q t [] s with
  | .ok (_, s) => answerFreeze req q t 2 0 s
  | .error e => answerFreeze req q t 3 e s

def isKind (k : Nat) (x : FMsg) : Bool := leAt x.payload 4 1 == k

/-- REQUEST at the root: the next sequence is assigned and T distributed. -/
def takeRequest (x : FMsg) (s : State) : State :=
  if !s.obs.fab.root then s
  else
    let req := leAt x.payload 5 1 % 64
    let t := leAt x.payload 8 8
    let q := nextFabSeq s
    let s := onFab (fun f => { f with fabSeq := q }) s
    otherFreeze req q t (fabCast 3 0x30 (freezeKey q) (freezeBody 1 req q t 0 0) s)

def execFreezeRequest : State → Answer := run (inObs (withFab 0x30 (isKind 0) takeRequest))

/-- DISTRIBUTE: sent on once, and scheduled once; a repeat is dropped. -/
def takeDistribute (x : FMsg) (s : State) : State :=
  let m := x.payload
  let req := leAt m 5 1 % 64
  let q := leAt m 6 2
  let t := leAt m 8 8
  let first := !seenBefore s (freezeKey q)
  let s := if isRepeat s (freezeKey q) (!x.east) then s else castOn x (freezeKey q) s
  if !first then s
  else
    let s := onFab (fun f => { f with fabSeq := q }) s
    if req = s.aon.instId then ownFreeze q t s else otherFreeze req q t s

def execFreezeDistribute : State → Answer := run (inObs (withFab 0x30 (isKind 1) takeDistribute))

/-- The requester's command that the message answers. -/
def answered (x : FMsg) (s : State) : Option (Nat × Held × Nat × Nat × Nat × Nat) :=
  if leAt x.payload 5 1 % 64 ≠ s.aon.instId then none else fzFind s (leAt x.payload 6 2) (leAt x.payload 8 8)

/-- ACCEPTED: one answer less is due. -/
def takeAccepted (x : FMsg) (s : State) : State :=
  match answered x s with
  | some (r, h, _, left, id, _) =>
    fabFreezeDone r h (left - 1) id (setStage r h.seq (.fabFreeze (leAt x.payload 6 2) (left - 1) id) s)
  | none => s

def execFreezeAccepted : State → Answer := run (inObs (withFab 0x30 (isKind 2) takeAccepted))

def takeRefused (x : FMsg) (s : State) : State :=
  match answered x s with
  | some (r, h, _, _, _, _) => fabFreezeFails r h s
  | none => s

def execFreezeRefused : State → Answer := run (inObs (withFab 0x30 (isKind 3) takeRefused))

/-! ## Failures (R317, R318) -/

/-- The neighbour on a port, as a member. -/
def neighbour (s : State) (east : Bool) : Option Member :=
  s.obs.fab.members[if east then 1 else s.obs.fab.members.length - 1]?

/-- The neighbour on a port has departed: its other neighbour has lost it too (R317). -/
def departs (east : Bool) (m : Member) (s : State) : State :=
  let s := onFab (fun f => { f with
    members := (f.members.filter fun x => x.id != m.id).zipIdx.map fun e => { e.1 with hops := e.2 }
    goneE := f.goneE || east, goneW := f.goneW || !east }) s
  let n := reached s
  fabMember m.id 2 (onFab (fun f => { f with count := n }) s)

/-- `FABRIC_PORT_DOWN`: no flit for three beacon periods; `lost` says that the neighbour's other neighbour has lost it
too, which in a ring of two is this instance's other port. -/
def opPortDown (east lost : Bool) (s : State) : State :=
  if (if east then s.obs.fab.eUp else s.obs.fab.wUp) ∧ (linkOf s east).lastFlit + 3 * 2 ^ 14 ≤ now s then
    let s := portFails east s
    let two := s.obs.fab.members.length == 2 && !s.obs.fab.eUp && !s.obs.fab.wUp
    match neighbour s east with
    | some m => if (lost || two) && m.id != s.aon.instId then departs east m s else s
    | none => s
  else s

def execFabricPortDown (port : PortLoss) : State → Answer := run (inObs (opPortDown port.east port.lost))

/-- The root of the segment is now another member; requests that the old root has not distributed end (R318). -/
def newRoot (m : Member) (cause : Nat) (s : State) : State :=
  let old := s.obs.fab.rootId
  let mine := m.id == s.aon.instId
  let s := rootChange m.id old cause (onFab (fun f => { f with rootId := m.id, root := mine }) s)
  ((fzStanding s).filter fun e => e.2.2.1 == 0).foldl (fun a e => fabFreezeFails e.1 e.2.1 a) s

/-- The member of highest rank (Table 13.8). -/
def elected : List Member → Option Member
  | [] => none
  | m :: ms => match elected ms with
    | some b => if rankOf b.prio b.seed < rankOf m.prio m.seed then some m else some b
    | none => some m

/-- The members of this instance's segment of the ring, where it reaches `ids`. -/
def segment (ids : List Nat) (s : State) : List Member :=
  s.obs.fab.members.filter fun m => m.id == s.aon.instId || ids.contains m.id

/-- `ROOT_LOST`: the segment elects a root of its members; where segments join again, the root of higher rank, of this
one's and `other`, remains (R318). -/
def opRootLost (rejoined : Bool) (ids : List Nat) (other : Nat) (s : State) : State :=
  let f := s.obs.fab
  let seg := segment ids s
  match elected (if rejoined then seg.filter fun x => x.id == f.rootId || x.id == other else seg) with
  | none => s
  | some m =>
    if f.state ≠ 2 then s
    else if !rejoined then
      if seg.any fun x => x.id == f.rootId then s
      else newRoot m 2 (onFab (fun f => { f with count := seg.length }) s)
    else
      let s := onFab (fun f => { f with count := seg.length }) s
      if m.id = f.rootId then rootChange m.id m.id 3 s
      else newRoot m 3 (if f.root then egrCloseWith 9 s else s)

def execRootLost (rejoined : Bool) (east west : List Nat) (other : Nat) : State → Answer :=
  run (inObs (opRootLost rejoined (east ++ west) other))

end Sys2Proof.Machine
end

