-- ==== Sys2Proof/Machine/Turns.lean ====
section
/-! DEFINITION. The engine's own turns (chapter 10): fetching descriptors, parked commands going on, and the data of
buffers that commands read. -/

namespace Sys2Proof.Machine

/-! ## The effect of each opcode -/

def hangEffect (mask : List U32) (f : Nat → Held → State → State) (r : Nat) (h : Held) (s : State) : State :=
  if outside mask h then fail r h stReserved s else f r h s

/-- The own checks and effect of a descriptor's opcode (Table 10.7). -/
def effectOf (h : Held) : Nat → Held → State → State :=
  match opOf h with
  | 0x00 => checked doNop
  | 0x01 => checked doFence
  | 0x10 => doCtxOpen
  | 0x11 => checked (withCtx (fun _ => true) closeCtx)
  | 0x12 => checked (withCtx (· == .opened) armCtx)
  | 0x13 => checked (withCtx (· == .armed) pauseCtx)
  | 0x14 => checked (withCtx (· == .paused) resumeCtx)
  | 0x15 => checked (withCtx (fun q => q == .armed || q == .paused) saveCtx)
  | 0x16 => checked (withCtx (· == .saved) doCtxRestore)
  | 0x20 => checked doFreezeAt
  | 0x21 => doEpochSet
  | 0x22 => checked doReadShadow
  | 0x30 => checked doAttrLoad
  | 0x31 => checked doAttrClear
  | 0x40 => doLensBind
  | 0x41 => checked doLensRead
  | 0x42 => checked doLensRelease
  | 0x50 => doWatchArm
  | 0x51 => checked doWatchDisarm
  | 0x52 => match fld (dw h 3) 0 4 with
    | 1 => hangEffect [0xF, 0xFFF, 0xFFF, 0x33F] doSetWdog
    | 2 => hangEffect [0xF] doHangRequest
    | 3 => hangEffect [0xF] doHangRelease
    | _ => hangEffect [0xF, 0xFFFFFFFF, 0xFFFF, 0xFFFFFF] doSetArea
  | 0x60 => doSentArm
  | 0x61 => checked doSentDisarm
  | 0x62 => doGovSet
  | 0x70 => checked doPartCreate
  | 0x71 => checked doPartClose
  | 0x72 => checked doKeyInstall
  | 0x73 => checked doKeyRotate
  | 0x74 => checked doScrub
  | 0x75 => checked doConsentLoad
  | 0x80 => checked doEgrOpen
  | 0x81 => checked doEgrClose
  | 0x90 => checked doFabDiscover
  | _ => fun _ _ s => s

/-! ## `DESCRIPTOR_FETCH` (R225 to R227, R234, R331) -/

/-- Descriptors at the front whose opcode is undefined complete with `BAD_OPCODE` or an earlier status of Table 10.5. -/
def dropUnknown (fuel r : Nat) (s : State) : State :=
  match fuel with
  | 0 => s
  | n + 1 => match frontOf s r with
    | some h => if opKnown (opOf h) then s else dropUnknown n r (command (fun _ _ s => s) r h s)
    | none => s

/-- Completion entries that can still be reserved. -/
def entriesFree (s : State) (r : Nat) : Nat := ringM s r - 1 - (heldCount s r + unconsumed s r)

/-- CQ_FULL, once for each episode (R226). -/
def cqFull (r : Nat) (s : State) : State :=
  if (ringOf s r).full then s
  else push 0 (mkItem 0x71 (ringPart s r) r (lo32 (unconsumed s r)) (engGt s)) (onRing r (fun g => { g with full := true }) s)

/-- Has the ring descriptors that the engine would fetch, or a CQ_FULL episode to report? None is served before a wake
has ended (R326). -/
def fetchable (s : State) (r : Nat) : Bool :=
  let g := ringOf s r
  s.aon.pwr.ready && !s.aon.pwr.waking && g.en && g.reading == 0 && decide (g.parked.length < 8) && posted s r != 0
  && (entriesFree s r != 0 || !g.full)

/-- A ring's turn: up to four descriptors that lie together are read. -/
def fetch (r : Nat) (s : State) : State :=
  let g := ringOf s r
  if !fetchable s r then s
  else if entriesFree s r = 0 then cqFull r s
  else
    let n := min (min 4 (64 - g.head % 64)) (min (min (posted s r) (entriesFree s r)) (ringN s r - g.head))
    match issueRead (.desc r n) (ringPart s r) (g.base + 64 * g.head) n s with
    | some s => onCmd (fun c => { c with rr := r }) (onRing r (fun g => { g with reading := n }) s)
    | none => s

/-- The ring whose turn it is: the first after the one served last that has descriptors to fetch (R227). -/
def nextRing (s : State) : Option Nat :=
  ((List.range 64).map fun i => (s.obs.cmd.rr + 1 + i) % 64).find? (fetchable s)

/-- `DESCRIPTOR_FETCH` serves ring r where it is its turn. -/
def opFetch (r : Nat) (s : State) : State :=
  if 64 ≤ r then s
  else
    let s := dropUnknown 64 r s
    if nextRing s = some r then fetch r s else s

def execDescriptorFetch (r : Nat) : State → Answer := run (inWriter (opFetch r))

/-- The ring stops on a fault (R227): 1 fetch, 2 completion write, 3 MSI write. -/
def ringFault (r st : Nat) (s : State) : State :=
  let s := onRing r (fun g => { g with stopped := true, en := false, faultSt := st }) s
  push 0 (mkItem 0x70 (ringPart s r) r (lo32 st) (engGt s)) (orReg (aRing r + 0x18) 1 s)

/-- Words of n descriptors. -/
def descsOf (n : Nat) (ws : List U64) : List Desc :=
  (List.range n).map fun i => ⟨toU32s (fitWords 8 (ws.drop (8 * i)))⟩

/-- Descriptors have been read: they join the ring's fetched list, and HEAD passes them. -/
def descData (r n : Nat) (addr : Nat) (ws : List U64) (err : Bool) (s : State) : State :=
  let g := ringOf s r
  if g.reading ≠ n ∨ addr ≠ g.base + 64 * g.head then s
  else if err then ringFault r 1 (onRing r (fun g => { g with reading := 0 }) s)
  else
    let t := engGt s
    let hs := (descsOf n ws).zipIdx.map fun e => (⟨g.nextSeq + e.2, e.1, .serial, t⟩ : Held)
    onRing r (fun g => { g with
      reading := 0, fetched := g.fetched ++ hs, nextSeq := g.nextSeq + n, head := (g.head + n) % ringN s r }) s

/-! ## `PARKED_COMMAND_COMPLETE` -/

/-- The output of a command has been written (Table 4.4, R125, R244, R404). -/
def outputDone (units : Nat) (err no : Bool) (r : Nat) (h : Held) (s : State) : State :=
  let moved := opOf h == 0x22 && (match s.obs.cut.shadow with | some b => b.id != fld (dw h 3) 0 16 | none => true)
  if opOf h = 0x15 then endSave units err r h s
  else if err then fail r h stAborted s
  else if no then finish r h stNoConsent (lo32 units) false s
  else if moved then fail r h stAborted s
  else finish r h stOk (lo32 units) false s

/-- Firmware's verdict on a command. -/
def verdict (got : List (List U64)) (r : Nat) (h : Held) (s : State) : State :=
  match opOf h with
  | 0x70 => createVerdict got r h s
  | 0x72 => installVerdict got r h s
  | 0x75 => consentVerdict got r h s
  | _ => s

/-- An `EGR_OPEN` whose link has gone, or whose port another opening holds, ends by the first status that applies. -/
def openGone (k since r : Nat) (h : Held) (s : State) : State :=
  let mine := s.obs.egr.cmd == some (r, h.seq)
  let late := decide (since + (if k = 1 then 1600000 else 160000000) ≤ now s)
  if mine && s.obs.egr.state != 0 then s
  else if keysGone s || s.aon.alm.frozen || (!mine && late) then
    let st := openLate s
    if mine then egrEnd st s else fail r h st s
  else s

/-- A parked command goes on where its condition is met. -/
def parkedNext (r : Nat) (h : Held) (s : State) : State :=
  match h.stage with
  | .serial | .behind => match mustWait s r h with
    | some st => setStage r h.seq st s
    | none => command (effectOf h) r h s
  | .fence => if fenceMet s r h then endFence r h s else s
  | .firmware d got => if fwRuns s && decide (now s < d) then verdict got r h s else s
  | .freeze =>
    if opOf h = 0x22 then (if freezePending s (fld (dw h 3) 0 16) then s else shadowNow r h s)
    else if freezePending s (fld (dw h 5) 0 16) then s else lensImages r h s
  | .images => if imagesDue s r h.seq then s else if opOf h = 0x42 then endRelease r h s else lensNow r h s
  | .output units left err no => if left = 0 then outputDone units err no r h s else s
  | .ctxFrame written =>
    if !written && (ctxOf s (dCtx h)).isSome then s else if opOf h = 0x15 then saveOut r h s else endClose r h s
  | .watchEnd => if dumping s (fld (dw h 3) 0 6) then s else endDisarm r h s
  | .rotate g st clean => rotateNext g st clean r h s
  | .scrub d => if fwRuns s && decide (now s < d) then endScrub r h s else s
  | .egrOpen k since => openGone k since r h s
  | .egrClose _ => if s.obs.egr.state = 0 then finish r h stOk 0 false s else egrDrained s
  | .fab since => if s.obs.fab.cmd = some (r, h.seq) then discNext since s else s
  | .read .. | .partClose .. | .fabFreeze .. => s

/-- `PARKED_COMMAND_COMPLETE`. -/
def opParked (r seq : Nat) (s : State) : State :=
  match (ringOf s r).parked.find? fun h => h.seq == seq with
  | some h => parkedNext r h s
  | none => s

def execParkedCommandComplete (r seq : Nat) : State → Answer := run (inWriter (opParked r seq))

/-- `FIRMWARE_VERDICT_TIMEOUT`: no verdict, or no end of a scrub, within the command's bound. -/
def opVerdictTimeout (r seq : Nat) (s : State) : State :=
  match (ringOf s r).parked.find? fun h => h.seq == seq with
  | none => s
  | some h =>
    let fw := opOf h == 0x70 || opOf h == 0x72 || opOf h == 0x75
    match h.stage with
    | .firmware d _ => if d ≤ now s then fail r h stTimeout s else s
    | .scrub d => if d ≤ now s then fail r h stTimeout s else s
    | .read .. => if fw && decide (fwDeadline h ≤ now s) then fail r h stTimeout s else s
    | _ => s

def execFirmwareVerdictTimeout (r seq : Nat) : State → Answer := run (inWriter (opVerdictTimeout r seq))

/-! ## Buffers read by commands (R404) -/

/-- Buffer `step` has been read whole. -/
def bufWhole (step : Nat) (got : List (List U64)) (r : Nat) (h : Held) (s : State) : State :=
  let bs := gotBytes got 0
  let p := ringPart s r
  let wait := setStage r h.seq (.firmware (fwDeadline h) got) s
  match opOf h, step with
  | 0x10, _ => openSels (gotOf got 0) r h s
  | 0x16, 0 => restoreImage got r h s
  | 0x16, _ => restoreCtx got r h s
  | 0x30, _ => attrFirst got r h s
  | 0x70, 0 => createPages got r h s
  | 0x70, _ => wait
  | 0x72, _ => match installStatus s p h bs with | some st => fail r h st s | none => wait
  | 0x75, _ => match consentStatus s p (bs.take 192) with | some st => fail r h st s | none => wait
  | 0x80, _ => openCredential got r h s
  | _, _ => s

/-- One part of a buffer has arrived: the next is asked for, or the buffer is whole. -/
def bufPartIn (step : Nat) (ws : List U64) (got : List (List U64)) (r : Nat) (h : Held) (s : State) : State :=
  let got' := addGot step ws got
  let (addr, units) := bufAt h step
  if opOf h = 0x30 ∧ step = 1 then attrSecond (gotOf got 1) ws r h s
  else if (gotOf got' step).length < 8 * units then
    match askBuf r h step addr units got' s with
    | some t => setStage r h.seq (.read step got') t
    | none => s
  else bufWhole step got' r h s

/-- Data of a command's read; a failed read ends the command, with what `ATTR_LOAD` has written so far. -/
def cmdData (r seq step units : Nat) (ws : List U64) (err : Bool) (s : State) : State :=
  match heldOf s r seq with
  | none => s
  | some h => match h.stage with
    | .read st got =>
      if st ≠ step then s
      else if err then
        (if opOf h = 0x30 ∧ step = 1 then attrEnd stAborted (attrCount (gotOf got 1)) r h s else fail r h stAborted s)
      else bufPartIn step (fitWords (8 * units) ws) got r h s
    | _ => s

/-- A piece of a command's output has been answered. -/
def outAck (r seq : Nat) (err : Bool) (s : State) : State :=
  match heldOf s r seq with
  | some h => match h.stage with
    | .output u left e no => setStage r seq (.output u (left - 1) (e || err) no) s
    | _ => s
  | none => s

end Sys2Proof.Machine
end

