-- ==== Sys2Proof/Machine/Boot.lean ====
section
/-! DEFINITION. Start-up (chapter 14): fuses, repair entries, SRAM, the firmware image, and firmware's failure. -/

namespace Sys2Proof.Machine

/-! ## SRAM arrays (Tables 18.7, 19.1) -/

/-- Words of 64 bits in an array of the build; none where the array is not built. -/
def arrayWords (b : Build) (a : Nat) : Nat :=
  match a with
  | 0 => b.attrEntries
  | 1 => 32 * b.nColl * b.brambleDepth
  | 2 => 1024 * b.nColl
  | 3 => if b.lens then 288 * b.lensImages + 32768 else 0
  | 4 => 8 * b.ctxEntries
  | 5 => 288 * b.lensImages + 512 * b.frameBufs
  | 6 => 512 * b.dictionaries
  | 7 => if b.watch then b.watchBuf / 8 else 0
  | 8 => if b.egress then 262144 else 0
  | 9 => 131072
  | 10 => if b.band = 3 then 65536 else 16384
  | 11 => 65536
  | _ => 0

/-- Macros of 64 KiB in an array (R394). -/
def arrayMacros (b : Build) (a : Nat) : Nat := ceilDiv (arrayWords b a) 8192

/-! ## Fuses (R285, R378) -/

/-- Bytes of fuse words 0 to 30, ascending, least significant byte first. -/
def fuseBytes (s : State) (first n : Nat) : List Byte := (List.range n).flatMap fun i => le 4 (fuse s (first + i)).toNat

/-- Word 31 has been read: step 2 of the start-up ends. -/
def fusesEnd (s : State) : State :=
  let good := decide (crc32c (fuseBytes s 0 31) = (fuse s 31).toNat)
  let s := onPwr (fun p => { p with
    fuseReq := false, fusesRead := true, fuseOk := good, keysDone := p.keysDone || !s.build.crypto }) s
  startRepair (if good then s else alarm 2 0 s.aon.tb.rootGt s)

/-- Is a repair entry rejected (R396)? -/
def repairBad (s : State) (d : U32) : Bool :=
  let col := bit d 30
  let a := fld d 26 4
  let m := fld d 16 10
  let x := fld d 0 16
  let same := s.aon.pwr.repairs.filter fun e => e.1 == a && e.2.1 == m && e.2.2.1 == col
  decide (arrayMacros s.build a ≤ m)
    || decide ((if col then Config.macroCols a else Config.macroRows a) ≤ x)
    || (col && decide (2 ≤ a)) || same.any (fun e => e.2.2.2 == x)
    || decide ((if col then 2 else 4) ≤ same.length)

/-- A word from 32 on: an entry where its bit 31 is set. -/
def repairWord (d : U32) (s : State) : State :=
  if !bit d 31 then s
  else if repairBad s d then onPwr (fun p => { p with rejected := p.rejected + 1 }) s
  else onPwr (fun p => { p with repairs := p.repairs ++ [(fld d 26 4, fld d 16 10, bit d 30, fld d 0 16)] }) s

/-- The handshake of the word at `FUSE_ADDR` ends with the data d. -/
def opFuseAck (d : U32) (s : State) : State :=
  let p := s.aon.pwr
  if !p.aonRstN || !p.fuseReq then s
  else
    let i := p.fuseAddr
    let s := onPwr (fun p => { p with fuseAddr := i + 1, fuseReq := i != 255 }) s
    if i < 32 then
      let s := onPwr (fun p => { p with fuses := smPut (fun _ => 0) p.fuses i d }) s
      if i = 31 then fusesEnd s else s
    else repairWord d s

def execFuseWordAck (d : U32) : State → Answer := run (opFuseAck d)

/-- `FUSE_TIMEOUT`: no `FUSE_ACK` within 64 AON cycles gives zero for the word (R378). -/
def execFuseTimeout : State → Answer := run (opFuseAck 0)

/-! ## SRAM (R330, R396) -/

/-- `SRAM_INIT_DONE`: step 4 ends once every repair entry has been read. -/
def opSramInit (s : State) : State :=
  let p := s.aon.pwr
  if obsRuns s && p.granted && p.fusesRead && !p.sramDone && !p.fuseReq && p.fuseAddr == 256 then
    onPwr (fun p => { p with sramDone := true }) s
  else s

def execSramInitDone : State → Answer := run (inObs opSramInit)

/-! ## The firmware image (R332) -/

/-- Is the image still to be judged? -/
def loading (s : State) : Bool := s.aon.pwr.goAt.isSome && !s.aon.pwr.fwOk && !s.aon.pwr.fwFail

/-- The next part of the image is asked for. -/
def fwAsk (s : State) : State :=
  let p := s.aon.pwr
  let n := p.fwWords.length / 8
  if loading s && !p.fwReadErr && !p.fwReadDone && !reading s .firmware && decide (p.fwLen ≤ 12288) && decide (n < p.fwLen) then
    (issueRead .firmware 0 (p.fwAt + 64 * n) (chunkUnits p.fwAt p.fwLen n) s).getD s
  else s

/-- GO is set; the boot ROM acts on the first write of 1 after `SRAM_DONE`, and reads the image when the clock runs
(R332, R384, R386). -/
def opGo (v : U32) (s : State) : State :=
  if !bit v 0 then s
  else
    let p := s.aon.pwr
    let s := setReg 0x201C 1 s
    if !p.sramDone || p.goAt.isSome then s
    else
      let at_ := pair (reg s 0x2010) (reg s 0x2014)
      let n := fld (reg s 0x2018) 0 14
      let t := now s
      let s := onPwr (fun p => { p with
        goAt := some t, fwAt := at_, fwLen := n, fwWords := [], fwReadErr := false, fwReadDone := false }) s
      if obsRuns s then fwAsk s else s

/-- A part of the image arrives. GO clears once the whole image is taken. -/
def fwData (units : Nat) (ws : List U64) (err : Bool) (s : State) : State :=
  if !loading s then s
  else if err then setReg 0x201C 0 (onPwr (fun p => { p with fwReadErr := true }) s)
  else
    let s := onPwr (fun p => { p with
      fwWords := p.fwWords ++ fitWords (8 * units) ws
      fwReadDone := decide (8 * p.fwLen ≤ p.fwWords.length + 8 * units) }) s
    if s.aon.pwr.fwReadDone then setReg 0x201C 0 s else fwAsk s

/-- The image is refused with a code of Table 14.6: READY sets at once (R331), and FW_VERIFY registers. -/
def fwRefuse (code : Nat) (s : State) : State :=
  let s := setReg 0x201C 0 (onPwr (fun p => { p with fwFail := true, fwCode := code, ready := true, fwWords := [] }) s)
  alarm 3 (BitVec.ofNat 32 code) (engGt s) s

/-- The first check of Table 14.6 that fails, 0 where the image is accepted. -/
def fwCheck (s : State) : Nat :=
  let p := s.aon.pwr
  let b := toBytes p.fwWords
  let code := leAt b 8 4
  if p.fwLen = 0 ∨ 12288 < p.fwLen then 1
  else if p.fwReadErr then 2
  else if p.fwLen * 64 ≠ 256 + code then 1
  else if leAt b 0 2 ≠ 0x4657 ∨ leAt b 2 1 ≠ 1 ∨ reservedIn b [(3, 1), (113, 15), (224, 32)] = true ∨ code ≤ leAt b 12 4 then 3
  else if Config.sha384 (bytesAt b 16 97) ≠ fuseBytes s 4 12 then 4
  else if !Config.ecdsaVerify (bytesAt b 16 97) (bytesAt b 0 128 ++ bytesAt b 256 code) (bytesAt b 128 96) then 5
  else if leAt b 4 4 < (fuse s 1).toNat then 6
  else 0

/-- The image is accepted: its digest and FW_VER enter the attestation contribution, and execution starts at ENTRY. -/
def fwAccept (s : State) : State :=
  onPwr (fun p => { p with
    fwOk := true, fwEntry := leAt (toBytes p.fwWords) 12 4, fwVer := leAt (toBytes p.fwWords) 4 4, fwHash := Config.sha384 (toBytes p.fwWords), fwWords := [] }) s

/-- May the image be judged: its length is out of range, or its read has ended? -/
def fwReadOver (s : State) : Bool :=
  let p := s.aon.pwr
  p.fwLen == 0 || decide (12288 < p.fwLen) || p.fwReadErr || p.fwReadDone

/-- `FIRMWARE_LOAD_DONE`: the boot ROM has its verdict, within the bound of step 6. -/
def opFwDone (s : State) : State :=
  match s.aon.pwr.goAt with
  | none => s
  | some g =>
    if !loading s || decide (g + 8000000 < now s) then s
    else if !fwReadOver s then fwAsk s
    else if fwCheck s = 0 then fwAccept s
    else fwRefuse (fwCheck s) s

def execFirmwareLoadDone : State → Answer := run (inObs opFwDone)

/-- `FIRMWARE_LOAD_TIMEOUT`: step 6 exceeds its bound. -/
def opFwTimeout (s : State) : State :=
  match s.aon.pwr.goAt with
  | none => s
  | some g => if loading s && decide (g + 8000000 < now s) then fwRefuse 7 s else s

def execFirmwareLoadTimeout : State → Answer := run (inObs opFwTimeout)

/-- `FIRMWARE_READY`: step 7 ends; `e` and `w` say which fabric ports trained. -/
def opFwReady (e w : Bool) (s : State) : State :=
  let p := s.aon.pwr
  if !p.fwOk || p.ready || p.hedgerDown then s
  else
    let t := now s
    let up := fun (b : Bool) (l : Link) => if b && s.build.fabric then { l with lastFlit := t } else l
    let s := onFab (fun f => { f with
      eUp := e && s.build.fabric, wUp := w && s.build.fabric, linkE := up e f.linkE, linkW := up w f.linkW }) s
    onPwr (fun p => { p with ready := true }) s

def execFirmwareReady (e w : Bool) : State → Answer := run (inObs (opFwReady e w))

/-! ## Hedger failure (R342, R343) -/

/-- Items that Hedger has read and not released are unread again, and RSEQ is the oldest of them. -/
def unreadAll (s : State) : State :=
  match oldestRead s with
  | none => s
  | some o => onEvq (fun e => { e with rseq := o, q := e.q.map fun i => { i with read := none } }) s

/-- Hedger is held in reset. -/
def hedgerFails (s : State) : State :=
  if s.aon.pwr.hedgerDown then s
  else
    let s := onPwr (fun p => { p with hedgerDown := true }) s
    let s := alarm 3 0x80 (engGt s) s
    if s.obs.evq.consAct then s else onEvq (fun e => { e with stalled := false }) (unreadAll s)

/-- `HEDGER_WATCHDOG_EXPIRY`: no sign of progress from running firmware for 2^20 GT. -/
def opHedgerExpiry (s : State) : State := if s.aon.pwr.fwOk then hedgerFails s else s

def execHedgerWatchdogExpiry : State → Answer := run (inObs opHedgerExpiry)

end Sys2Proof.Machine
end

