-- ==== Sys2Proof/Machine/Smp.lean ====
section
/-! DEFINITION. The System Memory Port and its governor (R352 to R357, R365 to R367). -/

namespace Sys2Proof.Machine

/-! ## What waits (R354) -/

/-- Partitions in round robin after `p`. -/
def partsFrom (s : State) (p : Nat) : List Nat :=
  let n := npart s.build
  (List.range n).map fun i => (p + 1 + i) % n

/-- The write of partition p's oldest frame to its trace region. -/
def regionPiece (s : State) (p : Nat) : Option Piece :=
  match (partOf s p).region, regionFrame s p with
  | some g, some f =>
    if regionReady s p then some ⟨4, 64, p, .frame f, slotAddr g g.wr, toWords (framePlain f)⟩ else none
  | _, _ => none

/-- The write of partition p's oldest sealed copy to its host bounce ring. -/
def hostPiece (s : State) (p : Nat) : Option Piece :=
  let g := (partOf s p).host
  let n := hostN s p
  match hostFrame s p with
  | some f =>
    if n = 0 ∨ hostWriting s p = true ∨ refused n g = true then none
    else match outKeyOf s f.part f.job f.keygen with
      | some k => some ⟨5, 64, p, .host f, g.ptAddr + 4096 * g.wr, toWords (frameSeal k f)⟩
      | none => none
  | none => none

/-- GT at which a piece of classes 4 and 5 began to wait. -/
def sinceOf (p : Piece) : Nat :=
  match p.what with
  | .frame f | .host f => f.closedAt
  | .ctrlBlock _ _ t | .hostBlock _ _ t => t
  | _ => 0

/-- Frames in round robin, and the control-block updates among them by age: those older than the frame that is next go
before it. -/
def byAge (blocks frames : List Piece) : List Piece :=
  match frames with
  | [] => blocks
  | f :: _ => blocks.filter (fun b => decide (sinceOf b ≤ sinceOf f)) ++ frames
    ++ blocks.filter (fun b => decide (sinceOf f < sinceOf b))

/-- The waiting pieces of a class, oldest first; classes 4 and 5 serve the partitions with a frame ready in round
robin. -/
def waitingOf (s : State) (k : Nat) : List Piece :=
  let q := s.obs.smp.pieces.filter fun x => x.cls == k
  if k = 4 then byAge q ((partsFrom s s.obs.smp.rr4).filterMap (regionPiece s))
  else if k = 5 then byAge q ((partsFrom s s.obs.smp.rr5).filterMap (hostPiece s))
  else q

/-- The first waiting piece that fits, in the order of Table 16.3: a class is passed over only where none of its pieces
fits; after 15 pieces of classes 1 to 5 a waiting piece of class 6 is next. -/
def nextPiece (s : State) (fits : Piece → Bool) : Option Piece :=
  let head := fun (k : Nat) => (waitingOf s k).find? fits
  if s.obs.smp.run ≥ 15 ∧ waitingOf s 6 ≠ [] then head 6
  else [1, 2, 3, 4, 5, 6].findSome? head

/-! ## Issue -/

/-- A piece is issued: a spill read has no data. -/
def issuePiece (p : Piece) (s : State) : Option State :=
  match p.what, p.data with
  | .lensRead j, _ => issueRead (.lensSpill j) p.part p.addr p.units s
  | _, _ => issueWrite p s

/-- A slot of the host bounce ring takes a frame. -/
def noteHost (p : Piece) (s : State) : State :=
  match p.what with
  | .host f =>
    let i := (partOf s p.part).host.wr
    onPart p.part (fun q => { q with
      hostSlots := q.hostSlots.filter (fun e => e.1 != i) ++ [(i, { f with body := [] })] }) s
  | _ => s

/-- What follows the issue of a metered piece. -/
def issued (p : Piece) (s : State) : State :=
  noteHost p (onSmp (fun m => { m with
    pieces := delFirst (· == p) m.pieces
    run := if p.cls = 6 then 0 else sat 15 (m.run + 1)
    rr4 := match p.what with | .frame _ => p.part | _ => m.rr4
    rr5 := match p.what with | .host _ => p.part | _ => m.rr5 }) s)

/-- Credit of a number of 64-byte units. -/
def costOf (units : Nat) : Nat := units * 64 * 1600

def spend (units : Nat) : State → State := onSmp fun m => { m with credit := m.credit - costOf units }

/-- An unmetered write that waits for a tag. -/
def issueUnmetered (s : State) : Option State :=
  match s.obs.smp.pieces.find? fun x => x.cls == 0 with
  | some p => (issueWrite p s).map fun t => onSmp (fun m => { m with pieces := delFirst (· == p) m.pieces }) t
  | none => none

/-- One metered piece by R353. -/
def issueMetered (s : State) : State :=
  if hangHolds s || cadence s then s
  else match nextPiece s (fun p => decide (costOf p.units ≤ s.obs.smp.credit)) with
    | some p => match issuePiece p s with
      | some t => spend p.units (issued p t)
      | none => s
    | none => s

/-- `GOVERNOR_ISSUE`: reads that the frame rings need, an unmetered write that waits, or one metered piece. -/
def opIssue (s : State) : State :=
  let s := ringsAsk s
  match issueUnmetered s with
  | some t => t
  | none => issueMetered s

def execGovernorIssue : State → Answer := run (inWriter opIssue)

/-! ## Cadence mode (R356) -/

/-- Pieces that fit whole into what remains of a tranche; the units left. -/
def trancheFill (fuel rem : Nat) (s : State) : Nat × State :=
  match fuel with
  | 0 => (rem, s)
  | n + 1 => match nextPiece s (fun p => decide (p.units ≤ rem)) with
    | some p => match issuePiece p s with
      | some t => trancheFill n (rem - p.units) (issued p t)
      | none => (rem, s)
    | none => (rem, s)

/-- `CADENCE_TRANCHE`: exactly 4,096 counted bytes, the rest of them one write of zeros into the pad area. -/
def opTranche (s : State) : State :=
  if !cadence s || hangHolds s || decide (s.obs.smp.credit < costOf 64) then s
  else
    let (rem, s) := trancheFill 64 64 (spend 64 (ringsAsk s))
    if rem = 0 then s else writeNow ⟨0, rem, 0, .pad, s.obs.smp.pad, List.replicate (8 * rem) 0⟩ s

def execCadenceTranche : State → Answer := run (inWriter opTranche)

/-! ## Responses (R366, R367) -/

/-- The piece of an answered write, to be written again. -/
def pieceOf (w : Wr) : Piece := ⟨1, 1, w.part, w.what, w.addr, w.data⟩

/-- A ring stops on a failed write, which is tried again when it is enabled (R227). -/
def writeFault (r st : Nat) (w : Wr) (s : State) : State :=
  ringFault r st (onRing r (fun g => { g with again := g.again ++ [pieceOf w] }) s)

/-- A completion entry has been written: PEND rises unless the entry has NOIRQ (R246). -/
def entryWritten (r seq : Nat) (w : Wr) (noirq : Bool) (s : State) : State :=
  let j := (w.addr - (ringOf s r).cqBase) / 16
  let s := onRing r (fun g => { g with
    unacked := g.unacked.erase seq
    noirq := g.noirq.map fun e => if e.1 = j then (j, e.2.1, true) else e }) s
  if noirq then s else raisePend r s

/-- What a write's answer brings about. -/
def written (w : Wr) (err : Bool) (s : State) : State :=
  match w.what with
  | .completion r seq _ q => if err then writeFault r 2 w s else entryWritten r seq w q s
  | .msi r _ _ => if err then writeFault r 3 w s else s
  | .drain n last _ => drainAck n last err s
  | .frame f => regionDone f err s
  | .host f => hostDone f w.addr err s
  | .out r seq _ => outAck r seq err s
  | .hang p final => hangAck p final s
  | .lensSpill _ => spillNext s
  | .lensRead _ | .ctxSpill _ | .ctrlBlock .. | .hostBlock .. | .pad | .tomb _ => s

/-- `SMP_WRITE_RESPONSE`: the write under the tag is acknowledged, or fails. -/
def opWriteResponse (tag : Nat) (err : Bool) (s : State) : State :=
  match s.obs.smp.wrOut.find? fun w => w.tag == tag with
  | some w => written w err (onSmp (fun m => { m with wrOut := delFirst (fun x => x.tag == tag) m.wrOut }) s)
  | none => s

def execSmpWriteResponse (tag : Nat) (err : Bool) : State → Answer := run (inWriter (opWriteResponse tag err))

/-- A spilled context's entry has been read: its record is placed, and the entry is written back (R243). -/
def ctxArrived (x : Nat) (s : State) : State :=
  match ctxOf s x with
  | some c =>
    let d := s.draws
    let s := placeNext x (draw s)
    addPiece ⟨3, 1, c.part, .ctxSpill x, c.spillAddr, (List.range 8).map (Config.ctxEntry d)⟩ s
  | none => s

/-- What a read's data bring about; a read with ERR is discarded whole. -/
def readDone (r : Rd) (ws : List U64) (err : Bool) (s : State) : State :=
  match r.what with
  | .desc g n => descData g n r.addr ws err s
  | .cmd g seq step => cmdData g seq step r.units ws err s
  | .firmware => fwData r.units ws err s
  | .regionRd p => if err then s else regionRd p ws s
  | .hostRd p => if err then s else hostRd p ws s
  | .page p => if err then s else pageRead p ws s
  | .watch d off len => watchData d off len ws err s
  | .lensSpill j => spillArrived j r.addr r.units ws err s
  | .ctxSpill x => if err then s else ctxArrived x s

/-- `SMP_READ_DATA`: every beat of the read under the tag; the tag is free again. -/
def opReadData (tag : Nat) (ws : List U64) (err : Bool) (s : State) : State :=
  match s.obs.smp.rdOut.find? fun r => r.tag == tag with
  | some r => walkAll (readDone r ws err (onSmp (fun m => { m with rdOut := delFirst (fun x => x.tag == tag) m.rdOut }) s))
  | none => s

def execSmpReadData (tag : Nat) (data : List U64) (err : Bool) : State → Answer :=
  run (inWriter (opReadData tag data err))

end Sys2Proof.Machine
end

