-- ==== Sys2Proof/Machine/RegOps.lean ====
section
/-! DEFINITION. Writes and reads of the register window (chapter 18): field filters, locks, rings, versions, the debug
window, and the effects of a read. -/

namespace Sys2Proof.Machine

/-! ## Fields (R385, R386) -/

/-- A refused value leaves its field unchanged. -/
def keepFld (bad : Bool) (lo n : Nat) (old v : U32) : U32 := if bad then setFld v lo n (fld old lo n) else v

/-- Is the number outside a range? -/
def outOf (lo hi x : Nat) : Bool := decide (x < lo) || decide (hi < x)

/-- 0, or a size from 2^4 to 2^16. -/
def badSize (x : Nat) : Bool := x != 0 && outOf 4 16 x

/-- `WRN_ALM_ACT`: 3 is no action. -/
def filterAct (old v : U32) : U32 :=
  [2, 3, 4, 5, 6, 7].foldl (fun acc c => keepFld (fld v (2 * c) 2 == 3) (2 * c) 2 old acc) v

/-- `WRN_FLT_BRAM`: 3, or a depth above the build's. -/
def filterBram (b : Build) (old v : U32) : U32 :=
  (List.range 16).foldl (fun acc k =>
    keepFld (fld v (2 * k) 2 == 3 || decide (b.brambleDepth < depthOfCode (fld v (2 * k) 2))) (2 * k) 2 old acc) v

/-- The written value with every refused field as it stands. -/
def filterVal (s : State) (a : Nat) (v : U32) : U32 :=
  let old := reg s a
  if a = 0x2000 then keepFld (outOf 10 24 (fld v 0 5)) 0 5 old v
  else if a = 0x2020 then keepFld (outOf 16 4096 (fld v 0 13)) 0 13 old v
  else if blockOf a = 4 ∧ a % 0x40 = 0 then keepFld (decide (16 ≤ fld v 16 6)) 16 6 old v
  else if a = 0x5000 then keepFld (outOf 20 34 (fld v 0 6)) 0 6 old v
  else if a = 0x500C then keepFld (decide (npart s.build ≤ fld v 0 4)) 0 4 old v
  else if blockOf a = 5 ∧ 0x5100 ≤ a ∧ a < 0x5300 ∧ a % 0x20 = 8 then keepFld (badSize (fld v 0 5)) 0 5 old v
  else if a = 0x6004 then filterAct old v
  else if a = 0x6008 then keepFld (fld v 8 8 == 0) 8 8 old (keepFld (fld v 0 8 == 0) 0 8 old v)
  else if a = 0x8000 then keepFld (fld v 8 8 == 0) 8 8 old v
  else if a = 0xA004 then
    keepFld (fld v 16 8 == 0) 16 8 old (keepFld (fld v 8 4 == 0) 8 4 old (keepFld (outOf 16 30 (fld v 0 5)) 0 5 old v))
  else if a = 0xB200 then filterBram s.build old v
  else v

/-- Does the register take its RW and RWL fields now: a ring's bases only while ACT is 0 (R222), a rule's words only
while EN is 0 (R260), a host ring only while no armed context of the partition has HOST (R290)? -/
def fieldsOpen (s : State) (a : Nat) : Bool :=
  if blockOf a = 4 ∧ a % 0x40 ≤ 0x10 then !ringAct s (offOf a / 0x40)
  else if blockOf a = 8 ∧ 0x8100 ≤ a ∧ a < 0x8200 then !bit (reg s (a / 0x10 * 0x10)) 31
  else if blockOf a = 5 ∧ 0x5100 ≤ a ∧ a < 0x5300 then
    !s.obs.ctxs.any fun e => match e.2 with
      | some c => ctxArmed c && c.host && c.part == (offOf a - 0x100) / 0x20
      | none => false
  else true

/-- A write of a register that has no effect of its own. -/
def putFields (a : Nat) (v : U32) (s : State) : State :=
  let r := regSpec s.build a
  let old := reg s a
  let m := if fieldsOpen s a then r.rw ||| (if locked s a then 0 else r.rwl) else 0
  setReg a (((old &&& ~~~ m) ||| (filterVal s a v &&& m)) &&& ~~~ (v &&& r.w1c)) s

/-- A write of a latency word acts on events that leave the synchroniser two OBS cycles later (R40). -/
def putLat (a : Nat) (v : U32) (s : State) : State :=
  let old := reg s a
  let t := now s
  let s := putFields a v s
  if reg s a = old || !obsRuns s then s
  else onTb (fun b => { b with
    latOld := b.latOld.filter (fun e => decide (t < e.2.2)) ++ [(a, old, t + 2 * incOf s.aon.pwr.ratio)] }) s

/-! ## Rings (R225, R384) -/

/-- What a stopped ring writes again goes to the addresses in force. -/
def rebase (old cq msi : Nat) (p : Piece) : Piece :=
  match p.what with
  | .completion .. => { p with addr := cq + (p.addr - old) }
  | .msi r _ d => { p with addr := msi, what := .msi r msi d }
  | _ => p

/-- EN rises from 0 to 1. -/
def enableRing (r : Nat) (s : State) : State :=
  let c := reg s (aRing r)
  if outOf 6 16 (fld c 0 5) || outOf 6 16 (fld c 8 5) then orReg (aRing r + 0x18) 8 s
  else
    let g := ringOf s r
    let cq := pair (reg s (aRing r + 0xC)) (reg s (aRing r + 0x10))
    let msi := pair (reg s (aRing r + 0x1C)) (reg s (aRing r + 0x20))
    let base := pair (reg s (aRing r + 4)) (reg s (aRing r + 8))
    let s := onRing r (fun g => { g with en := true, base := base, cqBase := cq, msia := msi }) s
    if g.stopped then
      let s := onRing r (fun g => { g with stopped := false, again := [] }) s
      (g.again.map (rebase g.cqBase cq msi)).foldl (fun acc p => addPiece p acc) s
    else
      onDb r (fun _ => dbD r)
        (onRing r (fun g => { g with head := 0, cqTail := 0, phase := true, full := false, noirq := [] }) s)

/-- A write of `WRN_RING_CTL[r]`. -/
def opRingCtl (r : Nat) (v : U32) (s : State) : State :=
  let s := putFields (aRing r) v s
  if bit v 31 = (ringOf s r).en then s
  else if bit v 31 then enableRing r s
  else onRing r (fun g => { g with en := false }) s

/-! ## Doorbell pages (R16, R223, R224) -/

/-- The OBS domain runs, and its clock is not being withdrawn. -/
def obsAwake (s : State) : Bool := obsRuns s && s.aon.pwr.stage != .dropped

/-- A write of `DB_TAIL`: held in the page while the domain sleeps, and a wake event. -/
def opDbTail (r : Nat) (v : U32) (s : State) : State :=
  let t := fld v 0 16
  if !s.aon.pwr.rstN then wake 1 s
  else if obsAwake s then wake 1 (checkTail r t s)
  else wake 1 (onDb r (fun d => { d with tailHeld := some t }) s)

/-- A write of `CQ_HEAD`. -/
def opCqHead (r : Nat) (v : U32) (s : State) : State :=
  let t := fld v 0 16
  if !s.aon.pwr.rstN then wake 1 s
  else if obsAwake s then wake 1 (checkHead r t s)
  else wake 1 (onDb r (fun d => { d with headHeld := some t }) s)

/-! ## `WRN_VER` (R3, R237) -/

/-- The agreed level for the host's range. -/
def agree (lo hi : Nat) : Nat :=
  if lo ≤ 0x11 ∧ 0x11 ≤ hi then 0x11 else if lo ≤ 0x10 ∧ 0x10 ≤ hi then 0x10 else 0

/-- A write of `WRN_VER`; with REQ set a negotiation, refused while a ring is active. -/
def opVersion (v : U32) (s : State) : State :=
  let s := putFields 0x1000 v s
  if !bit v 0 then s
  else
    let s := onCmd (fun c => { c with verDone := false }) s
    if (List.range 64).any (ringAct s) then orReg 0x1000 4 s
    else onCmd (fun c => { c with verDone := true, agreed := agree (fld (reg s 0x1000) 8 8) (fld (reg s 0x1000) 16 8) }) s

/-! ## Boxwood, host rings, Bramble depths, locks -/

/-- A write of `WRN_EVQ_CTL`; after Hedger's failure it takes effect at once (R343). -/
def opConsumer (v : U32) (s : State) : State :=
  let s := opConsumerSelect v s
  if s.aon.pwr.hedgerDown then opConsumerEffect s else s

/-- A write of `WRN_PRV_HB_SIZE[p]` that is not refused sets the ring up anew (R290, R384). -/
def opHbSize (p : Nat) (v : U32) (s : State) : State :=
  let a := aPrv + 0x100 + 0x20 * p
  let ok := fieldsOpen s (a + 8) && !badSize (fld v 0 5)
  let s := putFields (a + 8) v s
  if !ok then s
  else
    let g : Region := { (default : Region) with
      ptAddr := pair (reg s a) (reg s (a + 4)), cbAddr := pair (reg s (a + 0xC)) (reg s (a + 0x10)) }
    sweepGens (onPart p (fun q => { q with host := g, hostSlots := [] }) s)

/-- A partition whose depth code changes has its rings emptied (R160); a running hang sequence keeps the depths at T. -/
def opBramble (v : U32) (s : State) : State :=
  let old := reg s 0xB200
  let t := now s
  let s := onSeq (fun q => if q.t ≤ t ∧ q.bram = none then { q with bram := some old } else q) s
  let s := putFields 0xB200 v s
  let new := reg s 0xB200
  let moved := fun (p : Nat) => fld old (2 * p) 2 != fld new (2 * p) 2
  ((List.range s.build.units).filter fun u => moved (unitOf s u).owner).foldl (fun acc u => emptyRing u acc) s

/-- A write of `WRN_LOCK` (R329): OBS_LOCK stays clear under `RST_N`. -/
def opLock (v : U32) (s : State) : State := orReg aLock (v &&& (if s.aon.pwr.rstN then 3 else 1)) s

/-! ## The debug window (R286, R391, R392) -/

/-- Is the window closed to a command: a partition from 1 to 15 is not FREE? -/
def dbgShut (s : State) : Bool := (List.range 16).any fun p => p != 0 && (partOf s p).state != 0

/-- Does a physical collector serve a logical one? -/
def physServes (s : State) (p : Nat) : Bool :=
  (List.range s.build.nColl).any fun c => (collOf s c).phys == p && serving s c

/-- Is lane group g built and in service? -/
def laneServes (s : State) (g : Nat) : Bool :=
  let l := s.obs.lens
  s.build.lens && decide (g < 16) && !l.oos && !(l.spareUsed && l.failed == g)

/-- `STAT` after a command. -/
def dbgEnd (denied range : Bool) : State → State := onDbg fun d => { d with done := true, denied := denied, range := range }

/-- An injection of Table 18.8 that is not refused. -/
def injectFault (kind arr idx tgt : Nat) : State → State :=
  match kind with
  | 1 => onDbg fun d => { d with inject := d.inject ++ [(arr, idx, false)] }
  | 2 => onDbg fun d => { d with inject := d.inject ++ [(arr, idx, true)] }
  | 3 => onHed fun h => { h with hbStop := h.hbStop ++ [tgt] }
  | 4 => onLens fun l => { l with inject := l.inject ++ [tgt % 32] }
  | 5 => onDbg fun d => { d with flitErr := d.flitErr ++ [tgt] }
  | _ => id

/-- INJ. -/
def dbgInject (s : State) : State :=
  let kind := fld (reg s 0xC018) 28 4
  let tgt := fld (reg s 0xC018) 0 9
  let arr := fld (reg s 0xC000) 24 4
  let idx := fld (reg s 0xC000) 0 24
  let word := kind == 1 || kind == 2
  if kind = 0 then dbgEnd false false s
  else if dbgShut s || (word && arr == 9) then dbgEnd true false s
  else if (word && decide (arrayWords s.build arr ≤ idx)) || ((kind == 3 || kind == 5) && !physServes s tgt)
      || (kind == 4 && !laneServes s (tgt % 32)) || decide (6 ≤ kind) then dbgEnd false true s
  else dbgEnd false false (injectFault kind arr idx tgt s)

/-- Bits inverted in a word by injections not yet seen by the core. -/
def corruption (s : State) (arr idx : Nat) : U64 :=
  (s.obs.dbg.inject.filter fun e => e.1 == arr && e.2.1 == idx).foldl (fun x e => x ^^^ (if e.2.2 then 3 else 1)) 0

/-- A word as it is stored; only the attribution table's mapping is given. -/
def storedWord (s : State) (arr idx : Nat) : U64 :=
  if arr = 0 then smGet u64D s.obs.hed.attr idx else Config.sramWord s.draws arr idx

/-- READ. -/
def dbgRead (s : State) : State :=
  let arr := fld (reg s 0xC000) 24 4
  let idx := fld (reg s 0xC000) 0 24
  if dbgShut s || arr == 9 then onDbg (fun d => { d with data := 0 }) (dbgEnd true false s)
  else if arrayWords s.build arr ≤ idx then onDbg (fun d => { d with data := 0 }) (dbgEnd false true s)
  else
    let w := storedWord s arr idx
    let x := corruption s arr idx
    draw (onDbg (fun d => { d with data := w ^^^ x, check := Config.checkBits w }) (dbgEnd false false s))

/-- A write of `WRN_DBG_CMD`: the injection first. -/
def opDbgCmd (v : U32) (s : State) : State :=
  if dbgDisabled s then s
  else
    let s := onDbg (fun d => { d with done := false }) s
    let s := if bit v 1 then dbgInject s else s
    if bit v 0 then dbgRead s else s

/-! ## The window -/

/-- A write of word v at a window address whose domain serves it. -/
def regWrite (a : Nat) (v : U32) (s : State) : State :=
  let o := offOf a
  match blockOf a with
  | 0x1 => if o = 0 then opVersion v s else s
  | 0x2 => if o = 0x1C then opGo v s else if o = 0xFC then opLock v s else putFields a v s
  | 0x3 =>
    if o = 0x10 then opRatioWrite v s
    else if (0x100 ≤ o ∧ o < 0x200) ∨ 0x800 ≤ o then putLat a v s
    else putFields a v s
  | 0x4 => if o % 0x40 = 0 then opRingCtl (o / 0x40) v s else putFields a v s
  | 0x5 =>
    if 0x800 ≤ o then opOwner ((o - 0x800) / 4) v s
    else if 0x100 ≤ o ∧ o < 0x100 + 0x20 * npart s.build ∧ o % 0x20 = 8 then opHbSize ((o - 0x100) / 0x20) v s
    else putFields a v s
  | 0x7 =>
    if o = 0 then opConsumer v s
    else if o = 4 then opCredits false v s
    else if o = 8 then opCredits true v s
    else if o = 0xC then opWatermark v s
    else if o = 0x38 then opHrSize v s
    else if o = 0x40 then opHrHead v s
    else putFields a v s
  | 0x8 =>
    if o = 4 then opLineAck v s
    else if 0x100 ≤ o ∧ o < 0x200 ∧ o % 0x10 = 0 then opRuleWrite ((o - 0x100) / 0x10) v s
    else putFields a v s
  | 0x9 => if o = 0 then putLat a v s else putFields a v s
  | 0xB => if o = 0x200 then opBramble v s else putFields a v s
  | 0xC => if o = 4 then opDbgCmd v s else if dbgDisabled s then s else putFields a v s
  | b =>
    if 0x10 ≤ b ∧ b < 0x50 then
      (if o = 0 then opDbTail (b - 0x10) v s else if o = 8 then opCqHead (b - 0x10) v s else s)
    else putFields a v s

/-- What a read does: an RC field clears (R386), and the `_LO` word of a pair latches its `_HI` (R39, R384).
MAX_OCC restarts from the present OCC (R190). -/
def regReadDone (a : Nat) (s : State) : State :=
  let rc := (regSpec s.build a).rc
  let s := match pairValue s a with
    | some x => onRap (fun r => { r with latch := smPut (fun _ => 0) r.latch a (hi32 x) }) s
    | none => s
  let s := if rc = 0 then s else setReg a (reg s a &&& ~~~ rc) s
  if a = 0x7010 then setReg a (setFld (reg s a) 8 7 (occ s)) s else s

end Sys2Proof.Machine
end

