-- ==== Sys2Proof/Machine/Rap.lean ====
section
/-! DEFINITION. The Register Access Port and the JTAG port (chapter 17): an access is served, held or refused, and the
commands that are register accesses. -/

namespace Sys2Proof.Machine

/-! ## Accesses (R17, R326, R363, R364) -/

/-- A window byte address, of a whole word. -/
def winAddr (a : Nat) : Nat := a % 2 ^ 20 / 4 * 4

/-- Must the access wait: for the clock, or (`WRN_TB_FGT_LO`) for the command engine's copy? -/
def mustHold (s : State) (x : RapAcc) : Bool :=
  s.aon.pwr.rstN && !regAon x.addr && (!obsAwake s || (x.addr == 0x3008 && !x.write && s.aon.tb.full))

/-- An access completes with read data and ERR. -/
def rapResult (x : RapAcc) (v : U32) (err : Bool) : State → State :=
  onRap fun r => if x.jtag then { r with dbgData := v, dbgErr := err } else { r with rdata := v, err := err }

/-- An access is carried out; one to an OBS-domain register while `RST_N` is low has no effect and ERR. -/
def perform (x : RapAcc) (s : State) : State :=
  if !regAon x.addr && !s.aon.pwr.rstN then rapResult x 0 true s
  else if x.write then rapResult x 0 false (regWrite x.addr x.data s)
  else rapResult x (regRead s x.addr) false (regReadDone x.addr s)

/-- An access is presented: it waits behind earlier ones; one to an OBS-domain register is a wake event (R16). -/
def present (x : RapAcc) (s : State) : State :=
  if !s.aon.pwr.aonRstN then s
  else
    let s := if s.aon.pwr.rstN && !regAon x.addr then wake 2 s else s
    if !s.aon.rap.held.isEmpty || mustHold s x then onRap (fun r => { r with held := r.held ++ [x] }) s
    else perform x s

/-- A RAP write and a RAP read at a window byte address. -/
def rapWrite (a : Nat) (v : U32) : State → State := present ⟨true, winAddr a, v, false⟩
def rapRead (a : Nat) : State → State := present ⟨false, winAddr a, 0, false⟩

/-- `RAP_HELD_ACCESS_COMPLETE`: the access that has waited longest. -/
def opHeldAccess (s : State) : State :=
  match s.aon.rap.held with
  | x :: rest => if mustHold s x then s else perform x (onRap (fun r => { r with held := rest }) s)
  | [] => s

def execRapHeldAccessComplete : State → Answer := run opHeldAccess

/-! ## Register accesses with rows of their own -/

def execRegisterWrite (a : Nat) (v : U32) : State → Answer := run (rapWrite a v)

/-- Set or clear one bit of a written word. -/
def withBit (v : U32) (i : Nat) (b : Bool) : U32 := setFld v i 1 (b2n b)

def pageOf (r : Nat) : Nat := 0x10000 + 0x1000 * (r % 64)

def execDbTailWrite (r : Nat) (v : U32) : State → Answer := run (rapWrite (pageOf r) v)

def execCqHeadWrite (r : Nat) (v : U32) : State → Answer := run (rapWrite (pageOf r + 8) v)

def execRingEnable (r : Nat) (v : U32) : State → Answer := run (rapWrite (aRing (r % 64)) (withBit v 31 true))

def execRingDisable (r : Nat) (v : U32) : State → Answer := run (rapWrite (aRing (r % 64)) (withBit v 31 false))

def execVersionRequest (v : U32) : State → Answer := run (rapWrite 0x1000 (withBit v 0 true))

def execGtLoRead : State → Answer := run (rapRead 0x3000)

def execFgtLoRead : State → Answer := run (rapRead 0x3008)

def execConsumerSelect (v : U32) : State → Answer := run (rapWrite 0x7000 v)

def execCreditAllotmentWrite (hi : Bool) (v : U32) : State → Answer := run (rapWrite (if hi then 0x7008 else 0x7004) v)

def execWatermarkWrite (v : U32) : State → Answer := run (rapWrite 0x700C v)

def execHostRingSizeWrite (v : U32) : State → Answer := run (rapWrite 0x7038 v)

def execHostRingHeadWrite (v : U32) : State → Answer := run (rapWrite 0x7040 v)

def execUnitOwnerWrite (m : Nat) (v : U32) : State → Answer := run (rapWrite (0x5800 + 4 * (m % 512)) v)

def execRatioWrite (v : U32) : State → Answer := run (rapWrite 0x3010 v)

def execBrambleDepthWrite (v : U32) : State → Answer := run (rapWrite 0xB200 v)

def execSentinelLineAck (v : U32) : State → Answer := run (rapWrite 0x8004 v)

def execGovRuleEnable (k : Nat) (v : U32) : State → Answer := run (rapWrite (0x8100 + 0x10 * (k % 16)) v)

def execLockSet (v : U32) : State → Answer := run (rapWrite aLock v)

def execFirmwareGo (v : U32) : State → Answer := run (rapWrite 0x201C (withBit v 0 true))

def execDebugRead (v : U32) : State → Answer := run (rapWrite 0xC004 (withBit v 0 true))

def execDebugInject (v : U32) : State → Answer := run (rapWrite 0xC004 (withBit v 1 true))

def execRcRegisterRead (a : Nat) : State → Answer := run (rapRead a)

def execLoRegisterRead (a : Nat) : State → Answer := run (rapRead a)

def execRapObsRegisterRead (a : Nat) : State → Answer := run (rapRead a)

/-! ## JTAG (R286, R376, R377, R397, R398) -/

/-- Do instructions beyond IDCODE act: the fuse block has been read, and DBG_DISABLE is unblown? -/
def jtagOpen (s : State) : Bool := s.aon.pwr.aonRstN && s.aon.pwr.fusesRead && !dbgDisabled s

/-- The data register that an instruction captures. -/
def captureDr (v : Nat) : State → State := onRap fun r => { r with tdr := BitVec.ofNat 64 v }

/-- The identification code. -/
def idcodeWord (b : Build) : Nat := 2 * 2 ^ 28 + 0x5731 * 2 ^ 12 + b.jtagMfr % 2 ^ 11 * 2 + 1

def execIdcode : State → Answer := run fun s => if s.aon.pwr.aonRstN then captureDr (idcodeWord s.build) s else s

/-- An access of `DBG_ACCESS` has not completed. -/
def jtagBusy (s : State) : Bool := s.aon.rap.held.any fun x => x.jtag

/-- `DBG_ACCESS`: Capture-DR of the last access, then Update-DR, ignored while DONE is 0. -/
def opDbgAccess (v : BitVec 51) (s : State) : State :=
  if !jtagOpen s then s
  else
    let s' := captureDr (s.aon.rap.dbgData.toNat + b2n (!jtagBusy s) * 2 ^ 32 + b2n s.aon.rap.dbgErr * 2 ^ 33) s
    if jtagBusy s then s'
    else present ⟨bit v 50, fld v 32 18 * 4, BitVec.ofNat 32 (fld v 0 32), true⟩ s'

def execDbgAccess (v : BitVec 51) : State → Answer := run (opDbgAccess v)

/-- `MBIST` captures the fields of Table 19.6. -/
def mbistWord (s : State) : Nat :=
  let r := s.aon.rap
  b2n r.mbDone * 2 ^ 31 + b2n r.mbFail * 2 ^ 30 + b2n r.mbDenied * 2 ^ 29 + r.mbArray % 16 * 2 ^ 25
    + sat 511 s.aon.pwr.rejected * 2 ^ 16 + sat 0xFFFF r.mbRows

/-- `MBIST`: Update-DR with bit 31 starts a test, refused with DENIED unless R397's conditions hold. -/
def opMbist (v : U32) (s : State) : State :=
  if !jtagOpen s then s
  else
    let p := s.aon.pwr
    let s := captureDr (mbistWord s) s
    if !bit v 31 || s.aon.rap.mbRun.isSome then s
    else if p.rstN && p.sramDone && p.goAt.isNone && !bit (reg s 0x201C) 0 then
      onRap (fun r => { r with
        mbRun := some (fld v 0 4), mbDone := false, mbFail := false, mbDenied := false, mbArray := 0, mbRows := 0 }) s
    else onRap (fun r => { r with mbDenied := true }) s

def execMbist (v : U32) : State → Answer := run (opMbist v)

/-- An array is zeroed, as after step 4 of the start-up. -/
def zeroArray (a : Nat) (s : State) : State :=
  match a with
  | 0 => onHed (fun h => { h with attr := [] }) s
  | 1 => (List.range s.build.units).foldl (fun acc u => emptyRing u acc) s
  | 2 => onBanks (fun b => { b with u := [] }) s
  | 11 => onBanks (fun b => { b with ops := [] }) s
  | _ => s

/-- `MBIST_COMPLETE`: the result, and the tested arrays zeroed. -/
def opMbistDone (fail : Bool) (array rows : Nat) (s : State) : State :=
  match s.aon.rap.mbRun with
  | none => s
  | some a =>
    let s := (if a = 15 then List.range 12 else [a]).foldl (fun acc k => zeroArray k acc) s
    onRap (fun r => { r with
      mbRun := none, mbDone := true, mbFail := fail, mbArray := if fail then array else 0, mbRows := sat 0xFFFF rows }) s

def execMbistComplete (fail : Bool) (array rows : Nat) : State → Answer := run (inObs (opMbistDone fail array rows))

/-- `SCAN_MODE`: Update-DR with 1 erases the key store and enters scan test; every other state is free from there. -/
def opScan (b : Bool) (s : State) : State :=
  if !jtagOpen s then s
  else if b then onKeys (fun _ => default) (inScan s)
  else captureDr 0 s

def execScanMode (b : Bool) : State → Answer := run (opScan b)

end Sys2Proof.Machine
end

