-- ==== Sys2Proof/Machine/Resets.lean ====
section
/-! DEFINITION. The two resets (R328, Table 14.3), their release, and scan test's end. -/

namespace Sys2Proof.Machine

/-! ## `AON_RST_N` -/

/-- `AON_RST_N_RISE`: the root counts from 0, the fuse block is read, and `OBS_CLK` is requested (Table 14.4). -/
def opAonRise (s : State) : State :=
  if s.aon.pwr.aonRstN then s
  else
    let sel := fld (reg s aTbClk) 0 2
    onTb (fun t => { t with rootGt := 0, sub := 0 })
      (onPwr (fun p => { p with aonRstN := true, fuseReq := true, fuseAddr := 0, clkReq := true, clkSel := sel }) s)

def execAonRstNRise : State → Answer := run opAonRise

/-- The machine under `AON_RST_N`: the AON and OBS domains at their reset values; this also leaves scan test (R398). -/
def aonReset (s : State) : State :=
  { s with aon := Aon.reset, obs := Obs.reset s.build false, scan := false }

def execAonRstNFall (s : State) : Answer := .next (aonReset s)

/-! ## `RST_N` -/

/-- Levels of `CLK_ACTIVE` are inputs: a low line stays low. -/
def keepLevels (ports : SMap PortSt) : SMap PortSt :=
  ports.foldl (fun m e => smPut portD m e.1 { portD e.1 with clk := (smGet portD ports e.1).clk }) []

/-- The OBS domain under `RST_N`. -/
def obsUnderReset (s : State) : Obs :=
  let o := Obs.reset s.build (s.aon.alm.zeroized || s.aon.alm.zeroizing)
  { o with hed := { o.hed with ports := keepLevels s.obs.hed.ports } }

/-- Quickset and the start-up under `RST_N`. The fuse block goes on being read; a read of repair entries ends. -/
def pwrUnderReset (p : Pwr) : Pwr :=
  { p with
    rstN := false, stage := if p.clkAck && !p.clkReq then .dropped else .awake, waking := false, granted := false, wake := none, ready := false, fwOk := false
    fwFail := false, sramDone := false, fwCode := 0, goAt := none, fwWords := [], fwReadErr := false
    fwReadDone := false, fwAt := 0, fwLen := 0, fwEntry := 0, fwVer := 0, fwHash := [], hedgerDown := false, switching := false
    sleepFrom := none, fuseReq := p.fuseReq && !p.fusesRead }

/-- The AON domain under `RST_N`: what Table 14.3 keeps stands. -/
def aonUnderReset (a : Aon) : Aon :=
  { a with
    pwr := pwrUnderReset a.pwr
    tb := { a.tb with calDone := false, full := false, lockGap := none }
    alm := { a.alm with frozen := false }
    keys := { (default : Keys) with device := a.keys.device }
    db := []
    rap := { a.rap with latch := a.rap.latch.filter (fun e => regAon e.1), mbRun := none } }

/-- `RST_N_FALL`. -/
def opRstFall (s : State) : State :=
  if !s.aon.pwr.aonRstN || !s.aon.pwr.rstN then s
  else
    let s := { s with obs := obsUnderReset s, aon := aonUnderReset s.aon }
    offerReq (setReg aLock (reg s aLock &&& 1) s)

def execRstNFall : State → Answer := run opRstFall

/-- `RST_N_RISE`: start-up uses a grant that is held, or the clock is requested, after the fall of a grant whose request
has fallen (R321, R330). -/
def opRstRise (s : State) : State :=
  let p := s.aon.pwr
  if !p.aonRstN || p.rstN then s
  else
    let g := now s
    let s := onPwr (fun p => { p with rstN := true, rstAt := g }) s
    if p.clkAck then (if p.clkReq then useGrant s else onPwr (fun p => { p with reqDue := true }) s)
    else if p.clkReq then s
    else requestClk s

def execRstNRise : State → Answer := run opRstRise

end Sys2Proof.Machine
end

