-- ==== Sys2Proof/Machine/Faults.lean ====
section
/-! DEFINITION. SRAM errors (R339, Table 15.2, R394). Beside the array codes of Table 18.7 the model numbers two arrays
that have none: 12 for the Boxwood stages and 13 for the key store. -/

namespace Sys2Proof.Machine

/-- The part of the array's object that word idx belongs to, and the object's number. -/
def objOf (a idx : Nat) : Nat := Config.sramObj a idx
def subOf (a idx : Nat) : Nat := Config.sramSub a idx

/-- Injections of a word are spent at the core's read of it (Table 18.8). -/
def spendInject (a idx : Nat) : State → State :=
  onDbg fun d => { d with inject := d.inject.filter fun e => !(e.1 == a && e.2.1 == idx) }

/-- Word idx exists in array a of the build. -/
def wordExists (b : Build) (a idx : Nat) : Bool :=
  if a = 12 then decide (idx < 64) else if a = 13 then b.crypto else decide (idx < arrayWords b a)

/-- `SRAM_CORRECTABLE`: corrected, written back and counted. -/
def opCorrectable (a idx : Nat) (s : State) : State :=
  if wordExists s.build a idx then bumpReg (aFlt + 0x10C) 16 16 1 (spendInject a idx s) else s

def execSramCorrectable (array idx : Nat) : State → Answer := run (inObs (opCorrectable array idx))

/-! ## Arrays (Table 15.2) -/

/-- Bramble rings: the entry and every older one of its ring. -/
def ringError (idx : Nat) (s : State) : State :=
  let u := objOf 1 idx % s.build.units
  let k := subOf 1 idx % s.build.brambleDepth
  if k < (unitOf s u).ring.length then
    onUnit u (fun x => { x with ring := x.ring.drop (k + 1), ringWrap := true }) s
  else s

/-- Counters: a live word fails its collector, a word of the shadow or epoch bank loses the unit's values there, and a
takeover finds none in the shadow bank (R340). -/
def counterError (idx : Nat) (s : State) : State :=
  let u := objOf 2 idx % s.build.units
  let c := collOfUnit s u
  match subOf 2 idx % 3 with
  | 0 => if (collOf s c).taking.isNone && (collOf s c).lost.isNone then declareFailed c (now s) s else s
  | 1 =>
    let hit := fun (m : CutMark) => match s.obs.cut.shadow with | some b => b.t == m.t | none => false
    onUnit u (fun x => { x with shadowLost := true }) (onCut (fun k => { k with
      marks := k.marks.map fun m => if hit m then { m with bank := ⟨bankUnit u (fun _ => default) (wholeBank m.bank), []⟩ } else m }) s)
  | _ => onUnit u (fun x => { x with epochLost := true }) s

/-- Bound slots that hold an image on the core. -/
def residentSlots (s : State) : List Nat :=
  (s.obs.lens.slots.filter fun e => match e.2 with | some x => x.resident | none => false).map (·.1)

/-- A live image restarts with INCOMPLETE, its elements counted as lost; a channel word is zeroed. -/
def lensError (idx : Nat) (s : State) : State :=
  let i := objOf 3 idx
  match subOf 3 idx % 3 with
  | 0 => match (residentSlots s)[i % max 1 s.build.lensImages]? with
    | some k => onSlot k (fun x => { x with
        live := { imgLost (sat (2 ^ 40 - 1) (x.live.lostElems + x.live.elems)) with merged := 0 } }) s
    | none => s
  | 1 => onLens (fun l => { l with chan := l.chan.filter fun e => e.1 / 4 != i % 16384 }) s
  | _ => s

/-- Commands of any ring that wait for a frame of context x: its closes and its saves. -/
def waitersOf (s : State) (x : Nat) : List (Nat × Held) :=
  s.obs.cmd.rings.flatMap fun e => (e.2.parked.filter fun h => (opOf h == 0x11 || opOf h == 0x15) && dCtx h == x &&
    (match h.stage with | .ctxFrame _ => true | _ => false)).map fun h => (e.1, h)

/-- A context is closed without its FINAL DIGEST, and its next frame is not written; a command that waits for one
completes `ABORTED`. -/
def contextError (idx : Nat) (s : State) : State :=
  let xs := (ctxIds s).filter fun x => match ctxOf s x with | some c => c.resident | none => false
  match xs[objOf 4 idx % s.build.ctxEntries]? with
  | none => s
  | some x =>
    let ws := waitersOf s x
    let s := disarmWatches (fun w => w.ctx == x) (endDumps (fun d => d.ctx == x) 3 (engGt s) s)
    ws.foldl (fun a e => fail e.1 e.2 stAborted a) (dropCtx x s)

/-- The frame under construction of a context is dropped; its SEQ is consumed. -/
def openFrameError (x : Nat) (s : State) : State :=
  onCtx x (fun c => if c.frame.isSome then { c with frame := none, first := false, seq := (c.seq + 1) % 2 ^ 32 } else c) s

/-- A queued frame is dropped, and a command that waits for it goes on. -/
def queuedError (f : Frame) (s : State) : State :=
  let s := frameTaken f true (frameTaken f false s)
  match f.waiter with
  | some (r, seq) => setStage r seq (.ctxFrame true) s
  | none => s

/-- Trace staging: a cut buffer reads CUT_LOST, a queued frame or one under construction is dropped. -/
def stagingError (idx : Nat) (s : State) : State :=
  let i := objOf 5 idx
  match subOf 5 idx % 3 with
  | 0 => match (s.obs.lens.slots.filterMap fun e => e.2.map fun _ => e.1)[i]? with
    | some k => onSlot k (fun x => if x.buf = .empty then x else { x with cutLost := true, bufImg := default }) s
    | none => s
  | 1 => match (s.obs.smp.frames)[i]? with
    | some f => queuedError f s
    | none => s
  | _ => openFrameError i s

/-- A dictionary: the frame that is being built with it. -/
def dictError (idx : Nat) (s : State) : State :=
  let xs := (ctxIds s).filter fun x => match ctxOf s x with
    | some c => (match c.frame with | some f => f.dict.isSome | none => false)
    | none => false
  match xs[objOf 6 idx % max 1 s.build.dictionaries]? with
  | some x => openFrameError x s
  | none => s

/-- The watch buffer: the dump ends with TRUNCATED. -/
def dumpError (idx : Nat) (s : State) : State :=
  match s.obs.wat.dumps[objOf 7 idx]? with
  | some d => endDump d.id 1 (engGt s) s
  | none => s

/-- A replay slot: its frame is lost with cause TIMEOUT. -/
def slotError (idx : Nat) (s : State) : State :=
  match s.obs.egr.slots[objOf 8 idx % s.build.egressSlots]? with
  | some x => loseSlots (fun y => y == x) 1 s
  | none => s

/-- Descriptor caches: the descriptor completes with ABORTED. A completion is written again from the engine's copy,
which the model's queue of entries is. -/
def cacheError (idx : Nat) (s : State) : State :=
  let r := objOf 10 idx % 64
  match (ringOf s r).fetched[subOf 10 idx]? with
  | some h => fail r h stAborted s
  | none => s

/-- An ops-matrix counter reads zero in every cut to come until its next epoch restart, and its partition's next cut
carries LOST; the banks of cuts already final stand. -/
def opsError (idx : Nat) (s : State) : State :=
  let k := objOf 11 idx % (512 * npart s.build)
  if subOf 11 idx % 2 = 0 then
    let z := fun (b : Bank) => { b with ops := b.ops.filter fun e => opsOf e.1 != k }
    let s := onCut (onCuts fun lim b => if now s < lim then ⟨z b.live, b.after.map fun e => (e.1, z e.2)⟩ else b) s
    onCut (fun c => { c with opsLost := c.opsLost ++ [k / 512], opsDead := c.opsDead ++ [k] }) s
  else s

/-- A Boxwood stage: the item is discarded and its stage released. -/
def stageError (idx : Nat) (s : State) : State :=
  match s.obs.evq.q[idx]? with
  | some x => occMoved (occ s) (onEvq (fun e => { e with q := delFirst (fun y => y.age == x.age) e.q }) s)
  | none => s

/-- The handling of an array. -/
def arrayError (a idx : Nat) (s : State) : State :=
  match a with
  | 0 => onHed (fun h => { h with attr := smPut u64D h.attr idx 0 }) s
  | 1 => ringError idx s
  | 2 => counterError idx s
  | 3 => lensError idx s
  | 4 => contextError idx s
  | 5 => stagingError idx s
  | 6 => dictError idx s
  | 7 => dumpError idx s
  | 8 => slotError idx s
  | 9 => hedgerFails s
  | 10 => cacheError idx s
  | 11 => opsError idx s
  | 12 => stageError idx s
  | _ => alarm 6 (BitVec.ofNat 32 (idx % 512)) (s.aon.tb.rootGt) s

/-- `SRAM_UNCORRECTABLE`. The key store lies in the AON domain. -/
def opUncorrectable (a idx : Nat) (s : State) : State :=
  let runs := if a = 13 then s.aon.pwr.aonRstN else obsRuns s
  if !runs || !wordExists s.build a idx then s
  else
    let s := if s.aon.pwr.rstN then orReg (aFlt + 0x110) 0x20 (bumpReg (aFlt + 0x10C) 0 16 1 (spendInject a idx s)) else s
    arrayError a idx s

def execSramUncorrectable (array idx : Nat) : State → Answer := run fun s =>
  if array = 13 then opUncorrectable array idx s else inWriter (opUncorrectable array idx) s

end Sys2Proof.Machine
end

