-- ==== Sys2Proof/Machine/Dispatch.lean ====
section
/-! DEFINITION. One arm per command. -/

namespace Sys2Proof.Machine

/-- The effect of a command on everything but the queue. -/
def exec (i : Instr) (s : State) : Host.Outcome State Fault Refusal :=
  match i with
  | .nop r => Sys2Proof.Machine.execNop r s
  | .fence r => Sys2Proof.Machine.execFence r s
  | .ctxOpen r => Sys2Proof.Machine.execCtxOpen r s
  | .ctxClose r => Sys2Proof.Machine.execCtxClose r s
  | .ctxArm r => Sys2Proof.Machine.execCtxArm r s
  | .ctxPause r => Sys2Proof.Machine.execCtxPause r s
  | .ctxResume r => Sys2Proof.Machine.execCtxResume r s
  | .ctxSave r => Sys2Proof.Machine.execCtxSave r s
  | .ctxRestore r => Sys2Proof.Machine.execCtxRestore r s
  | .freezeAt r => Sys2Proof.Machine.execFreezeAt r s
  | .epochSet r => Sys2Proof.Machine.execEpochSet r s
  | .readShadow r => Sys2Proof.Machine.execReadShadow r s
  | .attrLoad r => Sys2Proof.Machine.execAttrLoad r s
  | .attrClear r => Sys2Proof.Machine.execAttrClear r s
  | .lensBind r => Sys2Proof.Machine.execLensBind r s
  | .lensRead r => Sys2Proof.Machine.execLensRead r s
  | .lensRelease r => Sys2Proof.Machine.execLensRelease r s
  | .watchArm r => Sys2Proof.Machine.execWatchArm r s
  | .watchDisarm r => Sys2Proof.Machine.execWatchDisarm r s
  | .hangDumpSetArea r => Sys2Proof.Machine.execHangDumpSetArea r s
  | .hangDumpSetWdog r => Sys2Proof.Machine.execHangDumpSetWdog r s
  | .hangDumpRequest r => Sys2Proof.Machine.execHangDumpRequest r s
  | .hangDumpRelease r => Sys2Proof.Machine.execHangDumpRelease r s
  | .sentArm r => Sys2Proof.Machine.execSentArm r s
  | .sentDisarm r => Sys2Proof.Machine.execSentDisarm r s
  | .govSet r => Sys2Proof.Machine.execGovSet r s
  | .partCreate r => Sys2Proof.Machine.execPartCreate r s
  | .partClose r => Sys2Proof.Machine.execPartClose r s
  | .keyInstall r => Sys2Proof.Machine.execKeyInstall r s
  | .keyRotate r => Sys2Proof.Machine.execKeyRotate r s
  | .scrub r => Sys2Proof.Machine.execScrub r s
  | .consentLoad r => Sys2Proof.Machine.execConsentLoad r s
  | .egrOpen r => Sys2Proof.Machine.execEgrOpen r s
  | .egrClose r => Sys2Proof.Machine.execEgrClose r s
  | .fabDiscover r => Sys2Proof.Machine.execFabDiscover r s
  | .descriptorFetch r => Sys2Proof.Machine.execDescriptorFetch r s
  | .parkedCommandComplete r seq => Sys2Proof.Machine.execParkedCommandComplete r seq s
  | .firmwareVerdictTimeout r seq => Sys2Proof.Machine.execFirmwareVerdictTimeout r seq s
  | .dbTailWrite r v => Sys2Proof.Machine.execDbTailWrite r v s
  | .cqHeadWrite r v => Sys2Proof.Machine.execCqHeadWrite r v s
  | .ringEnable r v => Sys2Proof.Machine.execRingEnable r v s
  | .ringDisable r v => Sys2Proof.Machine.execRingDisable r v s
  | .versionRequest v => Sys2Proof.Machine.execVersionRequest v s
  | .ratioWrite v => Sys2Proof.Machine.execRatioWrite v s
  | .gtLoRead => Sys2Proof.Machine.execGtLoRead s
  | .fgtLoRead => Sys2Proof.Machine.execFgtLoRead s
  | .consumerSelect v => Sys2Proof.Machine.execConsumerSelect v s
  | .consumerChangeEffect => Sys2Proof.Machine.execConsumerChangeEffect s
  | .creditAllotmentWrite hi v => Sys2Proof.Machine.execCreditAllotmentWrite hi v s
  | .watermarkWrite v => Sys2Proof.Machine.execWatermarkWrite v s
  | .hostRingSizeWrite v => Sys2Proof.Machine.execHostRingSizeWrite v s
  | .hostRingHeadWrite v => Sys2Proof.Machine.execHostRingHeadWrite v s
  | .unitOwnerWrite m v => Sys2Proof.Machine.execUnitOwnerWrite m v s
  | .brambleDepthWrite v => Sys2Proof.Machine.execBrambleDepthWrite v s
  | .sentinelLineAck v => Sys2Proof.Machine.execSentinelLineAck v s
  | .govRuleEnable k v => Sys2Proof.Machine.execGovRuleEnable k v s
  | .lockSet v => Sys2Proof.Machine.execLockSet v s
  | .firmwareGo v => Sys2Proof.Machine.execFirmwareGo v s
  | .debugRead v => Sys2Proof.Machine.execDebugRead v s
  | .debugInject v => Sys2Proof.Machine.execDebugInject v s
  | .registerWrite a v => Sys2Proof.Machine.execRegisterWrite a v s
  | .rapHeldAccessComplete => Sys2Proof.Machine.execRapHeldAccessComplete s
  | .idcode => Sys2Proof.Machine.execIdcode s
  | .dbgAccess v => Sys2Proof.Machine.execDbgAccess v s
  | .scanMode b => Sys2Proof.Machine.execScanMode b s
  | .mbist v => Sys2Proof.Machine.execMbist v s
  | .mbistComplete fail array rows => Sys2Proof.Machine.execMbistComplete fail array rows s
  | .aonRstNRise => Sys2Proof.Machine.execAonRstNRise s
  | .aonRstNFall => Sys2Proof.Machine.execAonRstNFall s
  | .rstNFall => Sys2Proof.Machine.execRstNFall s
  | .rstNRise => Sys2Proof.Machine.execRstNRise s
  | .fuseWordAck d => Sys2Proof.Machine.execFuseWordAck d s
  | .fuseTimeout => Sys2Proof.Machine.execFuseTimeout s
  | .deviceKeyDerived => Sys2Proof.Machine.execDeviceKeyDerived s
  | .sramInitDone => Sys2Proof.Machine.execSramInitDone s
  | .firmwareLoadDone => Sys2Proof.Machine.execFirmwareLoadDone s
  | .firmwareLoadTimeout => Sys2Proof.Machine.execFirmwareLoadTimeout s
  | .firmwareReady e w => Sys2Proof.Machine.execFirmwareReady e w s
  | .obsClkGrant => Sys2Proof.Machine.execObsClkGrant s
  | .calibrationDone rtt => Sys2Proof.Machine.execCalibrationDone rtt s
  | .obsClkRelease => Sys2Proof.Machine.execObsClkRelease s
  | .obsClkAckDropEarly => Sys2Proof.Machine.execObsClkAckDropEarly s
  | .idleDelayExpiry => Sys2Proof.Machine.execIdleDelayExpiry s
  | .sleepBuffersDrained => Sys2Proof.Machine.execSleepBuffersDrained s
  | .pwrAckToggle => Sys2Proof.Machine.execPwrAckToggle s
  | .lockWindowEnd count => Sys2Proof.Machine.execLockWindowEnd count s
  | .heartbeatArrival c copy => Sys2Proof.Machine.execHeartbeatArrival c copy s
  | .heartbeatMiss c => Sys2Proof.Machine.execHeartbeatMiss c s
  | .takeoverResume c => Sys2Proof.Machine.execTakeoverResume c s
  | .fencedCollectorSpeaks phys => Sys2Proof.Machine.execFencedCollectorSpeaks phys s
  | .collectorSelfTestDone phys pass => Sys2Proof.Machine.execCollectorSelfTestDone phys pass s
  | .probeValid port w => Sys2Proof.Machine.execProbeValid port w s
  | .collectorEventProcess c => Sys2Proof.Machine.execCollectorEventProcess c s
  | .clkActiveFall port => Sys2Proof.Machine.execClkActiveFall port s
  | .clkActiveRise port => Sys2Proof.Machine.execClkActiveRise port s
  | .freezeFinal => Sys2Proof.Machine.execFreezeFinal s
  | .epochBoundary p => Sys2Proof.Machine.execEpochBoundary p s
  | .epochRecordsTaken p => Sys2Proof.Machine.execEpochRecordsTaken p s
  | .frameSyncRise => Sys2Proof.Machine.execFrameSyncRise s
  | .tapBeat tap b => Sys2Proof.Machine.execTapBeat tap b s
  | .laneSpareConnected => Sys2Proof.Machine.execLaneSpareConnected s
  | .pairWindowExpiry => Sys2Proof.Machine.execPairWindowExpiry s
  | .spillCommitDone tap => Sys2Proof.Machine.execSpillCommitDone tap s
  | .xltResponse tag ioa log2sz fault => Sys2Proof.Machine.execXltResponse tag ioa log2sz fault s
  | .xltTimeout tag => Sys2Proof.Machine.execXltTimeout tag s
  | .watchdogExpiry u => Sys2Proof.Machine.execWatchdogExpiry u s
  | .hangInRise => Sys2Proof.Machine.execHangInRise s
  | .hangDumpComplete => Sys2Proof.Machine.execHangDumpComplete s
  | .boxwoodAccept => Sys2Proof.Machine.execBoxwoodAccept s
  | .boxwoodRead => Sys2Proof.Machine.execBoxwoodRead s
  | .boxwoodReadStallEnd => Sys2Proof.Machine.execBoxwoodReadStallEnd s
  | .boxwoodMark => Sys2Proof.Machine.execBoxwoodMark s
  | .boxwoodRewind => Sys2Proof.Machine.execBoxwoodRewind s
  | .boxwoodRelease n => Sys2Proof.Machine.execBoxwoodRelease n s
  | .drainBatch => Sys2Proof.Machine.execDrainBatch s
  | .recordPlaced ctx => Sys2Proof.Machine.execRecordPlaced ctx s
  | .frameAgeTimeout ctx => Sys2Proof.Machine.execFrameAgeTimeout ctx s
  | .governorIssue => Sys2Proof.Machine.execGovernorIssue s
  | .cadenceTranche => Sys2Proof.Machine.execCadenceTranche s
  | .smpWriteResponse tag err => Sys2Proof.Machine.execSmpWriteResponse tag err s
  | .smpReadData tag data err => Sys2Proof.Machine.execSmpReadData tag data err s
  | .sentinelMarkerApply => Sys2Proof.Machine.execSentinelMarkerApply s
  | .deadlineMiss w => Sys2Proof.Machine.execDeadlineMiss w s
  | .pulseExpiry line => Sys2Proof.Machine.execPulseExpiry line s
  | .govRuleWindowEnd k => Sys2Proof.Machine.execGovRuleWindowEnd k s
  | .partCloseDraining p => Sys2Proof.Machine.execPartCloseDraining p s
  | .partCloseDrainEnd p => Sys2Proof.Machine.execPartCloseDrainEnd p s
  | .rotationTimeout p job dir => Sys2Proof.Machine.execRotationTimeout p job dir s
  | .tamperRegister lines => Sys2Proof.Machine.execTamperRegister lines s
  | .glitchDetect voltage clock => Sys2Proof.Machine.execGlitchDetect voltage clock s
  | .zeroizeComplete => Sys2Proof.Machine.execZeroizeComplete s
  | .sramUncorrectable array idx => Sys2Proof.Machine.execSramUncorrectable array idx s
  | .sramCorrectable array idx => Sys2Proof.Machine.execSramCorrectable array idx s
  | .hedgerWatchdogExpiry => Sys2Proof.Machine.execHedgerWatchdogExpiry s
  | .ucieTrainingDone lanes repaired => Sys2Proof.Machine.execUcieTrainingDone lanes repaired s
  | .retrainTimeout => Sys2Proof.Machine.execRetrainTimeout s
  | .opticalStatusPoll los laser => Sys2Proof.Machine.execOpticalStatusPoll los laser s
  | .osepFlitAckNak f => Sys2Proof.Machine.execOsepFlitAckNak f s
  | .silenceTimeout => Sys2Proof.Machine.execSilenceTimeout s
  | .accept => Sys2Proof.Machine.execAccept s
  | .acceptTimeout => Sys2Proof.Machine.execAcceptTimeout s
  | .credit => Sys2Proof.Machine.execCredit s
  | .fack => Sys2Proof.Machine.execFack s
  | .fnak => Sys2Proof.Machine.execFnak s
  | .close => Sys2Proof.Machine.execClose s
  | .frameAckTimeout k => Sys2Proof.Machine.execFrameAckTimeout k s
  | .fabricFlitAckNak east f => Sys2Proof.Machine.execFabricFlitAckNak east f s
  | .probe => Sys2Proof.Machine.execProbe s
  | .answer => Sys2Proof.Machine.execAnswer s
  | .assign => Sys2Proof.Machine.execAssign s
  | .token => Sys2Proof.Machine.execToken s
  | .echo => Sys2Proof.Machine.execEcho s
  | .gtLoad => Sys2Proof.Machine.execGtLoad s
  | .outcome => Sys2Proof.Machine.execOutcome s
  | .freezeRequest => Sys2Proof.Machine.execFreezeRequest s
  | .freezeDistribute => Sys2Proof.Machine.execFreezeDistribute s
  | .freezeAccepted => Sys2Proof.Machine.execFreezeAccepted s
  | .freezeRefused => Sys2Proof.Machine.execFreezeRefused s
  | .beacon => Sys2Proof.Machine.execBeacon s
  | .fabricPortDown port => Sys2Proof.Machine.execFabricPortDown port s
  | .rootLost rejoined east west other => Sys2Proof.Machine.execRootLost rejoined east west other s
  | .discoveryTimeout => Sys2Proof.Machine.execDiscoveryTimeout s
  | .rcRegisterRead a => Sys2Proof.Machine.execRcRegisterRead a s
  | .loRegisterRead a => Sys2Proof.Machine.execLoRegisterRead a s
  | .rapObsRegisterRead a => Sys2Proof.Machine.execRapObsRegisterRead a s
  | .tamperInRelease line => Sys2Proof.Machine.execTamperInRelease line s
  | .glitchDetectorClear => Sys2Proof.Machine.execGlitchDetectorClear s
  | .egrTrainingTimeout => Sys2Proof.Machine.execEgrTrainingTimeout s
  | .retrainingStart => Sys2Proof.Machine.execRetrainingStart s
  | .egrCloseDrainBound => Sys2Proof.Machine.execEgrCloseDrainBound s

end Sys2Proof.Machine
end

