-- ==== Sys2Proof/Machine/Tick.lean ====
section
/-! DEFINITION. One tick of the clocks: what a step does while no command waits (DESIGN CHOICE, log entry 4). -/

namespace Sys2Proof.Machine

/-- At an AON edge at which a hold condition holds, the idle time starts again (R324). -/
def edgeIdle (s : State) : State :=
  if anyHold s then onPwr (fun p => { p with idleSince := s.aon.tb.rootGt }) s else s

/-- The fabric's root sends a BEACON both ways every 2^14 GT (R314), in a discovery too. -/
def beacon (s : State) : State :=
  let f := s.obs.fab
  if obsRuns s && f.root && (f.state == 2 || (f.state == 1 && decide (1 < f.count))) && s.aon.tb.rootGt % 2 ^ 14 == 0 then
    fabBoth 4 0x31 (le 8 s.aon.tb.rootGt ++ le 1 s.aon.instId ++ zeros 3) s
  else s

/-- The root counts one AON cycle (R21). -/
def aonEdge (s : State) : State :=
  discEdge (beacon (edgeRequest (edgeIdle (sleepWindows (driveDue (tokenEdge
    (onTb (fun t => { t with rootGt := gtMod (t.rootGt + 32), sub := 0 }) s)))))))

/-- The governor's credit in an OBS cycle, in units of 1/1,600 byte, held in step 5 of a hang (R353). -/
def creditGrow (i : Nat) (s : State) : State :=
  if hangHolds s then s
  else onSmp (fun m => { m with credit := sat (65536 * 1600) (m.credit + m.share * decl s * i) }) s

/-- One OBS cycle while the OBS domain runs, one AON cycle while it does not; nothing under `AON_RST_N` and
nothing defined in scan test. -/
def tick (s : State) : State :=
  if s.scan then inScan s
  else if !s.aon.pwr.aonRstN then s
  else if obsRuns s then
    let i := incOf s.aon.pwr.ratio
    let t := dueRowItems (creditGrow i s)
    if s.aon.tb.sub + i ≥ 32 then aonEdge t
    else onTb (fun b => { b with sub := b.sub + i }) t
  else aonEdge s

end Sys2Proof.Machine
end

