-- ==== Sys2Proof/Safety.lean ====
section
/-! DEFINITION. The terms in which claims are stated: what one command leads to, which parts of the machine a
command leaves alone, and the states in which the blocks of the machine are at work or held. -/

namespace Sys2Proof.Safety

open Sys2Proof.Machine

/-- The command leads from s to t; what follows every command (`settle`) then acts on t. -/
abbrev goesTo (c : Instr) (s t : State) : Prop := exec c s = .next (settle s t)

/-- The parts of the machine. -/
inductive Part where
  | aonRegs | tb | pwr | sen | alm | keys | rap | db | ident
  | obsRegs | hed | cut | ctxs | smp | cmd | evq | lens | wat | hang | prv | egr | fab | dbg
  | draws
deriving DecidableEq, Repr

/-- A part is the same in two states. -/
def same (p : Part) (s t : State) : Prop :=
  match p with
  | .aonRegs => t.aon.regs = s.aon.regs
  | .tb => t.aon.tb = s.aon.tb
  | .pwr => t.aon.pwr = s.aon.pwr
  | .sen => t.aon.sen = s.aon.sen
  | .alm => t.aon.alm = s.aon.alm
  | .keys => t.aon.keys = s.aon.keys
  | .rap => t.aon.rap = s.aon.rap
  | .db => t.aon.db = s.aon.db
  | .ident => t.aon.instId = s.aon.instId ∧ t.aon.instSet = s.aon.instSet ∧ t.aon.misalign = s.aon.misalign
      ∧ t.aon.discovered = s.aon.discovered ∧ t.aon.fabRtt = s.aon.fabRtt
  | .obsRegs => t.obs.regs = s.obs.regs
  | .hed => t.obs.hed = s.obs.hed
  | .cut => t.obs.cut = s.obs.cut
  | .ctxs => t.obs.ctxs = s.obs.ctxs
  | .smp => t.obs.smp = s.obs.smp
  | .cmd => t.obs.cmd = s.obs.cmd
  | .evq => t.obs.evq = s.obs.evq
  | .lens => t.obs.lens = s.obs.lens
  | .wat => t.obs.wat = s.obs.wat
  | .hang => t.obs.hang = s.obs.hang
  | .prv => t.obs.prv = s.obs.prv
  | .egr => t.obs.egr = s.obs.egr
  | .fab => t.obs.fab = s.obs.fab
  | .dbg => t.obs.dbg = s.obs.dbg
  | .draws => t.draws = s.draws

/-- From s to t only the named parts may change: every other part, the build and the queue stand. -/
def onlyChanges (ps : List Part) (s t : State) : Prop :=
  t.build = s.build ∧ t.scan = s.scan ∧ t.pending = s.pending ∧ ∀ p : Part, p ∉ ps → same p s t

/-- The register window serves an AON-domain access at once. -/
abbrev aonOpen (s : State) : Prop := s.scan = false ∧ s.aon.pwr.aonRstN = true ∧ s.aon.rap.held = []

/-- The OBS domain runs, outside scan test. -/
abbrev running (s : State) : Prop := s.scan = false ∧ obsRuns s = true

/-- The register window serves an OBS-domain access at once, and no sleep entry is under way. -/
abbrev obsOpen (s : State) : Prop := running s ∧ s.aon.pwr.stage = .awake ∧ s.aon.rap.held = []

/-- The OBS domain as `RST_N` leaves it, the levels of `CLK_ACTIVE` (inputs) apart (Table 14.3). -/
def obsHeld (s : State) : Prop :=
  ∃ (z : Bool) (ports : SMap PortSt),
    s.obs = { Obs.reset s.build z with hed := { (Obs.reset s.build z).hed with ports := ports } }

/-- The machine is held by `RST_N`, and nothing that waits lifts it or enters scan test. -/
def underReset (s : State) : Prop :=
  s.scan = false ∧ s.aon.pwr.rstN = false ∧ (s.aon.pwr.stage = .awake ∨ s.aon.pwr.stage = .dropped) ∧ obsHeld s ∧
    ∀ c ∈ s.pending, c ≠ .rstNRise ∧ c ≠ .scanMode true

/-- The machine is held by `AON_RST_N`. -/
abbrev underAonReset (s : State) : Prop :=
  s.scan = false ∧ s.aon = Aon.reset ∧ s.obs = Obs.reset s.build false

/-! ## Descriptors -/

/-- The engine may take up h, of opcode c, at the front of ring r: it passes the checks of Table 10.5, and no earlier
command of the ring holds it up (R230, R234, R235). -/
abbrev atFrontOf (c r : Nat) (h : Held) (s : State) : Prop :=
  running s ∧ frontOf s r = some h ∧ opOf h = c ∧ common s r h = none ∧ mustWait s r h = none

/-- From s to t ring r queues the completion entry of h with a status and a result, and its tail and phase move on
(R224, R246). -/
def queues (r : Nat) (h : Held) (st : Nat) (res : U32) (s t : State) : Prop :=
  entryPiece s r h.seq (ringOf s r).cqTail (entryOf s r h.d st res) (bit (h.d.w.getD 0 0) 12) ∈ t.obs.smp.pieces ∧
  (ringOf t r).cqTail = (if (ringOf s r).cqTail + 1 = ringM s r then 0 else (ringOf s r).cqTail + 1) ∧
  (ringOf t r).phase = (if (ringOf s r).cqTail + 1 = ringM s r then !(ringOf s r).phase else (ringOf s r).phase)

/-- The front descriptor of ring r completes and leaves the ring; the other rings stand. -/
def completes (r : Nat) (h : Held) (st : Nat) (res : U32) (s t : State) : Prop :=
  queues r h st res s t ∧ (ringOf t r).fetched = (ringOf s r).fetched.tail ∧ ∀ q, q ≠ r → ringOf t q = ringOf s q

/-- The front descriptor of ring r is parked at a stage, and the ring's completions stand. -/
def parks (r : Nat) (h : Held) (st : Stage) (s t : State) : Prop :=
  { h with stage := st } ∈ (ringOf t r).parked ∧ (ringOf t r).fetched = (ringOf s r).fetched.tail ∧
  (ringOf t r).cqTail = (ringOf s r).cqTail

/-- The parked command h of ring r completes and leaves the ring; the other rings stand. -/
def ends (r : Nat) (h : Held) (st : Nat) (res : U32) (s t : State) : Prop :=
  queues r h st res s t ∧ (ringOf t r).parked = delFirst (fun x => x.seq == h.seq) (ringOf s r).parked ∧
  ∀ q, q ≠ r → ringOf t q = ringOf s q

/-- A command asks for the first part of a buffer under tag g. -/
def asks (r : Nat) (h : Held) (addr units g : Nat) (s t : State) : Prop :=
  t.obs.smp.rdOut = s.obs.smp.rdOut ++
    [⟨g, sidOf s (bufPart s r h), .cmd r h.seq 0, addr, min units ((4096 - addr % 4096) / 64)⟩]

/-- The lowest free read tag is g. -/
abbrev readTag (s : State) (g : Nat) : Prop := lowestFree 128 (s.obs.smp.rdOut.map (·.tag)) = some g

/-- A parked command: h waits in ring r. -/
abbrev waits (r : Nat) (h : Held) (s : State) : Prop :=
  running s ∧ (ringOf s r).parked.find? (fun x => x.seq == h.seq) = some h

/-- No context's SEQ stands at its last value. -/
def noWrap (s : State) : Prop := ∀ x c, ctxOf s x = some c → c.seq < 2 ^ 32 - 1

end Sys2Proof.Safety
end

