-- ==== Sys2Proof/Certificates/Slice0/Obligations.lean ====
section
/-! DEFINITION. The statements for the provers. In each, `goesTo c s t` says that exec of c at s answers the next
state `settle s t`: t is what the command itself leads to, and `settle` is what follows every command, of which
`WhatFollowsACommand` states all it can do. `onlyChanges ps s t` is the command's frame. -/

open Sys2Proof Sys2Proof.Machine Sys2Proof.Safety

/-! ## The step -/

/-- A step takes the command at the front of the queue and answers exec of it on the queue's rest. -/
def Obligations.FrontCommandIsExecuted : Prop :=
  ∀ (c : Instr) (rest : List Instr) (s : State), s.pending = c :: rest → step s = exec c { s with pending := rest }

/-- MODEL'S CHOICE (log entry 4): a step on an empty queue is one tick. While the OBS domain runs, GT advances by
the increment of Table 2.1; while it does not, the root counts 32 (R21, R22). Where no miss waits for its lines, no
row item waits and no discovery runs, only time, the requests of Quickset and of the governor, the Sentinel's record of
windows that ended asleep, the governor's credit and the fabric's beacon change. -/
def Obligations.EmptyQueueIsOneTick : Prop :=
  ∀ s : State, s.pending = [] → s.scan = false → s.aon.pwr.aonRstN = true → s.aon.tb.rootGt + 32 < 2 ^ 64 →
    s.aon.sen.due = [] → s.obs.lens.rowDue = [] → s.obs.fab.disc = none →
    ∃ t, step s = .next t ∧ onlyChanges [.tb, .pwr, .sen, .smp, .fab] s t ∧
      t.aon.tb.rootGt % 32 = s.aon.tb.rootGt % 32 ∧ t.aon.sen.watches = s.aon.sen.watches ∧
      t.aon.sen.lines = s.aon.sen.lines ∧
      (obsRuns s = true → s.aon.tb.sub + incOf s.aon.pwr.ratio ≤ 32 → now t = now s + incOf s.aon.pwr.ratio) ∧
      (obsRuns s = false → t.aon.tb.rootGt = s.aon.tb.rootGt + 32 ∧ t.aon.tb.sub = 0)

/-- Everything that can follow a command: MSI pieces join the pieces that wait, the governor's credit restarts where
cadence mode begins or ends (R356), and where a hold condition arises as the core sleeps or goes to sleep, Quickset
wakes and withheld credits return (R324, R326). Where no interrupt line rises, cadence mode stays and no hold
condition arises, nothing follows. -/
def Obligations.WhatFollowsACommand : Prop :=
  ∀ b s : State,
    (∃ (msis : List Piece) (credit : Nat) (colls : SMap CollSt) (ports : SMap PortSt) (q : Pwr),
      settle b s = onPwr (fun _ => q) (onHed (fun h => { h with colls := colls, ports := ports })
        (onSmp (fun m => { m with pieces := m.pieces ++ msis, credit := credit }) s)) ∧
      (∀ p ∈ msis, p.cls = 1 ∧ ∃ r a d, p.what = .msi r a d) ∧
      q.rstN = s.aon.pwr.rstN ∧ q.aonRstN = s.aon.pwr.aonRstN ∧ q.clkAck = s.aon.pwr.clkAck ∧
      q.ratio = s.aon.pwr.ratio ∧ q.ready = s.aon.pwr.ready ∧ (s.aon.pwr.clkReq = true → q.clkReq = true) ∧
      (cadence b = cadence s → credit = s.obs.smp.credit)) ∧
    ((∀ k, 0 < k → k < 8 → irqLine b k = false → irqLine s k = false) → cadence b = cadence s →
      (anyHold s = true → anyHold b = true) → settle b s = s)

/-! ## The resets -/

/-- Under `AON_RST_N` no command but its rise and a level of `CLK_ACTIVE` (an input) changes anything (Table 14.3). -/
def Obligations.NothingActsUnderAonReset : Prop :=
  ∀ (c : Instr) (s : State), underAonReset s → c ≠ .aonRstNRise →
    (∀ p, c ≠ .clkActiveFall p ∧ c ≠ .clkActiveRise p) → exec c s = .next s

/-- While `RST_N` is low and nothing that waits lifts it, every step leaves the OBS domain as reset leaves it
(Table 14.3). -/
def Obligations.ObsDomainHeldUnderReset : Prop :=
  ∀ s t : State, underReset s → step s = .next t → underReset t

/-- The state after reset is held by both resets. -/
def Obligations.ResetStateIsHeld : Prop := underReset State.reset ∧ underAonReset State.reset

/-- What the state after reset holds: time 0 (R21), the ratio 32 (R40), partition 0 OPEN and the others FREE,
incarnations 1, no freeze ID issued, no agreed level (Table 14.3), every register at its reset value, and nothing
held, armed or waiting. -/
def Obligations.ResetValues : Prop :=
  State.reset.aon.tb.rootGt = 0 ∧ State.reset.aon.pwr.ratio = 2 ∧
  (∀ p, (partOf State.reset p).state = if p = 0 then 1 else 0) ∧ (∀ c, (collOf State.reset c).inc = 1) ∧
  State.reset.obs.cut.issued = 0 ∧ State.reset.obs.cmd.agreed = 0 ∧
  (∀ a, reg State.reset a = (regSpec State.reset.build a).reset) ∧
  (∀ r, (dbOf State.reset r).tail = 0 ∧ (dbOf State.reset r).head = 0 ∧ (ringOf State.reset r).en = false) ∧
  (∀ x, ctxOf State.reset x = none) ∧ (∀ k, slotOf State.reset k = none) ∧ (∀ w, watchOf State.reset w = none) ∧
  (∀ w, (swatchOf State.reset w).armed = false) ∧ State.reset.obs.evq.q = [] ∧ State.reset.obs.smp.pieces = [] ∧
  State.reset.obs.egr.state = 0 ∧ State.reset.obs.fab.state = 0 ∧ State.reset.aon.keys.device = none ∧
  State.reset.pending = [] ∧ (∀ n, holdCond State.reset n = false)

/-- `AON_RST_N` rises: the root counts from 0, the fuse block is asked for word 0, and `OBS_CLK` is requested at the
ratio of `WRN_TB_CLK` (Table 14.4, R21). `AON_RST_N` falls: the AON and OBS domains take their reset values, and scan
test ends (Table 14.3, R398).
`RST_N` falls: the OBS domain takes its reset values, the levels of `CLK_ACTIVE` apart; doorbell pages read 0;
every key but the device pair is erased; FROZEN, READY and OBS_LOCK clear; and GT, the Sentinel, the cause bits,
fuses, the instance ID and AON_LOCK are kept (Table 14.3).
`RST_N` rises (R321, R330): with the clock granted the OBS domain runs and every GT copy is to be calibrated; with a
grant whose request has fallen, or with the clock withdrawn, `OBS_CLK` is requested, at once where `OBS_CLK_SEL` carries
the ratio and an AON edge has come since the fall of `OBS_CLK_ACK`. -/
def Obligations.ResetsRiseAndFall : Prop :=
  (∀ s : State, s.scan = false → s.aon.pwr.aonRstN = false →
    ∃ t, goesTo .aonRstNRise s t ∧ onlyChanges [.tb, .pwr] s t ∧ t.aon.tb.rootGt = 0 ∧ now t = 0 ∧
      t.aon.pwr.aonRstN = true ∧ t.aon.pwr.fuseReq = true ∧ t.aon.pwr.fuseAddr = 0 ∧ t.aon.pwr.clkReq = true ∧
      t.aon.pwr.clkSel = fld (reg s aTbClk) 0 2) ∧
  (∀ s : State, ∃ t, exec .aonRstNFall s = .next t ∧ t.scan = false ∧ t.aon = Aon.reset ∧
      t.obs = Obs.reset s.build false ∧ t.build = s.build ∧ t.pending = s.pending) ∧
  (∀ s : State, s.scan = false → s.aon.pwr.aonRstN = true → s.aon.pwr.rstN = true →
    ∃ t, goesTo .rstNFall s t ∧ onlyChanges [.aonRegs, .tb, .pwr, .alm, .keys, .rap, .db, .obsRegs, .hed, .cut, .ctxs,
        .smp, .cmd, .evq, .lens, .wat, .hang, .prv, .egr, .fab, .dbg] s t ∧
      obsHeld t ∧ (∀ p, (portOf t p).clk = (portOf s p).clk) ∧ t.aon.pwr.rstN = false ∧ t.aon.pwr.ready = false ∧
      t.aon.pwr.fwOk = false ∧ t.aon.pwr.stage = (if s.aon.pwr.clkAck && !s.aon.pwr.clkReq then .dropped else .awake) ∧
      t.aon.pwr.clkReq = s.aon.pwr.clkReq ∧
      t.aon.pwr.clkAck = s.aon.pwr.clkAck ∧ t.aon.pwr.fuses = s.aon.pwr.fuses ∧
      (∀ r, dbOf t r = dbD r) ∧ t.aon.keys.device = s.aon.keys.device ∧ t.aon.keys.jobs = [] ∧
      t.aon.keys.tenant = [] ∧ t.aon.keys.devset = [] ∧
      t.aon.alm = { s.aon.alm with frozen := false } ∧ now t = now s ∧
      obsLock t = false ∧ aonLock t = aonLock s ∧
      (∀ a, regAon a = true → a ≠ aLock → reg t a = reg s a)) ∧
  (∀ s : State, s.scan = false → s.aon.pwr.aonRstN = true → s.aon.pwr.rstN = false →
    (s.aon.pwr.clkAck = false → ∃ t, goesTo .rstNRise s t ∧ onlyChanges [.pwr] s t ∧ t.aon.pwr.rstN = true ∧
      obsRuns t = false ∧ (t.aon.pwr.clkReq = true ∨ t.aon.pwr.reqDue = true) ∧
      (s.aon.pwr.relWait = false → s.aon.pwr.clkSel = nextSel s → t.aon.pwr.clkReq = true)) ∧
    (s.aon.pwr.clkAck = true → s.aon.pwr.clkReq = false → ∃ t, goesTo .rstNRise s t ∧ onlyChanges [.pwr] s t ∧
      t.aon.pwr.rstN = true ∧ t.aon.pwr.clkReq = false ∧ t.aon.pwr.reqDue = true ∧ t.aon.pwr.granted = s.aon.pwr.granted) ∧
    (s.aon.pwr.clkAck = true → s.aon.pwr.clkReq = true → s.aon.pwr.wake = none → ∃ t, goesTo .rstNRise s t ∧
      onlyChanges [.tb, .pwr, .smp] s t ∧ obsRuns t = true ∧ t.aon.tb.calDone = false ∧ t.aon.tb.full = true ∧
      t.aon.pwr.granted = true))

/-! ## Start-up (Table 14.4) -/

/-- A fuse word is taken at `FUSE_ADDR`, and the next is asked for; a timeout gives zero for it (R378). Word 31 ends
step 2: `FUSE_OK` says whether the CRC of words 0 to 30 is word 31, and a mismatch registers FUSE_CRC (R285).
Repair entries (words 32 to 255): one whose bit 31 is set and that R396 does not reject is applied, a rejected
one is counted, and any other word changes nothing but the address. -/
def Obligations.FusesAreRead : Prop :=
  (∀ (d : U32) (s : State), s.scan = false → s.aon.pwr.aonRstN = true → s.aon.pwr.fuseReq = true →
    s.aon.pwr.fuseAddr < 31 →
    ∃ t, goesTo (.fuseWordAck d) s t ∧ onlyChanges [.pwr] s t ∧ fuse t s.aon.pwr.fuseAddr = d ∧
      t.aon.pwr.fuseAddr = s.aon.pwr.fuseAddr + 1 ∧ t.aon.pwr.fuseReq = true ∧
      (∀ i, i ≠ s.aon.pwr.fuseAddr → fuse t i = fuse s i)) ∧
  (∀ s : State, s.scan = false → s.aon.pwr.aonRstN = true → s.aon.pwr.fuseReq = true → s.aon.pwr.fuseAddr < 31 →
    ∃ t, goesTo .fuseTimeout s t ∧ onlyChanges [.pwr] s t ∧ fuse t s.aon.pwr.fuseAddr = 0 ∧
      t.aon.pwr.fuseAddr = s.aon.pwr.fuseAddr + 1 ∧ t.aon.pwr.fuseReq = true ∧
      (∀ i, i ≠ s.aon.pwr.fuseAddr → fuse t i = fuse s i)) ∧
  (∀ (d : U32) (s : State), s.scan = false → s.aon.pwr.aonRstN = true → s.aon.pwr.fuseReq = true →
    s.aon.pwr.fuseAddr = 31 → crc32c (fuseBytes s 0 31) = d.toNat →
    ∃ t, goesTo (.fuseWordAck d) s t ∧ onlyChanges [.pwr] s t ∧ t.aon.pwr.fusesRead = true ∧
      t.aon.pwr.fuseOk = true ∧ fuse t 31 = d) ∧
  (∀ (d : U32) (s : State), s.scan = false → s.aon.pwr.aonRstN = true → s.aon.pwr.fuseReq = true →
    s.aon.pwr.fuseAddr = 31 → crc32c (fuseBytes s 0 31) ≠ d.toNat → almAct s 2 = 0 →
    ∃ t, goesTo (.fuseWordAck d) s t ∧ t.aon.pwr.fusesRead = true ∧ t.aon.pwr.fuseOk = false ∧
      bit (reg t aAlm) 2 = true) ∧
  (∀ (d : U32) (s : State), s.scan = false → s.aon.pwr.aonRstN = true → s.aon.pwr.fuseReq = true →
    32 ≤ s.aon.pwr.fuseAddr →
    ∃ t, goesTo (.fuseWordAck d) s t ∧ onlyChanges [.pwr] s t ∧ t.aon.pwr.fuses = s.aon.pwr.fuses ∧
      t.aon.pwr.fuseAddr = s.aon.pwr.fuseAddr + 1 ∧ (t.aon.pwr.fuseReq = true ↔ s.aon.pwr.fuseAddr ≠ 255) ∧
      (bit d 31 = false → t.aon.pwr.repairs = s.aon.pwr.repairs ∧ t.aon.pwr.rejected = s.aon.pwr.rejected) ∧
      (bit d 31 = true → repairBad s d = false → t.aon.pwr.rejected = s.aon.pwr.rejected ∧
        t.aon.pwr.repairs = s.aon.pwr.repairs ++ [(fld d 26 4, fld d 16 10, bit d 30, fld d 0 16)]) ∧
      (bit d 31 = true → repairBad s d = true → t.aon.pwr.repairs = s.aon.pwr.repairs ∧
        t.aon.pwr.rejected = s.aon.pwr.rejected + 1))

/-- Steps 3, 4 and 7 of the start-up: the device key pair is derived from the fuses (R279), `SRAM_DONE` sets once
every repair entry has been read, and READY sets once firmware has finished (R330).
GO after `SRAM_DONE` takes the image's address and length (R332, R384); GO before it, or a second time, sets the bit
(Table 0.7) and does nothing else. -/
def Obligations.StartUpReachesGo : Prop :=
  (∀ s : State, s.scan = false → s.aon.pwr.aonRstN = true → s.aon.pwr.fusesRead = true → s.aon.pwr.keysDone = false →
    s.build.crypto = true → s.aon.alm.zeroizing = false → s.aon.alm.zeroized = false →
    ∃ t, goesTo .deviceKeyDerived s t ∧ onlyChanges [.pwr, .keys] s t ∧ t.aon.pwr.keysDone = true ∧
      t.aon.keys.device = some (Config.deviceScalar ((List.range 8).flatMap fun i => le 4 (fuse s (16 + i)).toNat)) ∧
      t.aon.keys.jobs = s.aon.keys.jobs ∧ t.aon.keys.tenant = s.aon.keys.tenant ∧
      t.aon.keys.devset = s.aon.keys.devset) ∧
  (∀ s : State, running s → s.aon.pwr.granted = true → s.aon.pwr.fusesRead = true → s.aon.pwr.sramDone = false →
    s.aon.pwr.fuseReq = false → s.aon.pwr.fuseAddr = 256 →
    ∃ t, goesTo .sramInitDone s t ∧ onlyChanges [.pwr] s t ∧ t.aon.pwr = { s.aon.pwr with sramDone := true }) ∧
  (∀ (e w : Bool) (s : State), running s → s.aon.pwr.fwOk = true → s.aon.pwr.ready = false →
    s.aon.pwr.hedgerDown = false →
    ∃ t, goesTo (.firmwareReady e w) s t ∧ onlyChanges [.pwr, .fab] s t ∧
      t.aon.pwr = { s.aon.pwr with ready := true } ∧ t.obs.fab.eUp = (e && s.build.fabric) ∧
      t.obs.fab.wUp = (w && s.build.fabric)) ∧
  (∀ (v : U32) (s : State), aonOpen s → s.aon.pwr.sramDone = true → s.aon.pwr.goAt = none →
    ∃ t, goesTo (.firmwareGo v) s t ∧ onlyChanges [.aonRegs, .pwr, .smp, .rap] s t ∧
      t.aon.pwr.goAt = some (now s) ∧ t.aon.pwr.fwAt = pair (reg s 0x2010) (reg s 0x2014) ∧
      t.aon.pwr.fwLen = fld (reg s 0x2018) 0 14 ∧ reg t 0x201C = 1 ∧ t.aon.rap.err = false ∧
      (∀ b, b ≠ 0x201C → reg t b = reg s b)) ∧
  (∀ (v : U32) (s : State), aonOpen s → s.aon.pwr.sramDone = false ∨ s.aon.pwr.goAt.isSome = true →
    ∃ t, goesTo (.firmwareGo v) s t ∧ onlyChanges [.aonRegs, .rap] s t ∧ reg t 0x201C = 1 ∧
      (∀ b, b ≠ 0x201C → reg t b = reg s b))

/-- The boot ROM's verdict (R332): an image that passes every check of Table 14.6 is accepted; the first check that
fails gives `FW_FAIL` and its code, and so does the bound of step 6. READY sets at once after a failure (R331).
The action of FW_VERIFY is taken as LOG here.
Firmware's failure (R342, R343): Hedger is held in reset, FW_VERIFY registers with ARG 0x80, and where Hedger is
Boxwood's consumer every item it had read is unread again. -/
def Obligations.FirmwareIsJudged : Prop :=
  (∀ (g : Nat) (s : State), running s → loading s = true → s.aon.pwr.goAt = some g → now s ≤ g + 8000000 →
    fwReadOver s = true → almAct s 3 = 0 →
    ∃ t, goesTo .firmwareLoadDone s t ∧
      (fwCheck s = 0 → onlyChanges [.pwr] s t ∧ t.aon.pwr.fwOk = true ∧
        t.aon.pwr.fwVer = leAt (toBytes s.aon.pwr.fwWords) 4 4) ∧
      (fwCheck s ≠ 0 → t.aon.pwr.fwFail = true ∧ t.aon.pwr.fwCode = fwCheck s ∧ t.aon.pwr.ready = true ∧
        t.aon.pwr.fwOk = false ∧ reg t 0x201C = 0 ∧ bit (reg t aAlm) 3 = true)) ∧
  (∀ (g : Nat) (s : State), running s → loading s = true → s.aon.pwr.goAt = some g → g + 8000000 < now s →
    almAct s 3 = 0 →
    ∃ t, goesTo .firmwareLoadTimeout s t ∧ t.aon.pwr.fwFail = true ∧ t.aon.pwr.fwCode = 7 ∧ t.aon.pwr.ready = true ∧
      t.aon.pwr.fwOk = false ∧ reg t 0x201C = 0 ∧ bit (reg t aAlm) 3 = true) ∧
  (∀ s : State, running s → s.aon.pwr.fwOk = true → s.aon.pwr.hedgerDown = false → almAct s 3 = 0 →
    ∃ t, goesTo .hedgerWatchdogExpiry s t ∧ t.aon.pwr = { s.aon.pwr with hedgerDown := true } ∧
      bit (reg t aAlm) 3 = true ∧ irqLine t 7 = true ∧
      (s.obs.evq.consAct = false → ∀ i ∈ t.obs.evq.q, i.read = none))

/-! ## Clock, calibration, sleep (chapters 2 and 14) -/

/-- `OBS_CLK_ACK` rises (R22, R37, R321): the ratio requested is in force; with `RST_N` high the OBS domain runs and
every copy is to be calibrated, with it low nothing else is done. The doorbells held
in their pages are checked (R223). A grant up to the T of a hang sequence is the ratio in
force at T (Table 7.7).
A wake event that was recorded is shown at the grant: `WRN_PWR_WAKE` takes its source and its latency, and
the wake count rises (R16, Table 14.7). -/
def Obligations.ClockIsGranted : Prop :=
  (∀ s : State, s.scan = false → s.aon.pwr.aonRstN = true → s.aon.pwr.clkReq = true → s.aon.pwr.clkAck = false →
    s.aon.pwr.rstN = true → s.aon.pwr.wake = none →
    ∃ t, goesTo .obsClkGrant s t ∧ onlyChanges [.tb, .pwr, .db, .obsRegs, .cmd, .smp, .hang] s t ∧
      (s.aon.db = [] → onlyChanges [.tb, .pwr, .smp, .hang] s t) ∧
      (∀ r, (dbOf t r).tailHeld = none ∧ (dbOf t r).headHeld = none) ∧ obsRuns t = true ∧
      t.aon.pwr.ratio = s.aon.pwr.clkSel ∧ t.aon.tb.full = true ∧ t.aon.tb.calDone = false ∧
      t.aon.pwr.granted = true ∧ t.aon.pwr.switching = false ∧ t.aon.pwr.waking = s.aon.pwr.ready ∧
      t.obs.smp.credit = 0 ∧ now t = now s ∧ (s.obs.hang.seq = none → t.obs.hang = s.obs.hang) ∧
      (∀ q, s.obs.hang.seq = some q → t.obs.hang.seq.map (·.ratioCut) =
        some (if now s ≤ q.t then s.aon.pwr.clkSel else q.ratioCut))) ∧
  (∀ s : State, s.scan = false → s.aon.pwr.aonRstN = true → s.aon.pwr.clkReq = true → s.aon.pwr.clkAck = false →
    s.aon.pwr.rstN = false →
    ∃ t, goesTo .obsClkGrant s t ∧ onlyChanges [.pwr, .hang] s t ∧
      t.aon.pwr = { s.aon.pwr with clkAck := true, ratio := s.aon.pwr.clkSel }) ∧
  (∀ (src g : Nat) (s : State), s.scan = false → s.aon.pwr.aonRstN = true → s.aon.pwr.clkReq = true →
    s.aon.pwr.clkAck = false → s.aon.pwr.rstN = true → s.aon.pwr.wake = some (src, g) →
    ∃ t, goesTo .obsClkGrant s t ∧ onlyChanges [.aonRegs, .tb, .pwr, .db, .obsRegs, .cmd, .smp, .hang] s t ∧
      (s.aon.db = [] → onlyChanges [.aonRegs, .tb, .pwr, .smp, .hang] s t) ∧ t.aon.pwr.wake = none ∧
      t.aon.pwr.lastSrc = src ∧ t.aon.pwr.lastLat = sat 0xFFFF (now s - g) ∧
      fld (reg t aPwrStat) 8 8 = sat 255 (fld (reg s aPwrStat) 8 8 + 1))

/-- A calibration of every copy ends (R25): CAL_DONE sets, RECAL_CNT rises, MAX_RTT takes the round trip, and
the copies of the engines stand within 1 GT of the root-derived GT (R26).
The lock monitor (R24): a window within 1 of 1,024 × ratio starts the next one; another sets LOCK_ERR, raises
`IRQ[7]`, and every copy is to be recalibrated. -/
def Obligations.CalibrationAndLock : Prop :=
  (∀ (rtt : Nat) (s : State), running s → s.aon.tb.full = true → s.aon.pwr.sramDone = true →
    s.aon.pwr.stage = .awake ∨ s.aon.pwr.stage = .draining → s.obs.hang.seq = none →
    wantRatio s = s.aon.pwr.ratio →
    ∃ t, goesTo (.calibrationDone rtt) s t ∧ t.aon.tb.calDone = true ∧ t.aon.tb.full = false ∧
      t.aon.tb.recalCnt = sat 255 (s.aon.tb.recalCnt + 1) ∧ t.aon.tb.maxRtt = max 4 (min 96 rtt) ∧
      now t = now s ∧ t.aon.pwr.waking = false ∧ t.aon.pwr.sleepFrom = none ∧
      (-1 ≤ t.obs.hed.engSkew ∧ t.obs.hed.engSkew ≤ 1) ∧ (-1 ≤ t.obs.hed.lensSkew ∧ t.obs.hed.lensSkew ≤ 1)) ∧
  (∀ (n : Nat) (s : State), running s → s.aon.tb.full = false →
    s.aon.tb.lockStart + 32768 ≤ s.aon.tb.rootGt →
    let want := 1024 * (if s.aon.pwr.ratio = 2 then 32 else if s.aon.pwr.ratio = 1 then 16 else 8)
    (n ≤ want + 1 → want ≤ n + 1 → ∃ t, goesTo (.lockWindowEnd n) s t ∧ onlyChanges [.tb] s t ∧
      t.aon.tb = { s.aon.tb with lockStart := s.aon.tb.rootGt }) ∧
    ((want + 1 < n ∨ n + 1 < want) → ∃ t, goesTo (.lockWindowEnd n) s t ∧
      onlyChanges [.aonRegs, .obsRegs, .tb, .hed] s t ∧ bit (reg t aTbStat) 1 = true ∧ irqLine t 7 = true ∧
      t.aon.tb.full = true ∧ t.aon.tb.calDone = false ∧ t.aon.tb.lockGap = some s.aon.tb.lockStart))

/-- Sleep entry (R324): with no hold condition for 2^IDLE_DLY GT it begins; once the burst buffers are empty and
every mirror reads 0, and the request falls once every earlier boundary is final.
`OBS_CLK_ACK` falls (R324, R361): after the request fell the OBS domain stops, and a request is due again only
for a change of ratio, a recorded wake event or a hold condition: at AON edges `OBS_CLK_SEL` first takes the ratio, and
then the request rises.
`OBS_CLK_ACK` falls while the request is high (R361): the AON domain goes on, GT and the Sentinel among it
(R257), and the OBS domain holds a free value (`Config.freeObs`), whatever it is. -/
def Obligations.SleepAndRelease : Prop :=
  (∀ s : State, running s → s.aon.pwr.ready = true → s.aon.pwr.waking = false → s.aon.pwr.stage = .awake →
    s.aon.pwr.switching = false → anyHold s = false →
    s.aon.pwr.idleSince + 2 ^ fld (reg s aPwrCtl) 0 5 ≤ s.aon.tb.rootGt →
    ∃ t, goesTo .idleDelayExpiry s t ∧ onlyChanges [.pwr] s t ∧ t.aon.pwr = { s.aon.pwr with stage := .draining }) ∧
  (∀ s : State, running s → s.aon.pwr.stage = .draining → s.aon.pwr.switching = false → anyHold s = false →
    buffersEmpty s = true → boundsBefore s (now s) = false →
    ∃ t, goesTo .sleepBuffersDrained s t ∧ t.aon.pwr.clkReq = false ∧ t.aon.pwr.stage = .dropped ∧
      t.aon.pwr.sleepFrom = some (now s) ∧ now t = now s ∧
      (∀ p, p < 16 * s.build.nColl → (portOf t p).mirror = 0)) ∧
  (∀ s : State, running s → s.aon.pwr.stage = .draining → s.aon.pwr.switching = false → anyHold s = false →
    buffersEmpty s = true → boundsBefore s (now s) = true →
    ∃ t, goesTo .sleepBuffersDrained s t ∧ t.aon.pwr = { s.aon.pwr with stage := .zeroed } ∧
      (∀ p, p < 16 * s.build.nColl → (portOf t p).mirror = 0)) ∧
  (∀ s : State, s.scan = false → s.aon.pwr.aonRstN = true → s.aon.pwr.clkAck = true → s.aon.pwr.clkReq = false →
    ∃ t, goesTo .obsClkRelease s t ∧ onlyChanges [.pwr] s t ∧ t.aon.pwr.clkAck = false ∧ t.aon.pwr.clkReq = false ∧
      t.aon.pwr.clkSel = s.aon.pwr.clkSel ∧ t.aon.pwr.stage = .awake ∧
      (t.aon.pwr.reqDue = true ↔ s.aon.pwr.reqDue = true ∨ s.aon.pwr.switching = true ∨ s.aon.pwr.wake.isSome = true ∨
        anyHold s = true)) ∧
  (∀ s : State, s.pending = [] → s.scan = false → s.aon.pwr.aonRstN = true → s.aon.pwr.clkAck = false →
    s.aon.pwr.clkReq = false →
    (s.aon.pwr.clkSel ≠ nextSel s → ∃ t, step s = .next t ∧ t.aon.pwr.clkSel = nextSel s ∧ t.aon.pwr.clkReq = false ∧
      t.aon.pwr.reqDue = s.aon.pwr.reqDue) ∧
    (s.aon.pwr.clkSel = nextSel s → s.aon.pwr.reqDue = true → ∃ t, step s = .next t ∧ t.aon.pwr.clkReq = true ∧
      t.aon.pwr.clkSel = s.aon.pwr.clkSel ∧ t.aon.pwr.reqDue = false)) ∧
  (∀ s : State, s.scan = false → s.aon.pwr.aonRstN = true → s.aon.pwr.rstN = true → s.aon.pwr.clkAck = true →
    s.aon.pwr.clkReq = true →
    ∃ t, goesTo .obsClkAckDropEarly s t ∧ t.aon = { s.aon with pwr := { s.aon.pwr with clkAck := false } } ∧
      t.obs = Config.freeObs s.draws ∧ t.draws = s.draws + 1 ∧ t.build = s.build ∧ t.pending = s.pending)

/-! ## Collectors and probe events (chapter 3) -/

/-- A heartbeat within 1 GT of the root-derived GT is good: it becomes Th and the misses restart. One further off
is a drift error: DRIFT_ERR and `IRQ[7]`, and that collector alone is recalibrated (R27, R68).
A missed heartbeat is counted when the next is due, and the third in succession declares the collector failed
(R68): COLL_FAIL is reported, and the lowest-numbered idle spare of the section is taken (R69); while another takeover of
the section runs one waits for its turn (R340); with no spare left the collector's units are LOST (R73). -/
def Obligations.HeartbeatsAndMisses : Prop :=
  (∀ (c copy : Nat) (s : State), running s → c < s.build.nColl → serving s c = true →
    s.obs.hed.hbStop.contains (collOf s c).phys = false →
    (copy ≤ now s + 1 → now s ≤ copy + 1 → ∃ t, goesTo (.heartbeatArrival c copy) s t ∧ onlyChanges [.hed] s t ∧
      collOf t c = { collOf s c with misses := 0, th := copy } ∧ (∀ d, d ≠ c → collOf t d = collOf s d) ∧
      t.obs.hed.ports = s.obs.hed.ports) ∧
    ((now s + 1 < copy ∨ copy + 1 < now s) → ∃ t, goesTo (.heartbeatArrival c copy) s t ∧
      onlyChanges [.aonRegs, .obsRegs, .tb, .hed] s t ∧ bit (reg t aTbStat) 2 = true ∧ irqLine t 7 = true ∧
      (collOf t c).cal = false ∧ (collOf t c).driftGap = some (now s) ∧ (∀ d, d ≠ c → collOf t d = collOf s d) ∧
      (∀ p, p / 16 = c → (portOf t p).mirror = 0))) ∧
  (∀ (c : Nat) (s : State), running s → c < s.build.nColl → serving s c = true →
    (collOf s c).th + 16384 * ((collOf s c).misses + 2) ≤ now s →
    ((collOf s c).misses < 2 → ∃ t, goesTo (.heartbeatMiss c) s t ∧ onlyChanges [.hed] s t ∧
      collOf t c = { collOf s c with misses := (collOf s c).misses + 1 } ∧ (∀ d, d ≠ c → collOf t d = collOf s d)) ∧
    (2 ≤ (collOf s c).misses → ∃ t, goesTo (.heartbeatMiss c) s t ∧ bit (reg t (aFlt + 0x110)) 2 = true ∧
      (collOf t c).buf = [] ∧ serving t c = false ∧
      (∀ j, idleSpare s (c / 16) = some j → takings s (c / 16) = [] →
        (collOf t c).taking.map (fun k => (k.spare, k.td)) = some (some (32 * (c / 16) + j), now s)) ∧
      ((takings s (c / 16)).any (fun e => e.2.spare.isSome) = true →
        ((takings s (c / 16)).filter fun e => e.2.spare.isNone).length < (sectOf s (c / 16)).idle.length →
        (collOf t c).taking.map (fun k => (k.spare, k.td)) = some (none, now s)) ∧
      (idleSpare s (c / 16) = none → (collOf t c).taking = none ∧ (collOf t c).lost.isSome = true)))

/-- A takeover ends at Tr (R69, R70): the spare serves the collector under an incarnation that rose once its rows were
checked or rises now, its ports hold four credits each, and the collector's partitions have a boundary forced at Tr (R95).
The check of a chosen spare raises the incarnation (Table 3.11); one that fails leaves the pool.
Failed collectors (R72, R341): one that speaks again is fenced, and firmware's self-test returns a fenced one to
the idle spares or leaves it out of service. Before READY an idle spare that fails firmware's test leaves the pool
(Table 14.4). -/
def Obligations.TakeoversAndFencing : Prop :=
  (∀ (c j : Nat) (k : Takeover) (s : State), running s → c < s.build.nColl → (collOf s c).taking = some k →
    k.spare = some j → mayResume s c k = true →
    ∃ t, goesTo (.takeoverResume c) s t ∧ (collOf t c).phys = j ∧
      (k.ready = false → (collOf t c).inc = (collOf s c).inc % 255 + 1) ∧
      (k.ready = true → (collOf t c).inc = (collOf s c).inc) ∧ serving t c = true ∧ (collOf t c).th = now s ∧
      (collOf t c).lastTake = some (k.tc, now s) ∧ (∀ p, p / 16 = c → (portOf t p).mirror = 4) ∧
      (∀ u, u ∈ unitsOf s c → (epochOf t (unitOf s u).owner).forcedTb = some (now s))) ∧
  (∀ (phys c td tc : Nat) (s : State), running s → phys / 32 < s.build.sections → takerOf s phys = some c →
    (collOf s c).taking = some ⟨td, tc, some phys, true, false⟩ →
    (∃ t, goesTo (.collectorSelfTestDone phys true) s t ∧ onlyChanges [.hed] s t ∧
      collOf t c = { collOf s c with
        inc := (collOf s c).inc % 255 + 1, taking := some ⟨td, tc, some phys, true, true⟩ }) ∧
    (∃ t, goesTo (.collectorSelfTestDone phys false) s t ∧
      (sectOf t (phys / 32)).oos.contains (phys % 32) = true ∧
      (sectOf t (phys / 32)).checking.contains (phys % 32) = false)) ∧
  (∀ (phys : Nat) (s : State), running s → phys / 32 < s.build.sections →
    (sectOf s (phys / 32)).out.contains (phys % 32) = true → (sectOf s (phys / 32)).oos.contains (phys % 32) = false →
    ∃ t, goesTo (.fencedCollectorSpeaks phys) s t ∧ onlyChanges [.obsRegs, .hed] s t ∧
      (sectOf t (phys / 32)).fenced.contains (phys % 32) = true ∧ bit (reg t (aFlt + 0x110)) 0 = true ∧
      irqLine t 7 = true) ∧
  (∀ (phys : Nat) (s : State), running s → phys / 32 < s.build.sections → s.aon.pwr.fwOk = true →
    s.aon.pwr.hedgerDown = false → takerOf s phys = none →
    (s.aon.pwr.ready = true → (sectOf s (phys / 32)).fenced.contains (phys % 32) = true →
      (∀ k, k < 16 → (collOf s (16 * (phys / 32) + k)).lost = none) →
      ∃ t, goesTo (.collectorSelfTestDone phys true) s t ∧ onlyChanges [.obsRegs, .hed] s t ∧
      (sectOf t (phys / 32)).idle = (sectOf s (phys / 32)).idle ++ [phys % 32] ∧
      (sectOf t (phys / 32)).out.contains (phys % 32) = false ∧
      (sectOf t (phys / 32)).fenced.contains (phys % 32) = false) ∧
    (s.aon.pwr.ready = true → (sectOf s (phys / 32)).fenced.contains (phys % 32) = true →
      ∃ t, goesTo (.collectorSelfTestDone phys false) s t ∧ onlyChanges [.obsRegs, .hed] s t ∧
      (sectOf t (phys / 32)).fenced.contains (phys % 32) = false ∧
      (sectOf t (phys / 32)).oos = (sectOf s (phys / 32)).oos ++ [phys % 32] ∧
      (sectOf t (phys / 32)).idle = (sectOf s (phys / 32)).idle) ∧
    (s.aon.pwr.ready = false → (sectOf s (phys / 32)).idle.contains (phys % 32) = true →
      ∃ t, goesTo (.collectorSelfTestDone phys false) s t ∧ onlyChanges [.hed] s t ∧
      (sectOf t (phys / 32)).idle.contains (phys % 32) = false ∧
      (sectOf t (phys / 32)).oos = (sectOf s (phys / 32)).oos ++ [phys % 32]))

/-- A valid with the mirror above 0 is an event: it spends a credit and enters the collector's buffer under its
stamp; with the mirror at 0 it is a loss, its data is ignored and the port's run counts it (R44, R45).
The oldest entry of a collector's buffer is processed (R47): it leaves the buffer, and a well-formed event of
the unit's own partition is the unit's last (R48); its credit goes back to the port (R44). Classes without an effect
of their own beside records and counts are taken here. -/
def Obligations.ProbeEvents : Prop :=
  (∀ (p : Nat) (w : U64) (s : State), running s → p < s.build.units → serving s (p / 16) = true →
    (curUnit s p).isSome = true → (portOf s p).run = none →
    (∀ n, (portOf s p).mirror = n + 1 → evClass w ≠ 9 → ∃ t, goesTo (.probeValid p w) s t ∧
      onlyChanges [.hed] s t ∧ (portOf t p).mirror = n ∧ (portOf t p).run = none ∧
      (collOf t (p / 16)).buf = (collOf s (p / 16)).buf ++ [⟨p, portStamp s p, w, none, engGt s⟩] ∧
      (∀ q, q ≠ p → portOf t q = portOf s q)) ∧
    ((portOf s p).mirror = 0 → unitAt s p (portStamp s p) = some p → ∃ t, goesTo (.probeValid p w) s t ∧
      onlyChanges [.hed, .cut, .sen] s t ∧ (portOf t p).mirror = 0 ∧
      (portOf t p).run = some ⟨portStamp s p, 1, 1, portStamp s p, false⟩ ∧
      t.obs.hed.colls = s.obs.hed.colls)) ∧
  (∀ (c : Nat) (e : BufEv) (s : State), running s → c < s.build.nColl → (collOf s c).cal = true →
    s.aon.pwr.stage = .awake → (collOf s c).buf = [e] → e.clk = none → e.port / 16 = c →
    unitAt s e.port e.stamp = some e.port → evClass e.word = 5 → (sectOf s (c / 16)).remaps = [] →
    ctxIds s = [] →
    ∃ t, goesTo (.collectorEventProcess c) s t ∧ onlyChanges [.hed, .cut, .sen, .dbg] s t ∧ (collOf t c).buf = [] ∧
      (portOf t e.port).mirror = sat 4 ((portOf s e.port).mirror + 1) ∧
      (unitOf t e.port).lastEvent = e.stamp ∧ (unitOf t e.port).owner = (unitOf s e.port).owner)

/-- A unit's clock stops and starts again (R30, R33, R34): a transition of a port that a serving collector observes takes
its place among the collector's events under its stamp; processed, a fall begins the unit's stop at its stamp and a rise
ends it. -/
def Obligations.ClockStops : Prop :=
  (∀ (p : Nat) (s : State), running s → p < s.build.units → s.aon.pwr.stage = .awake → serving s (p / 16) = true →
    ((portOf s p).clk = true → ∃ t, goesTo (.clkActiveFall p) s t ∧ onlyChanges [.hed] s t ∧ (portOf t p).clk = false ∧
      (collOf t (p / 16)).buf = (collOf s (p / 16)).buf ++ [⟨p, portStamp s p, 0, some false, engGt s⟩] ∧
      t.obs.hed.units = s.obs.hed.units) ∧
    ((portOf s p).clk = false → ∃ t, goesTo (.clkActiveRise p) s t ∧ onlyChanges [.hed] s t ∧
      (portOf t p).clk = true ∧
      (collOf t (p / 16)).buf = (collOf s (p / 16)).buf ++ [⟨p, portStamp s p, 0, some true, engGt s⟩] ∧
      t.obs.hed.units = s.obs.hed.units)) ∧
  (∀ (c u : Nat) (e : BufEv) (s : State), running s → c < s.build.nColl → (collOf s c).buf = [e] →
    unitAt s e.port e.stamp = some u → (sectOf s (c / 16)).remaps = [] →
    (e.clk = some false → (unitOf s u).stop = none → (unitOf s u).wdog = none →
      ∃ t, goesTo (.collectorEventProcess c) s t ∧ onlyChanges [.hed, .ctxs, .dbg] s t ∧ (collOf t c).buf = [] ∧
        (unitOf t u).stop = some (e.stamp, e.stamp) ∧ (∀ v, v ≠ u → unitOf t v = unitOf s v)) ∧
    (e.clk = some true → (unitOf s u).stop.isSome = true →
      ∃ t, goesTo (.collectorEventProcess c) s t ∧ onlyChanges [.hed, .cut, .ctxs, .dbg] s t ∧ (collOf t c).buf = [] ∧
        (unitOf t u).stop = none ∧ (∀ v, v ≠ u → unitOf t v = unitOf s v)))

/-! ## The register window and the JTAG port (chapters 17 and 18) -/

/-- Reads of GT (R39, R40): `WRN_TB_GT_LO` returns the root's count with [4:0] zero and latches its upper word,
`WRN_TB_FGT_LO` returns the command engine's copy and latches its upper word, which then read in `_HI`.
Reads of registers that clear or latch (R384, R386): an RC read returns the value and clears the RC fields alone;
a `_LO` read of a read-only pair returns the low word and latches the high word. -/
def Obligations.RegisterReads : Prop :=
  (∀ s : State, aonOpen s → ∃ t, goesTo .gtLoRead s t ∧ onlyChanges [.rap] s t ∧ t.aon.rap.err = false ∧
    t.aon.rap.rdata = lo32 (s.aon.tb.rootGt / 32 * 32) ∧ regRead t 0x3004 = hi32 (s.aon.tb.rootGt / 32 * 32)) ∧
  (∀ s : State, obsOpen s → s.aon.tb.full = false → ∃ t, goesTo .fgtLoRead s t ∧ onlyChanges [.rap] s t ∧
    t.aon.rap.err = false ∧ t.aon.rap.rdata = lo32 (engGt s) ∧ regRead t 0x300C = hi32 (engGt s)) ∧
  (∀ (a : Nat) (s : State), obsOpen s → winAddr a = a → pairValue s a = none → a ≠ 0x7010 →
    ∃ t, goesTo (.rcRegisterRead a) s t ∧ onlyChanges [.rap, .aonRegs, .obsRegs] s t ∧ t.aon.rap.err = false ∧
      t.aon.rap.rdata = regRead s a ∧ reg t a = reg s a &&& ~~~ (regSpec s.build a).rc ∧
      (∀ b, b ≠ a → reg t b = reg s b)) ∧
  (∀ (a x : Nat) (s : State), obsOpen s → winAddr a = a → pairValue s a = some x → s.aon.tb.full = false →
    dbgDisabled s = false → (regSpec s.build a).rc = 0 →
    ∃ t, goesTo (.loRegisterRead a) s t ∧ onlyChanges [.rap] s t ∧ t.aon.rap.err = false ∧
      t.aon.rap.rdata = lo32 x ∧ regRead t (a + 4) = hi32 x)

/-- Accesses to OBS-domain registers (R17, R328, R364): served while the domain runs; held, and a wake event, while
it sleeps; completed with data 0 and ERR, without effect, while `RST_N` is low.
The access that has waited longest completes once its domain serves it, and leaves the others waiting (R363,
R364); a read returns the register's value. -/
def Obligations.ObsRegistersAreReached : Prop :=
  (∀ (a : Nat) (s : State), obsOpen s → winAddr a = a → regAon a = false → pairValue s a = none →
    (regSpec s.build a).rc = 0 → ∃ t, goesTo (.rapObsRegisterRead a) s t ∧ onlyChanges [.rap] s t ∧
      t.aon.rap.err = false ∧ t.aon.rap.rdata = regRead s a) ∧
  (∀ (a : Nat) (s : State), aonOpen s → winAddr a = a → regAon a = false → s.aon.pwr.rstN = true →
    s.aon.pwr.clkAck = false → s.aon.pwr.clkReq = false → s.aon.pwr.wake = none →
    ∃ t, goesTo (.rapObsRegisterRead a) s t ∧ onlyChanges [.rap, .pwr] s t ∧
      t.aon.rap = { s.aon.rap with held := [⟨false, a, 0, false⟩] } ∧ t.aon.pwr.wake = some (2, now s) ∧
      (t.aon.pwr.clkReq = true ∨ t.aon.pwr.reqDue = true) ∧
      (s.aon.pwr.relWait = false → s.aon.pwr.clkSel = nextSel s → t.aon.pwr.clkReq = true)) ∧
  (∀ (a : Nat) (s : State), aonOpen s → winAddr a = a → regAon a = false → s.aon.pwr.rstN = false →
    ∃ t, goesTo (.rapObsRegisterRead a) s t ∧ onlyChanges [.rap] s t ∧
      t.aon.rap = { s.aon.rap with rdata := 0, err := true }) ∧
  (∀ (a : Nat) (rest : List RapAcc) (s : State), running s → s.aon.rap.held = ⟨false, a, 0, false⟩ :: rest →
    mustHold s ⟨false, a, 0, false⟩ = false → pairValue s a = none → (regSpec s.build a).rc = 0 → a ≠ 0x7010 →
    ∃ t, goesTo .rapHeldAccessComplete s t ∧ onlyChanges [.rap] s t ∧
      t.aon.rap = { s.aon.rap with held := rest, rdata := regRead s a, err := false })

/-- A write of a register without an effect of its own (R385, R386), bit by bit: a bit of an RW field, or of an RWL
field while its lock is clear, takes the written bit; a W1C bit written with 1 clears; every other bit stands; no other
register changes, and `RAP_ERR` is 0. -/
def Obligations.PlainRegisterWrites : Prop :=
  ∀ (a : Nat) (v : U32) (s : State), obsOpen s → winAddr a = a →
    (blockOf a = 6 ∨ blockOf a = 9 ∨ blockOf a = 0xA ∨ blockOf a = 0xD) → filterVal s a v = v →
    ∃ t, goesTo (.registerWrite a v) s t ∧ onlyChanges [.rap, .aonRegs, .obsRegs] s t ∧ t.aon.rap.err = false ∧
      (∀ b, b ≠ a → reg t b = reg s b) ∧
      ∀ i, i < 32 → (reg t a).getLsbD i =
        ((if (regSpec s.build a).rw.getLsbD i || ((regSpec s.build a).rwl.getLsbD i && !locked s a) then v.getLsbD i
          else (reg s a).getLsbD i) && !((regSpec s.build a).w1c.getLsbD i && v.getLsbD i))

/-- Doorbells (R223, R224): a tail below N and a head in the cyclic range to `CQ_TAIL` are taken; others are ignored
and set DB_ERR and CQ_ERR.
A doorbell written while the OBS domain sleeps is held in its page and wakes the domain, whatever its value
(R16, R223); no descriptor is read before the wake has ended (R326). -/
def Obligations.DoorbellsAndWake : Prop :=
  (∀ (r : Nat) (v : U32) (s : State), obsOpen s → r < 64 →
    (fld v 0 16 < ringN s r → ∃ t, goesTo (.dbTailWrite r v) s t ∧ onlyChanges [.rap, .db] s t ∧
      dbOf t r = { dbOf s r with tail := fld v 0 16 } ∧ (∀ q, q ≠ r → dbOf t q = dbOf s q)) ∧
    (ringN s r ≤ fld v 0 16 → ∃ t, goesTo (.dbTailWrite r v) s t ∧ onlyChanges [.rap, .obsRegs] s t ∧
      reg t (aRing r + 0x18) = reg s (aRing r + 0x18) ||| 2)) ∧
  (∀ (r : Nat) (v : U32) (s : State), obsOpen s → r < 64 →
    let m := ringM s r
    let h := (dbOf s r).head
    (fld v 0 16 < m → (fld v 0 16 + m - h) % m ≤ ((ringOf s r).cqTail + m - h) % m →
      ∃ t, goesTo (.cqHeadWrite r v) s t ∧ onlyChanges [.rap, .db, .cmd] s t ∧
        dbOf t r = { dbOf s r with head := fld v 0 16 } ∧ (ringOf t r).full = false ∧
        (ringOf t r).cqTail = (ringOf s r).cqTail ∧ (∀ q, q ≠ r → dbOf t q = dbOf s q ∧ ringOf t q = ringOf s q)) ∧
    ((m ≤ fld v 0 16 ∨ ((ringOf s r).cqTail + m - h) % m < (fld v 0 16 + m - h) % m) →
      ∃ t, goesTo (.cqHeadWrite r v) s t ∧ onlyChanges [.rap, .obsRegs] s t ∧
        reg t (aRing r + 0x18) = reg s (aRing r + 0x18) ||| 4)) ∧
  (∀ (r : Nat) (v : U32) (s : State), aonOpen s → r < 64 → s.aon.pwr.rstN = true → s.aon.pwr.clkAck = false →
    s.aon.pwr.clkReq = false → s.aon.pwr.wake = none →
    (∃ t, goesTo (.dbTailWrite r v) s t ∧ onlyChanges [.rap, .db, .pwr] s t ∧
      dbOf t r = { dbOf s r with tailHeld := some (fld v 0 16) } ∧ t.aon.pwr.wake = some (1, now s) ∧
      (t.aon.pwr.clkReq = true ∨ t.aon.pwr.reqDue = true) ∧
      (s.aon.pwr.relWait = false → s.aon.pwr.clkSel = nextSel s → t.aon.pwr.clkReq = true)) ∧
    (∃ t, goesTo (.cqHeadWrite r v) s t ∧ onlyChanges [.rap, .db, .pwr] s t ∧
      dbOf t r = { dbOf s r with headHeld := some (fld v 0 16) } ∧ t.aon.pwr.wake = some (1, now s) ∧
      (t.aon.pwr.clkReq = true ∨ t.aon.pwr.reqDue = true))) ∧
  (∀ (r : Nat) (s : State), running s → s.aon.pwr.waking = true → frontOf s r = none →
    exec (.descriptorFetch r) s = .next s)

/-- A ring is enabled (R225): from a stop with its indices as they stand, otherwise with HEAD, `DB_TAIL`, `CQ_HEAD`
and `CQ_TAIL` at 0 and PHASE at 1; sizes outside 6 to 16 set CFG_ERR and leave EN at 0. A write that clears EN
leaves everything else of the ring.
Version negotiation (R3, R237): with no ring active AGREED is the highest level common to both, 0 with none, and
DONE sets; with one active the request is refused, ERR sets and AGREED stands. -/
def Obligations.RingsAndVersion : Prop :=
  (∀ (r : Nat) (v : U32) (s : State), obsOpen s → r < 64 → ringAct s r = false → obsLock s = false →
    fld v 16 6 < 16 →
    ((6 ≤ fld v 0 5 ∧ fld v 0 5 ≤ 16) → (6 ≤ fld v 8 5 ∧ fld v 8 5 ≤ 16) → (ringOf s r).stopped = false →
      ∃ t, goesTo (.ringEnable r v) s t ∧ onlyChanges [.rap, .obsRegs, .cmd, .db] s t ∧ (ringOf t r).en = true ∧
        (ringOf t r).head = 0 ∧ (ringOf t r).cqTail = 0 ∧ (ringOf t r).phase = true ∧ dbOf t r = dbD r ∧
        ringN t r = 2 ^ fld v 0 5 ∧ ringM t r = 2 ^ fld v 8 5 ∧ ringPart t r = fld v 16 6 ∧
        (ringOf t r).base = pair (reg s (aRing r + 4)) (reg s (aRing r + 8)) ∧
        (∀ q, q ≠ r → ringOf t q = ringOf s q ∧ dbOf t q = dbOf s q)) ∧
    ((6 ≤ fld v 0 5 ∧ fld v 0 5 ≤ 16) → (6 ≤ fld v 8 5 ∧ fld v 8 5 ≤ 16) → (ringOf s r).stopped = true →
      ∃ t, goesTo (.ringEnable r v) s t ∧ onlyChanges [.rap, .obsRegs, .cmd, .smp] s t ∧ (ringOf t r).en = true ∧
        (ringOf t r).stopped = false ∧ (ringOf t r).head = (ringOf s r).head ∧
        (ringOf t r).cqTail = (ringOf s r).cqTail ∧ (ringOf t r).phase = (ringOf s r).phase) ∧
    ((fld v 0 5 < 6 ∨ 16 < fld v 0 5 ∨ fld v 8 5 < 6 ∨ 16 < fld v 8 5) →
      ∃ t, goesTo (.ringEnable r v) s t ∧ onlyChanges [.rap, .obsRegs] s t ∧
        bit (reg t (aRing r + 0x18)) 3 = true)) ∧
  (∀ (r : Nat) (v : U32) (s : State), obsOpen s → r < 64 → (ringOf s r).en = true →
    ∃ t, goesTo (.ringDisable r v) s t ∧ onlyChanges [.rap, .obsRegs, .cmd] s t ∧
      ringOf t r = { ringOf s r with en := false } ∧ (∀ q, q ≠ r → ringOf t q = ringOf s q)) ∧
  (∀ (v : U32) (s : State), obsOpen s →
    (((List.range 64).any (ringAct s)) = false → ∃ t, goesTo (.versionRequest v) s t ∧
      onlyChanges [.rap, .obsRegs, .cmd] s t ∧ t.obs.cmd.verDone = true ∧ t.obs.cmd.rings = s.obs.cmd.rings ∧
      (fld v 8 8 ≤ 0x11 → 0x11 ≤ fld v 16 8 → t.obs.cmd.agreed = 0x11) ∧
      (fld v 8 8 ≤ 0x10 → fld v 16 8 = 0x10 → t.obs.cmd.agreed = 0x10) ∧
      ((fld v 16 8 < 0x10 ∨ 0x11 < fld v 8 8 ∨ fld v 16 8 < fld v 8 8) → t.obs.cmd.agreed = 0)) ∧
    (((List.range 64).any (ringAct s)) = true → ∃ t, goesTo (.versionRequest v) s t ∧
      onlyChanges [.rap, .obsRegs, .cmd] s t ∧ t.obs.cmd.agreed = s.obs.cmd.agreed ∧ bit (reg t 0x1000) 2 = true))

/-- Boxwood's registers (R176, R186, R188, R189): a consumer is requested; allotments are taken where the eight sum
to 60 or less; water marks where LWM < HWM ≤ 64; the host event ring's size 0 or 4 to 16 while Hedger is the
consumer; its head in the cyclic range to its tail. -/
def Obligations.BoxwoodRegisters : Prop :=
  (∀ (v : U32) (s : State), obsOpen s → s.aon.pwr.hedgerDown = false →
    ∃ t, goesTo (.consumerSelect v) s t ∧ onlyChanges [.rap, .obsRegs, .evq] s t ∧
      t.obs.evq = { s.obs.evq with changing := bit v 0 != s.obs.evq.consAct } ∧ bit (reg t aEvq) 0 = bit v 0) ∧
  (∀ (hi : Bool) (v : U32) (s : State), obsOpen s → obsLock s = false →
    let a := if hi then 0x7008 else 0x7004
    let sum := fun (x : U32) => fld x 0 6 + fld x 8 6 + fld x 16 6 + fld x 24 6
    (sum v + sum (reg s (if hi then 0x7004 else 0x7008)) ≤ 60 →
      ∃ t, goesTo (.creditAllotmentWrite hi v) s t ∧ onlyChanges [.rap, .obsRegs] s t ∧
        reg t a = v &&& 0x3F3F3F3F ∧ (∀ b, b ≠ a → reg t b = reg s b)) ∧
    (60 < sum v + sum (reg s (if hi then 0x7004 else 0x7008)) →
      ∃ t, goesTo (.creditAllotmentWrite hi v) s t ∧ onlyChanges [.rap, .obsRegs] s t ∧ reg t a = reg s a ∧
        bit (reg t 0x7010) 3 = true)) ∧
  (∀ (v : U32) (s : State), obsOpen s →
    ((fld v 16 7 < fld v 0 7 ∧ fld v 0 7 ≤ 64) → ∃ t, goesTo (.watermarkWrite v) s t ∧
      onlyChanges [.rap, .obsRegs, .evq] s t ∧ reg t 0x700C = v &&& 0x007F007F ∧
      (fld v 0 7 ≤ occ s → t.obs.evq.pinHi = true) ∧ (occ s ≤ fld v 16 7 → t.obs.evq.pinHi = false)) ∧
    ((fld v 0 7 ≤ fld v 16 7 ∨ 64 < fld v 0 7) → ∃ t, goesTo (.watermarkWrite v) s t ∧ onlyChanges [.rap] s t)) ∧
  (∀ (v : U32) (s : State), obsOpen s → s.obs.evq.consAct = false →
    (fld v 0 5 = 0 ∨ (4 ≤ fld v 0 5 ∧ fld v 0 5 ≤ 16)) →
    ∃ t, goesTo (.hostRingSizeWrite v) s t ∧ onlyChanges [.rap, .obsRegs, .evq] s t ∧
      hrN t = (if fld v 0 5 = 0 then 0 else 2 ^ fld v 0 5) ∧ t.obs.evq.hrTail = 0 ∧ t.obs.evq.hrHead = 0 ∧
      t.obs.evq.hrBase = pair (reg s 0x7030) (reg s 0x7034) ∧ t.obs.evq.q = s.obs.evq.q) ∧
  (∀ (v : U32) (s : State), obsOpen s → 0 < hrN s →
    ((fld v 0 16 < hrN s ∧ (fld v 0 16 + hrN s - s.obs.evq.hrHead) % hrN s ≤
        (s.obs.evq.hrTail + hrN s - s.obs.evq.hrHead) % hrN s) →
      ∃ t, goesTo (.hostRingHeadWrite v) s t ∧ onlyChanges [.rap, .evq] s t ∧
        t.obs.evq = { s.obs.evq with hrHead := fld v 0 16 }) ∧
    ((hrN s ≤ fld v 0 16 ∨ (s.obs.evq.hrTail + hrN s - s.obs.evq.hrHead) % hrN s <
        (fld v 0 16 + hrN s - s.obs.evq.hrHead) % hrN s) →
      ∃ t, goesTo (.hostRingHeadWrite v) s t ∧ onlyChanges [.rap, .obsRegs] s t ∧ bit (reg t 0x7010) 5 = true))

/-- Ownership, ring depths, the ratio and the locks (R38, R40, R160, R266, R329): a free unit passes to the partition
written, and its counters restart; a depth that changes empties its partition's rings; the ratio in force stands where it
is written again and encoding 3 leaves the field; a lock bit sets and stays set.
The Sentinel's registers (R254, R260): a latched line whose bit is written 1 falls, unless a miss drives it in that AON
cycle, and no other line changes; a
valid rule is enabled and its first window ends at the next multiple of 2^LOG2W, an invalid one stays off and sets
CFG_ERR. -/
def Obligations.SetUpAndSentinelRegisters : Prop :=
  (∀ (m k : Nat) (v : U32) (s : State), obsOpen s → m < 512 → k < 8 → 8 * m + k < s.build.units →
    (∀ j, j < 8 → j ≠ k → fld v (4 * j) 4 = (unitOf s (8 * m + j)).owner) → fld v (4 * k) 4 < npart s.build →
    fld v (4 * k) 4 ≠ (unitOf s (8 * m + k)).owner →
    ownerRefused s (8 * m + k) (fld v (4 * k) 4) = false →
    ∃ t, goesTo (.unitOwnerWrite m v) s t ∧ onlyChanges [.rap, .hed, .cut, .ctxs] s t ∧
      (unitOf t (8 * m + k)).owner = fld v (4 * k) 4 ∧
      (unitOf t (8 * m + k)).restart = max (unitOf s (8 * m + k)).restart (now s) ∧
      (unitOf t (8 * m + k)).ring = [] ∧ (∀ u, u ≠ 8 * m + k → (unitOf t u).owner = (unitOf s u).owner)) ∧
  (∀ (v : U32) (s : State), obsOpen s → filterBram s.build (reg s 0xB200) v = v →
    ∃ t, goesTo (.brambleDepthWrite v) s t ∧ onlyChanges [.rap, .obsRegs, .hed, .hang] s t ∧ reg t 0xB200 = v ∧
      (∀ u, u < s.build.units →
        (bramCode t (unitOf s u).owner ≠ bramCode s (unitOf s u).owner → (unitOf t u).ring = []) ∧
        (bramCode t (unitOf s u).owner = bramCode s (unitOf s u).owner → unitOf t u = unitOf s u))) ∧
  (∀ (v : U32) (s : State), obsOpen s → s.obs.hang.seq = none →
    (fld v 0 2 = s.aon.pwr.ratio → fld v 0 2 ≠ 3 → ∃ t, goesTo (.ratioWrite v) s t ∧ onlyChanges [.rap, .aonRegs] s t ∧
      fld (reg t aTbClk) 0 2 = fld v 0 2) ∧
    (fld v 0 2 ≠ s.aon.pwr.ratio → fld v 0 2 ≠ 3 → freezes s = [] → s.aon.pwr.switching = false →
      ∃ t, goesTo (.ratioWrite v) s t ∧ onlyChanges [.rap, .aonRegs, .pwr] s t ∧ t.aon.pwr.switching = true ∧
        t.aon.pwr.stage = .draining ∧ fld (reg t aTbClk) 0 2 = fld v 0 2) ∧
    (fld v 0 2 = 3 → ∃ t, goesTo (.ratioWrite v) s t ∧ onlyChanges [.rap] s t)) ∧
  (∀ (v : U32) (s : State), obsOpen s → ∃ t, goesTo (.lockSet v) s t ∧ onlyChanges [.rap, .aonRegs] s t ∧
    aonLock t = (aonLock s || bit v 0) ∧ obsLock t = (obsLock s || bit v 1) ∧ (∀ b, b ≠ aLock → reg t b = reg s b)) ∧
  (∀ (v : U32) (s : State), aonOpen s → s.build.sentinel = true → s.aon.sen.lines < 16 →
    ∃ t, goesTo (.sentinelLineAck v) s t ∧ onlyChanges [.rap, .sen] s t ∧ t.aon.sen.watches = s.aon.sen.watches ∧
      (∀ i, i < 4 → t.aon.sen.lines.testBit i = (s.aon.sen.lines.testBit i &&
        !(bit v i && latched s i && !s.aon.sen.due.any fun d => d.lines.testBit i)))) ∧
  (∀ (k : Nat) (v : U32) (s : State), aonOpen s → s.build.sentinel = true → k < 16 → ruleEn s k = false →
    bit v 31 = true →
    (ruleValid s k v = true → ∃ t, goesTo (.govRuleEnable k v) s t ∧ onlyChanges [.rap, .aonRegs, .sen] s t ∧
      reg t (aRule k) = v &&& 0xFFFFE000 ∧ (gruleOf t k).active = false ∧
      (gruleOf t k).wEnd = (s.aon.tb.rootGt / 2 ^ fld v 17 5 + 1) * 2 ^ fld v 17 5 ∧
      (∀ j, j ≠ k → gruleOf t j = gruleOf s j)) ∧
    (ruleValid s k v = false → ∃ t, goesTo (.govRuleEnable k v) s t ∧ onlyChanges [.rap, .aonRegs] s t ∧
      ruleEn t k = false ∧ bit (reg t (aSen + 8)) 2 = true))

/-- The debug window (R286, R391, R392): READ returns an attribution entry as stored; either command is refused with
DENIED while a partition from 1 to 15 is not FREE, and with RANGE beyond the array; an injected heartbeat loss reaches
the collector named.
With DBG_DISABLE blown no JTAG instruction but IDCODE has an effect, so scan test cannot be entered (R286, R398),
and neither command of the debug window acts (R286). -/
def Obligations.DebugAccess : Prop :=
  (∀ (v : U32) (s : State), obsOpen s → dbgDisabled s = false → bit v 1 = false → dbgShut s = false →
    fld (reg s 0xC000) 24 4 = 0 →
    (fld (reg s 0xC000) 0 24 < s.build.attrEntries → s.obs.dbg.inject = [] →
      ∃ t, goesTo (.debugRead v) s t ∧ onlyChanges [.rap, .dbg, .draws] s t ∧ t.obs.dbg.done = true ∧
        t.obs.dbg.denied = false ∧ t.obs.dbg.range = false ∧
        t.obs.dbg.data = smGet u64D s.obs.hed.attr (fld (reg s 0xC000) 0 24)) ∧
    (s.build.attrEntries ≤ fld (reg s 0xC000) 0 24 → ∃ t, goesTo (.debugRead v) s t ∧ onlyChanges [.rap, .dbg] s t ∧
      t.obs.dbg.done = true ∧ t.obs.dbg.range = true ∧ t.obs.dbg.data = 0)) ∧
  (∀ (v : U32) (s : State), obsOpen s → dbgDisabled s = false → bit v 1 = false → dbgShut s = true →
    ∃ t, goesTo (.debugRead v) s t ∧ onlyChanges [.rap, .dbg] s t ∧ t.obs.dbg.done = true ∧ t.obs.dbg.denied = true ∧
      t.obs.dbg.data = 0) ∧
  (∀ (v : U32) (s : State), obsOpen s → dbgDisabled s = false → bit v 0 = false → fld (reg s 0xC018) 28 4 = 3 →
    (dbgShut s = false → physServes s (fld (reg s 0xC018) 0 9) = true →
      ∃ t, goesTo (.debugInject v) s t ∧ onlyChanges [.rap, .dbg, .hed] s t ∧ t.obs.dbg.done = true ∧
        t.obs.dbg.denied = false ∧ t.obs.hed = { s.obs.hed with
          hbStop := s.obs.hed.hbStop ++ [fld (reg s 0xC018) 0 9] }) ∧
    (dbgShut s = true → ∃ t, goesTo (.debugInject v) s t ∧ onlyChanges [.rap, .dbg] s t ∧ t.obs.dbg.denied = true)) ∧
  (∀ (s : State) (v : BitVec 51) (w : U32) (b : Bool), s.scan = false → dbgDisabled s = true →
    exec (.dbgAccess v) s = .next s ∧ exec (.scanMode b) s = .next s ∧ exec (.mbist w) s = .next s) ∧
  (∀ (s : State) (w : U32), obsOpen s → dbgDisabled s = true →
    (∃ t, goesTo (.debugRead w) s t ∧ onlyChanges [.rap] s t) ∧
    (∃ t, goesTo (.debugInject w) s t ∧ onlyChanges [.rap] s t))

/-- The JTAG port (R286, R376, R377, R397, R398): IDCODE is captured; an AON-domain read by `DBG_ACCESS` returns the
register; MBIST runs between `SRAM_DONE` and GO and is denied at any other time; its result is captured and the array is
zeroed; scan test is entered with the key store erased. All but IDCODE need DBG_DISABLE unblown. -/
def Obligations.JtagPort : Prop :=
  (∀ s : State, s.scan = false → s.aon.pwr.aonRstN = true → ∃ t, goesTo .idcode s t ∧ onlyChanges [.rap] s t ∧
    t.aon.rap.tdr = BitVec.ofNat 64 (idcodeWord s.build)) ∧
  (∀ (v : BitVec 51) (s : State), aonOpen s → jtagOpen s = true → bit v 50 = false →
    regAon (fld v 32 18 * 4) = true → pairValue s (fld v 32 18 * 4) = none →
    (regSpec s.build (fld v 32 18 * 4)).rc = 0 →
    ∃ t, goesTo (.dbgAccess v) s t ∧ onlyChanges [.rap] s t ∧ t.aon.rap.dbgData = regRead s (fld v 32 18 * 4) ∧
      t.aon.rap.dbgErr = false ∧ t.aon.rap.rdata = s.aon.rap.rdata) ∧
  (∀ s : State, s.scan = false → jtagOpen s = true → ∃ t, goesTo (.scanMode true) s t ∧ t.scan = true ∧
    t.aon.keys = default ∧ t.build = s.build ∧ t.pending = s.pending) ∧
  (∀ (v : U32) (s : State), s.scan = false → jtagOpen s = true → bit v 31 = true → s.aon.rap.mbRun = none →
    s.aon.pwr.rstN = true → s.aon.pwr.sramDone = true →
    (s.aon.pwr.goAt = none → bit (reg s 0x201C) 0 = false → ∃ t, goesTo (.mbist v) s t ∧ onlyChanges [.rap] s t ∧
      t.aon.rap.mbRun = some (fld v 0 4) ∧ t.aon.rap.mbDone = false ∧ t.aon.rap.mbDenied = false) ∧
    (s.aon.pwr.goAt.isSome = true ∨ bit (reg s 0x201C) 0 = true → ∃ t, goesTo (.mbist v) s t ∧ onlyChanges [.rap] s t ∧
      t.aon.rap.mbRun = none ∧ t.aon.rap.mbDenied = true)) ∧
  (∀ (fail : Bool) (rows : Nat) (s : State), running s → s.aon.rap.mbRun = some 0 →
    ∃ t, goesTo (.mbistComplete fail 0 rows) s t ∧ onlyChanges [.rap, .hed] s t ∧
      t.obs.hed = { s.obs.hed with attr := [] } ∧ t.aon.rap.mbRun = none ∧ t.aon.rap.mbDone = true ∧
      t.aon.rap.mbFail = fail ∧ t.aon.rap.mbRows = sat 0xFFFF rows)

/-- Scan test is left only by `AON_RST_N` low (R398): every other command goes on in it, its state free
(`Config.freeState`) but for the build and the queue. -/
def Obligations.ScanTestIsLeftByResetAlone : Prop :=
  ∀ (c : Instr) (s : State), s.scan = true → c ≠ .aonRstNFall →
    ∃ t, exec c s = .next t ∧ t.scan = true ∧ t.build = s.build ∧ t.pending = s.pending

/-! ## Boxwood (chapter 8) -/

/-- Boxwood accepts one item (R175, R176): that of an occupied holding register whose class has a credit, no other such
register holding an item of higher priority; the item enters a stage unread as the youngest, and its register
empties.
The row check's next item takes the register that empties (R142).
READ (R178, R180): the unread item of the lowest PRIO, the oldest among equals, is returned with RSEQ; it stays in
its stage as READ. With nothing unread a READ stalls, and at OCC 64 it returns NONE. A stalled READ completes once an
item is there. While the drain engine is the consumer, Hedger's operations have no effect (R186). -/
def Obligations.BoxwoodAcceptsAndReads : Prop :=
  (∀ (h : HoldReg) (s : State), running s → nextHold s = some h → occ s < 64 → s.obs.lens.rowDue = [] →
    (h ∈ holdRegs s ∧ 0 < evqCredits s h.cls ∧
      ∀ g ∈ holdRegs s, 0 < evqCredits s g.cls → h.item.prio ≤ g.item.prio) ∧
    ∃ t, goesTo .boxwoodAccept s t ∧ onlyChanges [.sen, .alm, .obsRegs, .evq] s t ∧
      t.obs.evq.q = s.obs.evq.q ++ [⟨h.item, s.obs.evq.nextAge, none⟩] ∧
      t.obs.evq.nextAge = s.obs.evq.nextAge + 1 ∧ occ t = occ s + 1 ∧
      (h.cls = 1 → t.aon.sen.hold = none) ∧ (h.cls = 2 → h.src = 0 → t.aon.alm.hold = none) ∧
      (h.cls ≠ 1 → ¬ (h.cls = 2 ∧ h.src = 0) → h ∈ s.obs.evq.holds →
        t.obs.evq.holds.length + 1 = s.obs.evq.holds.length) ∧ t.aon.sen.watches = s.aon.sen.watches ∧
      (fld (reg s 0x700C) 0 7 ≤ occ t → t.obs.evq.pinHi = true)) ∧
  (∀ (h : HoldReg) (g : Nat) (i : Item) (rest : List (Nat × Item)) (s : State), running s → nextHold s = some h →
    occ s < 64 → s.obs.lens.rowDue = (g, i) :: rest → s.obs.evq.holds = [h] → h.cls = 3 → h.src = rowSrc → i.pclass = 3 →
    ∃ t, goesTo .boxwoodAccept s t ∧ onlyChanges [.obsRegs, .evq, .lens] s t ∧ t.obs.lens.rowDue = rest ∧
      t.obs.evq.holds = [⟨3, rowSrc, i⟩] ∧ t.obs.evq.q = s.obs.evq.q ++ [⟨h.item, s.obs.evq.nextAge, none⟩]) ∧
  (∀ (s : State) (n : Nat), running s → s.obs.evq.consAct = true →
    ∀ c ∈ [Instr.boxwoodRead, .boxwoodMark, .boxwoodRewind, .boxwoodRelease n, .boxwoodReadStallEnd],
      exec c s = .next s) ∧
  (∀ (q : QItem) (s : State), running s → s.obs.evq.consAct = false → s.obs.evq.changing = false → presented s = some q →
    (q ∈ s.obs.evq.q ∧ q.read = none ∧ ∀ i ∈ s.obs.evq.q, i.read = none → q.item.prio ≤ i.item.prio) ∧
    ∃ t, goesTo .boxwoodRead s t ∧ onlyChanges [.evq] s t ∧ t.obs.evq.out = some (s.obs.evq.rseq, shown s q.item) ∧
      occ t = occ s ∧ avail t + 1 = avail s ∧ t.obs.evq.mark = s.obs.evq.mark ∧ t.obs.evq.none_ = false) ∧
  (∀ s : State, running s → s.obs.evq.consAct = false → s.obs.evq.changing = false → avail s = 0 → occ s < 64 →
    ∃ t, goesTo .boxwoodRead s t ∧ onlyChanges [.evq] s t ∧ t.obs.evq = { s.obs.evq with stalled := true }) ∧
  (∀ s : State, running s → s.obs.evq.consAct = false → s.obs.evq.changing = false → avail s = 0 → 64 ≤ occ s →
    ∃ t, goesTo .boxwoodRead s t ∧ onlyChanges [.evq] s t ∧
      t.obs.evq = { s.obs.evq with out := none, none_ := true }) ∧
  (∀ (q : QItem) (s : State), running s → s.obs.evq.consAct = false → s.obs.evq.stalled = true → presented s = some q →
    ∃ t, goesTo .boxwoodReadStallEnd s t ∧ onlyChanges [.evq] s t ∧ t.obs.evq.stalled = false ∧
      t.obs.evq.out = some (s.obs.evq.rseq, shown s q.item) ∧ avail t + 1 = avail s)

/-- Read sequence numbers (R181): RSEQ and M are 0 after `RST_N`; a READ that returns an item takes RSEQ, which advances
by 1 and wraps from 0xFFFF to 0; a MARK saves RSEQ as M. -/
def Obligations.ReadSequenceNumbers : Prop :=
  (∀ (b : Build) (z : Bool), (Obs.reset b z).evq.rseq = 0 ∧ (Obs.reset b z).evq.mark = 0) ∧
  (∀ (q : QItem) (s : State), running s → s.obs.evq.consAct = false → s.obs.evq.changing = false → presented s = some q →
    s.obs.evq.rseq < 2 ^ 16 →
    ∃ t, goesTo .boxwoodRead s t ∧ onlyChanges [.evq] s t ∧ t.obs.evq.out = some (s.obs.evq.rseq, shown s q.item) ∧
      t.obs.evq.rseq < 2 ^ 16 ∧ t.obs.evq.rseq = (if s.obs.evq.rseq = 0xFFFF then 0 else s.obs.evq.rseq + 1)) ∧
  (∀ s : State, running s → s.obs.evq.consAct = false → ∃ t, goesTo .boxwoodMark s t ∧ onlyChanges [.evq] s t ∧
    t.obs.evq = { s.obs.evq with mark := s.obs.evq.rseq })

/-- REWIND (R182): every item read with a number from M to RSEQ − 1, modulo 2^16, is unread again and RSEQ is M; the
items read earlier, and all else, stand. With RSEQ = M it has no effect. What is presented next is the lowest PRIO among
all that is unread. -/
def Obligations.RewindUnreads : Prop :=
  ∀ s : State, running s → s.obs.evq.consAct = false → s.obs.evq.rseq < 2 ^ 16 → s.obs.evq.mark < 2 ^ 16 →
    ∃ t, goesTo .boxwoodRewind s t ∧ onlyChanges [.evq] s t ∧ t.obs.evq.rseq = s.obs.evq.mark ∧
      t.obs.evq.mark = s.obs.evq.mark ∧ (s.obs.evq.rseq = s.obs.evq.mark → t = s) ∧
      t.obs.evq.q.map (fun i => (i.item, i.age)) = s.obs.evq.q.map (fun i => (i.item, i.age)) ∧
      (∀ i ∈ s.obs.evq.q, ∀ n, i.read = some n → n < 2 ^ 16 →
        ((∃ d, d < seqDist s.obs.evq.mark s.obs.evq.rseq ∧ n = (s.obs.evq.mark + d) % 2 ^ 16) →
          { i with read := none } ∈ t.obs.evq.q) ∧
        ((∀ d, d < seqDist s.obs.evq.mark s.obs.evq.rseq → n ≠ (s.obs.evq.mark + d) % 2 ^ 16) →
          i ∈ t.obs.evq.q)) ∧
      (∀ q, presented t = some q → ∀ i ∈ t.obs.evq.q, i.read = none → q.item.prio ≤ i.item.prio)

/-- RELEASE (R183): with o the oldest number in the READ state, a number n from o on frees exactly the READ items from o
to n, and moves M to n + 1 where n ≥ M in that range; any other number has no effect but REL_ERR. READ, MARK and REWIND
free no stage. -/
def Obligations.ReleaseFrees : Prop :=
  (∀ s : State, running s → s.obs.evq.consAct = false → ∀ c ∈ [Instr.boxwoodRead, .boxwoodMark, .boxwoodRewind],
    ∃ t, goesTo c s t ∧ t.obs.evq.q.map (fun i => (i.item, i.age)) = s.obs.evq.q.map (fun i => (i.item, i.age))) ∧
  (∀ (n : Nat) (s : State), running s → s.obs.evq.consAct = false → oldestRead s = none → ∃ t, goesTo (.boxwoodRelease n) s t ∧
    onlyChanges [.obsRegs] s t ∧ bit (reg t 0x7010) 4 = true ∧ (∀ b, b ≠ 0x7010 → reg t b = reg s b)) ∧
  ∀ (n o : Nat) (s : State), running s → s.obs.evq.consAct = false → oldestRead s = some o →
    (seqDist o n < seqDist o s.obs.evq.rseq → ∃ t, goesTo (.boxwoodRelease n) s t ∧
      onlyChanges [.obsRegs, .evq] s t ∧ t.obs.evq.rseq = s.obs.evq.rseq ∧
      (∀ i, i ∈ t.obs.evq.q ↔ i ∈ s.obs.evq.q ∧ (i.read = none ∨ ∃ m, i.read = some m ∧ seqDist o n < seqDist o m)) ∧
      (seqDist o s.obs.evq.mark ≤ seqDist o n → t.obs.evq.mark = (n + 1) % 2 ^ 16) ∧
      (seqDist o s.obs.evq.rseq < seqDist o s.obs.evq.mark → t.obs.evq.mark = s.obs.evq.mark)) ∧
    (seqDist o s.obs.evq.rseq ≤ seqDist o n → ∃ t, goesTo (.boxwoodRelease n) s t ∧ onlyChanges [.obsRegs] s t ∧
      bit (reg t 0x7010) 4 = true ∧ (∀ b, b ≠ 0x7010 → reg t b = reg s b))

/-- A change of consumer takes effect once no item is in the READ state (R186). The drain engine marks, reads up to four
items of one 64-byte block and writes them in one piece at `HR_TAIL` (R187). -/
def Obligations.ConsumerAndDrain : Prop :=
  (∀ s : State, running s → s.obs.evq.changing = true → (∀ i ∈ s.obs.evq.q, i.read = none) →
    ∃ t, goesTo .consumerChangeEffect s t ∧ onlyChanges [.evq] s t ∧ t.obs.evq.consAct = bit (reg s aEvq) 0 ∧
      t.obs.evq.changing = false ∧ t.obs.evq.mark = s.obs.evq.rseq ∧ t.obs.evq.rseq = s.obs.evq.rseq ∧
      t.obs.evq.q = s.obs.evq.q) ∧
  (∀ s : State, running s → s.obs.evq.consAct = true → s.obs.evq.changing = false → s.obs.evq.batch = false →
    s.obs.evq.redo = false → hangHolds s = false → 0 < hrN s → 0 < avail s →
    0 < (s.obs.evq.hrHead + hrN s - s.obs.evq.hrTail - 1) % hrN s →
    ∃ t items, goesTo .drainBatch s t ∧ onlyChanges [.evq, .smp] s t ∧ t.obs.evq.batch = true ∧
      t.obs.evq.mark = s.obs.evq.rseq ∧
      items.length = min (4 - s.obs.evq.hrTail % 4)
        (min ((s.obs.evq.hrHead + hrN s - s.obs.evq.hrTail - 1) % hrN s) (avail s)) ∧
      t.obs.smp.pieces = s.obs.smp.pieces ++ [⟨2, 1, 0,
        .drain items.length ((t.obs.evq.rseq + 2 ^ 16 - 1) % 2 ^ 16) items,
        s.obs.evq.hrBase + 16 * s.obs.evq.hrTail, items.flatMap itemWords⟩])

/-! ## The Sentinel (chapter 11) -/

/-- A start that matches an armed watch opens an instance whose deadline is its stamp plus the watch's offset, in the
order of the starts (R248, R250); the queue gives up to 8 markers at an edge (R251).
A deadline is missed at the edge at which the root reaches D (R252): the instance stays open as missed, the misses
count, and MISS sets with `IRQ[3]`. At the following AON edge, and not before, the watch's lines rise and its freeze is
triggered with G = D (R252, R254). -/
def Obligations.DeadlineInstances : Prop :=
  (∀ (m : Marker) (w : Nat) (s : State), s.scan = false → s.aon.pwr.aonRstN = true → s.aon.sen.queue = [m] →
    senArmed s (fun x => x.part == m.owner) = [w] →
    senMatch (swatchOf s w).startKind (swatchOf s w).sLayer (swatchOf s w).sOper m = true →
    senMatch (swatchOf s w).endKind (swatchOf s w).eLayer (swatchOf s w).eOper m = false →
    (swatchOf s w).insts.length < 4 →
    ∃ t a b, goesTo .sentinelMarkerApply s t ∧ onlyChanges [.sen] s t ∧ t.aon.sen.queue = [] ∧
      (swatchOf s w).insts = a ++ b ∧
      swatchOf t w = { swatchOf s w with
        insts := a ++ [⟨m.stamp, gtMod (m.stamp + (swatchOf s w).offset), false⟩] ++ b } ∧
      (∀ i ∈ a, i.s ≤ m.stamp) ∧ (∀ i ∈ b.head?, m.stamp < i.s) ∧
      (∀ v, v ≠ w → swatchOf t v = swatchOf s v)) ∧
  (∀ (w : Nat) (i : SInst) (s : State), s.scan = false → s.aon.pwr.aonRstN = true → (swatchOf s w).armed = true →
    (swatchOf s w).insts = [i] → i.missed = false → i.d ≤ s.aon.tb.rootGt → s.aon.sen.acked = 0 →
    s.aon.pwr.clkAck = true → s.aon.pwr.stage = .awake →
    ∃ t, goesTo (.deadlineMiss w) s t ∧
      (swatchOf t w).insts = [{ i with missed := true }] ∧
      (swatchOf t w).misses = sat (2 ^ 24 - 1) ((swatchOf s w).misses + 1) ∧ t.aon.sen.lines = s.aon.sen.lines ∧
      t.aon.sen.due = s.aon.sen.due ++ [⟨(swatchOf s w).lines, (swatchOf s w).freeze, i.d, (swatchOf s w).part⟩] ∧
      bit (reg t (aSen + 8)) 0 = true ∧ irqLine t 3 = true ∧ t.obs.cut = s.obs.cut ∧ t.aon.tb = s.aon.tb) ∧
  (∀ (l g p : Nat) (fr : Bool) (s : State), running s → s.pending = [] → 32 ≤ s.aon.tb.sub + incOf s.aon.pwr.ratio →
    s.aon.sen.due = [⟨l, fr, g, p⟩] → s.obs.hang.seq = none → s.obs.cut.hw = none → s.obs.fab.disc = none →
    ∃ t, step s = .next t ∧ t.aon.sen.due = [] ∧
      (∀ k, (t.aon.sen.lines.testBit k = true ↔ s.aon.sen.lines.testBit k = true ∨ l.testBit k = true)) ∧
      t.obs.cut.hw.map (fun f => (f.t, f.own)) = (if fr then some (gtMod (g + 1024), [p]) else none))

/-- A pulsed line falls once its count has run out, alone (R254). A window's end evaluates its rule (R259) over the
increments stamped in it: below the H windows needed it stays as it is; a window that ended while the OBS domain slept is
not evaluated, and the runs restart.
The power manager acknowledges (R261, R362): `PWR_ACK` takes `PWR_REQ`, and where the word to offer has changed
meanwhile it is offered, `PWR_REQ` inverting at the following AON edge; where it has not, no request stands. -/
def Obligations.PulsesRulesAndRequests : Prop :=
  (∀ (line : Nat) (s : State), s.scan = false → s.aon.pwr.aonRstN = true → line < 4 → s.aon.sen.lines < 16 →
    s.aon.sen.lines.testBit line = true → latched s line = false →
    smGet natD s.aon.sen.pulseEnd line ≤ s.aon.tb.rootGt →
    ∃ t, goesTo (.pulseExpiry line) s t ∧ onlyChanges [.sen] s t ∧ t.aon.sen.watches = s.aon.sen.watches ∧
      (∀ k, k < 4 → t.aon.sen.lines.testBit k = (s.aon.sen.lines.testBit k && k != line))) ∧
  (∀ (k : Nat) (s : State), running s → ruleEn s k = true → (gruleOf s k).wEnd ≤ now s →
    (gruleOf s k).asleep.contains (gruleOf s k).wEnd = true →
    ∃ t, goesTo (.govRuleWindowEnd k) s t ∧ onlyChanges [.sen] s t ∧ (gruleOf t k).run = 0 ∧
      (gruleOf t k).active = (gruleOf s k).active ∧ (gruleOf t k).wEnd = (gruleOf s k).wEnd + 2 ^ ruleLog2w s k) ∧
  (∀ (k : Nat) (s : State), running s → ruleEn s k = true → (gruleOf s k).wEnd ≤ now s →
    (gruleOf s k).asleep.contains (gruleOf s k).wEnd = false →
    (gruleOf s k).run = 0 → 1 < fld (reg s (aRule k)) 13 4 → bit (reg s (aRule k)) 30 = false →
    ∃ t, goesTo (.govRuleWindowEnd k) s t ∧ onlyChanges [.sen] s t ∧
      (gruleOf t k).active = (gruleOf s k).active ∧
      (gruleOf t k).wEnd = (gruleOf s k).wEnd + 2 ^ ruleLog2w s k ∧
      ((reg s (aRule k + 8)).toNat ≤ windowSum s k → (gruleOf t k).run = 1 ∧ (gruleOf t k).runHigh = true) ∧
      (windowSum s k < (reg s (aRule k + 8)).toNat → windowSum s k ≤ (reg s (aRule k + 12)).toNat →
        (gruleOf t k).run = 1 ∧ (gruleOf t k).runHigh = false) ∧
      (windowSum s k < (reg s (aRule k + 8)).toNat → (reg s (aRule k + 12)).toNat < windowSum s k →
        (gruleOf t k).run = 0) ∧
      (∀ j, j ≠ k → gruleOf t j = gruleOf s j)) ∧
  (∀ s : State, s.scan = false → s.aon.pwr.aonRstN = true → s.aon.pwr.pwrReq ≠ s.aon.pwr.pwrAck →
    ∃ t, goesTo .pwrAckToggle s t ∧ onlyChanges [.pwr] s t ∧ t.aon.pwr.pwrAck = s.aon.pwr.pwrReq ∧
      t.aon.pwr.pwrReq = s.aon.pwr.pwrReq ∧
      t.aon.pwr.pwrCode = (requestWord s).1 ∧ t.aon.pwr.pwrLevel = (requestWord s).2.1 ∧
      (t.aon.pwr.pwrDue = true ↔ s.aon.pwr.pwrDue = true ∨
        s.aon.pwr.pwrCode ≠ (requestWord s).1 ∨ s.aon.pwr.pwrLevel ≠ (requestWord s).2.1)) ∧
  (∀ s : State, s.pending = [] → s.scan = false → s.aon.pwr.aonRstN = true →
    (obsRuns s = false ∨ 32 ≤ s.aon.tb.sub + incOf s.aon.pwr.ratio) → s.obs.fab.disc = none →
    ∃ t, step s = .next t ∧ t.aon.pwr.pwrReq = (s.aon.pwr.pwrReq != s.aon.pwr.pwrDue) ∧ t.aon.pwr.pwrDue = false ∧
      t.aon.pwr.pwrAck = s.aon.pwr.pwrAck)

/-! ## Blackthorn and SRAM errors -/

/-- A tamper line or a glitch registers once for each level or detection, and takes its fixed action ZEROIZE: the cause
bit, `ALARM_OUT` and `IRQ[2]`, FROZEN, the whole key store erased, every partition's consent cleared, and egress closed.
A line held high or a glitch that persists does not register again.
Ends of detections (R287, R288): a released line and a cleared detector may register again; erasure completes with
`ZEROIZE_DONE`. -/
def Obligations.Detections : Prop :=
  (∀ (lines : Nat) (s : State), running s → s.build.crypto = true → (lines % 16 ≠ 0) → s.aon.alm.tamperHeld = 0 →
    almAct s 0 = 2 → s.aon.pwr.stage = .awake →
    ∃ t, goesTo (.tamperRegister lines) s t ∧ bit (reg t aAlm) 0 = true ∧ alarmOut t = true ∧ irqLine t 2 = true ∧
      t.aon.alm.frozen = true ∧ t.aon.alm.tamperHeld = lines % 16 ∧ t.aon.keys = default ∧
      (∀ p, p < 16 → (partOf t p).consent = 0 ∧ (partOf t p).state = (partOf s p).state) ∧ t.obs.egr.state = 0) ∧
  (∀ (lines : Nat) (s : State), running s → s.aon.alm.tamperHeld = lines → lines < 16 →
    exec (.tamperRegister lines) s = .next s) ∧
  (∀ (v : Bool) (s : State), running s → s.build.crypto = true → s.aon.alm.glitchHeld = false → almAct s 1 = 2 →
    s.aon.pwr.stage = .awake →
    ∃ t, goesTo (.glitchDetect v true) s t ∧ bit (reg t aAlm) 1 = true ∧ alarmOut t = true ∧ irqLine t 2 = true ∧
      t.aon.alm.frozen = true ∧ t.aon.alm.glitchHeld = true ∧ t.aon.keys = default ∧
      (∀ p, p < 16 → (partOf t p).consent = 0) ∧ t.obs.egr.state = 0) ∧
  (∀ (v c : Bool) (s : State), running s → s.aon.alm.glitchHeld = true → exec (.glitchDetect v c) s = .next s) ∧
  (∀ (line : Nat) (s : State), s.scan = false → s.aon.pwr.aonRstN = true → line < 4 → s.aon.alm.tamperHeld < 16 →
    ∃ t, goesTo (.tamperInRelease line) s t ∧ onlyChanges [.alm] s t ∧
      (∀ k, k < 4 → t.aon.alm.tamperHeld.testBit k = (s.aon.alm.tamperHeld.testBit k && k != line)) ∧
      t.aon.alm.tamperSeen = s.aon.alm.tamperSeen) ∧
  (∀ s : State, s.scan = false → s.aon.pwr.aonRstN = true → ∃ t, goesTo .glitchDetectorClear s t ∧
    onlyChanges [.alm] s t ∧ t.aon.alm = { s.aon.alm with glitchHeld := false }) ∧
  (∀ s : State, s.scan = false → s.aon.alm.zeroizing = true → ∃ t, goesTo .zeroizeComplete s t ∧
    onlyChanges [.alm] s t ∧ t.aon.alm = { s.aon.alm with zeroizing := false, zeroized := true })

/-- A corrected word is counted in CE and changes nothing else; an uncorrectable attribution entry reads VALID 0, UE
counts it, and ECC_UE sets with `IRQ[7]`. -/
def Obligations.SramErrors : Prop :=
  (∀ (a idx : Nat) (s : State), running s → wordExists s.build a idx = true →
    ∃ t, goesTo (.sramCorrectable a idx) s t ∧ onlyChanges [.obsRegs, .dbg] s t ∧
      fld (reg t (aFlt + 0x10C)) 16 16 = sat 0xFFFF (fld (reg s (aFlt + 0x10C)) 16 16 + 1) ∧
      fld (reg t (aFlt + 0x10C)) 0 16 = fld (reg s (aFlt + 0x10C)) 0 16) ∧
  (∀ (idx : Nat) (s : State), running s → idx < s.build.attrEntries →
    ∃ t, goesTo (.sramUncorrectable 0 idx) s t ∧ onlyChanges [.obsRegs, .dbg, .hed] s t ∧
      smGet u64D t.obs.hed.attr idx = 0 ∧ (∀ j, j ≠ idx → smGet u64D t.obs.hed.attr j = smGet u64D s.obs.hed.attr j) ∧
      fld (reg t (aFlt + 0x10C)) 0 16 = sat 0xFFFF (fld (reg s (aFlt + 0x10C)) 0 16 + 1) ∧
      bit (reg t (aFlt + 0x110)) 5 = true ∧ irqLine t 7 = true)

/-! ## Freezes and epochs (chapter 4) -/

/-- A freeze becomes final (R79, R81, R87): the shadow bank holds its ID, its T and the GT at which it became final,
no pending freeze keeps that T, the epochs stand, and a freeze at another T stays pending. -/
def Obligations.FreezeBecomesFinal : Prop :=
  ∀ (f : Freeze) (s : State), running s → headFreezes s = [f] → finalAt s f.t = true → boundsBefore s f.t = false →
    s.obs.hang.seq = none →
    ∃ t, goesTo .freezeFinal s t ∧ t.obs.cut.shadow.map (fun b => (b.id, b.t, b.finalGt)) = some (f.id, f.t, now s) ∧
      (∀ g ∈ freezes t, g.t ≠ f.t) ∧ (freezes t).map (·.id) = ((freezes s).filter (fun g => g.t != f.t)).map (·.id) ∧
      (∀ p, epochOf t p = epochOf s p) ∧ t.obs.cut.opsLost = [] ∧ now t = now s

/-- An epoch boundary is taken (R91, R92): the epoch starts at it with no boundary skipped or ignored; with an armed
context waiting the epoch before it stands undrained and ends there, with none it is drained; every other partition's
epochs stand.
Where staging has room for the epoch's records they are taken (R92): the epoch is drained, and no other partition's
epochs change. A
`FRAME_SYNC` edge sets a boundary 1,024 GT after its stamp for a partition whose schedule is FSYNC (R90). -/
def Obligations.EpochBoundaries : Prop :=
  (∀ (p b : Nat) (s : State), running s → boundOf s p = some b → finalAt s b = true →
    ((freezes s).any fun f => decide (f.t ≤ b)) = false →
    ∃ t, goesTo (.epochBoundary p) s t ∧ (epochOf t p).start = b ∧ (epochOf t p).skipped = 0 ∧
      (epochOf t p).ignored = 0 ∧
      (epochAwaited s p = true → (epochOf t p).undrained.map (·.fin) = some b) ∧
      (epochAwaited s p = false → (epochOf t p).undrained = none) ∧ (∀ q, q ≠ p → epochOf t q = epochOf s q)) ∧
  (∀ (p : Nat) (u : Undrained) (s : State), running s → (epochOf s p).undrained = some u → epochRoom p u s = true →
    ((freezes s).any fun f => decide (f.t ≤ u.fin)) = false → freezeHeld s p u.fin = false →
    (slotsOf s (some p)).any (spillBusy s) = false →
    ∃ t, goesTo (.epochRecordsTaken p) s t ∧ epochOf t p = { epochOf s p with undrained := none } ∧
      (∀ q, q ≠ p → epochOf t q = epochOf s q) ∧ t.obs.cut.opsLost.contains p = false ∧
      t.obs.cut.main = s.obs.cut.main ∧ t.obs.cut.shadow = s.obs.cut.shadow) ∧
  (∀ (p : Nat) (x : EpEntry) (s : State), running s → s.aon.pwr.stage = .awake → s.aon.pwr.sleepFrom = none →
    p < npart s.build → senArmed s (fun w => w.startKind == 8) = [] → (epochOf s p).entries = [x] →
    x.sched.source = 2 → x.stop = none → (epochOf s p).lastEdge = none →
    ∃ t, goesTo .frameSyncRise s t ∧ onlyChanges [.cut] s t ∧
      (epochOf t p).entries = [{ x with
        next := x.next ++ [engGt s - corrOf s.aon.pwr.ratio + 1024],
        first := some (x.first.getD (engGt s - corrOf s.aon.pwr.ratio + 1024)) }] ∧
      (epochOf t p).lastEdge = some (engGt s - corrOf s.aon.pwr.ratio) ∧ (epochOf t p).start = (epochOf s p).start)

/-! ## The trace writer (chapter 9) -/

/-- A record is placed (R402): the first of the context's reorder hold, once the horizon has passed it, opens a frame
whose base is its stamp less 16 (R203); a SENT record is placed whatever the horizon (R205). A frame is closed 2^20 GT after its first record entered staging, and its SEQ
is consumed (R197, R198). -/
def Obligations.RecordsAndFrames : Prop :=
  (∀ (x u stamp : Nat) (w : Bool) (c : CtxSt) (s : State), running s → ctxOf s x = some c → c.resident = true →
    c.hold = [⟨stamp, .clkstop w u⟩] → c.frame = none → c.wgap = none → placeable s stamp = true → 16 ≤ stamp →
    1 ≤ freeBufs s →
    ∃ t d, goesTo (.recordPlaced x) s t ∧ onlyChanges [.ctxs] s t ∧ ctxOf t x = some d ∧ d.hold = [] ∧
      d.frame.map (fun f => (f.base, f.recs)) = some (stamp - 16, 1) ∧ d.seq = c.seq ∧
      d.highest = max c.highest stamp ∧ (∀ y, y ≠ x → ctxOf t y = ctxOf s y)) ∧
  (∀ (x stamp : Nat) (r : Rec) (c : CtxSt) (s : State), running s → ctxOf s x = some c → c.resident = true →
    c.hold = [r] → isDeferred r.body = true → r.stamp = stamp →
    c.frame = none → 16 ≤ stamp → 1 ≤ freeBufs s →
    ∃ t d, goesTo (.recordPlaced x) s t ∧ onlyChanges [.ctxs] s t ∧ ctxOf t x = some d ∧ d.hold = [] ∧
      d.frame.map (fun f => (f.base, f.recs)) = some (stamp - 16, 1) ∧ d.seq = c.seq ∧ d.highest = c.highest ∧
      (∀ y, y ≠ x → ctxOf t y = ctxOf s y)) ∧
  (∀ (x : Nat) (f : FrameB) (c : CtxSt) (s : State), running s → ctxOf s x = some c → c.frame = some f →
    f.entered + 2 ^ 20 ≤ now s → c.egr = false → c.host = false → c.seq < 2 ^ 32 - 1 →
    ∃ t d, goesTo (.frameAgeTimeout x) s t ∧ onlyChanges [.ctxs, .smp] s t ∧ ctxOf t x = some d ∧ d.frame = none ∧
      d.seq = c.seq + 1 ∧ d.first = false ∧
      ((partOf s c.part).region.isSome = true → ∃ g, t.obs.smp.frames = s.obs.smp.frames ++ [g] ∧
        g.ctx = x ∧ g.seq = c.seq ∧ g.part = c.part ∧ g.regionDue = true ∧ g.body = (endEvt f).body) ∧
      ((partOf s c.part).region = none → t.obs.smp.frames = s.obs.smp.frames))

/-! ## The System Memory Port and the governor (chapters 16 and 17) -/

/-- The governor issues the waiting piece of the highest class once its credit covers the piece (R353, R354): the piece
becomes a write under the lowest free tag and the partition's stream ID, and its cost leaves the credit.
A tranche of cadence mode counts exactly 4,096 bytes (R356): with nothing waiting it is one write of zeros into the
pad area. -/
def Obligations.GovernorAndCadence : Prop :=
  (∀ (p : Piece) (s : State), running s → hangHolds s = false → cadence s = false → ringsAsk s = s →
    s.obs.smp.pieces = [p] → p.cls = 1 → s.obs.smp.run < 15 → s.obs.smp.wrOut = [] →
    (∀ f, p.what ≠ .host f) → (∀ k, p.what ≠ .lensRead k) → costOf p.units ≤ s.obs.smp.credit →
    ∃ t, goesTo .governorIssue s t ∧ onlyChanges [.smp] s t ∧ t.obs.smp.pieces = [] ∧
      t.obs.smp.wrOut = [⟨0, sidOf s p.part, p.what, p.addr, p.data, p.part⟩] ∧
      t.obs.smp.credit = s.obs.smp.credit - costOf p.units) ∧
  (∀ s : State, running s → cadence s = true → hangHolds s = false → costOf 64 ≤ s.obs.smp.credit → ringsAsk s = s →
    (∀ k, waitingOf s k = []) → s.obs.smp.wrOut = [] →
    ∃ t, goesTo .cadenceTranche s t ∧ onlyChanges [.smp] s t ∧
      t.obs.smp.wrOut = [⟨0, sidOf s 0, .pad, s.obs.smp.pad, List.replicate 512 0, 0⟩] ∧
      t.obs.smp.credit = s.obs.smp.credit - 64 * 64 * 1600)

/-- Answers of the SMP (R227, R246, R247, R366): a completion's write that is acknowledged raises PEND unless its entry has
NOIRQ, with an MSI where the ring has them enabled and PEND was clear; one that fails stops its ring with ST 2 and ERR; a
response under no outstanding tag changes nothing.
Descriptors arrive (R223, R227, R234): n of them join the ring's fetched list in order and HEAD passes them; a read
that fails stops the ring with ST 1, and HEAD stands. -/
def Obligations.SmpAnswers : Prop :=
  (∀ (tag r seq : Nat) (e : Entry) (q : Bool) (w : Wr) (s : State), running s → r < 64 → s.obs.smp.wrOut = [w] →
    w.tag = tag → w.what = .completion r seq e q →
    (q = false → bit (reg s (aRing r + 0x28)) 8 = false ∨ (ringOf s r).pend = true →
      ∃ t, goesTo (.smpWriteResponse tag false) s t ∧ onlyChanges [.smp, .cmd] s t ∧ t.obs.smp.wrOut = [] ∧
        (ringOf t r).pend = true ∧ (ringOf t r).unacked = (ringOf s r).unacked.erase seq ∧
        t.obs.smp.pieces = s.obs.smp.pieces) ∧
    (q = false → bit (reg s (aRing r + 0x28)) 8 = true → (ringOf s r).pend = false →
      ∃ t, goesTo (.smpWriteResponse tag false) s t ∧ onlyChanges [.smp, .cmd] s t ∧ t.obs.smp.wrOut = [] ∧
        (ringOf t r).pend = true ∧ (ringOf t r).unacked = (ringOf s r).unacked.erase seq ∧
        t.obs.smp.pieces = s.obs.smp.pieces ++ [⟨1, 1, ringPart s r,
          .msi r (ringOf s r).msia (reg s (aRing r + 0x24)), (ringOf s r).msia,
          [BitVec.ofNat 64 (reg s (aRing r + 0x24)).toNat]⟩]) ∧
    (q = true → ∃ t, goesTo (.smpWriteResponse tag false) s t ∧ onlyChanges [.smp, .cmd] s t ∧ t.obs.smp.wrOut = [] ∧
        (ringOf t r).pend = (ringOf s r).pend ∧ (ringOf t r).unacked = (ringOf s r).unacked.erase seq) ∧
    (∃ t, goesTo (.smpWriteResponse tag true) s t ∧ onlyChanges [.smp, .cmd, .obsRegs, .evq] s t ∧
      t.obs.smp.wrOut = [] ∧ (ringOf t r).stopped = true ∧ (ringOf t r).en = false ∧ (ringOf t r).faultSt = 2 ∧
      bit (reg t (aRing r + 0x18)) 0 = true)) ∧
  (∀ (tag : Nat) (err : Bool) (s : State), running s → (∀ w ∈ s.obs.smp.wrOut, w.tag ≠ tag) →
    exec (.smpWriteResponse tag err) s = .next s) ∧
  (∀ (tag r n : Nat) (ws : List U64) (q : Rd) (s : State), running s → r < 64 → s.obs.smp.rdOut = [q] → q.tag = tag →
    q.what = .desc r n → (ringOf s r).reading = n → q.addr = (ringOf s r).base + 64 * (ringOf s r).head →
    s.obs.wat.dumps = [] →
    (∃ t, goesTo (.smpReadData tag ws false) s t ∧ onlyChanges [.smp, .cmd] s t ∧ t.obs.smp.rdOut = [] ∧
      (ringOf t r).reading = 0 ∧ (ringOf t r).head = ((ringOf s r).head + n) % ringN s r ∧
      (ringOf t r).fetched.map (·.d) = (ringOf s r).fetched.map (·.d) ++ descsOf n ws ∧
      (ringOf t r).nextSeq = (ringOf s r).nextSeq + n) ∧
    (∃ t, goesTo (.smpReadData tag ws true) s t ∧ onlyChanges [.smp, .cmd, .obsRegs, .evq] s t ∧
      t.obs.smp.rdOut = [] ∧ (ringOf t r).stopped = true ∧ (ringOf t r).en = false ∧ (ringOf t r).faultSt = 1 ∧
      (ringOf t r).head = (ringOf s r).head ∧ bit (reg t (aRing r + 0x18)) 0 = true))

/-! ## Watches and hang dumps (chapter 7) -/

/-- The translation port (R153, R368): a range that is translated is read from its I/O address; a fault, or no answer
within the bound, leaves the range unread and counts it, and the walk asks for the range after it, where there is one. A
tag under which nothing is outstanding changes nothing. -/
def Obligations.Translations : Prop :=
  (∀ (x : Xlt) (d : Dump) (ioa l : Nat) (s : State), running s → s.obs.wat.xlt = [x] → x.dead = false →
    s.obs.wat.dumps = [d] → d.id = x.dump → d.source ≠ 0 → d.ended = false → d.todo = [] → d.more = [] →
    d.pageBytes = 0 → d.runs = [] → s.obs.smp.rdOut = [] → 12 ≤ l → l ≤ 30 → ioa % 4096 = 0 → x.offset = 0 →
    x.va % 2 ^ l = 0 → d.limit = 0 → 0 < d.expect → d.expect ≤ 2 ^ l → d.expect ≤ 4096 → d.expect ≤ s.build.watchBuf →
    ∃ t, goesTo (.xltResponse x.tag ioa l false) s t ∧ onlyChanges [.wat, .smp] s t ∧ t.obs.wat.xlt = [] ∧
      t.obs.smp.rdOut = [⟨0, sidOf s d.part, .watch d.id 0 d.expect, ioa, ceilDiv d.expect 64⟩]) ∧
  (∀ (x : Xlt) (d : Dump) (ioa l : Nat) (s : State), running s → s.obs.wat.xlt = [x] → x.dead = false →
    s.obs.wat.dumps = [d] → d.id = x.dump → d.todo = [] → d.more = [] → d.expect ≤ d.next →
    ∃ t, goesTo (.xltResponse x.tag ioa l true) s t ∧ onlyChanges [.wat] s t ∧ t.obs.wat.xlt = [] ∧
      t.obs.wat.dumps.map (·.faults) = [d.faults + 1]) ∧
  (∀ (x : Xlt) (d : Dump) (ioa l : Nat) (s : State), running s → s.obs.wat.xlt = [x] → x.dead = false →
    s.obs.wat.dumps = [d] → d.id = x.dump → d.source ≠ 0 → d.ended = false → d.todo = [] → d.more = [] →
    d.pageBytes = 0 → d.limit = 0 → d.next < d.expect →
    ∃ t, goesTo (.xltResponse x.tag ioa l true) s t ∧ onlyChanges [.wat] s t ∧
      t.obs.wat.xlt = [⟨0, d.id, d.next, nextPoint d d.next, d.va + d.next, d.asid, now s, false⟩] ∧
      t.obs.wat.dumps.map (·.faults) = [d.faults + 1]) ∧
  (∀ (x : Xlt) (d : Dump) (s : State), running s → s.obs.wat.xlt = [x] → x.dead = false →
    s.obs.wat.dumps = [d] → d.id = x.dump → d.todo = [] → d.more = [] → d.expect ≤ d.next → x.since + 1600000 ≤ now s →
    ∃ t, goesTo (.xltTimeout x.tag) s t ∧ onlyChanges [.wat] s t ∧ t.obs.wat.xlt = [{ x with dead := true }] ∧
      t.obs.wat.dumps.map (·.faults) = [d.faults + 1]) ∧
  (∀ (tag ioa l : Nat) (fault : Bool) (s : State), running s → (∀ x ∈ s.obs.wat.xlt, x.tag ≠ tag) →
    exec (.xltResponse tag ioa l fault) s = .next s ∧ exec (.xltTimeout tag) s = .next s)

/-- A hang begins (R162 to R166, Table 4.2): a watchdog that reaches its limit, or the rise of `HANG_IN`, schedules a
hardware freeze 1,024 GT after its trigger, starts the sequence, and sets DETECT with `IRQ[4]`; pending software freezes
at or after that T are cancelled.
A hang ends once every partition's dump has been written (R164): the sequence is over, DONE sets with `IRQ[4]`,
and every unit's ring resumes with nothing held. -/
def Obligations.HangSequences : Prop :=
  (∀ (u g : Nat) (s : State), running s → u < s.build.units → wdogDue (unitOf s u) = some g →
    serving s (collOfUnit s u) = true → g ≤ horizonOf s (collOfUnit s u) →
    ((collOf s (collOfUnit s u)).buf.all fun e => decide (g ≤ e.stamp)) = true → s.obs.hang.seq = none →
    s.obs.cut.hw = none → s.aon.pwr.stage = .awake →
    ∃ t q, goesTo (.watchdogExpiry u) s t ∧ t.obs.hang.seq = some q ∧ q.g = g ∧ q.t = gtMod (g + 1024) ∧ q.cause = 0 ∧
      q.firstUnit = u ∧ q.step = 1 ∧ t.obs.cut.hw.map (·.t) = some (gtMod (g + 1024)) ∧
      (unitOf t u).wdog.map (·.expired) = some true ∧ irqLine t 4 = true ∧
      t.obs.hang.count = sat 255 (s.obs.hang.count + 1) ∧ (∀ f ∈ t.obs.cut.sw, f.t < gtMod (g + 1024))) ∧
  (∀ s : State, running s → s.obs.hang.seq = none → s.obs.cut.hw = none → s.aon.pwr.stage = .awake →
    ∃ t q, goesTo .hangInRise s t ∧ t.obs.hang.seq = some q ∧ q.g = s.aon.tb.rootGt - 64 ∧
      q.t = gtMod (s.aon.tb.rootGt - 64 + 1024) ∧ q.cause = 1 ∧ q.firstUnit = 0xFFF ∧ q.step = 1 ∧
      t.obs.cut.hw.map (·.t) = some q.t ∧ irqLine t 4 = true ∧ (∀ f ∈ t.obs.cut.sw, f.t < q.t)) ∧
  (∀ (q : HangSeq) (s : State), running s → s.obs.hang.seq = some q → q.step = 5 → s.obs.smp.wrOut = [] →
    s.obs.smp.pieces = [] → npart s.build ≤ q.done.length →
    ∃ t, goesTo .hangDumpComplete s t ∧ t.obs.hang.seq = none ∧ t.obs.hang.areas = s.obs.hang.areas ∧
      t.obs.hang.count = s.obs.hang.count ∧ bit (reg t (aFlt + 0x208)) 1 = true ∧ irqLine t 4 = true ∧
      (∀ u, u < s.build.units → (unitOf t u).held = 0 ∧ (unitOf t u).snap = none))

/-! ## Descriptors (chapter 10). `atFrontOf c r h s` says that h, of opcode c, stands at the front of ring r and passes
the checks common to all opcodes; `completes` that its completion entry is queued, `parks` that it is parked. -/

/-- `NOP` completes. `FENCE` completes once every earlier command of its ring has completed and every SMP write of
theirs is acknowledged (R236), with its FENCE record where MARK is set; before that it is parked. -/
def Obligations.NopAndFence : Prop :=
  (∀ (r : Nat) (h : Held) (s : State), atFrontOf 0x00 r h s → reservedBad h = false →
    ∃ t, goesTo (.nop r) s t ∧ onlyChanges [.smp, .cmd] s t ∧ completes r h stOk 0 s t) ∧
  (∀ (r : Nat) (h : Held) (s : State), atFrontOf 0x01 r h s → reservedBad h = false → fenceMet s r h = true →
    ∃ t, goesTo (.fence r) s t ∧ onlyChanges [.smp, .cmd, .ctxs] s t ∧ completes r h stOk 0 s t ∧
      (bit (dw h 3) 0 = false → t.obs.ctxs = s.obs.ctxs) ∧
      (∀ c, bit (dw h 3) 0 = true → ctxOf s (dCtx h) = some c → offeredAt c (engGt s) = true →
        ctxOf t (dCtx h) = some { c with hold := holdRec ⟨engGt s, .fence r (dw h 1)⟩ c.hold })) ∧
  (∀ (r : Nat) (h : Held) (s : State), atFrontOf 0x01 r h s → reservedBad h = false → fenceMet s r h = false →
    canPark s r h = true → ∃ t, goesTo (.fence r) s t ∧ onlyChanges [.cmd] s t ∧ parks r h .fence s t)

/-- `CTX_OPEN` without selectors gives the lowest free ID to a context of its parameters, resident or spilled (R242,
R243); with a selector list it reads the list first. `CTX_CLOSE` of a context that has never been armed, or is saved,
releases it and completes with the frames written since its arm; an armed or paused one takes its DIGEST record and
waits for the frame that the record closes, and so does another ring's close of a closing context; once that frame is
written the close releases the context (R240, R241). -/
def Obligations.ContextsOpenAndClose : Prop :=
  (∀ (r : Nat) (h : Held) (res : Bool) (spill : Nat) (s : State), atFrontOf 0x10 r h s → openWords s h = none →
    dLen h 9 = 0 → placement s (fld (dw h 3) 0 2) (dAddr h 12) = some (res, spill) →
    firstGap 0 (s.obs.ctxs.map (·.1)) < 2 ^ 20 →
    ∃ t, goesTo (.ctxOpen r) s t ∧ onlyChanges [.smp, .cmd, .ctxs] s t ∧
      completes r h (if res then stOk else stSpilled) (lo32 (firstGap 0 (s.obs.ctxs.map (·.1)))) s t ∧
      ctxOf t (firstGap 0 (s.obs.ctxs.map (·.1))) = some (newCtx (ringPart s r) h res spill) ∧
      ∀ y, y ≠ firstGap 0 (s.obs.ctxs.map (·.1)) → ctxOf t y = ctxOf s y) ∧
  (∀ (r g : Nat) (h : Held) (s : State), atFrontOf 0x10 r h s → openWords s h = none → dLen h 9 ≠ 0 → readTag s g →
    isParked s r h = false →
    ∃ t, goesTo (.ctxOpen r) s t ∧ onlyChanges [.smp, .cmd] s t ∧ asks r h (dAddr h 10) (dLen h 9) g s t ∧
      (ringOf t r).cur = some { h with stage := .read 0 [] }) ∧
  (∀ (r : Nat) (h : Held) (c : CtxSt) (s : State), atFrontOf 0x11 r h s → reservedBad h = false →
    ctxOf s (dCtx h) = some c → c.closing = none → closesOf s (dCtx h) = [] → c.state = .opened ∨ c.state = .saved →
    ∃ t, goesTo (.ctxClose r) s t ∧ onlyChanges [.smp, .cmd, .ctxs, .wat, .evq, .obsRegs, .hed] s t ∧
      completes r h stOk (lo32 c.framesSinceArm) s t ∧ ctxOf t (dCtx h) = none) ∧
  (∀ (r : Nat) (h : Held) (c : CtxSt) (s : State), atFrontOf 0x11 r h s → reservedBad h = false →
    ctxOf s (dCtx h) = some c → c.closing = none → c.state = .armed ∨ c.state = .paused → canPark s r h = true →
    ∃ t d, goesTo (.ctxClose r) s t ∧ onlyChanges [.cmd, .ctxs, .wat, .evq, .obsRegs] s t ∧
      parks r h (.ctxFrame false) s t ∧ ctxOf t (dCtx h) = some d ∧ d.closing = some (engGt s) ∧
      ⟨engGt s, .digest true false false 0 0 0⟩ ∈ d.hold ∧ d.spans = (closeSpan (engGt s) c).spans ∧
      d.seq = c.seq ∧ d.waiters = c.waiters ++ [(r, h.seq)] ∧
      (∀ k w, k < 64 → watchOf t k = some w → w.ctx ≠ dCtx h)) ∧
  (∀ (r : Nat) (h : Held) (c : CtxSt) (s : State), atFrontOf 0x11 r h s → reservedBad h = false →
    ctxOf s (dCtx h) = some c → c.closing.isSome = true → canPark s r h = true →
    ∃ t, goesTo (.ctxClose r) s t ∧ onlyChanges [.cmd] s t ∧ parks r h (.ctxFrame false) s t) ∧
  (∀ (r : Nat) (h : Held) (c : CtxSt) (s : State), waits r h s → opOf h = 0x11 → h.stage = .ctxFrame true →
    ctxOf s (dCtx h) = some c → closesOf s (dCtx h) = [(r, h)] →
    ∃ t, goesTo (.parkedCommandComplete r h.seq) s t ∧ onlyChanges [.smp, .cmd, .ctxs, .hed] s t ∧
      ends r h stOk (lo32 c.framesSinceArm) s t ∧ ctxOf t (dCtx h) = none)

/-- `CTX_ARM` arms an open context whose partition has a trace region: SEQ, sums and stamps restart, records are
offered from its acceptance on, and an RFP record is written (R241, R344); where the job holds keys, its outbound key
advances by a generation (R282). `CTX_PAUSE` and `CTX_RESUME` end and begin the offering of records, with their
records.
`CTX_SAVE` of an armed or paused context gives it its DIGEST record, after its PAUSE record where it was armed, and waits
for the frame that the DIGEST record closes; once the image is written the context is SAVED; `CTX_RESTORE` of a saved
context reads the image first (R241, R244). -/
def Obligations.ContextsArmAndSave : Prop :=
  (∀ (r : Nat) (h : Held) (c : CtxSt) (s : State), atFrontOf 0x12 r h s → reservedBad h = false →
    ctxOf s (dCtx h) = some c → c.state = .opened → c.closing = none →
    (partOf s c.part).region.isSome = true → jobOf s c.part c.job = none →
    ∃ t d, goesTo (.ctxArm r) s t ∧ onlyChanges [.smp, .cmd, .ctxs, .cut, .hed, .egr] s t ∧ completes r h stOk 0 s t ∧
      ctxOf t (dCtx h) = some d ∧ d.state = .armed ∧ d.seq = 0 ∧ d.first = true ∧ d.content = 0 ∧ d.timing = 0 ∧
      d.ncanon = 0 ∧ d.refStamp = engGt s ∧ d.spans = (engGt s, none) :: c.spans ∧
      rfpRec s c.part 0 (engGt s) ∈ d.hold ∧ ∀ y, y ≠ dCtx h → ctxOf t y = ctxOf s y) ∧
  (∀ (r : Nat) (h : Held) (c : CtxSt) (k : JobKey) (g : Gen) (s : State), atFrontOf 0x12 r h s →
    reservedBad h = false → ctxOf s (dCtx h) = some c → c.state = .opened → c.closing = none →
    (partOf s c.part).region.isSome = true → jobOf s c.part c.job = some k → k.outb = [g] → noWrap s →
    ∃ t, goesTo (.ctxArm r) s t ∧ (ctxOf t (dCtx h)).map (·.state) = some .armed ∧
      (outGen t c.part c.job).map (·.gen) = some ((g.gen + 1) % 4)) ∧
  (∀ (r : Nat) (h : Held) (c : CtxSt) (s : State), atFrontOf 0x13 r h s → reservedBad h = false →
    ctxOf s (dCtx h) = some c → c.state = .armed → c.closing = none →
    ∃ t d, goesTo (.ctxPause r) s t ∧ onlyChanges [.smp, .cmd, .ctxs, .wat, .evq, .obsRegs] s t ∧
      completes r h stOk 0 s t ∧ ctxOf t (dCtx h) = some d ∧ d.state = .paused ∧ d.pauseStamp = engGt s ∧
      ⟨engGt s, .pause 0⟩ ∈ d.hold ∧ d.pauseBy = some (r, h.seq) ∧ d.spans = (closeSpan (engGt s) c).spans ∧ d.seq = c.seq) ∧
  (∀ (r : Nat) (h : Held) (c : CtxSt) (s : State), atFrontOf 0x14 r h s → reservedBad h = false →
    ctxOf s (dCtx h) = some c → c.state = .paused → c.closing = none →
    ∃ t, goesTo (.ctxResume r) s t ∧ onlyChanges [.smp, .cmd, .ctxs] s t ∧ completes r h stOk 0 s t ∧
      ctxOf t (dCtx h) = some { c with
        state := .armed, spans := (engGt s, none) :: c.spans, hold := holdRec ⟨engGt s, .resume 0 c.pauseStamp⟩ c.hold } ∧
      ∀ y, y ≠ dCtx h → ctxOf t y = ctxOf s y) ∧
  (∀ (r : Nat) (h : Held) (c : CtxSt) (s : State), atFrontOf 0x15 r h s → reservedBad h = false →
    ctxOf s (dCtx h) = some c → c.state = .armed ∨ c.state = .paused → c.closing = none → saving s (dCtx h) = false →
    canPark s r h = true →
    ∃ t d, goesTo (.ctxSave r) s t ∧ onlyChanges [.cmd, .ctxs, .wat, .evq, .obsRegs] s t ∧
      parks r h (.ctxFrame false) s t ∧ ctxOf t (dCtx h) = some d ∧ d.state = c.state ∧
      d.waiters = c.waiters ++ [(r, h.seq)] ∧ ⟨engGt s, .digest false false false 0 0 0⟩ ∈ d.hold ∧
      (c.state = .armed → ⟨engGt s, .pause 1⟩ ∈ d.hold ∧ d.pauseStamp = engGt s) ∧
      (c.state = .paused → d.pauseStamp = c.pauseStamp)) ∧
  (∀ (r units : Nat) (h : Held) (c : CtxSt) (s : State), waits r h s → opOf h = 0x15 →
    h.stage = .output units 0 false false → ctxOf s (dCtx h) = some c → c.state ≠ .saved →
    ∃ t d, goesTo (.parkedCommandComplete r h.seq) s t ∧ onlyChanges [.smp, .cmd, .ctxs, .hed] s t ∧
      ends r h stOk (lo32 units) s t ∧ ctxOf t (dCtx h) = some d ∧ d.state = .saved ∧ d.resident = false ∧
      d.spans = (closeSpan (engGt s) c).spans ∧ ∀ y, y ≠ dCtx h → ctxOf t y = ctxOf s y) ∧
  (∀ (r g : Nat) (h : Held) (c : CtxSt) (s : State), atFrontOf 0x16 r h s → reservedBad h = false →
    ctxOf s (dCtx h) = some c → c.state = .saved → dLen h 6 ≤ 8192 → readTag s g →
    isParked s r h = false →
    ∃ t, goesTo (.ctxRestore r) s t ∧ onlyChanges [.smp, .cmd] s t ∧
      asks r h (dAddr h 3) (min (dLen h 5) (saveUnits 4096)) g s t ∧
      (ringOf t r).cur = some { h with stage := .read 0 [] })

/-- `FREEZE_AT` on this instance schedules a software freeze at its T, or 1,024 GT on where T is 0 (R77, R79, Table 4.1),
and completes with the freeze's ID; an explicit T with too little lead completes with TIMEOUT. `EPOCH_SET` gives the
partition its schedule (R90, Table 4.6): OFF ends every standing schedule within 1,024 GT, PERIOD has its first
boundary at BASE plus a multiple of P, at least 1,024 GT on, and FSYNC sets no boundary before an edge.
`READ_SHADOW` of the freeze that the shadow bank holds writes its output (R88, R89); of a pending freeze it waits;
of a freeze no longer held it completes with ABORTED. -/
def Obligations.FreezesEpochsAndShadow : Prop :=
  (∀ (r T : Nat) (h : Held) (s : State), atFrontOf 0x20 r h s → reservedBad h = false → bit (dw h 5) 0 = false →
    (if pair (dw h 3) (dw h 4) = 0 then T = gtMod (engGt s + 1024) else T = pair (dw h 3) (dw h 4) ∧
      engGt s + 1024 ≤ T ∧ T ≤ engGt s + 2 ^ 40) →
    s.obs.hang.seq = none → (∀ f ∈ freezes s, f.t + 63 < T ∨ T + 63 < f.t) → s.obs.cut.sw.length < 4 →
    ∃ t f, goesTo (.freezeAt r) s t ∧ onlyChanges [.smp, .cmd, .cut] s t ∧
      completes r h stOk (lo32 (nextFreezeId s)) s t ∧ t.obs.cut.sw = s.obs.cut.sw ++ [f] ∧ f.t = T ∧
      f.id = nextFreezeId s ∧ f.own = [ringPart s r] ∧ t.obs.cut.hw = s.obs.cut.hw ∧
      t.obs.cut.main = s.obs.cut.main ∧ t.obs.cut.shadow = s.obs.cut.shadow) ∧
  (∀ (r : Nat) (h : Held) (s : State), atFrontOf 0x20 r h s → reservedBad h = false → bit (dw h 5) 0 = false →
    pair (dw h 3) (dw h 4) ≠ 0 → pair (dw h 3) (dw h 4) < engGt s + 1024 →
    ∃ t, goesTo (.freezeAt r) s t ∧ onlyChanges [.smp, .cmd] s t ∧ completes r h stTimeout 0 s t) ∧
  (∀ (r B : Nat) (h : Held) (s : State), atFrontOf 0x21 r h s → epochStatus h = none →
    B = (if pair (dw h 6) (dw h 7) = 0 then gtMod (engGt s + 1024) else pair (dw h 6) (dw h 7)) →
    ∃ t, goesTo (.epochSet r) s t ∧ onlyChanges [.smp, .cmd, .cut, .ctxs] s t ∧ completes r h stOk 0 s t ∧
      (∀ q, q ≠ ringPart s r → epochOf t q = epochOf s q) ∧
      (epochOf t (ringPart s r)).start = (epochOf s (ringPart s r)).start ∧
      (fld (dw h 3) 0 2 = 0 → ∀ e ∈ (epochOf t (ringPart s r)).entries, ∃ x, e.stop = some x ∧ x ≤ engGt s + 1024) ∧
      (fld (dw h 3) 0 2 = 1 → (epochOf t (ringPart s r)).entries.getLast? =
        some ⟨⟨1, pair (dw h 4) (dw h 5), B⟩, [firstBound B (pair (dw h 4) (dw h 5)) (engGt s + 1024)],
          some (firstBound B (pair (dw h 4) (dw h 5)) (engGt s + 1024)), none, none⟩) ∧
      (fld (dw h 3) 0 2 = 2 → (epochOf t (ringPart s r)).entries = (epochOf s (ringPart s r)).entries ++
        [⟨⟨2, 0, gtMod (engGt s + 1024)⟩, [], none, none, none⟩])) ∧
  (∀ (r : Nat) (h : Held) (b : Shadow) (s : State), atFrontOf 0x22 r h s → reservedBad h = false →
    freezeIssued s (fld (dw h 3) 0 16) = true → fld (dw h 4) 16 12 < s.build.units →
    fld (dw h 4) 0 12 ≤ fld (dw h 4) 16 12 → canPark s r h = true → s.obs.cut.shadow = some b →
    freezePending s (fld (dw h 3) 0 16) = false →
    (b.id = fld (dw h 3) 0 16 → ∃ t n, goesTo (.readShadow r) s t ∧ onlyChanges [.smp, .cmd] s t ∧
      parks r h (.output (ceilDiv (shadowOut s b (ringPart s r) h (!hasConsent s (ringPart s r) 0)).length 8) n false
        (!hasConsent s (ringPart s r) 0)) s t ∧
      t.obs.smp.pieces = s.obs.smp.pieces ++ piecesOf 6 (ringPart s r) (.out r h.seq false) (.out r h.seq true)
        (dAddr h 5) (shadowOut s b (ringPart s r) h (!hasConsent s (ringPart s r) 0))) ∧
    (b.id ≠ fld (dw h 3) 0 16 → ∃ t, goesTo (.readShadow r) s t ∧ onlyChanges [.smp, .cmd] s t ∧
      completes r h stAborted 0 s t)) ∧
  (∀ (r : Nat) (h : Held) (s : State), atFrontOf 0x22 r h s → reservedBad h = false →
    freezeIssued s (fld (dw h 3) 0 16) = true → fld (dw h 4) 16 12 < s.build.units →
    fld (dw h 4) 0 12 ≤ fld (dw h 4) 16 12 → canPark s r h = true → freezePending s (fld (dw h 3) 0 16) = true →
    ∃ t, goesTo (.readShadow r) s t ∧ onlyChanges [.cmd] s t ∧ parks r h .freeze s t)

/-- `ATTR_LOAD` reads its source, and a group of eight that passes the checks is written: each entry with VALID set
replaces its site's, the others leave it (R61, R404). `ATTR_CLEAR` clears VALID in its range (R62). A change of the
table changes no other site. -/
def Obligations.AttributionTable : Prop :=
  (∀ (r g : Nat) (h : Held) (s : State), atFrontOf 0x30 r h s → reservedBad h = false →
    fld (dw h 3) 0 20 % 8 = 0 → attrInside s (fld (dw h 3) 0 20) (8 * dLen h 6) = true → readTag s g →
    isParked s r h = false →
    ∃ t, goesTo (.attrLoad r) s t ∧ onlyChanges [.smp, .cmd] s t ∧ asks r h (dAddr h 4) (dLen h 6) g s t ∧
      (ringOf t r).cur = some { h with stage := .read 0 [] }) ∧
  (∀ (r tag : Nat) (h : Held) (q : Rd) (ws : List U64) (s : State), running s → s.obs.smp.rdOut = [q] → q.tag = tag →
    q.what = .cmd r h.seq 1 → q.units = 1 → ws.length = 8 → (ringOf s r).cur = some h → opOf h = 0x30 →
    h.stage = .read 1 [] → dLen h 6 = 1 → attrStatus s (ringPart s r) (fld (dw h 3) 0 20) ws = none →
    ∃ t, goesTo (.smpReadData tag ws false) s t ∧ onlyChanges [.smp, .cmd, .hed, .ctxs] s t ∧
      queues r h stOk (lo32 (attrCount ws)) s t ∧ (ringOf t r).cur = none ∧
      (∀ i w, ws[i]? = some w → smGet u64D t.obs.hed.attr (fld (dw h 3) 0 20 + i) =
        (if bit w 0 then w else smGet u64D s.obs.hed.attr (fld (dw h 3) 0 20 + i))) ∧
      (∀ x, x < fld (dw h 3) 0 20 ∨ fld (dw h 3) 0 20 + 8 ≤ x →
        smGet u64D t.obs.hed.attr x = smGet u64D s.obs.hed.attr x)) ∧
  (∀ (r : Nat) (h : Held) (s : State), atFrontOf 0x31 r h s → reservedBad h = false →
    fld (dw h 3) 0 20 ≤ fld (dw h 4) 0 20 → fld (dw h 4) 0 20 < s.build.attrEntries →
    (∀ x, fld (dw h 3) 0 20 ≤ x → x ≤ fld (dw h 4) 0 20 → attrForeign s (ringPart s r) x = false) →
    ∃ t n, goesTo (.attrClear r) s t ∧ onlyChanges [.smp, .cmd, .hed, .ctxs] s t ∧ completes r h stOk (lo32 n) s t ∧
      (∀ x, fld (dw h 3) 0 20 ≤ x → x ≤ fld (dw h 4) 0 20 → attrOf t x = none) ∧
      (∀ x, x < fld (dw h 3) 0 20 ∨ fld (dw h 4) 0 20 < x → attrOf t x = attrOf s x) ∧
      n = (s.obs.hed.attr.filter fun e => decide (fld (dw h 3) 0 20 ≤ e.1) && decide (e.1 ≤ fld (dw h 4) 0 20)
        && (attrOf s e.1).isSome).length)

/-- Lens slots (R118, R119, R121, R125): `LENS_BIND` gives the lowest free ID to a slot of its parameters, and its
channel entries read zero; `LENS_READ` of live images that are resident writes its output, and the image of a spilled
slot is read first; `LENS_RELEASE` unbinds the slot, and an unbound one stays so. No other slot changes.
The spare lane group takes the failed group's place (R128); a pair that finds no partner within 64 OBS cycles is
counted unbound (R116); and the front commit of a tap's queue, once the slot's image has been read, reaches the image,
which is written back (R120). -/
def Obligations.LensSlotsAndQueues : Prop :=
  (∀ (r : Nat) (h : Held) (s : State), atFrontOf 0x40 r h s → bindReserved s h = false → bindLength s h = false →
    s.obs.lens.oos = false → firstGap 0 (s.obs.lens.slots.map (·.1)) < 65536 → 0 < resFree s ∨ dAddr h 12 ≠ 0 →
    ∃ t x, goesTo (.lensBind r) s t ∧ onlyChanges [.smp, .cmd, .lens] s t ∧
      completes r h (if 0 < resFree s then stOk else stSpilled) (lo32 (firstGap 0 (s.obs.lens.slots.map (·.1)))) s t ∧
      x = slotOfDesc s (ringPart s r) h (decide (0 < resFree s)) ∧
      slotOf t (firstGap 0 (s.obs.lens.slots.map (·.1))) = some x ∧
      (∀ y, y ≠ firstGap 0 (s.obs.lens.slots.map (·.1)) → slotOf t y = slotOf s y) ∧
      (∀ i, x.chanBase ≤ i → i < x.chanBase + x.chanCount → smGet natD t.obs.lens.chan i = 0)) ∧
  (∀ (r : Nat) (h : Held) (s : State), atFrontOf 0x41 r h s → reservedBad h = false → fld (dw h 5) 0 16 = 0 →
    0 < fld (dw h 4) 0 16 → fld (dw h 3) 0 16 + fld (dw h 4) 0 16 ≤ 65536 → canPark s r h = true →
    freezePending s 0 = false → bit (dw h 5) 17 = false → s.obs.lens.spill = [] →
    (∀ k x, k ∈ readSlots h → slotOf s k = some x → x.part = ringPart s r → x.resident = true) →
    ∃ t n, goesTo (.lensRead r) s t ∧ onlyChanges [.smp, .cmd] s t ∧
      parks r h (.output (ceilDiv (lensOut s (ringPart s r) h (!hasConsent s (ringPart s r) 2)).length 8) n false
        (!hasConsent s (ringPart s r) 2)) s t ∧
      t.obs.smp.pieces = s.obs.smp.pieces ++ piecesOf 6 (ringPart s r) (.out r h.seq false) (.out r h.seq true)
        (dAddr h 6) (lensOut s (ringPart s r) h (!hasConsent s (ringPart s r) 2))) ∧
  (∀ (r k : Nat) (h : Held) (x : Slot) (s : State), atFrontOf 0x41 r h s → reservedBad h = false →
    fld (dw h 5) 0 16 = 0 → fld (dw h 3) 0 16 = k → fld (dw h 4) 0 16 = 1 → canPark s r h = true →
    freezePending s 0 = false → s.obs.lens.spill = [] → hasConsent s (ringPart s r) 2 = true → slotOf s k = some x →
    x.part = ringPart s r → x.resident = false → x.stored = true → spillWriting s k = false →
    ∃ t, goesTo (.lensRead r) s t ∧ onlyChanges [.smp, .cmd, .lens] s t ∧ parks r h .images s t ∧
      t.obs.lens.slots = s.obs.lens.slots ∧ t.obs.lens.chan = s.obs.lens.chan ∧
      t.obs.lens.spill = [⟨s.obs.lens.nextJob, k, .read r h.seq 0, some 36, []⟩] ∧
      t.obs.smp.pieces = s.obs.smp.pieces ++ (piecesOf 3 x.part (.lensRead s.obs.lens.nextJob)
        (.lensRead s.obs.lens.nextJob) x.spillAddr (List.replicate 288 0)).map fun p => { p with data := [] }) ∧
  (∀ (r : Nat) (h : Held) (s : State), atFrontOf 0x42 r h s → reservedBad h = false →
    slotOf s (fld (dw h 3) 0 16) = none →
    ∃ t, goesTo (.lensRelease r) s t ∧ onlyChanges [.smp, .cmd] s t ∧ completes r h stOk 0 s t) ∧
  (∀ (r : Nat) (h : Held) (x : Slot) (s : State), atFrontOf 0x42 r h s → reservedBad h = false →
    slotOf s (fld (dw h 3) 0 16) = some x → x.part = ringPart s r → x.resident = true → s.obs.lens.spill = [] →
    ∃ t, goesTo (.lensRelease r) s t ∧ onlyChanges [.smp, .cmd, .lens, .ctxs, .draws] s t ∧ completes r h stOk 0 s t ∧
      slotOf t (fld (dw h 3) 0 16) = none ∧ (∀ y, y ≠ fld (dw h 3) 0 16 → slotOf t y = slotOf s y) ∧
      (bit (dw h 3) 16 = false → t.obs.ctxs = s.obs.ctxs)) ∧
  (∀ s : State, running s → ∃ t, goesTo .laneSpareConnected s t ∧ onlyChanges [.lens] s t ∧
    t.obs.lens = { s.obs.lens with replacing := none }) ∧
  (∀ (p : PairSt) (s : State), running s → s.obs.lens.pairs = [p] → p.joined = false →
    p.since + 64 * incOf s.aon.pwr.ratio ≤ now s →
    ∃ t, goesTo .pairWindowExpiry s t ∧ onlyChanges [.lens] s t ∧ t.obs.lens.pairs = [] ∧
      t.obs.lens.unb0 = sat (2 ^ 48 - 1) (s.obs.lens.unb0 + (p.q0.length + p.lost0)) ∧
      t.obs.lens.unb1 = s.obs.lens.unb1 ∧ t.obs.lens.slots = s.obs.lens.slots ∧
      ∀ st, tapOf s 0 = some st → st.pairOf = some p.id → tapOf t 0 = some { st with pairOf := none, slot := none }) ∧
  (∀ (tap : Nat) (i : Img) (q : SpillQ) (x : Slot) (s : State), running s → s.obs.lens.spill = [q] →
    q.what = .commit (some tap) [(0, i)] → spillReady q = true → slotOf s q.slot = some x → x.resident = false →
    x.lostDue = 0 → (partOf s x.part).state = 1 →
    ∃ t y, goesTo (.spillCommitDone tap) s t ∧ onlyChanges [.lens, .smp, .draws] s t ∧ t.obs.lens.spill = [] ∧
      slotOf t q.slot = some y ∧ y.live = imgAdd s.draws (spillLoad q x).live i ∧ y.stored = true ∧
      t.obs.smp.pieces = s.obs.smp.pieces ++ piecesOf 3 x.part (.lensSpill q.slot) (.lensSpill q.slot) x.spillAddr
        (imageWords ⟨q.slot, 0, 0, false, false, false⟩ y y.live) ∧
      ∀ j, j ≠ q.slot → slotOf t j = slotOf s j)

/-- Watches (R148, R158): `WATCH_ARM` gives the lowest free ID to a watch of its parameters, and one of SOURCE 2 starts
its dump at once; `WATCH_DISARM` of a watch without a dump ends it, with its completed and missed counts as the result;
of no armed watch it completes with 0.
`HANG_DUMP` (R161, R162): SET_AREA names or removes the partition's dump area, SET_WDOG arms or disarms the watchdogs
of its units from its acceptance on, REQUEST of partition 0 starts a hang sequence of cause 2, and RELEASE frees the
held area. -/
def Obligations.WatchAndHangCommands : Prop :=
  (∀ (r id : Nat) (h : Held) (s : State), atFrontOf 0x50 r h s →
    watchStatus s (ringPart s r) (watchOfDesc s (ringPart s r) h) h = none →
    lowestFree 64 (s.obs.wat.watches.map (·.1)) = some id → fld (dw h 4) 28 2 ≠ 2 →
    ∃ t, goesTo (.watchArm r) s t ∧ onlyChanges [.smp, .cmd, .wat] s t ∧ completes r h stOk (lo32 id) s t ∧
      watchOf t id = some (watchOfDesc s (ringPart s r) h) ∧ t.obs.wat.dumps = s.obs.wat.dumps ∧
      ∀ k, k ≠ id → watchOf t k = watchOf s k) ∧
  (∀ (r id : Nat) (h : Held) (c : CtxSt) (s : State), atFrontOf 0x50 r h s →
    watchStatus s (ringPart s r) (watchOfDesc s (ringPart s r) h) h = none →
    lowestFree 64 (s.obs.wat.watches.map (·.1)) = some id → fld (dw h 4) 28 2 = 2 → ctxOf s (dCtx h) = some c →
    ctxArmed c = true → c.closing = none → s.obs.wat.dumps.length < 16 →
    ∃ t, goesTo (.watchArm r) s t ∧ onlyChanges [.smp, .cmd, .wat, .ctxs] s t ∧ completes r h stOk (lo32 id) s t ∧
      (watchOf t id).map (·.started) = some 1 ∧ t.obs.wat.dumps.length = s.obs.wat.dumps.length + 1 ∧
      ∀ k, k ≠ id → watchOf t k = watchOf s k) ∧
  (∀ (r : Nat) (h : Held) (s : State), atFrontOf 0x51 r h s → reservedBad h = false →
    watchOf s (fld (dw h 3) 0 6) = none →
    ∃ t, goesTo (.watchDisarm r) s t ∧ onlyChanges [.smp, .cmd] s t ∧ completes r h stOk 0 s t) ∧
  (∀ (r : Nat) (h : Held) (w : Watch) (s : State), atFrontOf 0x51 r h s → reservedBad h = false →
    watchOf s (fld (dw h 3) 0 6) = some w → w.part = ringPart s r → dumping s (fld (dw h 3) 0 6) = false →
    bit (dw h 3) 8 = false →
    ∃ t, goesTo (.watchDisarm r) s t ∧ onlyChanges [.smp, .cmd, .wat] s t ∧
      completes r h stOk (lo32 (sat 0xFFFF w.completed + w.missed * 2 ^ 16)) s t ∧
      watchOf t (fld (dw h 3) 0 6) = none ∧ ∀ k, k ≠ fld (dw h 3) 0 6 → watchOf t k = watchOf s k) ∧
  (∀ (r : Nat) (h : Held) (s : State), atFrontOf 0x52 r h s → fld (dw h 3) 0 4 = 0 →
    outside [0xF, 0xFFFFFFFF, 0xFFFF, 0xFFFFFF] h = false → areaBusy s (ringPart s r) = false →
    ∃ t, goesTo (.hangDumpSetArea r) s t ∧ onlyChanges [.smp, .cmd, .hang] s t ∧ completes r h stOk 0 s t ∧
      areaOf t (ringPart s r) = (if dAddr h 4 = 0 then none else some ⟨dAddr h 4, dLen h 6, false⟩) ∧
      t.obs.hang.seq = s.obs.hang.seq ∧ ∀ q, q ≠ ringPart s r → areaOf t q = areaOf s q) ∧
  (∀ (r : Nat) (h : Held) (s : State), atFrontOf 0x52 r h s → fld (dw h 3) 0 4 = 1 →
    outside [0xF, 0xFFF, 0xFFF, 0x33F] h = false →
    (fld (dw h 6) 0 6 = 0 ∨ (10 ≤ fld (dw h 6) 0 6 ∧ fld (dw h 6) 0 6 ≤ 40)) →
    fld (dw h 4) 0 12 ≤ fld (dw h 5) 0 12 → fld (dw h 5) 0 12 < s.build.units →
    (∀ u, fld (dw h 4) 0 12 ≤ u → u ≤ fld (dw h 5) 0 12 → (unitOf s u).owner = ringPart s r) →
    ∃ t, goesTo (.hangDumpSetWdog r) s t ∧ onlyChanges [.smp, .cmd, .hed] s t ∧ completes r h stOk 0 s t ∧
      (∀ u, fld (dw h 4) 0 12 ≤ u → u ≤ fld (dw h 5) 0 12 →
        unitOf t u = { unitOf s u with wdog := newWdog h (engGt s) }) ∧
      ∀ u, u < fld (dw h 4) 0 12 ∨ fld (dw h 5) 0 12 < u → unitOf t u = unitOf s u) ∧
  (∀ (r : Nat) (h : Held) (s : State), atFrontOf 0x52 r h s → fld (dw h 3) 0 4 = 2 → outside [0xF] h = false →
    ringPart s r = 0 → s.obs.hang.seq = none → s.obs.cut.hw = none →
    ∃ t q, goesTo (.hangDumpRequest r) s t ∧ completes r h stOk 0 s t ∧ t.obs.hang.seq = some q ∧ q.cause = 2 ∧
      q.g = engGt s ∧ q.t = gtMod (engGt s + 1024) ∧ q.firstUnit = 0xFFF ∧ irqLine t 4 = true) ∧
  (∀ (r : Nat) (h : Held) (s : State), atFrontOf 0x52 r h s → fld (dw h 3) 0 4 = 3 → outside [0xF] h = false →
    ∃ t, goesTo (.hangDumpRelease r) s t ∧ onlyChanges [.smp, .cmd, .hang] s t ∧ completes r h stOk 0 s t ∧
      areaOf t (ringPart s r) = (areaOf s (ringPart s r)).map (fun a => { a with held := false }) ∧
      ∀ q, q ≠ ringPart s r → areaOf t q = areaOf s q)

/-- Sentinel watches and the governor's settings (R248, R256, R355): `SENT_ARM` arms a free watch with its parameters,
`SENT_DISARM` disarms the partition's own and leaves every line as it is, and `GOV_SET` takes SHARE, FIXED and GOVREQ,
the pad area, and restarts the credit. -/
def Obligations.SentinelAndGovernorAreSet : Prop :=
  (∀ (r : Nat) (h : Held) (s : State), atFrontOf 0x60 r h s → reservedBad h = false →
    kindBad false (fld (dw h 6) 0 4) (fld (dw h 4) 16 16) (fld (dw h 4) 0 16) = false →
    kindBad true (fld (dw h 6) 4 4) (fld (dw h 5) 16 16) (fld (dw h 5) 0 16) = false →
    2048 ≤ pair (dw h 7) (dw h 8) → (swatchOf s (fld (dw h 3) 0 8)).armed = false →
    fld (dw h 3) 8 4 &&& granted s (ringPart s r) = fld (dw h 3) 8 4 →
    ∃ t, goesTo (.sentArm r) s t ∧ onlyChanges [.smp, .cmd, .sen] s t ∧ completes r h stOk 0 s t ∧
      swatchOf t (fld (dw h 3) 0 8) = sentOfDesc (ringPart s r) h ∧ t.aon.sen.lines = s.aon.sen.lines ∧
      ∀ w, w ≠ fld (dw h 3) 0 8 → swatchOf t w = swatchOf s w) ∧
  (∀ (r : Nat) (h : Held) (s : State), atFrontOf 0x61 r h s → reservedBad h = false →
    (swatchOf s (fld (dw h 3) 0 8)).part = ringPart s r →
    ∃ t, goesTo (.sentDisarm r) s t ∧ onlyChanges [.smp, .cmd, .sen] s t ∧ completes r h stOk 0 s t ∧
      (swatchOf t (fld (dw h 3) 0 8)).armed = false ∧ t.aon.sen.lines = s.aon.sen.lines ∧
      ∀ w, w ≠ fld (dw h 3) 0 8 → swatchOf t w = swatchOf s w) ∧
  (∀ (r : Nat) (h : Held) (s : State), atFrontOf 0x62 r h s → reservedBad h = false → 5 ≤ fld (dw h 3) 0 7 →
    fld (dw h 3) 0 7 ≤ 100 → (bit (dw h 3) 16 = true → padAddr s ≠ 0 ∧ inWin s 0 (padAddr s) 64 = true) →
    ∃ t, goesTo (.govSet r) s t ∧ onlyChanges [.smp, .cmd, .pwr] s t ∧ completes r h stOk 0 s t ∧
      t.obs.smp.share = fld (dw h 3) 0 7 ∧ t.obs.smp.fixed = bit (dw h 3) 16 ∧
      t.obs.smp.govreq = (bit (dw h 3) 17 && s.build.sentinel) ∧ t.obs.smp.pad = padAddr s ∧ t.obs.smp.credit = 0)

/-! ## Privet (chapter 12) -/

/-- `PART_CREATE` reads its page table first; firmware's verdict on a good key opens the partition with its region, its
tenant key and no consent (R268). `PART_CLOSE` of an open partition begins its drain: state CLOSING, no watch of the
partition left (R269). `SCRUB` of a CLOSED partition waits for firmware in state SCRUBBING, and its end completes the
command and leaves the partition FREE, its units with partition 0 (R271).
The steps of `PART_CLOSE` (Table 12.3): with every record before A placed the partition is DRAINING; with the drain
complete, or 160,000 GT after it began, its keys are erased, its consent is 0 and it is CLOSED, and the command
completes with OK (R269). -/
def Obligations.Partitions : Prop :=
  (∀ (r g : Nat) (h : Held) (s : State), atFrontOf 0x70 r h s → reservedBad h = false → createStatus s h = none →
    canPark s r h = true → readTag s g →
    ∃ t, goesTo (.partCreate r) s t ∧ onlyChanges [.smp, .cmd] s t ∧
      asks r h (dAddr h 6) (ceilDiv (8 * npages h) 64) g s t ∧ parks r h (.read 0 []) s t) ∧
  (∀ (r : Nat) (h : Held) (d : Nat) (got : List (List U64)) (s : State), waits r h s → opOf h = 0x70 →
    h.stage = .firmware d got → now s < d → fwRuns s = true → createStatus s h = none → dPart h ≠ 0 →
    (gotBytes got 1).length = 128 → s.obs.ctxs = [] → s.obs.wat.dumps = [] →
    ∃ t, goesTo (.parkedCommandComplete r h.seq) s t ∧
      (keyGood (gotBytes got 1) = true → ends r h stOk 0 s t ∧ (partOf t (dPart h)).state = 1 ∧
        (partOf t (dPart h)).consent = 0 ∧ tenantKey t (dPart h) = some ((gotBytes got 1).take 97) ∧
        (partOf t (dPart h)).region.map (fun x => (x.npages, x.ptAddr, x.cbAddr, x.wr)) =
          some (npages h, dAddr h 6, dAddr h 9, 0)) ∧
      (keyGood (gotBytes got 1) = false → ends r h stBadFormat 0 s t ∧ onlyChanges [.smp, .cmd] s t)) ∧
  (∀ (r : Nat) (h : Held) (s : State), atFrontOf 0x71 r h s → reservedBad h = false → dPart h ≠ 0 →
    (partOf s (dPart h)).state = 1 → ringPart s r = 0 → canPark s r h = true → noWrap s →
    ∃ t, goesTo (.partClose r) s t ∧ parks r h (.partClose (engGt s) 0 0 1) s t ∧ (partOf t (dPart h)).state = 2 ∧
      (∀ k w, k < 64 → watchOf t k = some w → w.part ≠ dPart h) ∧
      ∀ q, q ≠ dPart h → (partOf t q).state = (partOf s q).state) ∧
  (∀ (r : Nat) (h : Held) (s : State), atFrontOf 0x74 r h s → reservedBad h = false → (partOf s (dPart h)).state = 4 →
    canPark s r h = true →
    ∃ t, goesTo (.scrub r) s t ∧ onlyChanges [.cmd, .prv, .evq, .obsRegs] s t ∧
      parks r h (.scrub (engGt s + 3200000)) s t ∧ (partOf t (dPart h)).state = 5 ∧
      ∀ q, q ≠ dPart h → partOf t q = partOf s q) ∧
  (∀ (r : Nat) (h : Held) (d : Nat) (s : State), waits r h s → opOf h = 0x74 → h.stage = .scrub d → now s < d →
    fwRuns s = true →
    ∃ t, goesTo (.parkedCommandComplete r h.seq) s t ∧ queues r h stOk 0 s t ∧ (partOf t (dPart h)).state = 0 ∧
      (partOf t (dPart h)).consent = 0 ∧ (partOf t (dPart h)).region = none ∧ areaOf t (dPart h) = none ∧
      stepOf t (dPart h) = 0 ∧ epochOf t (dPart h) = epochD (dPart h) ∧
      (∀ u, u < s.build.units → (unitOf s u).owner = dPart h → (unitOf t u).owner = 0)) ∧
  (∀ (p r d : Nat) (h : Held) (s : State), running s → closingOf s p = some (r, h, d) → (partOf s p).state = 2 →
    (∀ x c, ctxOf s x = some c → c.part = p → c.hold = [] ∧ c.frame = none) →
    ∃ t, goesTo (.partCloseDraining p) s t ∧ onlyChanges [.cmd, .prv, .evq, .obsRegs] s t ∧ (partOf t p).state = 3 ∧
      ∀ q, q ≠ p → partOf t q = partOf s q) ∧
  (∀ (p r d : Nat) (h : Held) (s : State), running s → closingOf s p = some (r, h, d) → (partOf s p).state = 3 →
    (drainBusy s p = false ∨ d + 160000 ≤ engGt s) →
    ∃ t, goesTo (.partCloseDrainEnd p) s t ∧ queues r h stOk 0 s t ∧ (partOf t p).state = 4 ∧ (partOf t p).consent = 0 ∧
      tenantKey t p = none ∧ smGet noneD t.aon.keys.devset p = none ∧ (∀ j, jobOf t p j = none) ∧
      (∀ q j, q ≠ p → jobOf t q j = jobOf s q j) ∧ ∀ q, q ≠ p → (partOf t q).state = (partOf s q).state)

/-- Keys and consent (R273, R274, R280 to R283): `KEY_INSTALL` and `CONSENT_LOAD` read their buffers first, and
firmware's verdict decides them: the keys become generation 0 of both directions of the job, or the device-set key;
the consent bits come into force and are the result. `KEY_ROTATE` advances a direction by one generation modulo 4 and
waits for the previous one, which is erased at the latest 2^ROT_TO GT after the advance; it then completes with the
new generation, with OK, or with TIMEOUT where frames were still unacknowledged. -/
def Obligations.KeysAndConsent : Prop :=
  (∀ (r g : Nat) (h : Held) (s : State), atFrontOf 0x72 r h s → reservedBad h = false → dLen h 6 = 5 →
    canPark s r h = true → readTag s g →
    ∃ t, goesTo (.keyInstall r) s t ∧ onlyChanges [.smp, .cmd] s t ∧ asks r h (dAddr h 4) 5 g s t ∧
      parks r h (.read 0 []) s t) ∧
  (∀ (r d : Nat) (h : Held) (got : List (List U64)) (s : State), waits r h s → opOf h = 0x72 →
    h.stage = .firmware d got → now s < d → fwRuns s = true →
    ∃ t, goesTo (.parkedCommandComplete r h.seq) s t ∧
      (∀ ks, installKeys s (ringPart s r) h (gotBytes got 0) = .ok ks → keyDevset h = false →
        ends r h stOk 0 s t ∧ t.aon.keys.jobs = s.aon.keys.jobs ++
          [⟨ringPart s r, keyJob h, [⟨0, ks.take 32, engGt s, []⟩], [⟨0, ks.drop 32, engGt s, []⟩]⟩]) ∧
      (∀ ks, installKeys s (ringPart s r) h (gotBytes got 0) = .ok ks → keyDevset h = true →
        ends r h stOk 0 s t ∧ t.aon.keys.jobs = s.aon.keys.jobs ∧
        smGet noneD t.aon.keys.devset (ringPart s r) = some ⟨ks, bytesAt (gotBytes got 0) 12 4, 0⟩) ∧
      (∀ st, installKeys s (ringPart s r) h (gotBytes got 0) = .error st → queues r h st 0 s t ∧
        (st ≠ stNoConsent → t.aon.keys = s.aon.keys))) ∧
  (∀ (r g : Nat) (h : Held) (s : State), atFrontOf 0x75 r h s → reservedBad h = false → dLen h 5 = 3 →
    canPark s r h = true → readTag s g →
    ∃ t, goesTo (.consentLoad r) s t ∧ onlyChanges [.smp, .cmd] s t ∧ asks r h (dAddr h 3) 3 g s t ∧
      parks r h (.read 0 []) s t) ∧
  (∀ (r d : Nat) (h : Held) (got : List (List U64)) (s : State), waits r h s → opOf h = 0x75 →
    h.stage = .firmware d got → now s < d → fwRuns s = true →
    consentStatus s (ringPart s r) ((gotBytes got 0).take 192) = none →
    ∃ t, goesTo (.parkedCommandComplete r h.seq) s t ∧
      (consentGood s (ringPart s r) ((gotBytes got 0).take 192) = true →
        queues r h stOk (lo32 (leAt ((gotBytes got 0).take 192) 4 1)) s t ∧
        (partOf t (ringPart s r)).consent = leAt ((gotBytes got 0).take 192) 4 1 ∧
        (partOf t (ringPart s r)).serial = leAt ((gotBytes got 0).take 192) 8 4 ∧
        (partOf t (ringPart s r)).viol = 0) ∧
      (consentGood s (ringPart s r) ((gotBytes got 0).take 192) = false → queues r h stNoConsent 0 s t ∧
        (almAct s 4 ≠ 2 → (partOf t (ringPart s r)).consent = (partOf s (ringPart s r)).consent) ∧
        (partOf t (ringPart s r)).viol = sat 255 ((partOf s (ringPart s r)).viol + 1))) ∧
  (∀ (r : Nat) (h : Held) (g : Gen) (s : State), atFrontOf 0x73 r h s → reservedBad h = false →
    rotGens s r h = some [g] → canPark s r h = true → noWrap s →
    ∃ t k, goesTo (.keyRotate r) s t ∧ parks r h (.rotate ((g.gen + 1) % 4) 2 true) s t ∧
      jobOf t (ringPart s r) (keyJob h) = some k ∧ (gensOf k (keyDir h)).head?.map (·.gen) = some ((g.gen + 1) % 4)) ∧
  (∀ (r g : Nat) (clean : Bool) (h : Held) (x : Gen) (s : State), waits r h s → opOf h = 0x73 →
    h.stage = .rotate g 2 clean → rotGens s r h = some [x] →
    ∃ t, goesTo (.parkedCommandComplete r h.seq) s t ∧ onlyChanges [.smp, .cmd] s t ∧
      ends r h (if clean then stOk else stTimeout) (lo32 g) s t) ∧
  (∀ (p j dir : Nat) (k : JobKey) (a b : Gen) (s : State), running s → jobOf s p j = some k → gensOf k dir = [a, b] →
    a.since + 2 ^ fld (reg s aPrv) 0 6 ≤ now s →
    ∃ t, goesTo (.rotationTimeout p j dir) s t ∧ (jobOf t p j).map (fun x => gensOf x dir) = some [a] ∧
      ∀ i, i ≠ j → jobOf t p i = jobOf s p i)

/-! ## The command engine's own turns (chapter 10) -/

/-- `DESCRIPTOR_FETCH` (R225 to R227, R234): in its turn, a ring with descriptors posted and entries free has those read
that lie together, at most four; with no entry free it reports CQ_FULL once; out of its turn nothing happens. A parked command that waits for firmware past its bound
completes with TIMEOUT (R268, R274, R280).
Parked commands go on where their condition is met (R235, R236, R404): a fence completes; an output whose pieces are
all acknowledged completes with its units, or with ABORTED where one failed; a command whose earlier commands have
completed is taken up as at the front, here `NOP`; any other stays, and changes nothing. -/
def Obligations.EngineTurnsAndParked : Prop :=
  (∀ (r g n : Nat) (s : State), running s → r < 64 → s.aon.pwr.ready = true → (ringOf s r).en = true →
    (ringOf s r).reading = 0 → (ringOf s r).fetched = [] → (ringOf s r).parked.length < 8 → 0 < posted s r →
    0 < entriesFree s r → nextRing s = some r → readTag s g →
    n = min (min 4 (64 - (ringOf s r).head % 64)) (min (min (posted s r) (entriesFree s r))
      (ringN s r - (ringOf s r).head)) →
    ∃ t, goesTo (.descriptorFetch r) s t ∧ onlyChanges [.smp, .cmd] s t ∧ ringOf t r = { ringOf s r with reading := n } ∧
      t.obs.smp.rdOut = s.obs.smp.rdOut ++ [⟨g, sidOf s (ringPart s r), .desc r n,
        (ringOf s r).base + 64 * (ringOf s r).head, n⟩] ∧ ∀ q, q ≠ r → ringOf t q = ringOf s q) ∧
  (∀ (r : Nat) (s : State), running s → r < 64 → s.aon.pwr.ready = true → (ringOf s r).en = true →
    (ringOf s r).reading = 0 → (ringOf s r).fetched = [] → (ringOf s r).parked.length < 8 → 0 < posted s r →
    entriesFree s r = 0 → (ringOf s r).full = false → nextRing s = some r →
    ∃ t, goesTo (.descriptorFetch r) s t ∧ onlyChanges [.cmd, .evq, .obsRegs] s t ∧
      ringOf t r = { ringOf s r with full := true } ∧ t.obs.evq.holds ≠ []) ∧
  (∀ (r : Nat) (s : State), running s → frontOf s r = none → nextRing s ≠ some r →
    exec (.descriptorFetch r) s = .next s) ∧
  (∀ (r d : Nat) (h : Held) (got : List (List U64)) (s : State), waits r h s → h.stage = .firmware d got → d ≤ now s →
    ∃ t, goesTo (.firmwareVerdictTimeout r h.seq) s t ∧ onlyChanges [.smp, .cmd] s t ∧ ends r h stTimeout 0 s t) ∧
  (∀ (r : Nat) (h : Held) (s : State), waits r h s → h.stage = .fence → bit (dw h 3) 0 = false →
    (fenceMet s r h = true → ∃ t, goesTo (.parkedCommandComplete r h.seq) s t ∧ onlyChanges [.smp, .cmd] s t ∧
      ends r h stOk 0 s t) ∧
    (fenceMet s r h = false → exec (.parkedCommandComplete r h.seq) s = .next s)) ∧
  (∀ (r units left : Nat) (err : Bool) (h : Held) (s : State), waits r h s → h.stage = .output units left err false →
    opOf h ≠ 0x22 → opOf h ≠ 0x15 →
    (left = 0 → ∃ t, goesTo (.parkedCommandComplete r h.seq) s t ∧ onlyChanges [.smp, .cmd] s t ∧
      ends r h (if err then stAborted else stOk) (if err then 0 else lo32 units) s t) ∧
    (left ≠ 0 → exec (.parkedCommandComplete r h.seq) s = .next s)) ∧
  (∀ (r : Nat) (h : Held) (s : State), waits r h s → h.stage = .serial → opOf h = 0 → mustWait s r h = none →
    common s r h = none → reservedBad h = false →
    ∃ t, goesTo (.parkedCommandComplete r h.seq) s t ∧ onlyChanges [.smp, .cmd] s t ∧ ends r h stOk 0 s t)

/-! ## The Numeric Lens (chapter 5) -/

/-- One beat that is a whole stream: on a site without attribution its elements are counted unbound (R102); on a site
that a resident slot takes, its elements and one stream reach the slot's live image, and no other slot changes (R120,
with no cut pending). A beat on which a lane group fails its residue check, while the spare group is free, has the
spare take its place, with FSTAT.LENS_SPARE and `IRQ[7]` set (R127, R128). -/
def Obligations.TapBeats : Prop :=
  (∀ (tap : Nat) (b : Beat) (s : State), running s → s.build.lens = true → tap < 2 → tapOf s tap = none →
    s.obs.lens.inject = [] → b.fails = none → b.first = true → b.last = true → attrOf s (b.site % 2 ^ 20) = none →
    ∃ t, goesTo (.tapBeat tap b) s t ∧ onlyChanges [.lens, .obsRegs, .wat] s t ∧ tapOf t tap = none ∧
      t.obs.lens.slots = s.obs.lens.slots ∧
      (if tap = 0 then t.obs.lens.unb0 = sat (2 ^ 48 - 1) (s.obs.lens.unb0 + min b.count (fmtFull b.fmt)) ∧
          t.obs.lens.unb1 = s.obs.lens.unb1
        else t.obs.lens.unb1 = sat (2 ^ 48 - 1) (s.obs.lens.unb1 + min b.count (fmtFull b.fmt)) ∧
          t.obs.lens.unb0 = s.obs.lens.unb0)) ∧
  (∀ (tap k : Nat) (b : Beat) (x : Slot) (s : State), running s → s.build.lens = true → tap < 2 → tapOf s tap = none →
    rowsOf s tap = [] → s.obs.lens.inject = [] → s.obs.lens.replacing = none → s.obs.lens.pairs = [] →
    s.obs.wat.watches = [] → s.obs.wat.dumps = [] → b.first = true → b.last = true → b.rowv = false → b.fails = none →
    b.count ≤ fmtFull b.fmt → b.count < 1024 →
    slotFor s tap (newStream s b (tapHorizon s tap)) = some k → slotOf s k = some x → x.pair = false →
    x.resident = true → (partOf s x.part).state = 1 → pendCuts s x.part = [] →
    ∃ t y, goesTo (.tapBeat tap b) s t ∧ onlyChanges [.lens, .ctxs, .draws] s t ∧ tapOf t tap = none ∧
      slotOf t k = some y ∧ y.live.elems = sat (2 ^ 48 - 1) (x.live.elems + b.count) ∧
      y.live.streams = sat (2 ^ 32 - 1) (x.live.streams + 1) ∧ y.buf = x.buf ∧
      t.obs.lens.unb0 = s.obs.lens.unb0 ∧ t.obs.lens.unb1 = s.obs.lens.unb1 ∧
      ∀ j, j ≠ k → slotOf t j = slotOf s j) ∧
  (∀ (tap g : Nat) (b : Beat) (s : State), running s → s.build.lens = true → tap < 2 → tapOf s tap = none →
    s.obs.lens.inject = [] → s.obs.lens.oos = false → s.obs.lens.spareUsed = false → b.fails = some g → g < 8 →
    b.first = true → b.last = true → attrOf s (b.site % 2 ^ 20) = none →
    ∃ t, goesTo (.tapBeat tap b) s t ∧ tapOf t tap = none ∧ t.obs.lens.spareUsed = true ∧ t.obs.lens.oos = false ∧
      t.obs.lens.failed = 8 * tap + g ∧ t.obs.lens.replacing = some (8 * tap + g) ∧
      bit (reg t (aFlt + 0x110)) 4 = true ∧ irqLine t 7 = true ∧ t.obs.lens.slots = s.obs.lens.slots)

/-! ## The egress port (chapter 13) -/

/-- `EGR_OPEN` reads its credential first (R296). `EGR_CLOSE` of a closed port completes at once; with DRAIN set, while
the link is up and holds frames, it lets them drain and waits; without it the frames are lost and the link goes down
with LOCAL_CLOSE (R307).
Training ends (R292, R296, R297): in loopback the port is in LOOP and the command completes; else HELLO is sent and
the port authenticates; a retraining of a link in use ends without a change of state, and loses no frame. A retraining
begins at its GT.
The link goes down (R305): each of its reasons leaves the port CLOSED, with the reason in LAST_DOWN, no slot held,
its keys gone and the LINK_DOWN bit and line set: a retraining past its bound (1, R292), loss of light (2, R293), silence
for 2^20 GT (4, R295). An opening past its bounds ends its command (R296). -/
def Obligations.EgressLink : Prop :=
  (∀ (r g : Nat) (h : Held) (s : State), atFrontOf 0x80 r h s → reservedBad h = false → fld (dw h 6) 0 2 < 2 →
    fld (dw h 6) 3 13 = 0 → dLen h 5 = 3 → canPark s r h = true → readTag s g →
    ∃ t, goesTo (.egrOpen r) s t ∧ onlyChanges [.smp, .cmd] s t ∧ asks r h (dAddr h 3) 3 g s t ∧
      parks r h (.read 0 []) s t) ∧
  (∀ (r : Nat) (h : Held) (s : State), atFrontOf 0x81 r h s → reservedBad h = false → s.obs.egr.state = 0 →
    ∃ t, goesTo (.egrClose r) s t ∧ onlyChanges [.smp, .cmd] s t ∧ completes r h stOk 0 s t) ∧
  (∀ (r : Nat) (h : Held) (s : State), atFrontOf 0x81 r h s → reservedBad h = false → s.obs.egr.state = 3 →
    bit (dw h 3) 0 = true → s.obs.egr.slots ≠ [] → canPark s r h = true →
    ∃ t, goesTo (.egrClose r) s t ∧ onlyChanges [.cmd, .egr] s t ∧ parks r h (.egrClose (now s)) s t ∧
      t.obs.egr = { s.obs.egr with state := 4, closeAt := now s, cmd := some (r, h.seq) }) ∧
  (∀ (r : Nat) (h : Held) (s : State), atFrontOf 0x81 r h s → reservedBad h = false → s.obs.egr.state ≠ 0 →
    bit (dw h 3) 0 = false →
    ∃ t, goesTo (.egrClose r) s t ∧ queues r h stOk 0 s t ∧ t.obs.egr.state = 0 ∧ t.obs.egr.slots = [] ∧
      t.obs.egr.lastDown = 7 ∧ bit (reg t (aEgr + 0x1C)) 1 = true) ∧
  (∀ (r seq : Nat) (h : Held) (rep : Bool) (s : State), running s → s.obs.egr.state = 1 → s.obs.egr.loopback = true →
    s.obs.egr.cmd = some (r, seq) → (ringOf s r).cur = none →
    (ringOf s r).parked.find? (fun x => x.seq == seq) = some h →
    ∃ t, goesTo (.ucieTrainingDone 8 rep) s t ∧ onlyChanges [.egr, .smp, .cmd] s t ∧ ends r h stOk 0 s t ∧
      t.obs.egr.state = 5 ∧ t.obs.egr.lanes = 8 ∧ t.obs.egr.cmd = none) ∧
  (∀ (rep : Bool) (s : State), running s → s.obs.egr.state = 1 → s.obs.egr.loopback = false →
    s.obs.egr.wantLanes = 16 → s.obs.egr.link.kept = [] → s.obs.egr.link.waiting = [] →
    ∃ t m, goesTo (.ucieTrainingDone 16 rep) s t ∧ onlyChanges [.egr, .cmd, .draws] s t ∧ t.obs.egr.state = 2 ∧
      t.obs.egr.lanes = 16 ∧ t.obs.egr.helloAt = now s ∧ t.obs.egr.hello = m ∧ leAt m 0 1 = 1 ∧
      t.obs.egr.link.kept.map (fun k => (k.ftype, k.payload)) = [(2, padTo 232 m)]) ∧
  (∀ (lanes : Nat) (rep : Bool) (s : State), running s → lanes = 8 ∨ lanes = 16 → 2 ≤ s.obs.egr.state →
    s.obs.egr.retraining.isSome = true →
    ∃ t, goesTo (.ucieTrainingDone lanes rep) s t ∧ onlyChanges [.egr] s t ∧ t.obs.egr.state = s.obs.egr.state ∧
      t.obs.egr.lanes = lanes ∧ t.obs.egr.retraining = none ∧
      t.obs.egr.slots.map (fun e => (e.frame, e.fnaks)) = s.obs.egr.slots.map (fun e => (e.frame, e.fnaks))) ∧
  (∀ s : State, running s → 2 ≤ s.obs.egr.state → s.obs.egr.retraining = none →
    ∃ t, goesTo .retrainingStart s t ∧ onlyChanges [.egr] s t ∧
      t.obs.egr = { s.obs.egr with retraining := some (now s) }) ∧
  (∀ (g : Nat) (s : State), running s → s.obs.egr.state ≠ 0 → s.obs.egr.retraining = some g → g + 1600000 ≤ now s →
    ∃ t, goesTo .retrainTimeout s t ∧ t.obs.egr.state = 0 ∧ t.obs.egr.slots = [] ∧ t.obs.egr.lastDown = 1 ∧
      t.obs.egr.outKey = [] ∧ t.obs.egr.inKey = [] ∧ bit (reg t (aEgr + 0x1C)) 1 = true) ∧
  (∀ (l : Bool) (s : State), running s → s.obs.egr.state ≠ 0 →
    ∃ t, goesTo (.opticalStatusPoll true l) s t ∧ t.obs.egr.state = 0 ∧ t.obs.egr.slots = [] ∧
      t.obs.egr.lastDown = 2 ∧ t.obs.egr.outKey = [] ∧ bit (reg t (aEgr + 0x1C)) 1 = true) ∧
  (∀ s : State, running s → exec (.opticalStatusPoll false false) s = .next s) ∧
  (∀ s : State, running s → 2 ≤ s.obs.egr.state → s.obs.egr.link.lastFlit + 2 ^ 20 ≤ now s →
    ∃ t, goesTo .silenceTimeout s t ∧ t.obs.egr.state = 0 ∧ t.obs.egr.slots = [] ∧ t.obs.egr.lastDown = 4 ∧
      t.obs.egr.outKey = [] ∧ bit (reg t (aEgr + 0x1C)) 1 = true) ∧
  (∀ (r seq g : Nat) (h : Held) (s : State), running s → s.obs.egr.cmd = some (r, seq) → heldOf s r seq = some h →
    h.stage = .egrOpen 1 g → s.obs.egr.state = 1 → s.obs.egr.slots = [] → g + 1600000 ≤ now s →
    ∃ t, goesTo .egrTrainingTimeout s t ∧ queues r h (openLate s) 0 s t ∧ t.obs.egr.state = 0 ∧
      t.obs.egr.lastDown = 1 ∧ t.obs.egr.cmd = none) ∧
  (∀ (r seq g : Nat) (h : Held) (s : State), running s → s.obs.egr.cmd = some (r, seq) → heldOf s r seq = some h →
    h.stage = .egrOpen 2 g → g + 160000000 ≤ now s →
    ∃ t, goesTo .acceptTimeout s t ∧ onlyChanges [.egr, .smp, .cmd] s t ∧ queues r h (openLate s) 0 s t ∧
      t.obs.egr.state = 0 ∧ t.obs.egr.cmd = none)

/-- A flit of the station (R294, R295): a good one with a new FSEQ and a message of a type of Table 13.4 puts the message
into the inbox; a bad CRC takes nothing but sets NAK; both restart the silence.
Messages of the station (R297, R302, R305, R306): ACCEPT in AUTH brings the link up where its signature verifies and
ends the opening with NO_CONSENT where it does not; CREDIT adds credits up to MAXCRED; CLOSE ends the link; a message
that does not authenticate is a partner fault of kind 1. In each case the message leaves the inbox.
Frame acknowledgements (R299, R303, R304, R307): a FACK or FNAK of another instance goes on to it unopened; one of
this instance that does not authenticate is a partner fault of kind 1, an authentic FACK frees every sent frame of its
context up to its SEQ, or is a fault of kind 4 where that SEQ has not been sent, and an authentic FNAK asks for the frame again or, at the third, loses it. A frame that waits
past 2^ACK_TO GT is lost; a drain past that bound ends the link. -/
def Obligations.EgressMessages : Prop :=
  (∀ (f : List Byte) (s : State), running s → 2 ≤ s.obs.egr.state → f.length = 256 → flitGood f = false →
    ∃ t, goesTo (.osepFlitAckNak f) s t ∧ onlyChanges [.egr] s t ∧
      t.obs.egr = { s.obs.egr with link := { s.obs.egr.link with lastFlit := now s, nak := true } }) ∧
  (∀ (f : List Byte) (s : State), running s → 2 ≤ s.obs.egr.state → s.obs.egr.state ≠ 5 → flitGood f = true →
    leAt f 0 1 = 2 → leAt f 4 4 = (s.obs.egr.link.recvSeq + 1) % 2 ^ 32 → s.obs.egr.link.kept = [] →
    s.obs.egr.link.waiting = [] → s.obs.egr.slots = [] → s.obs.egr.lastMsg = none → stationMsg (leAt f 16 1) = true →
    ∃ t, goesTo (.osepFlitAckNak f) s t ∧ onlyChanges [.egr] s t ∧
      t.obs.egr.inbox = s.obs.egr.inbox ++ [bytesAt f 16 232] ∧ t.obs.egr.link.recvSeq = leAt f 4 4 ∧
      t.obs.egr.link.nak = false ∧ t.obs.egr.link.lastFlit = now s ∧ t.obs.egr.lastMsg = some (now s) ∧
      t.obs.egr.state = s.obs.egr.state) ∧
  (∀ (r seq : Nat) (h : Held) (m : List Byte) (s : State), running s → s.obs.egr.inbox = [m] → leAt m 0 1 = 2 →
    msgShape 224 m = true → reservedIn m [(5, 3), (121, 7)] = false → leAt m 4 1 = 1 → s.obs.egr.state = 2 →
    s.obs.egr.cmd = some (r, seq) → heldOf s r seq = some h →
    ∃ t, goesTo .accept s t ∧ t.obs.egr.inbox = [] ∧ t.obs.egr.cmd = none ∧
      (if Config.ecdsaVerify s.obs.egr.stationKey (s.obs.egr.hello ++ bytesAt m 0 128) (bytesAt m 128 96) = true then
        t.obs.egr.state = 3 ∧ t.obs.egr.ephemeral = [] ∧ queues r h stOk 0 s t ∧ bit (reg t (aEgr + 0x1C)) 0 = true
      else t.obs.egr.state = 0 ∧ queues r h stNoConsent 0 s t)) ∧
  (∀ (m : List Byte) (s : State), running s → s.obs.egr.inbox = [m] → leAt m 0 1 = 4 → msgShape 32 m = true →
    s.obs.egr.state = 3 → s.obs.egr.slots = [] → s.obs.egr.limFaults + 1 < fld (reg s (aEgr + 4)) 16 8 →
    ∃ t, goesTo .credit s t ∧ t.obs.egr.inbox = [] ∧ t.obs.egr.state = 3 ∧
      (openMsg s.obs.egr.inKey s.obs.egr.inCtr m = none → t.obs.egr.lastFault = 1 ∧
        t.obs.egr.credits = s.obs.egr.credits ∧ t.obs.egr.authFaults = sat 255 (s.obs.egr.authFaults + 1)) ∧
      (∀ c b, openMsg s.obs.egr.inKey s.obs.egr.inCtr m = some (c, b) → leAt b 2 2 = 0 →
        t.obs.egr.inCtr = some c ∧ t.obs.egr.credits = min (s.obs.egr.credits + leAt b 0 2) s.obs.egr.maxCred)) ∧
  (∀ (m : List Byte) (s : State), running s → s.obs.egr.inbox = [m] → leAt m 0 1 = 6 → msgShape 32 m = true →
    s.obs.egr.state = 3 → s.obs.egr.limFaults + 1 < fld (reg s (aEgr + 4)) 16 8 →
    ∃ t, goesTo .close s t ∧ t.obs.egr.inbox = [] ∧
      (openMsg s.obs.egr.inKey s.obs.egr.inCtr m = none → t.obs.egr.lastFault = 1 ∧ t.obs.egr.state = 3) ∧
      (∀ c b, openMsg s.obs.egr.inKey s.obs.egr.inCtr m = some (c, b) → reservedIn b [(1, 3)] = false →
        t.obs.egr.state = 0 ∧ t.obs.egr.lastDown = 6 ∧ t.obs.egr.slots = [])) ∧
  (∀ (m : List Byte) (s : State), running s → s.obs.egr.inbox = [m] → leAt m 0 1 = 0x10 → msgShape 40 m = true →
    leAt m 4 1 < 16 → leAt m 6 1 < 4 → leAt m 7 1 < 64 → leAt m 7 1 ≠ s.aon.instId →
    ∃ t, goesTo .fack s t ∧ onlyChanges [.egr, .fab] s t ∧ t.obs.egr = { s.obs.egr with inbox := [] }) ∧
  (∀ (m : List Byte) (s : State), running s → s.obs.egr.inbox = [m] → leAt m 0 1 = 0x10 → msgShape 40 m = true →
    leAt m 4 1 < 16 → leAt m 6 1 < 4 → leAt m 7 1 < 64 → leAt m 7 1 = s.aon.instId →
    s.obs.egr.limFaults + 1 < fld (reg s (aEgr + 4)) 16 8 → s.obs.egr.state = 3 →
    ∃ t, goesTo .fack s t ∧ t.obs.egr.inbox = [] ∧
      (openJobMsg m s = none → t.obs.egr.lastFault = 1 ∧ t.obs.egr.slots = s.obs.egr.slots) ∧
      (∀ b u, openJobMsg m s = some (b, u) → leAt b 0 4 < 2 ^ 20 →
        (wasSent s (leAt m 4 1) (leAt m 5 1) (leAt b 0 4) (leAt b 4 4) = true →
          t.obs.egr.slots = s.obs.egr.slots.filter fun e =>
            !(ctxSlot s (leAt m 4 1) (leAt m 5 1) (leAt b 0 4) e && e.sentAt.isSome && seqGe e.frame.seq (leAt b 4 4))) ∧
        (wasSent s (leAt m 4 1) (leAt m 5 1) (leAt b 0 4) (leAt b 4 4) = false →
          t.obs.egr.lastFault = 4 ∧ t.obs.egr.slots = s.obs.egr.slots))) ∧
  (∀ (m : List Byte) (s : State), running s → s.obs.egr.inbox = [m] → leAt m 0 1 = 0x11 → msgShape 40 m = true →
    leAt m 4 1 < 16 → leAt m 6 1 < 4 → leAt m 7 1 < 64 → leAt m 7 1 = s.aon.instId →
    s.obs.egr.limFaults + 1 < fld (reg s (aEgr + 4)) 16 8 → s.obs.egr.state = 3 →
    ∃ t, goesTo .fnak s t ∧ t.obs.egr.inbox = [] ∧
      (openJobMsg m s = none → t.obs.egr.lastFault = 1 ∧ t.obs.egr.slots = s.obs.egr.slots) ∧
      (∀ b u e, openJobMsg m s = some (b, u) → leAt b 0 4 < 2 ^ 20 → s.obs.egr.slots = [e] →
        ctxSlot s (leAt m 4 1) (leAt m 5 1) (leAt b 0 4) e = true → e.sentAt.isSome = true →
        e.frame.seq = leAt b 4 4 →
        (e.fnaks < 2 → t.obs.egr.slots.map (·.fnaks) = [e.fnaks + 1]) ∧
        (2 ≤ e.fnaks → t.obs.egr.slots = []))) ∧
  (∀ (g : Nat) (e : ESlot) (s : State), running s → s.obs.egr.slots = [e] → s.obs.egr.state = 3 → e.sentAt = some g →
    g + ackTo s ≤ now s →
    ∃ t, goesTo (.frameAckTimeout 0) s t ∧ t.obs.egr.slots = [] ∧ t.obs.egr.state = 3 ∧
      fld (reg t (aEgr + 0x10)) 0 32 = sat 0xFFFFFFFF (fld (reg s (aEgr + 0x10)) 0 32 + 1)) ∧
  (∀ s : State, running s → s.obs.egr.state = 4 → s.obs.egr.closeAt + ackTo s ≤ now s →
    ∃ t, goesTo .egrCloseDrainBound s t ∧ t.obs.egr.state = 0 ∧ t.obs.egr.slots = [] ∧ t.obs.egr.lastDown = 7 ∧
      t.obs.egr.cmd = none)

/-! ## The fabric (chapter 13) -/

/-- `FAB_DISCOVER` with both ports down completes with a count of 1; else the discovery begins, the core a member of it,
and the command waits, without a PROBE where Hedger has failed (R311, R343).
Messages of discovery (R311, R312, Table 13.8): a PROBE is answered once, and a repeat has no effect; an ANSWER lists its
member; the steps fall due 16,384 GT after the start, and where the instance that began it has the highest (ROOT_PRIO,
SEED) pair it is the root of all that answered and its command completes; an ASSIGN gives a member it names its ID and
the root; and a discovery past 320,000 GT ends with TIMEOUT.
Global Time on the fabric (R313, R314): the root answers a TOKEN with its ECHO and its GT; an ECHO measures the round
trip; the single GT load of a first discovery sets the root count and leaves every copy due for calibration; a BEACON
more than 2 GT off marks the instance misaligned. -/
def Obligations.DiscoveryAndTime : Prop :=
  (∀ (r : Nat) (h : Held) (s : State), atFrontOf 0x90 r h s → reservedBad h = false → fwRuns s = true →
    s.obs.fab.eUp = false → s.obs.fab.wUp = false →
    ∃ t, goesTo (.fabDiscover r) s t ∧ onlyChanges [.smp, .cmd] s t ∧ completes r h stOk 256 s t) ∧
  (∀ (r : Nat) (h : Held) (s : State), atFrontOf 0x90 r h s → reservedBad h = false → fwRuns s = true →
    s.obs.fab.eUp = true ∨ s.obs.fab.wUp = true → s.obs.fab.cmd = none → canPark s r h = true →
    ∃ t, goesTo (.fabDiscover r) s t ∧ onlyChanges [.cmd, .fab] s t ∧ parks r h (.fab (now s)) s t ∧
      t.obs.fab.state = 1 ∧ t.obs.fab.cmd = some (r, h.seq) ∧ t.obs.fab.assigned = false ∧
      t.obs.fab.disc = some ⟨shownId s, (s.obs.fab.discNo + 1) % 65536, now s, [selfMember 0 s]⟩) ∧
  (∀ (r : Nat) (h : Held) (s : State), atFrontOf 0x90 r h s → reservedBad h = false → fwRuns s = false →
    s.obs.fab.cmd = none → canPark s r h = true →
    ∃ t, goesTo (.fabDiscover r) s t ∧ onlyChanges [.cmd, .fab] s t ∧ parks r h (.fab (now s)) s t ∧
      t.obs.fab = { s.obs.fab with cmd := some (r, h.seq), assigned := false }) ∧
  (∀ (x : FMsg) (hops east : Nat) (s : State), running s → s.obs.fab.inbox = [x] → leAt x.payload 0 1 = 0x20 →
    portUp s x.east = true → hops = leAt x.payload 5 1 + 1 → east = (if x.east then (256 - hops) % 256 else hops) →
    let key := probeKey (leAt x.payload 4 1 % 64) (leAt x.payload 6 2)
    (seenBefore s key = false → ∃ t, goesTo .probe s t ∧ onlyChanges [.fab] s t ∧ t.obs.fab.inbox = [] ∧
      t.obs.fab.disc = some ⟨leAt x.payload 4 1 % 64, leAt x.payload 6 2, now s, [selfMember east s]⟩ ∧
      seenBefore t key = true ∧ t.obs.fab.state = s.obs.fab.state ∧
      ∃ p, ∃ k ∈ (linkOf t p).kept ++ (linkOf t p).waiting, k.clear = plainMsg 0x21 (answerBody east s)) ∧
    (seenBefore s key = true → ∃ t, goesTo .probe s t ∧ onlyChanges [.fab] s t ∧
      t.obs.fab = { s.obs.fab with inbox := [] })) ∧
  (∀ (x : FMsg) (d : Disc) (s : State), running s → s.obs.fab.inbox = [x] → leAt x.payload 0 1 = 0x21 →
    s.obs.fab.disc = some d →
    ∃ t, goesTo .answer s t ∧ onlyChanges [.fab] s t ∧ t.obs.fab.inbox = [] ∧ t.obs.fab.state = s.obs.fab.state ∧
      (seenBefore s (le 1 0x21 ++ bytesAt x.payload 4 16) = false →
        t.obs.fab.disc = some { d with found := d.found ++ [answerMember x.payload] }) ∧
      (seenBefore s (le 1 0x21 ++ bytesAt x.payload 4 16) = true → t.obs.fab.disc = some d)) ∧
  (∀ (r g : Nat) (h : Held) (d : Disc) (s : State), waits r h s → (ringOf s r).cur = none → h.stage = .fab g →
    s.obs.fab.cmd = some (r, h.seq) → s.obs.fab.assigned = false → s.obs.fab.disc = some d → s.obs.fab.state = 1 →
    fwRuns s = true → g + 16384 ≤ now s → sharedPair (eastward d.found) = false →
    ((eastward d.found).any fun m => m.busy && m.first) = false →
    ((eastward d.found).any fun m => decide (rankOf (ownPrio s) (ownSeed s) < rankOf m.prio m.seed)) = false →
    (eastward d.found).any (isMe s) = true →
    ∃ t, goesTo (.parkedCommandComplete r h.seq) s t ∧ queues r h stOk (fabResult t) s t ∧ t.obs.fab.cmd = none ∧
      t.obs.fab.root = true ∧ t.obs.fab.count = d.found.length ∧ t.obs.fab.rootId = t.obs.fab.members.head?.elim 0 (·.id) ∧
      t.aon.discovered = true ∧ t.aon.instSet = true ∧ t.obs.fab.disc = none) ∧
  (∀ (r g : Nat) (h : Held) (s : State), waits r h s → (ringOf s r).cur = none → h.stage = .fab g →
    s.obs.fab.cmd = some (r, h.seq) → s.obs.fab.assigned = true → fwRuns s = true →
    s.obs.fab.root = true ∨ s.aon.discovered = true →
    ∃ t, goesTo (.parkedCommandComplete r h.seq) s t ∧ onlyChanges [.smp, .cmd, .fab] s t ∧
      ends r h stOk (fabResult s) s t ∧ t.obs.fab = { s.obs.fab with cmd := none }) ∧
  (∀ (x : FMsg) (me : Member) (s : State), running s → s.obs.fab.inbox = [x] → leAt x.payload 0 1 = 0x22 →
    seenBefore s (le 1 0x22 ++ le 2 (leAt x.payload 6 2)) = false →
    (assignMembers x.payload).find? (isMe s) = some me →
    ∃ t, goesTo .assign s t ∧ onlyChanges [.ident, .fab, .evq, .obsRegs] s t ∧ t.obs.fab.inbox = [] ∧
      t.aon.instSet = true ∧ t.aon.instId = (if s.aon.instSet then s.aon.instId else me.id) ∧
      t.obs.fab.assigned = true ∧ t.obs.fab.disc = none ∧ t.obs.fab.count = (assignMembers x.payload).length ∧
      t.obs.fab.state = (if 1 < (assignMembers x.payload).length then 2 else 0) ∧
      (assignMembers x.payload).head?.map (·.id) = some t.obs.fab.rootId ∧
      t.obs.fab.root = (t.obs.fab.rootId == me.id) ∧
      t.obs.fab.tokenAt = (if s.aon.discovered || t.obs.fab.root then s.obs.fab.tokenAt else some (now s))) ∧
  (∀ (x : FMsg) (s : State), running s → s.obs.fab.inbox = [x] → leAt x.payload 0 1 = 0x22 →
    (assignMembers x.payload).any (isMe s) = false →
    ∃ t, goesTo .assign s t ∧ onlyChanges [.fab] s t ∧ t.obs.fab.inbox = [] ∧
      t.obs.fab.members = s.obs.fab.members ∧ t.obs.fab.rootId = s.obs.fab.rootId ∧
      t.obs.fab.assigned = s.obs.fab.assigned) ∧
  (∀ (r seq g : Nat) (h : Held) (s : State), running s → s.obs.fab.cmd = some (r, seq) → heldOf s r seq = some h →
    h.stage = .fab g → g + 320000 ≤ now s →
    ∃ t, goesTo .discoveryTimeout s t ∧ onlyChanges [.smp, .cmd, .fab] s t ∧ queues r h stTimeout 0 s t ∧
      t.obs.fab.cmd = none) ∧
  (∀ (x : FMsg) (s : State), running s → s.obs.fab.inbox = [x] → leAt x.payload 0 1 = 0x23 → s.obs.fab.root = true →
    ∃ t, goesTo .token s t ∧ onlyChanges [.fab] s t ∧ t.obs.fab.inbox = [] ∧
      linkOf t (!goesEast s x.src) = linkOf s (!goesEast s x.src) ∧
      ∀ m, m = plainMsg 0x24 (bytesAt x.payload 4 8) ∨ m = plainMsg 0x25 (le 8 (now s)) →
        ∃ k ∈ (linkOf t (goesEast s x.src)).kept ++ (linkOf t (goesEast s x.src)).waiting, k.clear = m ∧ k.dst = x.src) ∧
  (∀ (g : Nat) (x : FMsg) (s : State), running s → s.obs.fab.inbox = [x] → leAt x.payload 0 1 = 0x24 →
    s.obs.fab.tokenAt = some g →
    ∃ t, goesTo .echo s t ∧ onlyChanges [.ident, .fab] s t ∧ t.aon.fabRtt = some (now s - leAt x.payload 4 8) ∧
      t.obs.fab = { s.obs.fab with inbox := [], tokenAt := none } ∧ t.aon.instId = s.aon.instId) ∧
  (∀ (x : FMsg) (s : State), running s → s.obs.fab.inbox = [x] → leAt x.payload 0 1 = 0x25 →
    s.aon.discovered = false → s.obs.fab.root = false → s.obs.fab.assigned = true → s.obs.fab.cmd = none →
    ∃ t, goesTo .gtLoad s t ∧ onlyChanges [.tb, .pwr, .ident, .sen, .hed, .cut, .fab] s t ∧
      now t = (leAt x.payload 4 8 + (s.aon.fabRtt.getD 0 + 1) / 2) % 2 ^ 64 ∧ t.aon.discovered = true ∧
      t.aon.tb.calDone = false ∧ t.aon.tb.full = true ∧ (∀ c, c < s.build.nColl → (collOf t c).cal = false)) ∧
  (∀ (rtt : Nat) (x : FMsg) (s : State), running s → s.obs.fab.inbox = [x] → leAt x.payload 0 1 = 0x31 →
    s.obs.fab.root = false → s.aon.misalign = false → seenBefore s (le 1 0x31 ++ bytesAt x.payload 4 9) = false →
    s.aon.fabRtt = some rtt → s.aon.discovered = true →
    ∃ t e, goesTo .beacon s t ∧ e = (leAt x.payload 4 8 : Int) + (rtt : Int) / 2 - (now s : Int) ∧
      t.obs.fab.inbox = [] ∧ t.obs.fab.err = e ∧ now t = now s ∧
      (-2 ≤ e → e ≤ 2 → t.aon.misalign = false ∧ onlyChanges [.fab] s t) ∧
      (e < -2 ∨ 2 < e → t.aon.misalign = true ∧ onlyChanges [.ident, .fab, .evq, .obsRegs] s t ∧
        bit (reg t (aFab + 0xC)) 0 = true))

/-- Fabric freezes (R98, R315): the root gives a REQUEST the next sequence and schedules its own freeze at T; another
member schedules a DISTRIBUTE, once, and a repeat of it schedules nothing; ACCEPTED counts down at the requester, whose
command completes with its own ID when every instance has answered; REFUSED ends it with NO_RESOURCE.
The fabric's failures and flits (R308, R316 to R318): a port without a flit for three beacon periods goes down and
is reported, and a neighbour that its other neighbour has lost too is a member no more; a segment that loses its root
elects the member of the highest (ROOT_PRIO, SEED) pair;
where segments join again, the root of the higher pair stays the root; a bad CRC on a flit sets NAK, and a good flit in sequence with
a message for this instance puts it into the inbox; and the outcome of a forwarded frame ends the wait for it, a skipped
one and a lost one being counted. -/
def Obligations.FabricFreezesAndLinks : Prop :=
  (∀ (T : Nat) (x : FMsg) (s : State), running s → s.obs.fab.inbox = [x] → leAt x.payload 0 1 = 0x30 →
    leAt x.payload 4 1 = 0 → leAt x.payload 8 8 = T → s.obs.fab.root = true → s.aon.misalign = false →
    engGt s + 64 ≤ T → s.obs.hang.seq = none → (∀ f ∈ freezes s, f.t + 63 < T ∨ T + 63 < f.t) →
    s.obs.cut.sw.length < 4 →
    ∃ t f, goesTo .freezeRequest s t ∧ onlyChanges [.fab, .cut] s t ∧ t.obs.fab.inbox = [] ∧
      t.obs.fab.fabSeq = s.obs.fab.fabSeq % 0xFFFF + 1 ∧ t.obs.cut.sw = s.obs.cut.sw ++ [f] ∧ f.t = T ∧
      f.fabric = true ∧ f.fabSeq = s.obs.fab.fabSeq % 0xFFFF + 1 ∧ f.id = nextFreezeId s) ∧
  (∀ (T : Nat) (x : FMsg) (s : State), running s → s.obs.fab.inbox = [x] → leAt x.payload 0 1 = 0x30 →
    leAt x.payload 4 1 = 1 → leAt x.payload 8 8 = T → leAt x.payload 5 1 % 64 ≠ s.aon.instId →
    seenBefore s (freezeKey (leAt x.payload 6 2)) = false → s.aon.misalign = false → engGt s + 64 ≤ T →
    s.obs.hang.seq = none → (∀ f ∈ freezes s, f.t + 63 < T ∨ T + 63 < f.t) → s.obs.cut.sw.length < 4 →
    ∃ t f, goesTo .freezeDistribute s t ∧ onlyChanges [.fab, .cut] s t ∧ t.obs.fab.inbox = [] ∧
      seenBefore t (freezeKey (leAt x.payload 6 2)) = true ∧ t.obs.cut.sw = s.obs.cut.sw ++ [f] ∧ f.t = T ∧
      f.fabric = true ∧ f.fabSeq = leAt x.payload 6 2) ∧
  (∀ (x : FMsg) (s : State), running s → s.obs.fab.inbox = [x] → leAt x.payload 0 1 = 0x30 → leAt x.payload 4 1 = 1 →
    seenBefore s (freezeKey (leAt x.payload 6 2)) = true →
    ∃ t, goesTo .freezeDistribute s t ∧ onlyChanges [.fab] s t ∧ t.obs.fab.inbox = []) ∧
  (∀ (r q T left id : Nat) (x : FMsg) (h : Held) (s : State), running s → s.obs.fab.inbox = [x] →
    leAt x.payload 0 1 = 0x30 → leAt x.payload 4 1 = 2 → leAt x.payload 5 1 % 64 = s.aon.instId →
    s.obs.fab.freezeCmds = [⟨r, h.seq, T⟩] → (ringOf s r).cur = none →
    (ringOf s r).parked.find? (fun y => y.seq == h.seq) = some h →
    h.stage = .fabFreeze q left id → q = leAt x.payload 6 2 → id ≠ 0 →
    (left = 1 → ∃ t, goesTo .freezeAccepted s t ∧ onlyChanges [.smp, .cmd, .fab] s t ∧ t.obs.fab.inbox = [] ∧
      queues r h stOk (lo32 id) s t ∧ t.obs.fab.freezeCmds = []) ∧
    (1 < left → ∃ t, goesTo .freezeAccepted s t ∧ onlyChanges [.cmd, .fab] s t ∧ t.obs.fab.inbox = [] ∧
      heldOf t r h.seq = some { h with stage := .fabFreeze q (left - 1) id } ∧
      t.obs.fab.freezeCmds = s.obs.fab.freezeCmds)) ∧
  (∀ (r q T left id : Nat) (x : FMsg) (h : Held) (s : State), running s → s.obs.fab.inbox = [x] →
    leAt x.payload 0 1 = 0x30 → leAt x.payload 4 1 = 3 → leAt x.payload 5 1 % 64 = s.aon.instId →
    s.obs.fab.freezeCmds = [⟨r, h.seq, T⟩] → heldOf s r h.seq = some h → h.stage = .fabFreeze q left id →
    q = leAt x.payload 6 2 →
    ∃ t, goesTo .freezeRefused s t ∧ onlyChanges [.smp, .cmd, .fab] s t ∧ t.obs.fab.inbox = [] ∧
      queues r h stNoResource 0 s t ∧ t.obs.fab.freezeCmds = []) ∧
  (∀ (east : Bool) (s : State), running s → (if east then s.obs.fab.eUp else s.obs.fab.wUp) = true →
    (linkOf s east).lastFlit + 3 * 2 ^ 14 ≤ now s → s.obs.fab.root = true → s.obs.fab.members.length ≠ 2 →
    ∃ t, goesTo (.fabricPortDown ⟨east, false⟩) s t ∧ (if east then t.obs.fab.eUp else t.obs.fab.wUp) = false ∧
      (if east then t.obs.fab.wUp else t.obs.fab.eUp) = (if east then s.obs.fab.wUp else s.obs.fab.eUp) ∧
      bit (reg t (aFab + 0xC)) 1 = true ∧ (linkOf t east).kept = [] ∧ (linkOf t east).waiting = [] ∧
      t.obs.fab.members = s.obs.fab.members) ∧
  (∀ (east : Bool) (m : Member) (s : State), running s → (if east then s.obs.fab.eUp else s.obs.fab.wUp) = true →
    (linkOf s east).lastFlit + 3 * 2 ^ 14 ≤ now s → neighbour s east = some m → m.id ≠ s.aon.instId →
    ∃ t, goesTo (.fabricPortDown ⟨east, true⟩) s t ∧ (if east then t.obs.fab.eUp else t.obs.fab.wUp) = false ∧
      (if east then t.obs.fab.goneE else t.obs.fab.goneW) = true ∧
      t.obs.fab.members.map (·.id) = (s.obs.fab.members.map (·.id)).filter (· != m.id) ∧
      bit (reg t (aFab + 0xC)) 1 = true) ∧
  (∀ (east west : List Nat) (other : Nat) (seg : List Member) (m : Member) (s : State), running s →
    s.obs.fab.state = 2 → seg = segment (east ++ west) s → elected seg = some m →
    (seg.any fun x => x.id == s.obs.fab.rootId) = false → s.obs.fab.freezeCmds = [] →
    ∃ t, goesTo (.rootLost false east west other) s t ∧ onlyChanges [.fab, .evq, .obsRegs] s t ∧ t.obs.fab.rootId = m.id ∧
      t.obs.fab.root = (m.id == s.aon.instId) ∧ t.obs.fab.count = seg.length ∧ bit (reg t (aFab + 0xC)) 2 = true ∧
      m ∈ seg ∧ ∀ x ∈ seg, rankOf x.prio x.seed ≤ rankOf m.prio m.seed) ∧
  (∀ (east west : List Nat) (other : Nat) (seg : List Member) (m : Member) (s : State), running s →
    s.obs.fab.state = 2 → seg = segment (east ++ west) s → m ∈ seg → m.id = s.obs.fab.rootId →
    (∀ x ∈ seg, x.id = s.obs.fab.rootId ∨ x.id = other → x = m ∨ rankOf x.prio x.seed < rankOf m.prio m.seed) →
    ∃ t, goesTo (.rootLost true east west other) s t ∧ onlyChanges [.fab, .evq, .obsRegs] s t ∧
      t.obs.fab.rootId = s.obs.fab.rootId ∧ t.obs.fab.root = s.obs.fab.root ∧ t.obs.fab.count = seg.length ∧
      bit (reg t (aFab + 0xC)) 2 = true) ∧
  (∀ (east : Bool) (f : List Byte) (s : State), running s → s.build.fabric = true → s.aon.pwr.ready = true →
    f.length = 256 → peerOk s east = true → dropsFlit s east f = false → flitGood f = false →
    ∃ t, goesTo (.fabricFlitAckNak east f) s t ∧ onlyChanges [.fab] s t ∧
      linkOf t east = { linkOf s east with lastFlit := now s, nak := true, good := 0 } ∧
      linkOf t (!east) = linkOf s (!east)) ∧
  (∀ (east : Bool) (f : List Byte) (s : State), running s → s.build.fabric = true → s.aon.pwr.ready = true →
    f.length = 256 → dropsFlit s east f = false → flitGood f = true → portUp s east = true → portX s east = false →
    (linkOf s east).kept = [] → (linkOf s east).waiting = [] → leAt f 0 1 = 2 → leAt f 1 1 % 64 = s.aon.instId →
    leAt f 4 4 = ((linkOf s east).recvSeq + 1) % 2 ^ 32 → leAt (bytesAt f 16 232) 0 1 ≠ 0x10 →
    leAt (bytesAt f 16 232) 0 1 ≠ 0x11 → fabLen 2 (leAt (bytesAt f 16 232) 0 1) ≠ 0 →
    leAt (bytesAt f 16 232) 2 2 = fabLen 2 (leAt (bytesAt f 16 232) 0 1) → s.obs.fab.inbox = [] →
    ∃ t, goesTo (.fabricFlitAckNak east f) s t ∧ onlyChanges [.fab] s t ∧
      t.obs.fab.inbox = [⟨east, leAt f 3 1 % 64, s.aon.instId, 2, bytesAt f 16 232⟩] ∧
      (linkOf t east).recvSeq = leAt f 4 4 ∧ (linkOf t east).nak = false ∧ (linkOf t east).lastFlit = now s) ∧
  (∀ (x : FMsg) (f : Frame) (s : State), running s → s.obs.fab.inbox = [x] → leAt x.payload 0 1 = 0x26 →
    s.obs.fab.sent = [f] → f.part = leAt x.payload 4 1 % 16 → f.job = leAt x.payload 5 1 → f.ctx = leAt x.payload 8 4 →
    f.seq = leAt x.payload 12 4 → s.aon.keys.jobs = [] → s.build.egress = true →
    ∃ t, goesTo .outcome s t ∧ onlyChanges [.fab, .obsRegs] s t ∧ t.obs.fab.inbox = [] ∧ t.obs.fab.sent = [] ∧
      (leAt x.payload 6 1 = 1 → fld (reg t (aEgr + 0xC)) 0 32 = sat 0xFFFFFFFF (fld (reg s (aEgr + 0xC)) 0 32 + 1)) ∧
      (leAt x.payload 6 1 = 2 → fld (reg t (aEgr + 0x10)) 0 32 = sat 0xFFFFFFFF (fld (reg s (aEgr + 0x10)) 0 32 + 1)) ∧
      (leAt x.payload 6 1 = 0 → t.obs.regs = s.obs.regs))
end

