-- ==== Sys2Proof/Laws/Tables.lean ====
section
/-! SUPPORT. Laws of keyed tables: what a read after a write gives, and that every operation keeps the canonical form. -/

namespace Sys2Proof.Machine

set_option Elab.async false

variable {α : Type}

theorem smGet_smDel_same (d : Nat → α) (m : SMap α) (k : Nat) : smGet d (smDel m k) k = d k := by
  induction m with
  | nil => rfl
  | cons e m ih =>
    obtain ⟨j, v⟩ := e
    by_cases h : j = k
    · simp [smDel, h, ih]
    · simp [smDel, smGet, h, ih]

theorem smGet_smDel_other (d : Nat → α) (m : SMap α) {k i : Nat} (h : i ≠ k) :
    smGet d (smDel m k) i = smGet d m i := by
  induction m with
  | nil => rfl
  | cons e m ih =>
    obtain ⟨j, v⟩ := e
    by_cases hj : j = k
    · simp [smDel, smGet, hj, ih, Ne.symm h]
    · simp [smDel, smGet, hj, ih]

theorem smGet_smIns_same (d : Nat → α) (m : SMap α) (k : Nat) (v : α) : smGet d (smIns m k v) k = v := by
  induction m with
  | nil => simp [smIns, smGet]
  | cons e m ih =>
    obtain ⟨j, w⟩ := e
    simp only [smIns]
    split
    · simp [smGet]
    · split
      · simp [smGet]
      · rename_i h
        simp [smGet, Ne.symm h, ih]

theorem smGet_smIns_other (d : Nat → α) (m : SMap α) {k i : Nat} (v : α) (h : i ≠ k) :
    smGet d (smIns m k v) i = smGet d m i := by
  induction m with
  | nil => simp [smIns, smGet, Ne.symm h]
  | cons e m ih =>
    obtain ⟨j, w⟩ := e
    simp only [smIns]
    split
    · simp [smGet, Ne.symm h]
    · split
      · rename_i hk
        subst hk
        simp [smGet, Ne.symm h]
      · simp [smGet, ih]

/-- A read of the entry just stored gives what was stored. -/
@[simp] theorem smGet_smPut_same [DecidableEq α] (d : Nat → α) (m : SMap α) (k : Nat) (v : α) :
    smGet d (smPut d m k v) k = v := by
  unfold smPut
  split
  · rename_i h
    rw [smGet_smDel_same, h]
  · exact smGet_smIns_same d m k v

/-- A store leaves every other entry alone. -/
theorem smGet_smPut_other [DecidableEq α] (d : Nat → α) (m : SMap α) {k i : Nat} (v : α) (h : i ≠ k) :
    smGet d (smPut d m k v) i = smGet d m i := by
  unfold smPut
  split
  · exact smGet_smDel_other d m h
  · exact smGet_smIns_other d m v h

@[simp] theorem smGet_smMod_same [DecidableEq α] (d : Nat → α) (m : SMap α) (k : Nat) (f : α → α) :
    smGet d (smMod d m k f) k = f (smGet d m k) :=
  smGet_smPut_same d m k _

theorem smGet_smMod_other [DecidableEq α] (d : Nat → α) (m : SMap α) {k i : Nat} (f : α → α) (h : i ≠ k) :
    smGet d (smMod d m k f) i = smGet d m i :=
  smGet_smPut_other d m _ h

/-! ## The canonical form -/

theorem smWf_tail [DecidableEq α] {d : Nat → α} {e : Nat × α} {m : SMap α} (h : smWf d (e :: m) = true) :
    smWf d m = true := by
  obtain ⟨k, v⟩ := e
  cases m with
  | nil => rfl
  | cons f m => obtain ⟨j, w⟩ := f; simp [smWf] at h; simp_all

/-- Keys of a canonical table stand above the first. -/
theorem smWf_head_lt [DecidableEq α] {d : Nat → α} {k : Nat} {v : α} {m : SMap α} (h : smWf d ((k, v) :: m) = true) :
    ∀ e ∈ m, k < e.1 := by
  induction m generalizing k v with
  | nil => simp
  | cons f m ih =>
    obtain ⟨j, w⟩ := f
    have hk : k < j := by simp [smWf] at h; exact h.1.2
    intro e he
    rcases List.mem_cons.mp he with rfl | he
    · exact hk
    · exact Nat.lt_trans hk (ih (smWf_tail h) e he)

theorem smWf_cons [DecidableEq α] {d : Nat → α} {k : Nat} {v : α} {m : SMap α} (hv : v ≠ d k)
    (hk : ∀ e ∈ m, k < e.1) (h : smWf d m = true) : smWf d ((k, v) :: m) = true := by
  cases m with
  | nil => simp [smWf, hv]
  | cons f m => obtain ⟨j, w⟩ := f; simp [smWf, hv, h, hk (j, w) (by simp)]

theorem smWf_head_ne [DecidableEq α] {d : Nat → α} {k : Nat} {v : α} {m : SMap α}
    (h : smWf d ((k, v) :: m) = true) : v ≠ d k := by
  cases m with
  | nil => simpa [smWf] using h
  | cons f m => obtain ⟨j, w⟩ := f; simp [smWf] at h; exact h.1.1

theorem smDel_mem {m : SMap α} {k : Nat} {e : Nat × α} (h : e ∈ smDel m k) : e ∈ m := by
  induction m with
  | nil => simp [smDel] at h
  | cons f m ih =>
    obtain ⟨j, v⟩ := f
    simp only [smDel] at h
    split at h
    · exact List.mem_cons_of_mem _ (ih h)
    · rcases List.mem_cons.mp h with rfl | h
      · simp
      · exact List.mem_cons_of_mem _ (ih h)

theorem smWf_smDel [DecidableEq α] {d : Nat → α} {m : SMap α} {k : Nat} (h : smWf d m = true) :
    smWf d (smDel m k) = true := by
  induction m with
  | nil => rfl
  | cons f m ih =>
    obtain ⟨j, v⟩ := f
    simp only [smDel]
    split
    · exact ih (smWf_tail h)
    · exact smWf_cons (smWf_head_ne h) (fun e he => smWf_head_lt h e (smDel_mem he)) (ih (smWf_tail h))

theorem smIns_mem {m : SMap α} {k : Nat} {v : α} {e : Nat × α} (h : e ∈ smIns m k v) : e = (k, v) ∨ e ∈ m := by
  induction m with
  | nil => simp [smIns] at h; exact .inl h
  | cons f m ih =>
    obtain ⟨j, w⟩ := f
    simp only [smIns] at h
    split at h
    · rcases List.mem_cons.mp h with rfl | h
      · exact .inl rfl
      · exact .inr h
    · split at h
      · rcases List.mem_cons.mp h with rfl | h
        · exact .inl rfl
        · exact .inr (List.mem_cons_of_mem _ h)
      · rcases List.mem_cons.mp h with rfl | h
        · simp
        · rcases ih h with rfl | h
          · exact .inl rfl
          · exact .inr (List.mem_cons_of_mem _ h)

theorem smWf_smIns [DecidableEq α] {d : Nat → α} {m : SMap α} {k : Nat} {v : α} (hv : v ≠ d k)
    (h : smWf d m = true) : smWf d (smIns m k v) = true := by
  induction m with
  | nil => simp [smIns, smWf, hv]
  | cons f m ih =>
    obtain ⟨j, w⟩ := f
    simp only [smIns]
    split
    · rename_i hk
      refine smWf_cons hv (fun e he => ?_) h
      rcases List.mem_cons.mp he with rfl | he
      · exact hk
      · exact Nat.lt_trans hk (smWf_head_lt h e he)
    · rename_i hk
      split
      · rename_i hj
        subst hj
        exact smWf_cons hv (smWf_head_lt h) (smWf_tail h)
      · rename_i hj
        refine smWf_cons (smWf_head_ne h) (fun e he => ?_) (ih (smWf_tail h))
        rcases smIns_mem he with rfl | he
        · show j < k; omega
        · exact smWf_head_lt h e he

/-- A store keeps the canonical form. -/
theorem smWf_smPut [DecidableEq α] {d : Nat → α} {m : SMap α} {k : Nat} {v : α} (h : smWf d m = true) :
    smWf d (smPut d m k v) = true := by
  unfold smPut
  split
  · exact smWf_smDel h
  · rename_i hv
    exact smWf_smIns hv h

theorem smWf_smMod [DecidableEq α] {d : Nat → α} {m : SMap α} {k : Nat} {f : α → α} (h : smWf d m = true) :
    smWf d (smMod d m k f) = true :=
  smWf_smPut h

end Sys2Proof.Machine
end

