-- ==== Sys2Proof/Laws/State.lean ====
section
/-! SUPPORT. One lemma for each part of the state and each update of one part; each is true by unfolding. -/

namespace Sys2Proof.Machine

set_option Elab.async false

@[simp] theorem onTb_regs (f : Tb → Tb) (s : State) : (onTb f s).aon.regs = s.aon.regs := rfl
@[simp] theorem onTb_tb (f : Tb → Tb) (s : State) : (onTb f s).aon.tb = f s.aon.tb := rfl
@[simp] theorem onTb_pwr (f : Tb → Tb) (s : State) : (onTb f s).aon.pwr = s.aon.pwr := rfl
@[simp] theorem onTb_sen (f : Tb → Tb) (s : State) : (onTb f s).aon.sen = s.aon.sen := rfl
@[simp] theorem onTb_alm (f : Tb → Tb) (s : State) : (onTb f s).aon.alm = s.aon.alm := rfl
@[simp] theorem onTb_keys (f : Tb → Tb) (s : State) : (onTb f s).aon.keys = s.aon.keys := rfl
@[simp] theorem onTb_rap (f : Tb → Tb) (s : State) : (onTb f s).aon.rap = s.aon.rap := rfl
@[simp] theorem onTb_db (f : Tb → Tb) (s : State) : (onTb f s).aon.db = s.aon.db := rfl
@[simp] theorem onTb_instId (f : Tb → Tb) (s : State) : (onTb f s).aon.instId = s.aon.instId := rfl
@[simp] theorem onTb_instSet (f : Tb → Tb) (s : State) : (onTb f s).aon.instSet = s.aon.instSet := rfl
@[simp] theorem onTb_misalign (f : Tb → Tb) (s : State) : (onTb f s).aon.misalign = s.aon.misalign := rfl
@[simp] theorem onTb_discovered (f : Tb → Tb) (s : State) : (onTb f s).aon.discovered = s.aon.discovered := rfl
@[simp] theorem onTb_fabRtt (f : Tb → Tb) (s : State) : (onTb f s).aon.fabRtt = s.aon.fabRtt := rfl
@[simp] theorem onTb_obs (f : Tb → Tb) (s : State) : (onTb f s).obs = s.obs := rfl
@[simp] theorem onTb_build (f : Tb → Tb) (s : State) : (onTb f s).build = s.build := rfl
@[simp] theorem onTb_scan (f : Tb → Tb) (s : State) : (onTb f s).scan = s.scan := rfl
@[simp] theorem onTb_draws (f : Tb → Tb) (s : State) : (onTb f s).draws = s.draws := rfl
@[simp] theorem onTb_pending (f : Tb → Tb) (s : State) : (onTb f s).pending = s.pending := rfl
@[simp] theorem onPwr_regs (f : Pwr → Pwr) (s : State) : (onPwr f s).aon.regs = s.aon.regs := rfl
@[simp] theorem onPwr_tb (f : Pwr → Pwr) (s : State) : (onPwr f s).aon.tb = s.aon.tb := rfl
@[simp] theorem onPwr_pwr (f : Pwr → Pwr) (s : State) : (onPwr f s).aon.pwr = f s.aon.pwr := rfl
@[simp] theorem onPwr_sen (f : Pwr → Pwr) (s : State) : (onPwr f s).aon.sen = s.aon.sen := rfl
@[simp] theorem onPwr_alm (f : Pwr → Pwr) (s : State) : (onPwr f s).aon.alm = s.aon.alm := rfl
@[simp] theorem onPwr_keys (f : Pwr → Pwr) (s : State) : (onPwr f s).aon.keys = s.aon.keys := rfl
@[simp] theorem onPwr_rap (f : Pwr → Pwr) (s : State) : (onPwr f s).aon.rap = s.aon.rap := rfl
@[simp] theorem onPwr_db (f : Pwr → Pwr) (s : State) : (onPwr f s).aon.db = s.aon.db := rfl
@[simp] theorem onPwr_instId (f : Pwr → Pwr) (s : State) : (onPwr f s).aon.instId = s.aon.instId := rfl
@[simp] theorem onPwr_instSet (f : Pwr → Pwr) (s : State) : (onPwr f s).aon.instSet = s.aon.instSet := rfl
@[simp] theorem onPwr_misalign (f : Pwr → Pwr) (s : State) : (onPwr f s).aon.misalign = s.aon.misalign := rfl
@[simp] theorem onPwr_discovered (f : Pwr → Pwr) (s : State) : (onPwr f s).aon.discovered = s.aon.discovered := rfl
@[simp] theorem onPwr_fabRtt (f : Pwr → Pwr) (s : State) : (onPwr f s).aon.fabRtt = s.aon.fabRtt := rfl
@[simp] theorem onPwr_obs (f : Pwr → Pwr) (s : State) : (onPwr f s).obs = s.obs := rfl
@[simp] theorem onPwr_build (f : Pwr → Pwr) (s : State) : (onPwr f s).build = s.build := rfl
@[simp] theorem onPwr_scan (f : Pwr → Pwr) (s : State) : (onPwr f s).scan = s.scan := rfl
@[simp] theorem onPwr_draws (f : Pwr → Pwr) (s : State) : (onPwr f s).draws = s.draws := rfl
@[simp] theorem onPwr_pending (f : Pwr → Pwr) (s : State) : (onPwr f s).pending = s.pending := rfl
@[simp] theorem onSen_regs (f : Sen → Sen) (s : State) : (onSen f s).aon.regs = s.aon.regs := rfl
@[simp] theorem onSen_tb (f : Sen → Sen) (s : State) : (onSen f s).aon.tb = s.aon.tb := rfl
@[simp] theorem onSen_pwr (f : Sen → Sen) (s : State) : (onSen f s).aon.pwr = s.aon.pwr := rfl
@[simp] theorem onSen_sen (f : Sen → Sen) (s : State) : (onSen f s).aon.sen = f s.aon.sen := rfl
@[simp] theorem onSen_alm (f : Sen → Sen) (s : State) : (onSen f s).aon.alm = s.aon.alm := rfl
@[simp] theorem onSen_keys (f : Sen → Sen) (s : State) : (onSen f s).aon.keys = s.aon.keys := rfl
@[simp] theorem onSen_rap (f : Sen → Sen) (s : State) : (onSen f s).aon.rap = s.aon.rap := rfl
@[simp] theorem onSen_db (f : Sen → Sen) (s : State) : (onSen f s).aon.db = s.aon.db := rfl
@[simp] theorem onSen_instId (f : Sen → Sen) (s : State) : (onSen f s).aon.instId = s.aon.instId := rfl
@[simp] theorem onSen_instSet (f : Sen → Sen) (s : State) : (onSen f s).aon.instSet = s.aon.instSet := rfl
@[simp] theorem onSen_misalign (f : Sen → Sen) (s : State) : (onSen f s).aon.misalign = s.aon.misalign := rfl
@[simp] theorem onSen_discovered (f : Sen → Sen) (s : State) : (onSen f s).aon.discovered = s.aon.discovered := rfl
@[simp] theorem onSen_fabRtt (f : Sen → Sen) (s : State) : (onSen f s).aon.fabRtt = s.aon.fabRtt := rfl
@[simp] theorem onSen_obs (f : Sen → Sen) (s : State) : (onSen f s).obs = s.obs := rfl
@[simp] theorem onSen_build (f : Sen → Sen) (s : State) : (onSen f s).build = s.build := rfl
@[simp] theorem onSen_scan (f : Sen → Sen) (s : State) : (onSen f s).scan = s.scan := rfl
@[simp] theorem onSen_draws (f : Sen → Sen) (s : State) : (onSen f s).draws = s.draws := rfl
@[simp] theorem onSen_pending (f : Sen → Sen) (s : State) : (onSen f s).pending = s.pending := rfl
@[simp] theorem onAlm_regs (f : Alm → Alm) (s : State) : (onAlm f s).aon.regs = s.aon.regs := rfl
@[simp] theorem onAlm_tb (f : Alm → Alm) (s : State) : (onAlm f s).aon.tb = s.aon.tb := rfl
@[simp] theorem onAlm_pwr (f : Alm → Alm) (s : State) : (onAlm f s).aon.pwr = s.aon.pwr := rfl
@[simp] theorem onAlm_sen (f : Alm → Alm) (s : State) : (onAlm f s).aon.sen = s.aon.sen := rfl
@[simp] theorem onAlm_alm (f : Alm → Alm) (s : State) : (onAlm f s).aon.alm = f s.aon.alm := rfl
@[simp] theorem onAlm_keys (f : Alm → Alm) (s : State) : (onAlm f s).aon.keys = s.aon.keys := rfl
@[simp] theorem onAlm_rap (f : Alm → Alm) (s : State) : (onAlm f s).aon.rap = s.aon.rap := rfl
@[simp] theorem onAlm_db (f : Alm → Alm) (s : State) : (onAlm f s).aon.db = s.aon.db := rfl
@[simp] theorem onAlm_instId (f : Alm → Alm) (s : State) : (onAlm f s).aon.instId = s.aon.instId := rfl
@[simp] theorem onAlm_instSet (f : Alm → Alm) (s : State) : (onAlm f s).aon.instSet = s.aon.instSet := rfl
@[simp] theorem onAlm_misalign (f : Alm → Alm) (s : State) : (onAlm f s).aon.misalign = s.aon.misalign := rfl
@[simp] theorem onAlm_discovered (f : Alm → Alm) (s : State) : (onAlm f s).aon.discovered = s.aon.discovered := rfl
@[simp] theorem onAlm_fabRtt (f : Alm → Alm) (s : State) : (onAlm f s).aon.fabRtt = s.aon.fabRtt := rfl
@[simp] theorem onAlm_obs (f : Alm → Alm) (s : State) : (onAlm f s).obs = s.obs := rfl
@[simp] theorem onAlm_build (f : Alm → Alm) (s : State) : (onAlm f s).build = s.build := rfl
@[simp] theorem onAlm_scan (f : Alm → Alm) (s : State) : (onAlm f s).scan = s.scan := rfl
@[simp] theorem onAlm_draws (f : Alm → Alm) (s : State) : (onAlm f s).draws = s.draws := rfl
@[simp] theorem onAlm_pending (f : Alm → Alm) (s : State) : (onAlm f s).pending = s.pending := rfl
@[simp] theorem onKeys_regs (f : Keys → Keys) (s : State) : (onKeys f s).aon.regs = s.aon.regs := rfl
@[simp] theorem onKeys_tb (f : Keys → Keys) (s : State) : (onKeys f s).aon.tb = s.aon.tb := rfl
@[simp] theorem onKeys_pwr (f : Keys → Keys) (s : State) : (onKeys f s).aon.pwr = s.aon.pwr := rfl
@[simp] theorem onKeys_sen (f : Keys → Keys) (s : State) : (onKeys f s).aon.sen = s.aon.sen := rfl
@[simp] theorem onKeys_alm (f : Keys → Keys) (s : State) : (onKeys f s).aon.alm = s.aon.alm := rfl
@[simp] theorem onKeys_keys (f : Keys → Keys) (s : State) : (onKeys f s).aon.keys = f s.aon.keys := rfl
@[simp] theorem onKeys_rap (f : Keys → Keys) (s : State) : (onKeys f s).aon.rap = s.aon.rap := rfl
@[simp] theorem onKeys_db (f : Keys → Keys) (s : State) : (onKeys f s).aon.db = s.aon.db := rfl
@[simp] theorem onKeys_instId (f : Keys → Keys) (s : State) : (onKeys f s).aon.instId = s.aon.instId := rfl
@[simp] theorem onKeys_instSet (f : Keys → Keys) (s : State) : (onKeys f s).aon.instSet = s.aon.instSet := rfl
@[simp] theorem onKeys_misalign (f : Keys → Keys) (s : State) : (onKeys f s).aon.misalign = s.aon.misalign := rfl
@[simp] theorem onKeys_discovered (f : Keys → Keys) (s : State) : (onKeys f s).aon.discovered = s.aon.discovered := rfl
@[simp] theorem onKeys_fabRtt (f : Keys → Keys) (s : State) : (onKeys f s).aon.fabRtt = s.aon.fabRtt := rfl
@[simp] theorem onKeys_obs (f : Keys → Keys) (s : State) : (onKeys f s).obs = s.obs := rfl
@[simp] theorem onKeys_build (f : Keys → Keys) (s : State) : (onKeys f s).build = s.build := rfl
@[simp] theorem onKeys_scan (f : Keys → Keys) (s : State) : (onKeys f s).scan = s.scan := rfl
@[simp] theorem onKeys_draws (f : Keys → Keys) (s : State) : (onKeys f s).draws = s.draws := rfl
@[simp] theorem onKeys_pending (f : Keys → Keys) (s : State) : (onKeys f s).pending = s.pending := rfl
@[simp] theorem onRap_regs (f : Rap → Rap) (s : State) : (onRap f s).aon.regs = s.aon.regs := rfl
@[simp] theorem onRap_tb (f : Rap → Rap) (s : State) : (onRap f s).aon.tb = s.aon.tb := rfl
@[simp] theorem onRap_pwr (f : Rap → Rap) (s : State) : (onRap f s).aon.pwr = s.aon.pwr := rfl
@[simp] theorem onRap_sen (f : Rap → Rap) (s : State) : (onRap f s).aon.sen = s.aon.sen := rfl
@[simp] theorem onRap_alm (f : Rap → Rap) (s : State) : (onRap f s).aon.alm = s.aon.alm := rfl
@[simp] theorem onRap_keys (f : Rap → Rap) (s : State) : (onRap f s).aon.keys = s.aon.keys := rfl
@[simp] theorem onRap_rap (f : Rap → Rap) (s : State) : (onRap f s).aon.rap = f s.aon.rap := rfl
@[simp] theorem onRap_db (f : Rap → Rap) (s : State) : (onRap f s).aon.db = s.aon.db := rfl
@[simp] theorem onRap_instId (f : Rap → Rap) (s : State) : (onRap f s).aon.instId = s.aon.instId := rfl
@[simp] theorem onRap_instSet (f : Rap → Rap) (s : State) : (onRap f s).aon.instSet = s.aon.instSet := rfl
@[simp] theorem onRap_misalign (f : Rap → Rap) (s : State) : (onRap f s).aon.misalign = s.aon.misalign := rfl
@[simp] theorem onRap_discovered (f : Rap → Rap) (s : State) : (onRap f s).aon.discovered = s.aon.discovered := rfl
@[simp] theorem onRap_fabRtt (f : Rap → Rap) (s : State) : (onRap f s).aon.fabRtt = s.aon.fabRtt := rfl
@[simp] theorem onRap_obs (f : Rap → Rap) (s : State) : (onRap f s).obs = s.obs := rfl
@[simp] theorem onRap_build (f : Rap → Rap) (s : State) : (onRap f s).build = s.build := rfl
@[simp] theorem onRap_scan (f : Rap → Rap) (s : State) : (onRap f s).scan = s.scan := rfl
@[simp] theorem onRap_draws (f : Rap → Rap) (s : State) : (onRap f s).draws = s.draws := rfl
@[simp] theorem onRap_pending (f : Rap → Rap) (s : State) : (onRap f s).pending = s.pending := rfl
@[simp] theorem onHed_oregs (f : Hed → Hed) (s : State) : (onHed f s).obs.regs = s.obs.regs := rfl
@[simp] theorem onHed_ohed (f : Hed → Hed) (s : State) : (onHed f s).obs.hed = f s.obs.hed := rfl
@[simp] theorem onHed_ocut (f : Hed → Hed) (s : State) : (onHed f s).obs.cut = s.obs.cut := rfl
@[simp] theorem onHed_octxs (f : Hed → Hed) (s : State) : (onHed f s).obs.ctxs = s.obs.ctxs := rfl
@[simp] theorem onHed_osmp (f : Hed → Hed) (s : State) : (onHed f s).obs.smp = s.obs.smp := rfl
@[simp] theorem onHed_ocmd (f : Hed → Hed) (s : State) : (onHed f s).obs.cmd = s.obs.cmd := rfl
@[simp] theorem onHed_oevq (f : Hed → Hed) (s : State) : (onHed f s).obs.evq = s.obs.evq := rfl
@[simp] theorem onHed_olens (f : Hed → Hed) (s : State) : (onHed f s).obs.lens = s.obs.lens := rfl
@[simp] theorem onHed_owat (f : Hed → Hed) (s : State) : (onHed f s).obs.wat = s.obs.wat := rfl
@[simp] theorem onHed_ohang (f : Hed → Hed) (s : State) : (onHed f s).obs.hang = s.obs.hang := rfl
@[simp] theorem onHed_oprv (f : Hed → Hed) (s : State) : (onHed f s).obs.prv = s.obs.prv := rfl
@[simp] theorem onHed_oegr (f : Hed → Hed) (s : State) : (onHed f s).obs.egr = s.obs.egr := rfl
@[simp] theorem onHed_ofab (f : Hed → Hed) (s : State) : (onHed f s).obs.fab = s.obs.fab := rfl
@[simp] theorem onHed_odbg (f : Hed → Hed) (s : State) : (onHed f s).obs.dbg = s.obs.dbg := rfl
@[simp] theorem onHed_aon (f : Hed → Hed) (s : State) : (onHed f s).aon = s.aon := rfl
@[simp] theorem onHed_build (f : Hed → Hed) (s : State) : (onHed f s).build = s.build := rfl
@[simp] theorem onHed_scan (f : Hed → Hed) (s : State) : (onHed f s).scan = s.scan := rfl
@[simp] theorem onHed_draws (f : Hed → Hed) (s : State) : (onHed f s).draws = s.draws := rfl
@[simp] theorem onHed_pending (f : Hed → Hed) (s : State) : (onHed f s).pending = s.pending := rfl
@[simp] theorem onCut_oregs (f : Cut → Cut) (s : State) : (onCut f s).obs.regs = s.obs.regs := rfl
@[simp] theorem onCut_ohed (f : Cut → Cut) (s : State) : (onCut f s).obs.hed = s.obs.hed := rfl
@[simp] theorem onCut_ocut (f : Cut → Cut) (s : State) : (onCut f s).obs.cut = f s.obs.cut := rfl
@[simp] theorem onCut_octxs (f : Cut → Cut) (s : State) : (onCut f s).obs.ctxs = s.obs.ctxs := rfl
@[simp] theorem onCut_osmp (f : Cut → Cut) (s : State) : (onCut f s).obs.smp = s.obs.smp := rfl
@[simp] theorem onCut_ocmd (f : Cut → Cut) (s : State) : (onCut f s).obs.cmd = s.obs.cmd := rfl
@[simp] theorem onCut_oevq (f : Cut → Cut) (s : State) : (onCut f s).obs.evq = s.obs.evq := rfl
@[simp] theorem onCut_olens (f : Cut → Cut) (s : State) : (onCut f s).obs.lens = s.obs.lens := rfl
@[simp] theorem onCut_owat (f : Cut → Cut) (s : State) : (onCut f s).obs.wat = s.obs.wat := rfl
@[simp] theorem onCut_ohang (f : Cut → Cut) (s : State) : (onCut f s).obs.hang = s.obs.hang := rfl
@[simp] theorem onCut_oprv (f : Cut → Cut) (s : State) : (onCut f s).obs.prv = s.obs.prv := rfl
@[simp] theorem onCut_oegr (f : Cut → Cut) (s : State) : (onCut f s).obs.egr = s.obs.egr := rfl
@[simp] theorem onCut_ofab (f : Cut → Cut) (s : State) : (onCut f s).obs.fab = s.obs.fab := rfl
@[simp] theorem onCut_odbg (f : Cut → Cut) (s : State) : (onCut f s).obs.dbg = s.obs.dbg := rfl
@[simp] theorem onCut_aon (f : Cut → Cut) (s : State) : (onCut f s).aon = s.aon := rfl
@[simp] theorem onCut_build (f : Cut → Cut) (s : State) : (onCut f s).build = s.build := rfl
@[simp] theorem onCut_scan (f : Cut → Cut) (s : State) : (onCut f s).scan = s.scan := rfl
@[simp] theorem onCut_draws (f : Cut → Cut) (s : State) : (onCut f s).draws = s.draws := rfl
@[simp] theorem onCut_pending (f : Cut → Cut) (s : State) : (onCut f s).pending = s.pending := rfl
@[simp] theorem onSmp_oregs (f : Smp → Smp) (s : State) : (onSmp f s).obs.regs = s.obs.regs := rfl
@[simp] theorem onSmp_ohed (f : Smp → Smp) (s : State) : (onSmp f s).obs.hed = s.obs.hed := rfl
@[simp] theorem onSmp_ocut (f : Smp → Smp) (s : State) : (onSmp f s).obs.cut = s.obs.cut := rfl
@[simp] theorem onSmp_octxs (f : Smp → Smp) (s : State) : (onSmp f s).obs.ctxs = s.obs.ctxs := rfl
@[simp] theorem onSmp_osmp (f : Smp → Smp) (s : State) : (onSmp f s).obs.smp = f s.obs.smp := rfl
@[simp] theorem onSmp_ocmd (f : Smp → Smp) (s : State) : (onSmp f s).obs.cmd = s.obs.cmd := rfl
@[simp] theorem onSmp_oevq (f : Smp → Smp) (s : State) : (onSmp f s).obs.evq = s.obs.evq := rfl
@[simp] theorem onSmp_olens (f : Smp → Smp) (s : State) : (onSmp f s).obs.lens = s.obs.lens := rfl
@[simp] theorem onSmp_owat (f : Smp → Smp) (s : State) : (onSmp f s).obs.wat = s.obs.wat := rfl
@[simp] theorem onSmp_ohang (f : Smp → Smp) (s : State) : (onSmp f s).obs.hang = s.obs.hang := rfl
@[simp] theorem onSmp_oprv (f : Smp → Smp) (s : State) : (onSmp f s).obs.prv = s.obs.prv := rfl
@[simp] theorem onSmp_oegr (f : Smp → Smp) (s : State) : (onSmp f s).obs.egr = s.obs.egr := rfl
@[simp] theorem onSmp_ofab (f : Smp → Smp) (s : State) : (onSmp f s).obs.fab = s.obs.fab := rfl
@[simp] theorem onSmp_odbg (f : Smp → Smp) (s : State) : (onSmp f s).obs.dbg = s.obs.dbg := rfl
@[simp] theorem onSmp_aon (f : Smp → Smp) (s : State) : (onSmp f s).aon = s.aon := rfl
@[simp] theorem onSmp_build (f : Smp → Smp) (s : State) : (onSmp f s).build = s.build := rfl
@[simp] theorem onSmp_scan (f : Smp → Smp) (s : State) : (onSmp f s).scan = s.scan := rfl
@[simp] theorem onSmp_draws (f : Smp → Smp) (s : State) : (onSmp f s).draws = s.draws := rfl
@[simp] theorem onSmp_pending (f : Smp → Smp) (s : State) : (onSmp f s).pending = s.pending := rfl
@[simp] theorem onCmd_oregs (f : Cmd → Cmd) (s : State) : (onCmd f s).obs.regs = s.obs.regs := rfl
@[simp] theorem onCmd_ohed (f : Cmd → Cmd) (s : State) : (onCmd f s).obs.hed = s.obs.hed := rfl
@[simp] theorem onCmd_ocut (f : Cmd → Cmd) (s : State) : (onCmd f s).obs.cut = s.obs.cut := rfl
@[simp] theorem onCmd_octxs (f : Cmd → Cmd) (s : State) : (onCmd f s).obs.ctxs = s.obs.ctxs := rfl
@[simp] theorem onCmd_osmp (f : Cmd → Cmd) (s : State) : (onCmd f s).obs.smp = s.obs.smp := rfl
@[simp] theorem onCmd_ocmd (f : Cmd → Cmd) (s : State) : (onCmd f s).obs.cmd = f s.obs.cmd := rfl
@[simp] theorem onCmd_oevq (f : Cmd → Cmd) (s : State) : (onCmd f s).obs.evq = s.obs.evq := rfl
@[simp] theorem onCmd_olens (f : Cmd → Cmd) (s : State) : (onCmd f s).obs.lens = s.obs.lens := rfl
@[simp] theorem onCmd_owat (f : Cmd → Cmd) (s : State) : (onCmd f s).obs.wat = s.obs.wat := rfl
@[simp] theorem onCmd_ohang (f : Cmd → Cmd) (s : State) : (onCmd f s).obs.hang = s.obs.hang := rfl
@[simp] theorem onCmd_oprv (f : Cmd → Cmd) (s : State) : (onCmd f s).obs.prv = s.obs.prv := rfl
@[simp] theorem onCmd_oegr (f : Cmd → Cmd) (s : State) : (onCmd f s).obs.egr = s.obs.egr := rfl
@[simp] theorem onCmd_ofab (f : Cmd → Cmd) (s : State) : (onCmd f s).obs.fab = s.obs.fab := rfl
@[simp] theorem onCmd_odbg (f : Cmd → Cmd) (s : State) : (onCmd f s).obs.dbg = s.obs.dbg := rfl
@[simp] theorem onCmd_aon (f : Cmd → Cmd) (s : State) : (onCmd f s).aon = s.aon := rfl
@[simp] theorem onCmd_build (f : Cmd → Cmd) (s : State) : (onCmd f s).build = s.build := rfl
@[simp] theorem onCmd_scan (f : Cmd → Cmd) (s : State) : (onCmd f s).scan = s.scan := rfl
@[simp] theorem onCmd_draws (f : Cmd → Cmd) (s : State) : (onCmd f s).draws = s.draws := rfl
@[simp] theorem onCmd_pending (f : Cmd → Cmd) (s : State) : (onCmd f s).pending = s.pending := rfl
@[simp] theorem onEvq_oregs (f : Evq → Evq) (s : State) : (onEvq f s).obs.regs = s.obs.regs := rfl
@[simp] theorem onEvq_ohed (f : Evq → Evq) (s : State) : (onEvq f s).obs.hed = s.obs.hed := rfl
@[simp] theorem onEvq_ocut (f : Evq → Evq) (s : State) : (onEvq f s).obs.cut = s.obs.cut := rfl
@[simp] theorem onEvq_octxs (f : Evq → Evq) (s : State) : (onEvq f s).obs.ctxs = s.obs.ctxs := rfl
@[simp] theorem onEvq_osmp (f : Evq → Evq) (s : State) : (onEvq f s).obs.smp = s.obs.smp := rfl
@[simp] theorem onEvq_ocmd (f : Evq → Evq) (s : State) : (onEvq f s).obs.cmd = s.obs.cmd := rfl
@[simp] theorem onEvq_oevq (f : Evq → Evq) (s : State) : (onEvq f s).obs.evq = f s.obs.evq := rfl
@[simp] theorem onEvq_olens (f : Evq → Evq) (s : State) : (onEvq f s).obs.lens = s.obs.lens := rfl
@[simp] theorem onEvq_owat (f : Evq → Evq) (s : State) : (onEvq f s).obs.wat = s.obs.wat := rfl
@[simp] theorem onEvq_ohang (f : Evq → Evq) (s : State) : (onEvq f s).obs.hang = s.obs.hang := rfl
@[simp] theorem onEvq_oprv (f : Evq → Evq) (s : State) : (onEvq f s).obs.prv = s.obs.prv := rfl
@[simp] theorem onEvq_oegr (f : Evq → Evq) (s : State) : (onEvq f s).obs.egr = s.obs.egr := rfl
@[simp] theorem onEvq_ofab (f : Evq → Evq) (s : State) : (onEvq f s).obs.fab = s.obs.fab := rfl
@[simp] theorem onEvq_odbg (f : Evq → Evq) (s : State) : (onEvq f s).obs.dbg = s.obs.dbg := rfl
@[simp] theorem onEvq_aon (f : Evq → Evq) (s : State) : (onEvq f s).aon = s.aon := rfl
@[simp] theorem onEvq_build (f : Evq → Evq) (s : State) : (onEvq f s).build = s.build := rfl
@[simp] theorem onEvq_scan (f : Evq → Evq) (s : State) : (onEvq f s).scan = s.scan := rfl
@[simp] theorem onEvq_draws (f : Evq → Evq) (s : State) : (onEvq f s).draws = s.draws := rfl
@[simp] theorem onEvq_pending (f : Evq → Evq) (s : State) : (onEvq f s).pending = s.pending := rfl
@[simp] theorem onLens_oregs (f : Lens → Lens) (s : State) : (onLens f s).obs.regs = s.obs.regs := rfl
@[simp] theorem onLens_ohed (f : Lens → Lens) (s : State) : (onLens f s).obs.hed = s.obs.hed := rfl
@[simp] theorem onLens_ocut (f : Lens → Lens) (s : State) : (onLens f s).obs.cut = s.obs.cut := rfl
@[simp] theorem onLens_octxs (f : Lens → Lens) (s : State) : (onLens f s).obs.ctxs = s.obs.ctxs := rfl
@[simp] theorem onLens_osmp (f : Lens → Lens) (s : State) : (onLens f s).obs.smp = s.obs.smp := rfl
@[simp] theorem onLens_ocmd (f : Lens → Lens) (s : State) : (onLens f s).obs.cmd = s.obs.cmd := rfl
@[simp] theorem onLens_oevq (f : Lens → Lens) (s : State) : (onLens f s).obs.evq = s.obs.evq := rfl
@[simp] theorem onLens_olens (f : Lens → Lens) (s : State) : (onLens f s).obs.lens = f s.obs.lens := rfl
@[simp] theorem onLens_owat (f : Lens → Lens) (s : State) : (onLens f s).obs.wat = s.obs.wat := rfl
@[simp] theorem onLens_ohang (f : Lens → Lens) (s : State) : (onLens f s).obs.hang = s.obs.hang := rfl
@[simp] theorem onLens_oprv (f : Lens → Lens) (s : State) : (onLens f s).obs.prv = s.obs.prv := rfl
@[simp] theorem onLens_oegr (f : Lens → Lens) (s : State) : (onLens f s).obs.egr = s.obs.egr := rfl
@[simp] theorem onLens_ofab (f : Lens → Lens) (s : State) : (onLens f s).obs.fab = s.obs.fab := rfl
@[simp] theorem onLens_odbg (f : Lens → Lens) (s : State) : (onLens f s).obs.dbg = s.obs.dbg := rfl
@[simp] theorem onLens_aon (f : Lens → Lens) (s : State) : (onLens f s).aon = s.aon := rfl
@[simp] theorem onLens_build (f : Lens → Lens) (s : State) : (onLens f s).build = s.build := rfl
@[simp] theorem onLens_scan (f : Lens → Lens) (s : State) : (onLens f s).scan = s.scan := rfl
@[simp] theorem onLens_draws (f : Lens → Lens) (s : State) : (onLens f s).draws = s.draws := rfl
@[simp] theorem onLens_pending (f : Lens → Lens) (s : State) : (onLens f s).pending = s.pending := rfl
@[simp] theorem onWat_oregs (f : Wat → Wat) (s : State) : (onWat f s).obs.regs = s.obs.regs := rfl
@[simp] theorem onWat_ohed (f : Wat → Wat) (s : State) : (onWat f s).obs.hed = s.obs.hed := rfl
@[simp] theorem onWat_ocut (f : Wat → Wat) (s : State) : (onWat f s).obs.cut = s.obs.cut := rfl
@[simp] theorem onWat_octxs (f : Wat → Wat) (s : State) : (onWat f s).obs.ctxs = s.obs.ctxs := rfl
@[simp] theorem onWat_osmp (f : Wat → Wat) (s : State) : (onWat f s).obs.smp = s.obs.smp := rfl
@[simp] theorem onWat_ocmd (f : Wat → Wat) (s : State) : (onWat f s).obs.cmd = s.obs.cmd := rfl
@[simp] theorem onWat_oevq (f : Wat → Wat) (s : State) : (onWat f s).obs.evq = s.obs.evq := rfl
@[simp] theorem onWat_olens (f : Wat → Wat) (s : State) : (onWat f s).obs.lens = s.obs.lens := rfl
@[simp] theorem onWat_owat (f : Wat → Wat) (s : State) : (onWat f s).obs.wat = f s.obs.wat := rfl
@[simp] theorem onWat_ohang (f : Wat → Wat) (s : State) : (onWat f s).obs.hang = s.obs.hang := rfl
@[simp] theorem onWat_oprv (f : Wat → Wat) (s : State) : (onWat f s).obs.prv = s.obs.prv := rfl
@[simp] theorem onWat_oegr (f : Wat → Wat) (s : State) : (onWat f s).obs.egr = s.obs.egr := rfl
@[simp] theorem onWat_ofab (f : Wat → Wat) (s : State) : (onWat f s).obs.fab = s.obs.fab := rfl
@[simp] theorem onWat_odbg (f : Wat → Wat) (s : State) : (onWat f s).obs.dbg = s.obs.dbg := rfl
@[simp] theorem onWat_aon (f : Wat → Wat) (s : State) : (onWat f s).aon = s.aon := rfl
@[simp] theorem onWat_build (f : Wat → Wat) (s : State) : (onWat f s).build = s.build := rfl
@[simp] theorem onWat_scan (f : Wat → Wat) (s : State) : (onWat f s).scan = s.scan := rfl
@[simp] theorem onWat_draws (f : Wat → Wat) (s : State) : (onWat f s).draws = s.draws := rfl
@[simp] theorem onWat_pending (f : Wat → Wat) (s : State) : (onWat f s).pending = s.pending := rfl
@[simp] theorem onHang_oregs (f : Hang → Hang) (s : State) : (onHang f s).obs.regs = s.obs.regs := rfl
@[simp] theorem onHang_ohed (f : Hang → Hang) (s : State) : (onHang f s).obs.hed = s.obs.hed := rfl
@[simp] theorem onHang_ocut (f : Hang → Hang) (s : State) : (onHang f s).obs.cut = s.obs.cut := rfl
@[simp] theorem onHang_octxs (f : Hang → Hang) (s : State) : (onHang f s).obs.ctxs = s.obs.ctxs := rfl
@[simp] theorem onHang_osmp (f : Hang → Hang) (s : State) : (onHang f s).obs.smp = s.obs.smp := rfl
@[simp] theorem onHang_ocmd (f : Hang → Hang) (s : State) : (onHang f s).obs.cmd = s.obs.cmd := rfl
@[simp] theorem onHang_oevq (f : Hang → Hang) (s : State) : (onHang f s).obs.evq = s.obs.evq := rfl
@[simp] theorem onHang_olens (f : Hang → Hang) (s : State) : (onHang f s).obs.lens = s.obs.lens := rfl
@[simp] theorem onHang_owat (f : Hang → Hang) (s : State) : (onHang f s).obs.wat = s.obs.wat := rfl
@[simp] theorem onHang_ohang (f : Hang → Hang) (s : State) : (onHang f s).obs.hang = f s.obs.hang := rfl
@[simp] theorem onHang_oprv (f : Hang → Hang) (s : State) : (onHang f s).obs.prv = s.obs.prv := rfl
@[simp] theorem onHang_oegr (f : Hang → Hang) (s : State) : (onHang f s).obs.egr = s.obs.egr := rfl
@[simp] theorem onHang_ofab (f : Hang → Hang) (s : State) : (onHang f s).obs.fab = s.obs.fab := rfl
@[simp] theorem onHang_odbg (f : Hang → Hang) (s : State) : (onHang f s).obs.dbg = s.obs.dbg := rfl
@[simp] theorem onHang_aon (f : Hang → Hang) (s : State) : (onHang f s).aon = s.aon := rfl
@[simp] theorem onHang_build (f : Hang → Hang) (s : State) : (onHang f s).build = s.build := rfl
@[simp] theorem onHang_scan (f : Hang → Hang) (s : State) : (onHang f s).scan = s.scan := rfl
@[simp] theorem onHang_draws (f : Hang → Hang) (s : State) : (onHang f s).draws = s.draws := rfl
@[simp] theorem onHang_pending (f : Hang → Hang) (s : State) : (onHang f s).pending = s.pending := rfl
@[simp] theorem onPrv_oregs (f : Prv → Prv) (s : State) : (onPrv f s).obs.regs = s.obs.regs := rfl
@[simp] theorem onPrv_ohed (f : Prv → Prv) (s : State) : (onPrv f s).obs.hed = s.obs.hed := rfl
@[simp] theorem onPrv_ocut (f : Prv → Prv) (s : State) : (onPrv f s).obs.cut = s.obs.cut := rfl
@[simp] theorem onPrv_octxs (f : Prv → Prv) (s : State) : (onPrv f s).obs.ctxs = s.obs.ctxs := rfl
@[simp] theorem onPrv_osmp (f : Prv → Prv) (s : State) : (onPrv f s).obs.smp = s.obs.smp := rfl
@[simp] theorem onPrv_ocmd (f : Prv → Prv) (s : State) : (onPrv f s).obs.cmd = s.obs.cmd := rfl
@[simp] theorem onPrv_oevq (f : Prv → Prv) (s : State) : (onPrv f s).obs.evq = s.obs.evq := rfl
@[simp] theorem onPrv_olens (f : Prv → Prv) (s : State) : (onPrv f s).obs.lens = s.obs.lens := rfl
@[simp] theorem onPrv_owat (f : Prv → Prv) (s : State) : (onPrv f s).obs.wat = s.obs.wat := rfl
@[simp] theorem onPrv_ohang (f : Prv → Prv) (s : State) : (onPrv f s).obs.hang = s.obs.hang := rfl
@[simp] theorem onPrv_oprv (f : Prv → Prv) (s : State) : (onPrv f s).obs.prv = f s.obs.prv := rfl
@[simp] theorem onPrv_oegr (f : Prv → Prv) (s : State) : (onPrv f s).obs.egr = s.obs.egr := rfl
@[simp] theorem onPrv_ofab (f : Prv → Prv) (s : State) : (onPrv f s).obs.fab = s.obs.fab := rfl
@[simp] theorem onPrv_odbg (f : Prv → Prv) (s : State) : (onPrv f s).obs.dbg = s.obs.dbg := rfl
@[simp] theorem onPrv_aon (f : Prv → Prv) (s : State) : (onPrv f s).aon = s.aon := rfl
@[simp] theorem onPrv_build (f : Prv → Prv) (s : State) : (onPrv f s).build = s.build := rfl
@[simp] theorem onPrv_scan (f : Prv → Prv) (s : State) : (onPrv f s).scan = s.scan := rfl
@[simp] theorem onPrv_draws (f : Prv → Prv) (s : State) : (onPrv f s).draws = s.draws := rfl
@[simp] theorem onPrv_pending (f : Prv → Prv) (s : State) : (onPrv f s).pending = s.pending := rfl
@[simp] theorem onEgr_oregs (f : Egr → Egr) (s : State) : (onEgr f s).obs.regs = s.obs.regs := rfl
@[simp] theorem onEgr_ohed (f : Egr → Egr) (s : State) : (onEgr f s).obs.hed = s.obs.hed := rfl
@[simp] theorem onEgr_ocut (f : Egr → Egr) (s : State) : (onEgr f s).obs.cut = s.obs.cut := rfl
@[simp] theorem onEgr_octxs (f : Egr → Egr) (s : State) : (onEgr f s).obs.ctxs = s.obs.ctxs := rfl
@[simp] theorem onEgr_osmp (f : Egr → Egr) (s : State) : (onEgr f s).obs.smp = s.obs.smp := rfl
@[simp] theorem onEgr_ocmd (f : Egr → Egr) (s : State) : (onEgr f s).obs.cmd = s.obs.cmd := rfl
@[simp] theorem onEgr_oevq (f : Egr → Egr) (s : State) : (onEgr f s).obs.evq = s.obs.evq := rfl
@[simp] theorem onEgr_olens (f : Egr → Egr) (s : State) : (onEgr f s).obs.lens = s.obs.lens := rfl
@[simp] theorem onEgr_owat (f : Egr → Egr) (s : State) : (onEgr f s).obs.wat = s.obs.wat := rfl
@[simp] theorem onEgr_ohang (f : Egr → Egr) (s : State) : (onEgr f s).obs.hang = s.obs.hang := rfl
@[simp] theorem onEgr_oprv (f : Egr → Egr) (s : State) : (onEgr f s).obs.prv = s.obs.prv := rfl
@[simp] theorem onEgr_oegr (f : Egr → Egr) (s : State) : (onEgr f s).obs.egr = f s.obs.egr := rfl
@[simp] theorem onEgr_ofab (f : Egr → Egr) (s : State) : (onEgr f s).obs.fab = s.obs.fab := rfl
@[simp] theorem onEgr_odbg (f : Egr → Egr) (s : State) : (onEgr f s).obs.dbg = s.obs.dbg := rfl
@[simp] theorem onEgr_aon (f : Egr → Egr) (s : State) : (onEgr f s).aon = s.aon := rfl
@[simp] theorem onEgr_build (f : Egr → Egr) (s : State) : (onEgr f s).build = s.build := rfl
@[simp] theorem onEgr_scan (f : Egr → Egr) (s : State) : (onEgr f s).scan = s.scan := rfl
@[simp] theorem onEgr_draws (f : Egr → Egr) (s : State) : (onEgr f s).draws = s.draws := rfl
@[simp] theorem onEgr_pending (f : Egr → Egr) (s : State) : (onEgr f s).pending = s.pending := rfl
@[simp] theorem onFab_oregs (f : Fab → Fab) (s : State) : (onFab f s).obs.regs = s.obs.regs := rfl
@[simp] theorem onFab_ohed (f : Fab → Fab) (s : State) : (onFab f s).obs.hed = s.obs.hed := rfl
@[simp] theorem onFab_ocut (f : Fab → Fab) (s : State) : (onFab f s).obs.cut = s.obs.cut := rfl
@[simp] theorem onFab_octxs (f : Fab → Fab) (s : State) : (onFab f s).obs.ctxs = s.obs.ctxs := rfl
@[simp] theorem onFab_osmp (f : Fab → Fab) (s : State) : (onFab f s).obs.smp = s.obs.smp := rfl
@[simp] theorem onFab_ocmd (f : Fab → Fab) (s : State) : (onFab f s).obs.cmd = s.obs.cmd := rfl
@[simp] theorem onFab_oevq (f : Fab → Fab) (s : State) : (onFab f s).obs.evq = s.obs.evq := rfl
@[simp] theorem onFab_olens (f : Fab → Fab) (s : State) : (onFab f s).obs.lens = s.obs.lens := rfl
@[simp] theorem onFab_owat (f : Fab → Fab) (s : State) : (onFab f s).obs.wat = s.obs.wat := rfl
@[simp] theorem onFab_ohang (f : Fab → Fab) (s : State) : (onFab f s).obs.hang = s.obs.hang := rfl
@[simp] theorem onFab_oprv (f : Fab → Fab) (s : State) : (onFab f s).obs.prv = s.obs.prv := rfl
@[simp] theorem onFab_oegr (f : Fab → Fab) (s : State) : (onFab f s).obs.egr = s.obs.egr := rfl
@[simp] theorem onFab_ofab (f : Fab → Fab) (s : State) : (onFab f s).obs.fab = f s.obs.fab := rfl
@[simp] theorem onFab_odbg (f : Fab → Fab) (s : State) : (onFab f s).obs.dbg = s.obs.dbg := rfl
@[simp] theorem onFab_aon (f : Fab → Fab) (s : State) : (onFab f s).aon = s.aon := rfl
@[simp] theorem onFab_build (f : Fab → Fab) (s : State) : (onFab f s).build = s.build := rfl
@[simp] theorem onFab_scan (f : Fab → Fab) (s : State) : (onFab f s).scan = s.scan := rfl
@[simp] theorem onFab_draws (f : Fab → Fab) (s : State) : (onFab f s).draws = s.draws := rfl
@[simp] theorem onFab_pending (f : Fab → Fab) (s : State) : (onFab f s).pending = s.pending := rfl
@[simp] theorem onDbg_oregs (f : Dbg → Dbg) (s : State) : (onDbg f s).obs.regs = s.obs.regs := rfl
@[simp] theorem onDbg_ohed (f : Dbg → Dbg) (s : State) : (onDbg f s).obs.hed = s.obs.hed := rfl
@[simp] theorem onDbg_ocut (f : Dbg → Dbg) (s : State) : (onDbg f s).obs.cut = s.obs.cut := rfl
@[simp] theorem onDbg_octxs (f : Dbg → Dbg) (s : State) : (onDbg f s).obs.ctxs = s.obs.ctxs := rfl
@[simp] theorem onDbg_osmp (f : Dbg → Dbg) (s : State) : (onDbg f s).obs.smp = s.obs.smp := rfl
@[simp] theorem onDbg_ocmd (f : Dbg → Dbg) (s : State) : (onDbg f s).obs.cmd = s.obs.cmd := rfl
@[simp] theorem onDbg_oevq (f : Dbg → Dbg) (s : State) : (onDbg f s).obs.evq = s.obs.evq := rfl
@[simp] theorem onDbg_olens (f : Dbg → Dbg) (s : State) : (onDbg f s).obs.lens = s.obs.lens := rfl
@[simp] theorem onDbg_owat (f : Dbg → Dbg) (s : State) : (onDbg f s).obs.wat = s.obs.wat := rfl
@[simp] theorem onDbg_ohang (f : Dbg → Dbg) (s : State) : (onDbg f s).obs.hang = s.obs.hang := rfl
@[simp] theorem onDbg_oprv (f : Dbg → Dbg) (s : State) : (onDbg f s).obs.prv = s.obs.prv := rfl
@[simp] theorem onDbg_oegr (f : Dbg → Dbg) (s : State) : (onDbg f s).obs.egr = s.obs.egr := rfl
@[simp] theorem onDbg_ofab (f : Dbg → Dbg) (s : State) : (onDbg f s).obs.fab = s.obs.fab := rfl
@[simp] theorem onDbg_odbg (f : Dbg → Dbg) (s : State) : (onDbg f s).obs.dbg = f s.obs.dbg := rfl
@[simp] theorem onDbg_aon (f : Dbg → Dbg) (s : State) : (onDbg f s).aon = s.aon := rfl
@[simp] theorem onDbg_build (f : Dbg → Dbg) (s : State) : (onDbg f s).build = s.build := rfl
@[simp] theorem onDbg_scan (f : Dbg → Dbg) (s : State) : (onDbg f s).scan = s.scan := rfl
@[simp] theorem onDbg_draws (f : Dbg → Dbg) (s : State) : (onDbg f s).draws = s.draws := rfl
@[simp] theorem onDbg_pending (f : Dbg → Dbg) (s : State) : (onDbg f s).pending = s.pending := rfl
@[simp] theorem onUnit_oregs (u : Nat) (f : UnitSt → UnitSt) (s : State) : (onUnit u f s).obs.regs = s.obs.regs := rfl
@[simp] theorem onUnit_ocut (u : Nat) (f : UnitSt → UnitSt) (s : State) : (onUnit u f s).obs.cut = s.obs.cut := rfl
@[simp] theorem onUnit_octxs (u : Nat) (f : UnitSt → UnitSt) (s : State) : (onUnit u f s).obs.ctxs = s.obs.ctxs := rfl
@[simp] theorem onUnit_osmp (u : Nat) (f : UnitSt → UnitSt) (s : State) : (onUnit u f s).obs.smp = s.obs.smp := rfl
@[simp] theorem onUnit_ocmd (u : Nat) (f : UnitSt → UnitSt) (s : State) : (onUnit u f s).obs.cmd = s.obs.cmd := rfl
@[simp] theorem onUnit_oevq (u : Nat) (f : UnitSt → UnitSt) (s : State) : (onUnit u f s).obs.evq = s.obs.evq := rfl
@[simp] theorem onUnit_olens (u : Nat) (f : UnitSt → UnitSt) (s : State) : (onUnit u f s).obs.lens = s.obs.lens := rfl
@[simp] theorem onUnit_owat (u : Nat) (f : UnitSt → UnitSt) (s : State) : (onUnit u f s).obs.wat = s.obs.wat := rfl
@[simp] theorem onUnit_ohang (u : Nat) (f : UnitSt → UnitSt) (s : State) : (onUnit u f s).obs.hang = s.obs.hang := rfl
@[simp] theorem onUnit_oprv (u : Nat) (f : UnitSt → UnitSt) (s : State) : (onUnit u f s).obs.prv = s.obs.prv := rfl
@[simp] theorem onUnit_oegr (u : Nat) (f : UnitSt → UnitSt) (s : State) : (onUnit u f s).obs.egr = s.obs.egr := rfl
@[simp] theorem onUnit_ofab (u : Nat) (f : UnitSt → UnitSt) (s : State) : (onUnit u f s).obs.fab = s.obs.fab := rfl
@[simp] theorem onUnit_odbg (u : Nat) (f : UnitSt → UnitSt) (s : State) : (onUnit u f s).obs.dbg = s.obs.dbg := rfl
@[simp] theorem onUnit_aon (u : Nat) (f : UnitSt → UnitSt) (s : State) : (onUnit u f s).aon = s.aon := rfl
@[simp] theorem onUnit_build (u : Nat) (f : UnitSt → UnitSt) (s : State) : (onUnit u f s).build = s.build := rfl
@[simp] theorem onUnit_scan (u : Nat) (f : UnitSt → UnitSt) (s : State) : (onUnit u f s).scan = s.scan := rfl
@[simp] theorem onUnit_draws (u : Nat) (f : UnitSt → UnitSt) (s : State) : (onUnit u f s).draws = s.draws := rfl
@[simp] theorem onUnit_pending (u : Nat) (f : UnitSt → UnitSt) (s : State) : (onUnit u f s).pending = s.pending := rfl
@[simp] theorem onPort_oregs (p : Nat) (f : PortSt → PortSt) (s : State) : (onPort p f s).obs.regs = s.obs.regs := rfl
@[simp] theorem onPort_ocut (p : Nat) (f : PortSt → PortSt) (s : State) : (onPort p f s).obs.cut = s.obs.cut := rfl
@[simp] theorem onPort_octxs (p : Nat) (f : PortSt → PortSt) (s : State) : (onPort p f s).obs.ctxs = s.obs.ctxs := rfl
@[simp] theorem onPort_osmp (p : Nat) (f : PortSt → PortSt) (s : State) : (onPort p f s).obs.smp = s.obs.smp := rfl
@[simp] theorem onPort_ocmd (p : Nat) (f : PortSt → PortSt) (s : State) : (onPort p f s).obs.cmd = s.obs.cmd := rfl
@[simp] theorem onPort_oevq (p : Nat) (f : PortSt → PortSt) (s : State) : (onPort p f s).obs.evq = s.obs.evq := rfl
@[simp] theorem onPort_olens (p : Nat) (f : PortSt → PortSt) (s : State) : (onPort p f s).obs.lens = s.obs.lens := rfl
@[simp] theorem onPort_owat (p : Nat) (f : PortSt → PortSt) (s : State) : (onPort p f s).obs.wat = s.obs.wat := rfl
@[simp] theorem onPort_ohang (p : Nat) (f : PortSt → PortSt) (s : State) : (onPort p f s).obs.hang = s.obs.hang := rfl
@[simp] theorem onPort_oprv (p : Nat) (f : PortSt → PortSt) (s : State) : (onPort p f s).obs.prv = s.obs.prv := rfl
@[simp] theorem onPort_oegr (p : Nat) (f : PortSt → PortSt) (s : State) : (onPort p f s).obs.egr = s.obs.egr := rfl
@[simp] theorem onPort_ofab (p : Nat) (f : PortSt → PortSt) (s : State) : (onPort p f s).obs.fab = s.obs.fab := rfl
@[simp] theorem onPort_odbg (p : Nat) (f : PortSt → PortSt) (s : State) : (onPort p f s).obs.dbg = s.obs.dbg := rfl
@[simp] theorem onPort_aon (p : Nat) (f : PortSt → PortSt) (s : State) : (onPort p f s).aon = s.aon := rfl
@[simp] theorem onPort_build (p : Nat) (f : PortSt → PortSt) (s : State) : (onPort p f s).build = s.build := rfl
@[simp] theorem onPort_scan (p : Nat) (f : PortSt → PortSt) (s : State) : (onPort p f s).scan = s.scan := rfl
@[simp] theorem onPort_draws (p : Nat) (f : PortSt → PortSt) (s : State) : (onPort p f s).draws = s.draws := rfl
@[simp] theorem onPort_pending (p : Nat) (f : PortSt → PortSt) (s : State) : (onPort p f s).pending = s.pending := rfl
@[simp] theorem onColl_oregs (c : Nat) (f : CollSt → CollSt) (s : State) : (onColl c f s).obs.regs = s.obs.regs := rfl
@[simp] theorem onColl_ocut (c : Nat) (f : CollSt → CollSt) (s : State) : (onColl c f s).obs.cut = s.obs.cut := rfl
@[simp] theorem onColl_octxs (c : Nat) (f : CollSt → CollSt) (s : State) : (onColl c f s).obs.ctxs = s.obs.ctxs := rfl
@[simp] theorem onColl_osmp (c : Nat) (f : CollSt → CollSt) (s : State) : (onColl c f s).obs.smp = s.obs.smp := rfl
@[simp] theorem onColl_ocmd (c : Nat) (f : CollSt → CollSt) (s : State) : (onColl c f s).obs.cmd = s.obs.cmd := rfl
@[simp] theorem onColl_oevq (c : Nat) (f : CollSt → CollSt) (s : State) : (onColl c f s).obs.evq = s.obs.evq := rfl
@[simp] theorem onColl_olens (c : Nat) (f : CollSt → CollSt) (s : State) : (onColl c f s).obs.lens = s.obs.lens := rfl
@[simp] theorem onColl_owat (c : Nat) (f : CollSt → CollSt) (s : State) : (onColl c f s).obs.wat = s.obs.wat := rfl
@[simp] theorem onColl_ohang (c : Nat) (f : CollSt → CollSt) (s : State) : (onColl c f s).obs.hang = s.obs.hang := rfl
@[simp] theorem onColl_oprv (c : Nat) (f : CollSt → CollSt) (s : State) : (onColl c f s).obs.prv = s.obs.prv := rfl
@[simp] theorem onColl_oegr (c : Nat) (f : CollSt → CollSt) (s : State) : (onColl c f s).obs.egr = s.obs.egr := rfl
@[simp] theorem onColl_ofab (c : Nat) (f : CollSt → CollSt) (s : State) : (onColl c f s).obs.fab = s.obs.fab := rfl
@[simp] theorem onColl_odbg (c : Nat) (f : CollSt → CollSt) (s : State) : (onColl c f s).obs.dbg = s.obs.dbg := rfl
@[simp] theorem onColl_aon (c : Nat) (f : CollSt → CollSt) (s : State) : (onColl c f s).aon = s.aon := rfl
@[simp] theorem onColl_build (c : Nat) (f : CollSt → CollSt) (s : State) : (onColl c f s).build = s.build := rfl
@[simp] theorem onColl_scan (c : Nat) (f : CollSt → CollSt) (s : State) : (onColl c f s).scan = s.scan := rfl
@[simp] theorem onColl_draws (c : Nat) (f : CollSt → CollSt) (s : State) : (onColl c f s).draws = s.draws := rfl
@[simp] theorem onColl_pending (c : Nat) (f : CollSt → CollSt) (s : State) : (onColl c f s).pending = s.pending := rfl
@[simp] theorem onSect_oregs (i : Nat) (f : SectSt → SectSt) (s : State) : (onSect i f s).obs.regs = s.obs.regs := rfl
@[simp] theorem onSect_ocut (i : Nat) (f : SectSt → SectSt) (s : State) : (onSect i f s).obs.cut = s.obs.cut := rfl
@[simp] theorem onSect_octxs (i : Nat) (f : SectSt → SectSt) (s : State) : (onSect i f s).obs.ctxs = s.obs.ctxs := rfl
@[simp] theorem onSect_osmp (i : Nat) (f : SectSt → SectSt) (s : State) : (onSect i f s).obs.smp = s.obs.smp := rfl
@[simp] theorem onSect_ocmd (i : Nat) (f : SectSt → SectSt) (s : State) : (onSect i f s).obs.cmd = s.obs.cmd := rfl
@[simp] theorem onSect_oevq (i : Nat) (f : SectSt → SectSt) (s : State) : (onSect i f s).obs.evq = s.obs.evq := rfl
@[simp] theorem onSect_olens (i : Nat) (f : SectSt → SectSt) (s : State) : (onSect i f s).obs.lens = s.obs.lens := rfl
@[simp] theorem onSect_owat (i : Nat) (f : SectSt → SectSt) (s : State) : (onSect i f s).obs.wat = s.obs.wat := rfl
@[simp] theorem onSect_ohang (i : Nat) (f : SectSt → SectSt) (s : State) : (onSect i f s).obs.hang = s.obs.hang := rfl
@[simp] theorem onSect_oprv (i : Nat) (f : SectSt → SectSt) (s : State) : (onSect i f s).obs.prv = s.obs.prv := rfl
@[simp] theorem onSect_oegr (i : Nat) (f : SectSt → SectSt) (s : State) : (onSect i f s).obs.egr = s.obs.egr := rfl
@[simp] theorem onSect_ofab (i : Nat) (f : SectSt → SectSt) (s : State) : (onSect i f s).obs.fab = s.obs.fab := rfl
@[simp] theorem onSect_odbg (i : Nat) (f : SectSt → SectSt) (s : State) : (onSect i f s).obs.dbg = s.obs.dbg := rfl
@[simp] theorem onSect_aon (i : Nat) (f : SectSt → SectSt) (s : State) : (onSect i f s).aon = s.aon := rfl
@[simp] theorem onSect_build (i : Nat) (f : SectSt → SectSt) (s : State) : (onSect i f s).build = s.build := rfl
@[simp] theorem onSect_scan (i : Nat) (f : SectSt → SectSt) (s : State) : (onSect i f s).scan = s.scan := rfl
@[simp] theorem onSect_draws (i : Nat) (f : SectSt → SectSt) (s : State) : (onSect i f s).draws = s.draws := rfl
@[simp] theorem onSect_pending (i : Nat) (f : SectSt → SectSt) (s : State) : (onSect i f s).pending = s.pending := rfl
@[simp] theorem onEpoch_oregs (p : Nat) (f : EpochSt → EpochSt) (s : State) : (onEpoch p f s).obs.regs = s.obs.regs := rfl
@[simp] theorem onEpoch_ohed (p : Nat) (f : EpochSt → EpochSt) (s : State) : (onEpoch p f s).obs.hed = s.obs.hed := rfl
@[simp] theorem onEpoch_octxs (p : Nat) (f : EpochSt → EpochSt) (s : State) : (onEpoch p f s).obs.ctxs = s.obs.ctxs := rfl
@[simp] theorem onEpoch_osmp (p : Nat) (f : EpochSt → EpochSt) (s : State) : (onEpoch p f s).obs.smp = s.obs.smp := rfl
@[simp] theorem onEpoch_ocmd (p : Nat) (f : EpochSt → EpochSt) (s : State) : (onEpoch p f s).obs.cmd = s.obs.cmd := rfl
@[simp] theorem onEpoch_oevq (p : Nat) (f : EpochSt → EpochSt) (s : State) : (onEpoch p f s).obs.evq = s.obs.evq := rfl
@[simp] theorem onEpoch_olens (p : Nat) (f : EpochSt → EpochSt) (s : State) : (onEpoch p f s).obs.lens = s.obs.lens := rfl
@[simp] theorem onEpoch_owat (p : Nat) (f : EpochSt → EpochSt) (s : State) : (onEpoch p f s).obs.wat = s.obs.wat := rfl
@[simp] theorem onEpoch_ohang (p : Nat) (f : EpochSt → EpochSt) (s : State) : (onEpoch p f s).obs.hang = s.obs.hang := rfl
@[simp] theorem onEpoch_oprv (p : Nat) (f : EpochSt → EpochSt) (s : State) : (onEpoch p f s).obs.prv = s.obs.prv := rfl
@[simp] theorem onEpoch_oegr (p : Nat) (f : EpochSt → EpochSt) (s : State) : (onEpoch p f s).obs.egr = s.obs.egr := rfl
@[simp] theorem onEpoch_ofab (p : Nat) (f : EpochSt → EpochSt) (s : State) : (onEpoch p f s).obs.fab = s.obs.fab := rfl
@[simp] theorem onEpoch_odbg (p : Nat) (f : EpochSt → EpochSt) (s : State) : (onEpoch p f s).obs.dbg = s.obs.dbg := rfl
@[simp] theorem onEpoch_aon (p : Nat) (f : EpochSt → EpochSt) (s : State) : (onEpoch p f s).aon = s.aon := rfl
@[simp] theorem onEpoch_build (p : Nat) (f : EpochSt → EpochSt) (s : State) : (onEpoch p f s).build = s.build := rfl
@[simp] theorem onEpoch_scan (p : Nat) (f : EpochSt → EpochSt) (s : State) : (onEpoch p f s).scan = s.scan := rfl
@[simp] theorem onEpoch_draws (p : Nat) (f : EpochSt → EpochSt) (s : State) : (onEpoch p f s).draws = s.draws := rfl
@[simp] theorem onEpoch_pending (p : Nat) (f : EpochSt → EpochSt) (s : State) : (onEpoch p f s).pending = s.pending := rfl
@[simp] theorem setCtx_oregs (x : Nat) (c : Option CtxSt) (s : State) : (setCtx x c s).obs.regs = s.obs.regs := rfl
@[simp] theorem setCtx_ohed (x : Nat) (c : Option CtxSt) (s : State) : (setCtx x c s).obs.hed = s.obs.hed := rfl
@[simp] theorem setCtx_ocut (x : Nat) (c : Option CtxSt) (s : State) : (setCtx x c s).obs.cut = s.obs.cut := rfl
@[simp] theorem setCtx_osmp (x : Nat) (c : Option CtxSt) (s : State) : (setCtx x c s).obs.smp = s.obs.smp := rfl
@[simp] theorem setCtx_ocmd (x : Nat) (c : Option CtxSt) (s : State) : (setCtx x c s).obs.cmd = s.obs.cmd := rfl
@[simp] theorem setCtx_oevq (x : Nat) (c : Option CtxSt) (s : State) : (setCtx x c s).obs.evq = s.obs.evq := rfl
@[simp] theorem setCtx_olens (x : Nat) (c : Option CtxSt) (s : State) : (setCtx x c s).obs.lens = s.obs.lens := rfl
@[simp] theorem setCtx_owat (x : Nat) (c : Option CtxSt) (s : State) : (setCtx x c s).obs.wat = s.obs.wat := rfl
@[simp] theorem setCtx_ohang (x : Nat) (c : Option CtxSt) (s : State) : (setCtx x c s).obs.hang = s.obs.hang := rfl
@[simp] theorem setCtx_oprv (x : Nat) (c : Option CtxSt) (s : State) : (setCtx x c s).obs.prv = s.obs.prv := rfl
@[simp] theorem setCtx_oegr (x : Nat) (c : Option CtxSt) (s : State) : (setCtx x c s).obs.egr = s.obs.egr := rfl
@[simp] theorem setCtx_ofab (x : Nat) (c : Option CtxSt) (s : State) : (setCtx x c s).obs.fab = s.obs.fab := rfl
@[simp] theorem setCtx_odbg (x : Nat) (c : Option CtxSt) (s : State) : (setCtx x c s).obs.dbg = s.obs.dbg := rfl
@[simp] theorem setCtx_aon (x : Nat) (c : Option CtxSt) (s : State) : (setCtx x c s).aon = s.aon := rfl
@[simp] theorem setCtx_build (x : Nat) (c : Option CtxSt) (s : State) : (setCtx x c s).build = s.build := rfl
@[simp] theorem setCtx_scan (x : Nat) (c : Option CtxSt) (s : State) : (setCtx x c s).scan = s.scan := rfl
@[simp] theorem setCtx_draws (x : Nat) (c : Option CtxSt) (s : State) : (setCtx x c s).draws = s.draws := rfl
@[simp] theorem setCtx_pending (x : Nat) (c : Option CtxSt) (s : State) : (setCtx x c s).pending = s.pending := rfl
@[simp] theorem onRing_oregs (r : Nat) (f : Ring → Ring) (s : State) : (onRing r f s).obs.regs = s.obs.regs := rfl
@[simp] theorem onRing_ohed (r : Nat) (f : Ring → Ring) (s : State) : (onRing r f s).obs.hed = s.obs.hed := rfl
@[simp] theorem onRing_ocut (r : Nat) (f : Ring → Ring) (s : State) : (onRing r f s).obs.cut = s.obs.cut := rfl
@[simp] theorem onRing_octxs (r : Nat) (f : Ring → Ring) (s : State) : (onRing r f s).obs.ctxs = s.obs.ctxs := rfl
@[simp] theorem onRing_osmp (r : Nat) (f : Ring → Ring) (s : State) : (onRing r f s).obs.smp = s.obs.smp := rfl
@[simp] theorem onRing_oevq (r : Nat) (f : Ring → Ring) (s : State) : (onRing r f s).obs.evq = s.obs.evq := rfl
@[simp] theorem onRing_olens (r : Nat) (f : Ring → Ring) (s : State) : (onRing r f s).obs.lens = s.obs.lens := rfl
@[simp] theorem onRing_owat (r : Nat) (f : Ring → Ring) (s : State) : (onRing r f s).obs.wat = s.obs.wat := rfl
@[simp] theorem onRing_ohang (r : Nat) (f : Ring → Ring) (s : State) : (onRing r f s).obs.hang = s.obs.hang := rfl
@[simp] theorem onRing_oprv (r : Nat) (f : Ring → Ring) (s : State) : (onRing r f s).obs.prv = s.obs.prv := rfl
@[simp] theorem onRing_oegr (r : Nat) (f : Ring → Ring) (s : State) : (onRing r f s).obs.egr = s.obs.egr := rfl
@[simp] theorem onRing_ofab (r : Nat) (f : Ring → Ring) (s : State) : (onRing r f s).obs.fab = s.obs.fab := rfl
@[simp] theorem onRing_odbg (r : Nat) (f : Ring → Ring) (s : State) : (onRing r f s).obs.dbg = s.obs.dbg := rfl
@[simp] theorem onRing_aon (r : Nat) (f : Ring → Ring) (s : State) : (onRing r f s).aon = s.aon := rfl
@[simp] theorem onRing_build (r : Nat) (f : Ring → Ring) (s : State) : (onRing r f s).build = s.build := rfl
@[simp] theorem onRing_scan (r : Nat) (f : Ring → Ring) (s : State) : (onRing r f s).scan = s.scan := rfl
@[simp] theorem onRing_draws (r : Nat) (f : Ring → Ring) (s : State) : (onRing r f s).draws = s.draws := rfl
@[simp] theorem onRing_pending (r : Nat) (f : Ring → Ring) (s : State) : (onRing r f s).pending = s.pending := rfl
@[simp] theorem onPart_oregs (p : Nat) (f : PartSt → PartSt) (s : State) : (onPart p f s).obs.regs = s.obs.regs := rfl
@[simp] theorem onPart_ohed (p : Nat) (f : PartSt → PartSt) (s : State) : (onPart p f s).obs.hed = s.obs.hed := rfl
@[simp] theorem onPart_ocut (p : Nat) (f : PartSt → PartSt) (s : State) : (onPart p f s).obs.cut = s.obs.cut := rfl
@[simp] theorem onPart_octxs (p : Nat) (f : PartSt → PartSt) (s : State) : (onPart p f s).obs.ctxs = s.obs.ctxs := rfl
@[simp] theorem onPart_osmp (p : Nat) (f : PartSt → PartSt) (s : State) : (onPart p f s).obs.smp = s.obs.smp := rfl
@[simp] theorem onPart_ocmd (p : Nat) (f : PartSt → PartSt) (s : State) : (onPart p f s).obs.cmd = s.obs.cmd := rfl
@[simp] theorem onPart_oevq (p : Nat) (f : PartSt → PartSt) (s : State) : (onPart p f s).obs.evq = s.obs.evq := rfl
@[simp] theorem onPart_olens (p : Nat) (f : PartSt → PartSt) (s : State) : (onPart p f s).obs.lens = s.obs.lens := rfl
@[simp] theorem onPart_owat (p : Nat) (f : PartSt → PartSt) (s : State) : (onPart p f s).obs.wat = s.obs.wat := rfl
@[simp] theorem onPart_ohang (p : Nat) (f : PartSt → PartSt) (s : State) : (onPart p f s).obs.hang = s.obs.hang := rfl
@[simp] theorem onPart_oegr (p : Nat) (f : PartSt → PartSt) (s : State) : (onPart p f s).obs.egr = s.obs.egr := rfl
@[simp] theorem onPart_ofab (p : Nat) (f : PartSt → PartSt) (s : State) : (onPart p f s).obs.fab = s.obs.fab := rfl
@[simp] theorem onPart_odbg (p : Nat) (f : PartSt → PartSt) (s : State) : (onPart p f s).obs.dbg = s.obs.dbg := rfl
@[simp] theorem onPart_aon (p : Nat) (f : PartSt → PartSt) (s : State) : (onPart p f s).aon = s.aon := rfl
@[simp] theorem onPart_build (p : Nat) (f : PartSt → PartSt) (s : State) : (onPart p f s).build = s.build := rfl
@[simp] theorem onPart_scan (p : Nat) (f : PartSt → PartSt) (s : State) : (onPart p f s).scan = s.scan := rfl
@[simp] theorem onPart_draws (p : Nat) (f : PartSt → PartSt) (s : State) : (onPart p f s).draws = s.draws := rfl
@[simp] theorem onPart_pending (p : Nat) (f : PartSt → PartSt) (s : State) : (onPart p f s).pending = s.pending := rfl
@[simp] theorem setSlot_oregs (k : Nat) (v : Option Slot) (s : State) : (setSlot k v s).obs.regs = s.obs.regs := rfl
@[simp] theorem setSlot_ohed (k : Nat) (v : Option Slot) (s : State) : (setSlot k v s).obs.hed = s.obs.hed := rfl
@[simp] theorem setSlot_ocut (k : Nat) (v : Option Slot) (s : State) : (setSlot k v s).obs.cut = s.obs.cut := rfl
@[simp] theorem setSlot_octxs (k : Nat) (v : Option Slot) (s : State) : (setSlot k v s).obs.ctxs = s.obs.ctxs := rfl
@[simp] theorem setSlot_osmp (k : Nat) (v : Option Slot) (s : State) : (setSlot k v s).obs.smp = s.obs.smp := rfl
@[simp] theorem setSlot_ocmd (k : Nat) (v : Option Slot) (s : State) : (setSlot k v s).obs.cmd = s.obs.cmd := rfl
@[simp] theorem setSlot_oevq (k : Nat) (v : Option Slot) (s : State) : (setSlot k v s).obs.evq = s.obs.evq := rfl
@[simp] theorem setSlot_owat (k : Nat) (v : Option Slot) (s : State) : (setSlot k v s).obs.wat = s.obs.wat := rfl
@[simp] theorem setSlot_ohang (k : Nat) (v : Option Slot) (s : State) : (setSlot k v s).obs.hang = s.obs.hang := rfl
@[simp] theorem setSlot_oprv (k : Nat) (v : Option Slot) (s : State) : (setSlot k v s).obs.prv = s.obs.prv := rfl
@[simp] theorem setSlot_oegr (k : Nat) (v : Option Slot) (s : State) : (setSlot k v s).obs.egr = s.obs.egr := rfl
@[simp] theorem setSlot_ofab (k : Nat) (v : Option Slot) (s : State) : (setSlot k v s).obs.fab = s.obs.fab := rfl
@[simp] theorem setSlot_odbg (k : Nat) (v : Option Slot) (s : State) : (setSlot k v s).obs.dbg = s.obs.dbg := rfl
@[simp] theorem setSlot_aon (k : Nat) (v : Option Slot) (s : State) : (setSlot k v s).aon = s.aon := rfl
@[simp] theorem setSlot_build (k : Nat) (v : Option Slot) (s : State) : (setSlot k v s).build = s.build := rfl
@[simp] theorem setSlot_scan (k : Nat) (v : Option Slot) (s : State) : (setSlot k v s).scan = s.scan := rfl
@[simp] theorem setSlot_draws (k : Nat) (v : Option Slot) (s : State) : (setSlot k v s).draws = s.draws := rfl
@[simp] theorem setSlot_pending (k : Nat) (v : Option Slot) (s : State) : (setSlot k v s).pending = s.pending := rfl
@[simp] theorem setWatch_oregs (w : Nat) (v : Option Watch) (s : State) : (setWatch w v s).obs.regs = s.obs.regs := rfl
@[simp] theorem setWatch_ohed (w : Nat) (v : Option Watch) (s : State) : (setWatch w v s).obs.hed = s.obs.hed := rfl
@[simp] theorem setWatch_ocut (w : Nat) (v : Option Watch) (s : State) : (setWatch w v s).obs.cut = s.obs.cut := rfl
@[simp] theorem setWatch_octxs (w : Nat) (v : Option Watch) (s : State) : (setWatch w v s).obs.ctxs = s.obs.ctxs := rfl
@[simp] theorem setWatch_osmp (w : Nat) (v : Option Watch) (s : State) : (setWatch w v s).obs.smp = s.obs.smp := rfl
@[simp] theorem setWatch_ocmd (w : Nat) (v : Option Watch) (s : State) : (setWatch w v s).obs.cmd = s.obs.cmd := rfl
@[simp] theorem setWatch_oevq (w : Nat) (v : Option Watch) (s : State) : (setWatch w v s).obs.evq = s.obs.evq := rfl
@[simp] theorem setWatch_olens (w : Nat) (v : Option Watch) (s : State) : (setWatch w v s).obs.lens = s.obs.lens := rfl
@[simp] theorem setWatch_ohang (w : Nat) (v : Option Watch) (s : State) : (setWatch w v s).obs.hang = s.obs.hang := rfl
@[simp] theorem setWatch_oprv (w : Nat) (v : Option Watch) (s : State) : (setWatch w v s).obs.prv = s.obs.prv := rfl
@[simp] theorem setWatch_oegr (w : Nat) (v : Option Watch) (s : State) : (setWatch w v s).obs.egr = s.obs.egr := rfl
@[simp] theorem setWatch_ofab (w : Nat) (v : Option Watch) (s : State) : (setWatch w v s).obs.fab = s.obs.fab := rfl
@[simp] theorem setWatch_odbg (w : Nat) (v : Option Watch) (s : State) : (setWatch w v s).obs.dbg = s.obs.dbg := rfl
@[simp] theorem setWatch_aon (w : Nat) (v : Option Watch) (s : State) : (setWatch w v s).aon = s.aon := rfl
@[simp] theorem setWatch_build (w : Nat) (v : Option Watch) (s : State) : (setWatch w v s).build = s.build := rfl
@[simp] theorem setWatch_scan (w : Nat) (v : Option Watch) (s : State) : (setWatch w v s).scan = s.scan := rfl
@[simp] theorem setWatch_draws (w : Nat) (v : Option Watch) (s : State) : (setWatch w v s).draws = s.draws := rfl
@[simp] theorem setWatch_pending (w : Nat) (v : Option Watch) (s : State) : (setWatch w v s).pending = s.pending := rfl
@[simp] theorem setArea_oregs (p : Nat) (v : Option Area) (s : State) : (setArea p v s).obs.regs = s.obs.regs := rfl
@[simp] theorem setArea_ohed (p : Nat) (v : Option Area) (s : State) : (setArea p v s).obs.hed = s.obs.hed := rfl
@[simp] theorem setArea_ocut (p : Nat) (v : Option Area) (s : State) : (setArea p v s).obs.cut = s.obs.cut := rfl
@[simp] theorem setArea_octxs (p : Nat) (v : Option Area) (s : State) : (setArea p v s).obs.ctxs = s.obs.ctxs := rfl
@[simp] theorem setArea_osmp (p : Nat) (v : Option Area) (s : State) : (setArea p v s).obs.smp = s.obs.smp := rfl
@[simp] theorem setArea_ocmd (p : Nat) (v : Option Area) (s : State) : (setArea p v s).obs.cmd = s.obs.cmd := rfl
@[simp] theorem setArea_oevq (p : Nat) (v : Option Area) (s : State) : (setArea p v s).obs.evq = s.obs.evq := rfl
@[simp] theorem setArea_olens (p : Nat) (v : Option Area) (s : State) : (setArea p v s).obs.lens = s.obs.lens := rfl
@[simp] theorem setArea_owat (p : Nat) (v : Option Area) (s : State) : (setArea p v s).obs.wat = s.obs.wat := rfl
@[simp] theorem setArea_oprv (p : Nat) (v : Option Area) (s : State) : (setArea p v s).obs.prv = s.obs.prv := rfl
@[simp] theorem setArea_oegr (p : Nat) (v : Option Area) (s : State) : (setArea p v s).obs.egr = s.obs.egr := rfl
@[simp] theorem setArea_ofab (p : Nat) (v : Option Area) (s : State) : (setArea p v s).obs.fab = s.obs.fab := rfl
@[simp] theorem setArea_odbg (p : Nat) (v : Option Area) (s : State) : (setArea p v s).obs.dbg = s.obs.dbg := rfl
@[simp] theorem setArea_aon (p : Nat) (v : Option Area) (s : State) : (setArea p v s).aon = s.aon := rfl
@[simp] theorem setArea_build (p : Nat) (v : Option Area) (s : State) : (setArea p v s).build = s.build := rfl
@[simp] theorem setArea_scan (p : Nat) (v : Option Area) (s : State) : (setArea p v s).scan = s.scan := rfl
@[simp] theorem setArea_draws (p : Nat) (v : Option Area) (s : State) : (setArea p v s).draws = s.draws := rfl
@[simp] theorem setArea_pending (p : Nat) (v : Option Area) (s : State) : (setArea p v s).pending = s.pending := rfl
@[simp] theorem setTap_oregs (t : Nat) (v : Option Stream) (s : State) : (setTap t v s).obs.regs = s.obs.regs := rfl
@[simp] theorem setTap_ohed (t : Nat) (v : Option Stream) (s : State) : (setTap t v s).obs.hed = s.obs.hed := rfl
@[simp] theorem setTap_ocut (t : Nat) (v : Option Stream) (s : State) : (setTap t v s).obs.cut = s.obs.cut := rfl
@[simp] theorem setTap_octxs (t : Nat) (v : Option Stream) (s : State) : (setTap t v s).obs.ctxs = s.obs.ctxs := rfl
@[simp] theorem setTap_osmp (t : Nat) (v : Option Stream) (s : State) : (setTap t v s).obs.smp = s.obs.smp := rfl
@[simp] theorem setTap_ocmd (t : Nat) (v : Option Stream) (s : State) : (setTap t v s).obs.cmd = s.obs.cmd := rfl
@[simp] theorem setTap_oevq (t : Nat) (v : Option Stream) (s : State) : (setTap t v s).obs.evq = s.obs.evq := rfl
@[simp] theorem setTap_owat (t : Nat) (v : Option Stream) (s : State) : (setTap t v s).obs.wat = s.obs.wat := rfl
@[simp] theorem setTap_ohang (t : Nat) (v : Option Stream) (s : State) : (setTap t v s).obs.hang = s.obs.hang := rfl
@[simp] theorem setTap_oprv (t : Nat) (v : Option Stream) (s : State) : (setTap t v s).obs.prv = s.obs.prv := rfl
@[simp] theorem setTap_oegr (t : Nat) (v : Option Stream) (s : State) : (setTap t v s).obs.egr = s.obs.egr := rfl
@[simp] theorem setTap_ofab (t : Nat) (v : Option Stream) (s : State) : (setTap t v s).obs.fab = s.obs.fab := rfl
@[simp] theorem setTap_odbg (t : Nat) (v : Option Stream) (s : State) : (setTap t v s).obs.dbg = s.obs.dbg := rfl
@[simp] theorem setTap_aon (t : Nat) (v : Option Stream) (s : State) : (setTap t v s).aon = s.aon := rfl
@[simp] theorem setTap_build (t : Nat) (v : Option Stream) (s : State) : (setTap t v s).build = s.build := rfl
@[simp] theorem setTap_scan (t : Nat) (v : Option Stream) (s : State) : (setTap t v s).scan = s.scan := rfl
@[simp] theorem setTap_draws (t : Nat) (v : Option Stream) (s : State) : (setTap t v s).draws = s.draws := rfl
@[simp] theorem setTap_pending (t : Nat) (v : Option Stream) (s : State) : (setTap t v s).pending = s.pending := rfl
@[simp] theorem setRows_oregs (t : Nat) (v : List Row) (s : State) : (setRows t v s).obs.regs = s.obs.regs := rfl
@[simp] theorem setRows_ohed (t : Nat) (v : List Row) (s : State) : (setRows t v s).obs.hed = s.obs.hed := rfl
@[simp] theorem setRows_ocut (t : Nat) (v : List Row) (s : State) : (setRows t v s).obs.cut = s.obs.cut := rfl
@[simp] theorem setRows_octxs (t : Nat) (v : List Row) (s : State) : (setRows t v s).obs.ctxs = s.obs.ctxs := rfl
@[simp] theorem setRows_osmp (t : Nat) (v : List Row) (s : State) : (setRows t v s).obs.smp = s.obs.smp := rfl
@[simp] theorem setRows_ocmd (t : Nat) (v : List Row) (s : State) : (setRows t v s).obs.cmd = s.obs.cmd := rfl
@[simp] theorem setRows_oevq (t : Nat) (v : List Row) (s : State) : (setRows t v s).obs.evq = s.obs.evq := rfl
@[simp] theorem setRows_owat (t : Nat) (v : List Row) (s : State) : (setRows t v s).obs.wat = s.obs.wat := rfl
@[simp] theorem setRows_ohang (t : Nat) (v : List Row) (s : State) : (setRows t v s).obs.hang = s.obs.hang := rfl
@[simp] theorem setRows_oprv (t : Nat) (v : List Row) (s : State) : (setRows t v s).obs.prv = s.obs.prv := rfl
@[simp] theorem setRows_oegr (t : Nat) (v : List Row) (s : State) : (setRows t v s).obs.egr = s.obs.egr := rfl
@[simp] theorem setRows_ofab (t : Nat) (v : List Row) (s : State) : (setRows t v s).obs.fab = s.obs.fab := rfl
@[simp] theorem setRows_odbg (t : Nat) (v : List Row) (s : State) : (setRows t v s).obs.dbg = s.obs.dbg := rfl
@[simp] theorem setRows_aon (t : Nat) (v : List Row) (s : State) : (setRows t v s).aon = s.aon := rfl
@[simp] theorem setRows_build (t : Nat) (v : List Row) (s : State) : (setRows t v s).build = s.build := rfl
@[simp] theorem setRows_scan (t : Nat) (v : List Row) (s : State) : (setRows t v s).scan = s.scan := rfl
@[simp] theorem setRows_draws (t : Nat) (v : List Row) (s : State) : (setRows t v s).draws = s.draws := rfl
@[simp] theorem setRows_pending (t : Nat) (v : List Row) (s : State) : (setRows t v s).pending = s.pending := rfl
@[simp] theorem onDb_regs (r : Nat) (f : Db → Db) (s : State) : (onDb r f s).aon.regs = s.aon.regs := rfl
@[simp] theorem onDb_tb (r : Nat) (f : Db → Db) (s : State) : (onDb r f s).aon.tb = s.aon.tb := rfl
@[simp] theorem onDb_pwr (r : Nat) (f : Db → Db) (s : State) : (onDb r f s).aon.pwr = s.aon.pwr := rfl
@[simp] theorem onDb_sen (r : Nat) (f : Db → Db) (s : State) : (onDb r f s).aon.sen = s.aon.sen := rfl
@[simp] theorem onDb_alm (r : Nat) (f : Db → Db) (s : State) : (onDb r f s).aon.alm = s.aon.alm := rfl
@[simp] theorem onDb_keys (r : Nat) (f : Db → Db) (s : State) : (onDb r f s).aon.keys = s.aon.keys := rfl
@[simp] theorem onDb_rap (r : Nat) (f : Db → Db) (s : State) : (onDb r f s).aon.rap = s.aon.rap := rfl
@[simp] theorem onDb_instId (r : Nat) (f : Db → Db) (s : State) : (onDb r f s).aon.instId = s.aon.instId := rfl
@[simp] theorem onDb_instSet (r : Nat) (f : Db → Db) (s : State) : (onDb r f s).aon.instSet = s.aon.instSet := rfl
@[simp] theorem onDb_misalign (r : Nat) (f : Db → Db) (s : State) : (onDb r f s).aon.misalign = s.aon.misalign := rfl
@[simp] theorem onDb_discovered (r : Nat) (f : Db → Db) (s : State) : (onDb r f s).aon.discovered = s.aon.discovered := rfl
@[simp] theorem onDb_fabRtt (r : Nat) (f : Db → Db) (s : State) : (onDb r f s).aon.fabRtt = s.aon.fabRtt := rfl
@[simp] theorem onDb_obs (r : Nat) (f : Db → Db) (s : State) : (onDb r f s).obs = s.obs := rfl
@[simp] theorem onDb_build (r : Nat) (f : Db → Db) (s : State) : (onDb r f s).build = s.build := rfl
@[simp] theorem onDb_scan (r : Nat) (f : Db → Db) (s : State) : (onDb r f s).scan = s.scan := rfl
@[simp] theorem onDb_draws (r : Nat) (f : Db → Db) (s : State) : (onDb r f s).draws = s.draws := rfl
@[simp] theorem onDb_pending (r : Nat) (f : Db → Db) (s : State) : (onDb r f s).pending = s.pending := rfl
@[simp] theorem onSWatch_regs (w : Nat) (f : SWatch → SWatch) (s : State) : (onSWatch w f s).aon.regs = s.aon.regs := rfl
@[simp] theorem onSWatch_tb (w : Nat) (f : SWatch → SWatch) (s : State) : (onSWatch w f s).aon.tb = s.aon.tb := rfl
@[simp] theorem onSWatch_pwr (w : Nat) (f : SWatch → SWatch) (s : State) : (onSWatch w f s).aon.pwr = s.aon.pwr := rfl
@[simp] theorem onSWatch_alm (w : Nat) (f : SWatch → SWatch) (s : State) : (onSWatch w f s).aon.alm = s.aon.alm := rfl
@[simp] theorem onSWatch_keys (w : Nat) (f : SWatch → SWatch) (s : State) : (onSWatch w f s).aon.keys = s.aon.keys := rfl
@[simp] theorem onSWatch_rap (w : Nat) (f : SWatch → SWatch) (s : State) : (onSWatch w f s).aon.rap = s.aon.rap := rfl
@[simp] theorem onSWatch_db (w : Nat) (f : SWatch → SWatch) (s : State) : (onSWatch w f s).aon.db = s.aon.db := rfl
@[simp] theorem onSWatch_instId (w : Nat) (f : SWatch → SWatch) (s : State) : (onSWatch w f s).aon.instId = s.aon.instId := rfl
@[simp] theorem onSWatch_instSet (w : Nat) (f : SWatch → SWatch) (s : State) : (onSWatch w f s).aon.instSet = s.aon.instSet := rfl
@[simp] theorem onSWatch_misalign (w : Nat) (f : SWatch → SWatch) (s : State) : (onSWatch w f s).aon.misalign = s.aon.misalign := rfl
@[simp] theorem onSWatch_discovered (w : Nat) (f : SWatch → SWatch) (s : State) : (onSWatch w f s).aon.discovered = s.aon.discovered := rfl
@[simp] theorem onSWatch_fabRtt (w : Nat) (f : SWatch → SWatch) (s : State) : (onSWatch w f s).aon.fabRtt = s.aon.fabRtt := rfl
@[simp] theorem onSWatch_obs (w : Nat) (f : SWatch → SWatch) (s : State) : (onSWatch w f s).obs = s.obs := rfl
@[simp] theorem onSWatch_build (w : Nat) (f : SWatch → SWatch) (s : State) : (onSWatch w f s).build = s.build := rfl
@[simp] theorem onSWatch_scan (w : Nat) (f : SWatch → SWatch) (s : State) : (onSWatch w f s).scan = s.scan := rfl
@[simp] theorem onSWatch_draws (w : Nat) (f : SWatch → SWatch) (s : State) : (onSWatch w f s).draws = s.draws := rfl
@[simp] theorem onSWatch_pending (w : Nat) (f : SWatch → SWatch) (s : State) : (onSWatch w f s).pending = s.pending := rfl
@[simp] theorem onGRule_regs (k : Nat) (f : GRule → GRule) (s : State) : (onGRule k f s).aon.regs = s.aon.regs := rfl
@[simp] theorem onGRule_tb (k : Nat) (f : GRule → GRule) (s : State) : (onGRule k f s).aon.tb = s.aon.tb := rfl
@[simp] theorem onGRule_pwr (k : Nat) (f : GRule → GRule) (s : State) : (onGRule k f s).aon.pwr = s.aon.pwr := rfl
@[simp] theorem onGRule_alm (k : Nat) (f : GRule → GRule) (s : State) : (onGRule k f s).aon.alm = s.aon.alm := rfl
@[simp] theorem onGRule_keys (k : Nat) (f : GRule → GRule) (s : State) : (onGRule k f s).aon.keys = s.aon.keys := rfl
@[simp] theorem onGRule_rap (k : Nat) (f : GRule → GRule) (s : State) : (onGRule k f s).aon.rap = s.aon.rap := rfl
@[simp] theorem onGRule_db (k : Nat) (f : GRule → GRule) (s : State) : (onGRule k f s).aon.db = s.aon.db := rfl
@[simp] theorem onGRule_instId (k : Nat) (f : GRule → GRule) (s : State) : (onGRule k f s).aon.instId = s.aon.instId := rfl
@[simp] theorem onGRule_instSet (k : Nat) (f : GRule → GRule) (s : State) : (onGRule k f s).aon.instSet = s.aon.instSet := rfl
@[simp] theorem onGRule_misalign (k : Nat) (f : GRule → GRule) (s : State) : (onGRule k f s).aon.misalign = s.aon.misalign := rfl
@[simp] theorem onGRule_discovered (k : Nat) (f : GRule → GRule) (s : State) : (onGRule k f s).aon.discovered = s.aon.discovered := rfl
@[simp] theorem onGRule_fabRtt (k : Nat) (f : GRule → GRule) (s : State) : (onGRule k f s).aon.fabRtt = s.aon.fabRtt := rfl
@[simp] theorem onGRule_obs (k : Nat) (f : GRule → GRule) (s : State) : (onGRule k f s).obs = s.obs := rfl
@[simp] theorem onGRule_build (k : Nat) (f : GRule → GRule) (s : State) : (onGRule k f s).build = s.build := rfl
@[simp] theorem onGRule_scan (k : Nat) (f : GRule → GRule) (s : State) : (onGRule k f s).scan = s.scan := rfl
@[simp] theorem onGRule_draws (k : Nat) (f : GRule → GRule) (s : State) : (onGRule k f s).draws = s.draws := rfl
@[simp] theorem onGRule_pending (k : Nat) (f : GRule → GRule) (s : State) : (onGRule k f s).pending = s.pending := rfl
@[simp] theorem draw_aon (s : State) : (draw s).aon = s.aon := rfl
@[simp] theorem draw_obs (s : State) : (draw s).obs = s.obs := rfl
@[simp] theorem draw_build (s : State) : (draw s).build = s.build := rfl
@[simp] theorem draw_scan (s : State) : (draw s).scan = s.scan := rfl
@[simp] theorem draw_pending (s : State) : (draw s).pending = s.pending := rfl
@[simp] theorem draw_draws (s : State) : (draw s).draws = s.draws + 1 := rfl

/-! ## Reads of one entry after a change of it, and of another -/

@[simp] theorem unitOf_onUnit_same (u : Nat) (f : UnitSt → UnitSt) (s : State) : unitOf (onUnit u f s) u = f (unitOf s u) :=
  smGet_smMod_same _ _ _ _

theorem unitOf_onUnit_other (u : Nat) (f : UnitSt → UnitSt) (s : State) (j : Nat) (h : j ≠ u) : unitOf (onUnit u f s) j = unitOf s j :=
  smGet_smMod_other _ _ _ h

@[simp] theorem portOf_onPort_same (p : Nat) (f : PortSt → PortSt) (s : State) : portOf (onPort p f s) p = f (portOf s p) :=
  smGet_smMod_same _ _ _ _

theorem portOf_onPort_other (p : Nat) (f : PortSt → PortSt) (s : State) (j : Nat) (h : j ≠ p) : portOf (onPort p f s) j = portOf s j :=
  smGet_smMod_other _ _ _ h

@[simp] theorem collOf_onColl_same (c : Nat) (f : CollSt → CollSt) (s : State) : collOf (onColl c f s) c = f (collOf s c) :=
  smGet_smMod_same _ _ _ _

theorem collOf_onColl_other (c : Nat) (f : CollSt → CollSt) (s : State) (j : Nat) (h : j ≠ c) : collOf (onColl c f s) j = collOf s j :=
  smGet_smMod_other _ _ _ h

@[simp] theorem epochOf_onEpoch_same (p : Nat) (f : EpochSt → EpochSt) (s : State) : epochOf (onEpoch p f s) p = f (epochOf s p) :=
  smGet_smMod_same _ _ _ _

theorem epochOf_onEpoch_other (p : Nat) (f : EpochSt → EpochSt) (s : State) (j : Nat) (h : j ≠ p) : epochOf (onEpoch p f s) j = epochOf s j :=
  smGet_smMod_other _ _ _ h

@[simp] theorem ringOf_onRing_same (r : Nat) (f : Ring → Ring) (s : State) : ringOf (onRing r f s) r = f (ringOf s r) :=
  smGet_smMod_same _ _ _ _

theorem ringOf_onRing_other (r : Nat) (f : Ring → Ring) (s : State) (j : Nat) (h : j ≠ r) : ringOf (onRing r f s) j = ringOf s j :=
  smGet_smMod_other _ _ _ h

@[simp] theorem dbOf_onDb_same (r : Nat) (f : Db → Db) (s : State) : dbOf (onDb r f s) r = f (dbOf s r) :=
  smGet_smMod_same _ _ _ _

theorem dbOf_onDb_other (r : Nat) (f : Db → Db) (s : State) (j : Nat) (h : j ≠ r) : dbOf (onDb r f s) j = dbOf s j :=
  smGet_smMod_other _ _ _ h

@[simp] theorem partOf_onPart_same (p : Nat) (f : PartSt → PartSt) (s : State) : partOf (onPart p f s) p = f (partOf s p) :=
  smGet_smMod_same _ _ _ _

theorem partOf_onPart_other (p : Nat) (f : PartSt → PartSt) (s : State) (j : Nat) (h : j ≠ p) : partOf (onPart p f s) j = partOf s j :=
  smGet_smMod_other _ _ _ h

@[simp] theorem swatchOf_onSWatch_same (w : Nat) (f : SWatch → SWatch) (s : State) : swatchOf (onSWatch w f s) w = f (swatchOf s w) :=
  smGet_smMod_same _ _ _ _

theorem swatchOf_onSWatch_other (w : Nat) (f : SWatch → SWatch) (s : State) (j : Nat) (h : j ≠ w) : swatchOf (onSWatch w f s) j = swatchOf s j :=
  smGet_smMod_other _ _ _ h

@[simp] theorem gruleOf_onGRule_same (k : Nat) (f : GRule → GRule) (s : State) : gruleOf (onGRule k f s) k = f (gruleOf s k) :=
  smGet_smMod_same _ _ _ _

theorem gruleOf_onGRule_other (k : Nat) (f : GRule → GRule) (s : State) (j : Nat) (h : j ≠ k) : gruleOf (onGRule k f s) j = gruleOf s j :=
  smGet_smMod_other _ _ _ h

@[simp] theorem sectOf_onSect_same (i : Nat) (f : SectSt → SectSt) (s : State) : sectOf (onSect i f s) i = f (sectOf s i) :=
  smGet_smMod_same _ _ _ _

theorem sectOf_onSect_other (i : Nat) (f : SectSt → SectSt) (s : State) (j : Nat) (h : j ≠ i) : sectOf (onSect i f s) j = sectOf s j :=
  smGet_smMod_other _ _ _ h

@[simp] theorem ctxOf_setCtx_same (x : Nat) (c : Option CtxSt) (s : State) : ctxOf (setCtx x c s) x = c :=
  smGet_smPut_same _ _ _ _

theorem ctxOf_setCtx_other (x : Nat) (c : Option CtxSt) (s : State) (j : Nat) (h : j ≠ x) : ctxOf (setCtx x c s) j = ctxOf s j :=
  smGet_smPut_other _ _ _ h

@[simp] theorem slotOf_setSlot_same (k : Nat) (c : Option Slot) (s : State) : slotOf (setSlot k c s) k = c :=
  smGet_smPut_same _ _ _ _

theorem slotOf_setSlot_other (k : Nat) (c : Option Slot) (s : State) (j : Nat) (h : j ≠ k) : slotOf (setSlot k c s) j = slotOf s j :=
  smGet_smPut_other _ _ _ h

@[simp] theorem watchOf_setWatch_same (w : Nat) (c : Option Watch) (s : State) : watchOf (setWatch w c s) w = c :=
  smGet_smPut_same _ _ _ _

theorem watchOf_setWatch_other (w : Nat) (c : Option Watch) (s : State) (j : Nat) (h : j ≠ w) : watchOf (setWatch w c s) j = watchOf s j :=
  smGet_smPut_other _ _ _ h

@[simp] theorem areaOf_setArea_same (p : Nat) (c : Option Area) (s : State) : areaOf (setArea p c s) p = c :=
  smGet_smPut_same _ _ _ _

theorem areaOf_setArea_other (p : Nat) (c : Option Area) (s : State) (j : Nat) (h : j ≠ p) : areaOf (setArea p c s) j = areaOf s j :=
  smGet_smPut_other _ _ _ h

end Sys2Proof.Machine
end

