-- ==== Sys2Proof/Laws/Registers.lean ====
section
/-! SUPPORT. Laws of the stored registers: a read after a store, and what a store leaves alone; what the changes of
one part leave of registers, time and the running of the OBS domain. -/

namespace Sys2Proof.Machine

set_option Elab.async false

@[simp] theorem reg_setReg_same (a : Nat) (v : U32) (s : State) : reg (setReg a v s) a = v := by
  unfold setReg reg
  split <;> simp [onAon, onObs, *]

theorem reg_setReg_other (a : Nat) (v : U32) (s : State) (i : Nat) (h : i ≠ a) : reg (setReg a v s) i = reg s i := by
  unfold setReg reg
  by_cases ha : regAon a <;> by_cases hi : regAon i <;> simp [onAon, onObs, ha, hi, smGet_smPut_other _ _ _ h]

theorem orReg_eq (a : Nat) (m : U32) (s : State) : orReg a m s = setReg a (reg s a ||| m) s := rfl

theorem bumpReg_eq (a lo n k : Nat) (s : State) :
    bumpReg a lo n k s = setReg a (setFld (reg s a) lo n (sat (2 ^ n - 1) (fld (reg s a) lo n + k))) s := rfl

@[simp] theorem setReg_tb (a : Nat) (v : U32) (s : State) : (setReg a v s).aon.tb = s.aon.tb := by
  unfold setReg; split <;> rfl

@[simp] theorem setReg_pwr (a : Nat) (v : U32) (s : State) : (setReg a v s).aon.pwr = s.aon.pwr := by
  unfold setReg; split <;> rfl

@[simp] theorem setReg_sen (a : Nat) (v : U32) (s : State) : (setReg a v s).aon.sen = s.aon.sen := by
  unfold setReg; split <;> rfl

@[simp] theorem setReg_alm (a : Nat) (v : U32) (s : State) : (setReg a v s).aon.alm = s.aon.alm := by
  unfold setReg; split <;> rfl

@[simp] theorem setReg_keys (a : Nat) (v : U32) (s : State) : (setReg a v s).aon.keys = s.aon.keys := by
  unfold setReg; split <;> rfl

@[simp] theorem setReg_rap (a : Nat) (v : U32) (s : State) : (setReg a v s).aon.rap = s.aon.rap := by
  unfold setReg; split <;> rfl

@[simp] theorem setReg_db (a : Nat) (v : U32) (s : State) : (setReg a v s).aon.db = s.aon.db := by
  unfold setReg; split <;> rfl

@[simp] theorem setReg_instId (a : Nat) (v : U32) (s : State) : (setReg a v s).aon.instId = s.aon.instId := by
  unfold setReg; split <;> rfl

@[simp] theorem setReg_instSet (a : Nat) (v : U32) (s : State) : (setReg a v s).aon.instSet = s.aon.instSet := by
  unfold setReg; split <;> rfl

@[simp] theorem setReg_misalign (a : Nat) (v : U32) (s : State) : (setReg a v s).aon.misalign = s.aon.misalign := by
  unfold setReg; split <;> rfl

@[simp] theorem setReg_discovered (a : Nat) (v : U32) (s : State) : (setReg a v s).aon.discovered = s.aon.discovered := by
  unfold setReg; split <;> rfl

@[simp] theorem setReg_ohed (a : Nat) (v : U32) (s : State) : (setReg a v s).obs.hed = s.obs.hed := by
  unfold setReg; split <;> rfl

@[simp] theorem setReg_ocut (a : Nat) (v : U32) (s : State) : (setReg a v s).obs.cut = s.obs.cut := by
  unfold setReg; split <;> rfl

@[simp] theorem setReg_octxs (a : Nat) (v : U32) (s : State) : (setReg a v s).obs.ctxs = s.obs.ctxs := by
  unfold setReg; split <;> rfl

@[simp] theorem setReg_osmp (a : Nat) (v : U32) (s : State) : (setReg a v s).obs.smp = s.obs.smp := by
  unfold setReg; split <;> rfl

@[simp] theorem setReg_ocmd (a : Nat) (v : U32) (s : State) : (setReg a v s).obs.cmd = s.obs.cmd := by
  unfold setReg; split <;> rfl

@[simp] theorem setReg_oevq (a : Nat) (v : U32) (s : State) : (setReg a v s).obs.evq = s.obs.evq := by
  unfold setReg; split <;> rfl

@[simp] theorem setReg_olens (a : Nat) (v : U32) (s : State) : (setReg a v s).obs.lens = s.obs.lens := by
  unfold setReg; split <;> rfl

@[simp] theorem setReg_owat (a : Nat) (v : U32) (s : State) : (setReg a v s).obs.wat = s.obs.wat := by
  unfold setReg; split <;> rfl

@[simp] theorem setReg_ohang (a : Nat) (v : U32) (s : State) : (setReg a v s).obs.hang = s.obs.hang := by
  unfold setReg; split <;> rfl

@[simp] theorem setReg_oprv (a : Nat) (v : U32) (s : State) : (setReg a v s).obs.prv = s.obs.prv := by
  unfold setReg; split <;> rfl

@[simp] theorem setReg_oegr (a : Nat) (v : U32) (s : State) : (setReg a v s).obs.egr = s.obs.egr := by
  unfold setReg; split <;> rfl

@[simp] theorem setReg_ofab (a : Nat) (v : U32) (s : State) : (setReg a v s).obs.fab = s.obs.fab := by
  unfold setReg; split <;> rfl

@[simp] theorem setReg_odbg (a : Nat) (v : U32) (s : State) : (setReg a v s).obs.dbg = s.obs.dbg := by
  unfold setReg; split <;> rfl

@[simp] theorem setReg_build (a : Nat) (v : U32) (s : State) : (setReg a v s).build = s.build := by
  unfold setReg; split <;> rfl

@[simp] theorem setReg_scan (a : Nat) (v : U32) (s : State) : (setReg a v s).scan = s.scan := by
  unfold setReg; split <;> rfl

@[simp] theorem setReg_draws (a : Nat) (v : U32) (s : State) : (setReg a v s).draws = s.draws := by
  unfold setReg; split <;> rfl

@[simp] theorem setReg_pending (a : Nat) (v : U32) (s : State) : (setReg a v s).pending = s.pending := by
  unfold setReg; split <;> rfl

theorem setReg_oregs (a : Nat) (v : U32) (s : State) (h : regAon a = true) : (setReg a v s).obs = s.obs := by
  simp [setReg, h, onAon]

theorem setReg_aregs (a : Nat) (v : U32) (s : State) (h : regAon a = false) : (setReg a v s).aon = s.aon := by
  simp [setReg, h, onObs]

@[simp] theorem orReg_tb (a : Nat) (v : U32) (s : State) : (orReg a v s).aon.tb = s.aon.tb := setReg_tb _ _ _

@[simp] theorem orReg_pwr (a : Nat) (v : U32) (s : State) : (orReg a v s).aon.pwr = s.aon.pwr := setReg_pwr _ _ _

@[simp] theorem orReg_sen (a : Nat) (v : U32) (s : State) : (orReg a v s).aon.sen = s.aon.sen := setReg_sen _ _ _

@[simp] theorem orReg_alm (a : Nat) (v : U32) (s : State) : (orReg a v s).aon.alm = s.aon.alm := setReg_alm _ _ _

@[simp] theorem orReg_keys (a : Nat) (v : U32) (s : State) : (orReg a v s).aon.keys = s.aon.keys := setReg_keys _ _ _

@[simp] theorem orReg_rap (a : Nat) (v : U32) (s : State) : (orReg a v s).aon.rap = s.aon.rap := setReg_rap _ _ _

@[simp] theorem orReg_db (a : Nat) (v : U32) (s : State) : (orReg a v s).aon.db = s.aon.db := setReg_db _ _ _

@[simp] theorem orReg_instId (a : Nat) (v : U32) (s : State) : (orReg a v s).aon.instId = s.aon.instId := setReg_instId _ _ _

@[simp] theorem orReg_instSet (a : Nat) (v : U32) (s : State) : (orReg a v s).aon.instSet = s.aon.instSet := setReg_instSet _ _ _

@[simp] theorem orReg_misalign (a : Nat) (v : U32) (s : State) : (orReg a v s).aon.misalign = s.aon.misalign := setReg_misalign _ _ _

@[simp] theorem orReg_discovered (a : Nat) (v : U32) (s : State) : (orReg a v s).aon.discovered = s.aon.discovered := setReg_discovered _ _ _

@[simp] theorem orReg_ohed (a : Nat) (v : U32) (s : State) : (orReg a v s).obs.hed = s.obs.hed := setReg_ohed _ _ _

@[simp] theorem orReg_ocut (a : Nat) (v : U32) (s : State) : (orReg a v s).obs.cut = s.obs.cut := setReg_ocut _ _ _

@[simp] theorem orReg_octxs (a : Nat) (v : U32) (s : State) : (orReg a v s).obs.ctxs = s.obs.ctxs := setReg_octxs _ _ _

@[simp] theorem orReg_osmp (a : Nat) (v : U32) (s : State) : (orReg a v s).obs.smp = s.obs.smp := setReg_osmp _ _ _

@[simp] theorem orReg_ocmd (a : Nat) (v : U32) (s : State) : (orReg a v s).obs.cmd = s.obs.cmd := setReg_ocmd _ _ _

@[simp] theorem orReg_oevq (a : Nat) (v : U32) (s : State) : (orReg a v s).obs.evq = s.obs.evq := setReg_oevq _ _ _

@[simp] theorem orReg_olens (a : Nat) (v : U32) (s : State) : (orReg a v s).obs.lens = s.obs.lens := setReg_olens _ _ _

@[simp] theorem orReg_owat (a : Nat) (v : U32) (s : State) : (orReg a v s).obs.wat = s.obs.wat := setReg_owat _ _ _

@[simp] theorem orReg_ohang (a : Nat) (v : U32) (s : State) : (orReg a v s).obs.hang = s.obs.hang := setReg_ohang _ _ _

@[simp] theorem orReg_oprv (a : Nat) (v : U32) (s : State) : (orReg a v s).obs.prv = s.obs.prv := setReg_oprv _ _ _

@[simp] theorem orReg_oegr (a : Nat) (v : U32) (s : State) : (orReg a v s).obs.egr = s.obs.egr := setReg_oegr _ _ _

@[simp] theorem orReg_ofab (a : Nat) (v : U32) (s : State) : (orReg a v s).obs.fab = s.obs.fab := setReg_ofab _ _ _

@[simp] theorem orReg_odbg (a : Nat) (v : U32) (s : State) : (orReg a v s).obs.dbg = s.obs.dbg := setReg_odbg _ _ _

@[simp] theorem orReg_build (a : Nat) (v : U32) (s : State) : (orReg a v s).build = s.build := setReg_build _ _ _

@[simp] theorem orReg_scan (a : Nat) (v : U32) (s : State) : (orReg a v s).scan = s.scan := setReg_scan _ _ _

@[simp] theorem orReg_draws (a : Nat) (v : U32) (s : State) : (orReg a v s).draws = s.draws := setReg_draws _ _ _

@[simp] theorem orReg_pending (a : Nat) (v : U32) (s : State) : (orReg a v s).pending = s.pending := setReg_pending _ _ _

@[simp] theorem bumpReg_tb (a lo n k : Nat) (s : State) : (bumpReg a lo n k s).aon.tb = s.aon.tb := setReg_tb _ _ _

@[simp] theorem bumpReg_pwr (a lo n k : Nat) (s : State) : (bumpReg a lo n k s).aon.pwr = s.aon.pwr := setReg_pwr _ _ _

@[simp] theorem bumpReg_sen (a lo n k : Nat) (s : State) : (bumpReg a lo n k s).aon.sen = s.aon.sen := setReg_sen _ _ _

@[simp] theorem bumpReg_alm (a lo n k : Nat) (s : State) : (bumpReg a lo n k s).aon.alm = s.aon.alm := setReg_alm _ _ _

@[simp] theorem bumpReg_keys (a lo n k : Nat) (s : State) : (bumpReg a lo n k s).aon.keys = s.aon.keys := setReg_keys _ _ _

@[simp] theorem bumpReg_rap (a lo n k : Nat) (s : State) : (bumpReg a lo n k s).aon.rap = s.aon.rap := setReg_rap _ _ _

@[simp] theorem bumpReg_db (a lo n k : Nat) (s : State) : (bumpReg a lo n k s).aon.db = s.aon.db := setReg_db _ _ _

@[simp] theorem bumpReg_instId (a lo n k : Nat) (s : State) : (bumpReg a lo n k s).aon.instId = s.aon.instId := setReg_instId _ _ _

@[simp] theorem bumpReg_instSet (a lo n k : Nat) (s : State) : (bumpReg a lo n k s).aon.instSet = s.aon.instSet := setReg_instSet _ _ _

@[simp] theorem bumpReg_misalign (a lo n k : Nat) (s : State) : (bumpReg a lo n k s).aon.misalign = s.aon.misalign := setReg_misalign _ _ _

@[simp] theorem bumpReg_discovered (a lo n k : Nat) (s : State) : (bumpReg a lo n k s).aon.discovered = s.aon.discovered := setReg_discovered _ _ _

@[simp] theorem bumpReg_ohed (a lo n k : Nat) (s : State) : (bumpReg a lo n k s).obs.hed = s.obs.hed := setReg_ohed _ _ _

@[simp] theorem bumpReg_ocut (a lo n k : Nat) (s : State) : (bumpReg a lo n k s).obs.cut = s.obs.cut := setReg_ocut _ _ _

@[simp] theorem bumpReg_octxs (a lo n k : Nat) (s : State) : (bumpReg a lo n k s).obs.ctxs = s.obs.ctxs := setReg_octxs _ _ _

@[simp] theorem bumpReg_osmp (a lo n k : Nat) (s : State) : (bumpReg a lo n k s).obs.smp = s.obs.smp := setReg_osmp _ _ _

@[simp] theorem bumpReg_ocmd (a lo n k : Nat) (s : State) : (bumpReg a lo n k s).obs.cmd = s.obs.cmd := setReg_ocmd _ _ _

@[simp] theorem bumpReg_oevq (a lo n k : Nat) (s : State) : (bumpReg a lo n k s).obs.evq = s.obs.evq := setReg_oevq _ _ _

@[simp] theorem bumpReg_olens (a lo n k : Nat) (s : State) : (bumpReg a lo n k s).obs.lens = s.obs.lens := setReg_olens _ _ _

@[simp] theorem bumpReg_owat (a lo n k : Nat) (s : State) : (bumpReg a lo n k s).obs.wat = s.obs.wat := setReg_owat _ _ _

@[simp] theorem bumpReg_ohang (a lo n k : Nat) (s : State) : (bumpReg a lo n k s).obs.hang = s.obs.hang := setReg_ohang _ _ _

@[simp] theorem bumpReg_oprv (a lo n k : Nat) (s : State) : (bumpReg a lo n k s).obs.prv = s.obs.prv := setReg_oprv _ _ _

@[simp] theorem bumpReg_oegr (a lo n k : Nat) (s : State) : (bumpReg a lo n k s).obs.egr = s.obs.egr := setReg_oegr _ _ _

@[simp] theorem bumpReg_ofab (a lo n k : Nat) (s : State) : (bumpReg a lo n k s).obs.fab = s.obs.fab := setReg_ofab _ _ _

@[simp] theorem bumpReg_odbg (a lo n k : Nat) (s : State) : (bumpReg a lo n k s).obs.dbg = s.obs.dbg := setReg_odbg _ _ _

@[simp] theorem bumpReg_build (a lo n k : Nat) (s : State) : (bumpReg a lo n k s).build = s.build := setReg_build _ _ _

@[simp] theorem bumpReg_scan (a lo n k : Nat) (s : State) : (bumpReg a lo n k s).scan = s.scan := setReg_scan _ _ _

@[simp] theorem bumpReg_draws (a lo n k : Nat) (s : State) : (bumpReg a lo n k s).draws = s.draws := setReg_draws _ _ _

@[simp] theorem bumpReg_pending (a lo n k : Nat) (s : State) : (bumpReg a lo n k s).pending = s.pending := setReg_pending _ _ _

@[simp] theorem reg_onTb (f : Tb → Tb) (s : State) (a : Nat) : reg (onTb f s) a = reg s a := rfl

@[simp] theorem obsRuns_onTb (f : Tb → Tb) (s : State) : obsRuns (onTb f s) = obsRuns s := rfl

@[simp] theorem reg_onPwr (f : Pwr → Pwr) (s : State) (a : Nat) : reg (onPwr f s) a = reg s a := rfl

@[simp] theorem now_onPwr (f : Pwr → Pwr) (s : State) : now (onPwr f s) = now s := rfl

@[simp] theorem reg_onSen (f : Sen → Sen) (s : State) (a : Nat) : reg (onSen f s) a = reg s a := rfl

@[simp] theorem now_onSen (f : Sen → Sen) (s : State) : now (onSen f s) = now s := rfl

@[simp] theorem obsRuns_onSen (f : Sen → Sen) (s : State) : obsRuns (onSen f s) = obsRuns s := rfl

@[simp] theorem reg_onAlm (f : Alm → Alm) (s : State) (a : Nat) : reg (onAlm f s) a = reg s a := rfl

@[simp] theorem now_onAlm (f : Alm → Alm) (s : State) : now (onAlm f s) = now s := rfl

@[simp] theorem obsRuns_onAlm (f : Alm → Alm) (s : State) : obsRuns (onAlm f s) = obsRuns s := rfl

@[simp] theorem reg_onKeys (f : Keys → Keys) (s : State) (a : Nat) : reg (onKeys f s) a = reg s a := rfl

@[simp] theorem now_onKeys (f : Keys → Keys) (s : State) : now (onKeys f s) = now s := rfl

@[simp] theorem obsRuns_onKeys (f : Keys → Keys) (s : State) : obsRuns (onKeys f s) = obsRuns s := rfl

@[simp] theorem reg_onRap (f : Rap → Rap) (s : State) (a : Nat) : reg (onRap f s) a = reg s a := rfl

@[simp] theorem now_onRap (f : Rap → Rap) (s : State) : now (onRap f s) = now s := rfl

@[simp] theorem obsRuns_onRap (f : Rap → Rap) (s : State) : obsRuns (onRap f s) = obsRuns s := rfl

@[simp] theorem reg_onHed (f : Hed → Hed) (s : State) (a : Nat) : reg (onHed f s) a = reg s a := rfl

@[simp] theorem now_onHed (f : Hed → Hed) (s : State) : now (onHed f s) = now s := rfl

@[simp] theorem obsRuns_onHed (f : Hed → Hed) (s : State) : obsRuns (onHed f s) = obsRuns s := rfl

@[simp] theorem reg_onCut (f : Cut → Cut) (s : State) (a : Nat) : reg (onCut f s) a = reg s a := rfl

@[simp] theorem now_onCut (f : Cut → Cut) (s : State) : now (onCut f s) = now s := rfl

@[simp] theorem obsRuns_onCut (f : Cut → Cut) (s : State) : obsRuns (onCut f s) = obsRuns s := rfl

@[simp] theorem reg_onSmp (f : Smp → Smp) (s : State) (a : Nat) : reg (onSmp f s) a = reg s a := rfl

@[simp] theorem now_onSmp (f : Smp → Smp) (s : State) : now (onSmp f s) = now s := rfl

@[simp] theorem obsRuns_onSmp (f : Smp → Smp) (s : State) : obsRuns (onSmp f s) = obsRuns s := rfl

@[simp] theorem reg_onCmd (f : Cmd → Cmd) (s : State) (a : Nat) : reg (onCmd f s) a = reg s a := rfl

@[simp] theorem now_onCmd (f : Cmd → Cmd) (s : State) : now (onCmd f s) = now s := rfl

@[simp] theorem obsRuns_onCmd (f : Cmd → Cmd) (s : State) : obsRuns (onCmd f s) = obsRuns s := rfl

@[simp] theorem reg_onEvq (f : Evq → Evq) (s : State) (a : Nat) : reg (onEvq f s) a = reg s a := rfl

@[simp] theorem now_onEvq (f : Evq → Evq) (s : State) : now (onEvq f s) = now s := rfl

@[simp] theorem obsRuns_onEvq (f : Evq → Evq) (s : State) : obsRuns (onEvq f s) = obsRuns s := rfl

@[simp] theorem reg_onLens (f : Lens → Lens) (s : State) (a : Nat) : reg (onLens f s) a = reg s a := rfl

@[simp] theorem now_onLens (f : Lens → Lens) (s : State) : now (onLens f s) = now s := rfl

@[simp] theorem obsRuns_onLens (f : Lens → Lens) (s : State) : obsRuns (onLens f s) = obsRuns s := rfl

@[simp] theorem reg_onWat (f : Wat → Wat) (s : State) (a : Nat) : reg (onWat f s) a = reg s a := rfl

@[simp] theorem now_onWat (f : Wat → Wat) (s : State) : now (onWat f s) = now s := rfl

@[simp] theorem obsRuns_onWat (f : Wat → Wat) (s : State) : obsRuns (onWat f s) = obsRuns s := rfl

@[simp] theorem reg_onHang (f : Hang → Hang) (s : State) (a : Nat) : reg (onHang f s) a = reg s a := rfl

@[simp] theorem now_onHang (f : Hang → Hang) (s : State) : now (onHang f s) = now s := rfl

@[simp] theorem obsRuns_onHang (f : Hang → Hang) (s : State) : obsRuns (onHang f s) = obsRuns s := rfl

@[simp] theorem reg_onPrv (f : Prv → Prv) (s : State) (a : Nat) : reg (onPrv f s) a = reg s a := rfl

@[simp] theorem now_onPrv (f : Prv → Prv) (s : State) : now (onPrv f s) = now s := rfl

@[simp] theorem obsRuns_onPrv (f : Prv → Prv) (s : State) : obsRuns (onPrv f s) = obsRuns s := rfl

@[simp] theorem reg_onEgr (f : Egr → Egr) (s : State) (a : Nat) : reg (onEgr f s) a = reg s a := rfl

@[simp] theorem now_onEgr (f : Egr → Egr) (s : State) : now (onEgr f s) = now s := rfl

@[simp] theorem obsRuns_onEgr (f : Egr → Egr) (s : State) : obsRuns (onEgr f s) = obsRuns s := rfl

@[simp] theorem reg_onFab (f : Fab → Fab) (s : State) (a : Nat) : reg (onFab f s) a = reg s a := rfl

@[simp] theorem now_onFab (f : Fab → Fab) (s : State) : now (onFab f s) = now s := rfl

@[simp] theorem obsRuns_onFab (f : Fab → Fab) (s : State) : obsRuns (onFab f s) = obsRuns s := rfl

@[simp] theorem reg_onDbg (f : Dbg → Dbg) (s : State) (a : Nat) : reg (onDbg f s) a = reg s a := rfl

@[simp] theorem now_onDbg (f : Dbg → Dbg) (s : State) : now (onDbg f s) = now s := rfl

@[simp] theorem obsRuns_onDbg (f : Dbg → Dbg) (s : State) : obsRuns (onDbg f s) = obsRuns s := rfl

@[simp] theorem reg_onUnit (u : Nat) (f : UnitSt → UnitSt) (s : State) (a : Nat) : reg (onUnit u f s) a = reg s a := rfl

@[simp] theorem now_onUnit (u : Nat) (f : UnitSt → UnitSt) (s : State) : now (onUnit u f s) = now s := rfl

@[simp] theorem obsRuns_onUnit (u : Nat) (f : UnitSt → UnitSt) (s : State) : obsRuns (onUnit u f s) = obsRuns s := rfl

@[simp] theorem reg_onPort (p : Nat) (f : PortSt → PortSt) (s : State) (a : Nat) : reg (onPort p f s) a = reg s a := rfl

@[simp] theorem now_onPort (p : Nat) (f : PortSt → PortSt) (s : State) : now (onPort p f s) = now s := rfl

@[simp] theorem obsRuns_onPort (p : Nat) (f : PortSt → PortSt) (s : State) : obsRuns (onPort p f s) = obsRuns s := rfl

@[simp] theorem reg_onColl (c : Nat) (f : CollSt → CollSt) (s : State) (a : Nat) : reg (onColl c f s) a = reg s a := rfl

@[simp] theorem now_onColl (c : Nat) (f : CollSt → CollSt) (s : State) : now (onColl c f s) = now s := rfl

@[simp] theorem obsRuns_onColl (c : Nat) (f : CollSt → CollSt) (s : State) : obsRuns (onColl c f s) = obsRuns s := rfl

@[simp] theorem reg_onSect (i : Nat) (f : SectSt → SectSt) (s : State) (a : Nat) : reg (onSect i f s) a = reg s a := rfl

@[simp] theorem now_onSect (i : Nat) (f : SectSt → SectSt) (s : State) : now (onSect i f s) = now s := rfl

@[simp] theorem obsRuns_onSect (i : Nat) (f : SectSt → SectSt) (s : State) : obsRuns (onSect i f s) = obsRuns s := rfl

@[simp] theorem reg_onEpoch (p : Nat) (f : EpochSt → EpochSt) (s : State) (a : Nat) : reg (onEpoch p f s) a = reg s a := rfl

@[simp] theorem now_onEpoch (p : Nat) (f : EpochSt → EpochSt) (s : State) : now (onEpoch p f s) = now s := rfl

@[simp] theorem obsRuns_onEpoch (p : Nat) (f : EpochSt → EpochSt) (s : State) : obsRuns (onEpoch p f s) = obsRuns s := rfl

@[simp] theorem reg_setCtx (x : Nat) (c : Option CtxSt) (s : State) (a : Nat) : reg (setCtx x c s) a = reg s a := rfl

@[simp] theorem now_setCtx (x : Nat) (c : Option CtxSt) (s : State) : now (setCtx x c s) = now s := rfl

@[simp] theorem obsRuns_setCtx (x : Nat) (c : Option CtxSt) (s : State) : obsRuns (setCtx x c s) = obsRuns s := rfl

@[simp] theorem reg_onRing (r : Nat) (f : Ring → Ring) (s : State) (a : Nat) : reg (onRing r f s) a = reg s a := rfl

@[simp] theorem now_onRing (r : Nat) (f : Ring → Ring) (s : State) : now (onRing r f s) = now s := rfl

@[simp] theorem obsRuns_onRing (r : Nat) (f : Ring → Ring) (s : State) : obsRuns (onRing r f s) = obsRuns s := rfl

@[simp] theorem reg_onPart (p : Nat) (f : PartSt → PartSt) (s : State) (a : Nat) : reg (onPart p f s) a = reg s a := rfl

@[simp] theorem now_onPart (p : Nat) (f : PartSt → PartSt) (s : State) : now (onPart p f s) = now s := rfl

@[simp] theorem obsRuns_onPart (p : Nat) (f : PartSt → PartSt) (s : State) : obsRuns (onPart p f s) = obsRuns s := rfl

@[simp] theorem reg_setSlot (k : Nat) (v : Option Slot) (s : State) (a : Nat) : reg (setSlot k v s) a = reg s a := rfl

@[simp] theorem now_setSlot (k : Nat) (v : Option Slot) (s : State) : now (setSlot k v s) = now s := rfl

@[simp] theorem obsRuns_setSlot (k : Nat) (v : Option Slot) (s : State) : obsRuns (setSlot k v s) = obsRuns s := rfl

@[simp] theorem reg_setWatch (w : Nat) (v : Option Watch) (s : State) (a : Nat) : reg (setWatch w v s) a = reg s a := rfl

@[simp] theorem now_setWatch (w : Nat) (v : Option Watch) (s : State) : now (setWatch w v s) = now s := rfl

@[simp] theorem obsRuns_setWatch (w : Nat) (v : Option Watch) (s : State) : obsRuns (setWatch w v s) = obsRuns s := rfl

@[simp] theorem reg_setArea (p : Nat) (v : Option Area) (s : State) (a : Nat) : reg (setArea p v s) a = reg s a := rfl

@[simp] theorem now_setArea (p : Nat) (v : Option Area) (s : State) : now (setArea p v s) = now s := rfl

@[simp] theorem obsRuns_setArea (p : Nat) (v : Option Area) (s : State) : obsRuns (setArea p v s) = obsRuns s := rfl

@[simp] theorem reg_setTap (t : Nat) (v : Option Stream) (s : State) (a : Nat) : reg (setTap t v s) a = reg s a := rfl

@[simp] theorem now_setTap (t : Nat) (v : Option Stream) (s : State) : now (setTap t v s) = now s := rfl

@[simp] theorem obsRuns_setTap (t : Nat) (v : Option Stream) (s : State) : obsRuns (setTap t v s) = obsRuns s := rfl

@[simp] theorem reg_setRows (t : Nat) (v : List Row) (s : State) (a : Nat) : reg (setRows t v s) a = reg s a := rfl

@[simp] theorem now_setRows (t : Nat) (v : List Row) (s : State) : now (setRows t v s) = now s := rfl

@[simp] theorem obsRuns_setRows (t : Nat) (v : List Row) (s : State) : obsRuns (setRows t v s) = obsRuns s := rfl




@[simp] theorem reg_onDb (r : Nat) (f : Db → Db) (s : State) (a : Nat) : reg (onDb r f s) a = reg s a := rfl

@[simp] theorem now_onDb (r : Nat) (f : Db → Db) (s : State) : now (onDb r f s) = now s := rfl

@[simp] theorem obsRuns_onDb (r : Nat) (f : Db → Db) (s : State) : obsRuns (onDb r f s) = obsRuns s := rfl

@[simp] theorem reg_onSWatch (w : Nat) (f : SWatch → SWatch) (s : State) (a : Nat) : reg (onSWatch w f s) a = reg s a := rfl

@[simp] theorem now_onSWatch (w : Nat) (f : SWatch → SWatch) (s : State) : now (onSWatch w f s) = now s := rfl

@[simp] theorem obsRuns_onSWatch (w : Nat) (f : SWatch → SWatch) (s : State) : obsRuns (onSWatch w f s) = obsRuns s := rfl

@[simp] theorem reg_onGRule (k : Nat) (f : GRule → GRule) (s : State) (a : Nat) : reg (onGRule k f s) a = reg s a := rfl

@[simp] theorem now_onGRule (k : Nat) (f : GRule → GRule) (s : State) : now (onGRule k f s) = now s := rfl

@[simp] theorem obsRuns_onGRule (k : Nat) (f : GRule → GRule) (s : State) : obsRuns (onGRule k f s) = obsRuns s := rfl

@[simp] theorem now_setReg (a : Nat) (v : U32) (s : State) : now (setReg a v s) = now s := by
  simp [now]

@[simp] theorem obsRuns_setReg (a : Nat) (v : U32) (s : State) : obsRuns (setReg a v s) = obsRuns s := by
  simp [obsRuns]

@[simp] theorem now_orReg (a : Nat) (v : U32) (s : State) : now (orReg a v s) = now s := by
  simp [now]

@[simp] theorem obsRuns_orReg (a : Nat) (v : U32) (s : State) : obsRuns (orReg a v s) = obsRuns s := by
  simp [obsRuns]

@[simp] theorem now_bumpReg (a lo n k : Nat) (s : State) : now (bumpReg a lo n k s) = now s := now_setReg _ _ _

@[simp] theorem obsRuns_bumpReg (a lo n k : Nat) (s : State) : obsRuns (bumpReg a lo n k s) = obsRuns s := obsRuns_setReg _ _ _

@[simp] theorem reg_draw (s : State) (a : Nat) : reg (draw s) a = reg s a := rfl

end Sys2Proof.Machine
end

