-- ==== Sys2Proof/Laws/Follow.lean ====
section
/-! SUPPORT. Laws of what follows every command (`settle`): the parts it can touch, and when it does nothing. -/

namespace Sys2Proof.Machine

set_option Elab.async false

/-- An MSI only joins the pieces that wait. -/
theorem addMsi_eq (r k : Nat) (s : State) : ∃ p, addMsi r k s = addPiece p s := ⟨_, rfl⟩

theorem addPiece_eq (p : Piece) (s : State) : addPiece p s = onSmp (fun m => { m with pieces := m.pieces ++ [p] }) s := rfl

/-- What a line's rise does: nothing, or one piece more. -/
theorem lineMsi_cases (b : State) (k : Nat) (s : State) : lineMsi b k s = s ∨ ∃ p, lineMsi b k s = addPiece p s := by
  unfold lineMsi
  split
  · split
    · exact .inr (addMsi_eq _ _ _)
    · exact .inl rfl
  · exact .inl rfl

/-- What the rises of any lines do: pieces join. -/
theorem lineMsis_eq (b : State) (ks : List Nat) (s : State) :
    ∃ ps, ks.foldl (fun acc k => lineMsi b k acc) s = onSmp (fun m => { m with pieces := m.pieces ++ ps }) s := by
  induction ks generalizing s with
  | nil => exact ⟨[], by simp [onSmp, onObs]⟩
  | cons k ks ih =>
    obtain h | ⟨p, h⟩ := lineMsi_cases b k s
    · simpa [h] using ih s
    · obtain ⟨ps, hp⟩ := ih (addPiece p s)
      refine ⟨p :: ps, ?_⟩
      rw [List.foldl_cons, h, hp]
      simp [addPiece_eq, onSmp, onObs]

/-- The credits that `wake` gives back touch collectors and ports only. -/
theorem returnWithheld_hed (s : State) : ∃ c p, returnWithheld s = onHed (fun h => { h with colls := c, ports := p }) s := by
  have inner : ∀ (l : List Nat) (a : State), ∃ c p, l.foldl (fun a p => onPort p (fun t =>
      { t with mirror := sat 4 (t.mirror + 1), cret := (t.cret + 1) % 8 }) a) a
        = onHed (fun h => { h with colls := c, ports := p }) a := by
    intro l
    induction l with
    | nil => intro a; exact ⟨a.obs.hed.colls, a.obs.hed.ports, rfl⟩
    | cons x l ih =>
      intro a
      obtain ⟨c, p, h⟩ := ih (onPort x (fun t => { t with mirror := sat 4 (t.mirror + 1), cret := (t.cret + 1) % 8 }) a)
      exact ⟨c, p, by simp only [List.foldl_cons, h]; rfl⟩
  have outer : ∀ (l : SMap CollSt) (a : State), ∃ c p, l.foldl (fun acc e =>
      onColl e.1 (fun c => { c with withheld := [] })
        (e.2.withheld.foldl (fun a p => onPort p (fun t =>
          { t with mirror := sat 4 (t.mirror + 1), cret := (t.cret + 1) % 8 }) a) acc)) a
        = onHed (fun h => { h with colls := c, ports := p }) a := by
    intro l
    induction l with
    | nil => intro a; exact ⟨a.obs.hed.colls, a.obs.hed.ports, rfl⟩
    | cons x l ih =>
      intro a
      obtain ⟨c, p, h⟩ := inner x.2.withheld a
      simp only [List.foldl_cons, h]
      obtain ⟨c', p', h'⟩ := ih (onColl x.1 (fun c => { c with withheld := [] })
        (onHed (fun h => { h with colls := c, ports := p }) a))
      exact ⟨c', p', by rw [h']; rfl⟩
  exact outer _ s

/-- A request for the clock changes Quickset alone: it rises, or is due. -/
theorem requestClk_eq (s : State) : ∃ q, requestClk s = onPwr (fun _ => q) s := by
  unfold requestClk
  split <;> exact ⟨_, rfl⟩

/-- What a wake event can do: withheld credits return, and Quickset's state changes. -/
theorem wake_eq (n : Nat) (s : State) :
    ∃ c p q, wake n s = onPwr (fun _ => q) (onHed (fun h => { h with colls := c, ports := p }) s) := by
  have self : ∀ t : State, t = onPwr (fun _ => t.aon.pwr) (onHed (fun h => { h with colls := t.obs.hed.colls, ports := t.obs.hed.ports }) t) :=
    fun _ => rfl
  unfold wake
  simp only
  split
  · split
    · exact ⟨_, _, _, self s⟩
    · split
      · exact ⟨_, _, _, self s⟩
      · obtain ⟨c, p, h⟩ := returnWithheld_hed (onPwr (fun q => { q with stage := .awake }) s)
        exact ⟨c, p, _, by rw [h]; rfl⟩
      · exact ⟨s.obs.hed.colls, s.obs.hed.ports, _, rfl⟩
      · exact ⟨s.obs.hed.colls, s.obs.hed.ports, _, rfl⟩
  · split
    · exact ⟨_, _, _, self s⟩
    · obtain ⟨q, h⟩ := requestClk_eq (onPwr (fun q => if q.rstN && q.wake.isNone then { q with wake := some (n, now s) } else q) s)
      exact ⟨s.obs.hed.colls, s.obs.hed.ports, q, by rw [h]; rfl⟩

/-- Everything that can follow a command: pieces join, the credit may restart, withheld credits may return, and
Quickset may wake. -/
theorem settle_eq (b s : State) :
    ∃ ps credit c p q, settle b s = onPwr (fun _ => q) (onHed (fun h => { h with colls := c, ports := p })
      (onSmp (fun m => { m with pieces := m.pieces ++ ps, credit := credit }) s)) := by
  obtain ⟨ps, h⟩ := lineMsis_eq b [1, 2, 3, 4, 5, 6, 7] s
  unfold settle
  simp only [h]
  have two : ∀ u : State, (u = onSmp (fun m => { m with pieces := m.pieces ++ ps }) s ∨
      u = onSmp (fun m => { m with credit := 0 }) (onSmp (fun m => { m with pieces := m.pieces ++ ps }) s)) →
      ∃ ps credit c p q, (wake 7 u = onPwr (fun _ => q) (onHed (fun h => { h with colls := c, ports := p })
        (onSmp (fun m => { m with pieces := m.pieces ++ ps, credit := credit }) s))) := by
    intro u hu
    obtain ⟨c, p, q, hw⟩ := wake_eq 7 u
    rcases hu with rfl | rfl
    · exact ⟨ps, s.obs.smp.credit, c, p, q, by rw [hw]; rfl⟩
    · exact ⟨ps, 0, c, p, q, by rw [hw]; rfl⟩
  split <;> split
  · exact two _ (.inl rfl)
  · exact ⟨ps, s.obs.smp.credit, s.obs.hed.colls, s.obs.hed.ports, s.aon.pwr, rfl⟩
  · exact two _ (.inr rfl)
  · exact ⟨ps, 0, s.obs.hed.colls, s.obs.hed.ports, s.aon.pwr, rfl⟩

/-- A command without effect is followed by nothing. -/
@[simp] theorem settle_self (s : State) : settle s s = s := by
  have h : ∀ k, lineMsi s k s = s := by intro k; unfold lineMsi; cases irqLine s k <;> simp
  unfold settle
  by_cases hh : anyHold s = true <;> simp [h, hh]

/-- A command runs: outside scan test its effect, then what follows. -/
theorem run_next (f : State → State) (s : State) (h : s.scan = false) : run f s = .next (settle s (f s)) := by
  simp [run, h]

theorem inObs_run (f : State → State) (s : State) (h : obsRuns s = true) : inObs f s = f s := by simp [inObs, h]

theorem inObs_rest (f : State → State) (s : State) (h : obsRuns s = false) : inObs f s = s := by simp [inObs, h]

@[simp] theorem settle_regs (b s : State) : (settle b s).aon.regs = s.aon.regs := by
  obtain ⟨_, _, _, _, _, h⟩ := settle_eq b s; rw [h]; rfl

@[simp] theorem settle_tb (b s : State) : (settle b s).aon.tb = s.aon.tb := by
  obtain ⟨_, _, _, _, _, h⟩ := settle_eq b s; rw [h]; rfl

@[simp] theorem settle_sen (b s : State) : (settle b s).aon.sen = s.aon.sen := by
  obtain ⟨_, _, _, _, _, h⟩ := settle_eq b s; rw [h]; rfl

@[simp] theorem settle_alm (b s : State) : (settle b s).aon.alm = s.aon.alm := by
  obtain ⟨_, _, _, _, _, h⟩ := settle_eq b s; rw [h]; rfl

@[simp] theorem settle_keys (b s : State) : (settle b s).aon.keys = s.aon.keys := by
  obtain ⟨_, _, _, _, _, h⟩ := settle_eq b s; rw [h]; rfl

@[simp] theorem settle_rap (b s : State) : (settle b s).aon.rap = s.aon.rap := by
  obtain ⟨_, _, _, _, _, h⟩ := settle_eq b s; rw [h]; rfl

@[simp] theorem settle_db (b s : State) : (settle b s).aon.db = s.aon.db := by
  obtain ⟨_, _, _, _, _, h⟩ := settle_eq b s; rw [h]; rfl

@[simp] theorem settle_instId (b s : State) : (settle b s).aon.instId = s.aon.instId := by
  obtain ⟨_, _, _, _, _, h⟩ := settle_eq b s; rw [h]; rfl

@[simp] theorem settle_instSet (b s : State) : (settle b s).aon.instSet = s.aon.instSet := by
  obtain ⟨_, _, _, _, _, h⟩ := settle_eq b s; rw [h]; rfl

@[simp] theorem settle_misalign (b s : State) : (settle b s).aon.misalign = s.aon.misalign := by
  obtain ⟨_, _, _, _, _, h⟩ := settle_eq b s; rw [h]; rfl

@[simp] theorem settle_discovered (b s : State) : (settle b s).aon.discovered = s.aon.discovered := by
  obtain ⟨_, _, _, _, _, h⟩ := settle_eq b s; rw [h]; rfl

@[simp] theorem settle_oregs (b s : State) : (settle b s).obs.regs = s.obs.regs := by
  obtain ⟨_, _, _, _, _, h⟩ := settle_eq b s; rw [h]; rfl

@[simp] theorem settle_ocut (b s : State) : (settle b s).obs.cut = s.obs.cut := by
  obtain ⟨_, _, _, _, _, h⟩ := settle_eq b s; rw [h]; rfl

@[simp] theorem settle_octxs (b s : State) : (settle b s).obs.ctxs = s.obs.ctxs := by
  obtain ⟨_, _, _, _, _, h⟩ := settle_eq b s; rw [h]; rfl

@[simp] theorem settle_ocmd (b s : State) : (settle b s).obs.cmd = s.obs.cmd := by
  obtain ⟨_, _, _, _, _, h⟩ := settle_eq b s; rw [h]; rfl

@[simp] theorem settle_oevq (b s : State) : (settle b s).obs.evq = s.obs.evq := by
  obtain ⟨_, _, _, _, _, h⟩ := settle_eq b s; rw [h]; rfl

@[simp] theorem settle_olens (b s : State) : (settle b s).obs.lens = s.obs.lens := by
  obtain ⟨_, _, _, _, _, h⟩ := settle_eq b s; rw [h]; rfl

@[simp] theorem settle_owat (b s : State) : (settle b s).obs.wat = s.obs.wat := by
  obtain ⟨_, _, _, _, _, h⟩ := settle_eq b s; rw [h]; rfl

@[simp] theorem settle_ohang (b s : State) : (settle b s).obs.hang = s.obs.hang := by
  obtain ⟨_, _, _, _, _, h⟩ := settle_eq b s; rw [h]; rfl

@[simp] theorem settle_oprv (b s : State) : (settle b s).obs.prv = s.obs.prv := by
  obtain ⟨_, _, _, _, _, h⟩ := settle_eq b s; rw [h]; rfl

@[simp] theorem settle_oegr (b s : State) : (settle b s).obs.egr = s.obs.egr := by
  obtain ⟨_, _, _, _, _, h⟩ := settle_eq b s; rw [h]; rfl

@[simp] theorem settle_ofab (b s : State) : (settle b s).obs.fab = s.obs.fab := by
  obtain ⟨_, _, _, _, _, h⟩ := settle_eq b s; rw [h]; rfl

@[simp] theorem settle_odbg (b s : State) : (settle b s).obs.dbg = s.obs.dbg := by
  obtain ⟨_, _, _, _, _, h⟩ := settle_eq b s; rw [h]; rfl

@[simp] theorem settle_build (b s : State) : (settle b s).build = s.build := by
  obtain ⟨_, _, _, _, _, h⟩ := settle_eq b s; rw [h]; rfl

@[simp] theorem settle_scan (b s : State) : (settle b s).scan = s.scan := by
  obtain ⟨_, _, _, _, _, h⟩ := settle_eq b s; rw [h]; rfl

@[simp] theorem settle_draws (b s : State) : (settle b s).draws = s.draws := by
  obtain ⟨_, _, _, _, _, h⟩ := settle_eq b s; rw [h]; rfl

@[simp] theorem settle_pending (b s : State) : (settle b s).pending = s.pending := by
  obtain ⟨_, _, _, _, _, h⟩ := settle_eq b s; rw [h]; rfl

end Sys2Proof.Machine
end

