-- ==== Sys2Proof/Laws/Ops.lean ====
section
/-! SUPPORT. Laws of the shared operations: for each, everything that it can change. -/

namespace Sys2Proof.Machine

set_option Elab.async false

/-! ## Records to contexts -/

/-- A change of one context changes the table of contexts. -/
theorem onCtx_eq (x : Nat) (f : CtxSt → CtxSt) (s : State) :
    ∃ c, onCtx x f s = onObs (fun o => { o with ctxs := c }) s := by
  unfold onCtx
  split
  · exact ⟨_, rfl⟩
  · exact ⟨s.obs.ctxs, rfl⟩

/-- A record offered to one context changes the table of contexts. -/
theorem offerRec_eq (x : Nat) (r : Rec) (s : State) :
    ∃ c, offerRec x r s = onObs (fun o => { o with ctxs := c }) s := by
  unfold offerRec
  split
  · split
    · exact onCtx_eq _ _ _
    · exact ⟨s.obs.ctxs, rfl⟩
  · exact ⟨s.obs.ctxs, rfl⟩

/-- A record offered to many contexts changes the table of contexts. -/
theorem offerWhere_eq (f : CtxSt → Bool) (r : CtxSt → Rec) (s : State) :
    ∃ c, offerWhere f r s = onObs (fun o => { o with ctxs := c }) s := by
  have fold : ∀ (l : List Nat) (a : State), ∃ c, l.foldl (fun acc x => match ctxOf s x with
      | some c => if f c then offerRec x (r c) acc else acc
      | none => acc) a = onObs (fun o => { o with ctxs := c }) a := by
    intro l
    induction l with
    | nil => exact fun a => ⟨a.obs.ctxs, rfl⟩
    | cons x l ih =>
      intro a
      obtain ⟨c, hc⟩ : ∃ c, (match ctxOf s x with
          | some c => if f c then offerRec x (r c) a else a
          | none => a) = onObs (fun o => { o with ctxs := c }) a := by
        split
        · split
          · exact offerRec_eq _ _ _
          · exact ⟨a.obs.ctxs, rfl⟩
        · exact ⟨a.obs.ctxs, rfl⟩
      obtain ⟨d, hd⟩ := ih (onObs (fun o => { o with ctxs := c }) a)
      exact ⟨d, by rw [List.foldl_cons, hc, hd]; rfl⟩
  exact fold _ _

/-- With no open context a record reaches nobody. -/
theorem offerWhere_none (f : CtxSt → Bool) (r : CtxSt → Rec) (s : State) (h : ctxIds s = []) : offerWhere f r s = s := by
  simp [offerWhere, h]

/-! ## Boxwood -/

/-- A store to a register of an OBS block changes those registers alone. -/
theorem setReg_obs {a : Nat} (h : regAon a = false) (v : U32) (s : State) :
    ∃ m, setReg a v s = onObs (fun o => { o with regs := m }) s := by
  unfold setReg
  rw [h]
  exact ⟨_, rfl⟩

/-- A discarded item of a class counts in two registers of `WRN_EVQ`, or in none under `RST_N` (R175). -/
theorem countOvf_eq (c : Nat) (hc : c < 8) (s : State) : ∃ m, countOvf c s = onObs (fun o => { o with regs := m }) s := by
  unfold countOvf
  split
  · have h : regAon (aEvq + 0x18 + 4 * (c / 4)) = false := by
      obtain h | h : c / 4 = 0 ∨ c / 4 = 1 := by omega
      all_goals rw [h]; decide
    obtain ⟨m, hm⟩ := setReg_obs h _ s
    obtain ⟨n, hn⟩ := setReg_obs (a := aEvq + 0x24) (by decide) _ (onObs (fun o => { o with regs := m }) s)
    refine ⟨n, ?_⟩
    rw [bumpReg_eq, hm, orReg_eq, hn]
    rfl
  · exact ⟨s.obs.regs, rfl⟩

/-- An item of class 1 goes to the Sentinel's holding register, and nothing else changes but the counts of a discarded
item (R175). -/
theorem push_sentinel (src : Nat) (i : Item) (s : State) (h : i.pclass = 1) :
    ∃ x m, push src i s = onObs (fun o => { o with regs := m }) (onSen (fun n => { n with hold := some x }) s) := by
  unfold push
  rw [if_pos h]
  split
  · exact ⟨i, s.obs.regs, rfl⟩
  · obtain ⟨m, hm⟩ := countOvf_eq 1 (by omega) (onSen (fun n => { n with hold := some (keepItem _ i) }) s)
    exact ⟨_, m, hm⟩

/-- An item of another class goes to a holding register of Blackthorn or of the OBS domain (R175). -/
theorem push_other (src : Nat) (i : Item) (s : State) (h : i.pclass ≠ 1) (hc : i.pclass < 8) :
    (∃ x m, push src i s = onObs (fun o => { o with regs := m }) (onAlm (fun n => { n with hold := some x }) s)) ∨
      ∃ l m, push src i s = onObs (fun o => { o with regs := m }) (onEvq (fun e => { e with holds := l }) s) := by
  unfold push
  rw [if_neg h]
  split
  · left
    split
    · exact ⟨i, s.obs.regs, rfl⟩
    · obtain ⟨m, hm⟩ := countOvf_eq 2 (by omega) (onAlm (fun n => { n with hold := some (keepItem _ i) }) s)
      exact ⟨_, m, hm⟩
  · right
    split
    · exact ⟨s.obs.evq.holds ++ [⟨i.pclass, src, i⟩], s.obs.regs, rfl⟩
    · rename_i o _
      obtain ⟨m, hm⟩ := countOvf_eq i.pclass hc (onEvq (fun e => { e with
        holds := modFirst (fun h => h.cls == i.pclass && h.src == src)
          (fun h => { h with item := keepItem o.item i }) e.holds }) s)
      exact ⟨modFirst (fun h => h.cls == i.pclass && h.src == src)
          (fun h => { h with item := keepItem o.item i }) s.obs.evq.holds, m, hm⟩

/-! ## Requests and completions -/

/-- A completion queues its entry and changes its ring. -/
theorem complete_eq (r : Nat) (h : Held) (st : Nat) (res : U32) (s : State) :
    ∃ f, complete r h st res s =
      onRing r f (addPiece (entryPiece s r h.seq (ringOf s r).cqTail (entryOf s r h.d st res) (bit (h.d.w.getD 0 0) 12)) s) :=
  ⟨_, rfl⟩

/-- A read that is issued joins the reads outstanding, under a tag below 128 that none of them has. -/
theorem issueRead_some {w : RdWhat} {p a n : Nat} {s t : State} (h : issueRead w p a n s = some t) :
    ∃ g, lowestFree 128 (s.obs.smp.rdOut.map (·.tag)) = some g ∧
      t = onSmp (fun m => { m with rdOut := m.rdOut ++ [⟨g, sidOf s p, w, a, n⟩] }) s := by
  unfold issueRead at h
  split at h
  · cases h
  · rename_i g hg
    exact ⟨g, hg, (Option.some.inj h).symm⟩

/-- A write that is issued joins the writes outstanding. -/
theorem issueWrite_some {p : Piece} {s t : State} (h : issueWrite p s = some t) :
    ∃ g, lowestFree 128 (s.obs.smp.wrOut.map (·.tag)) = some g ∧
      t = onSmp (fun m => { m with wrOut := m.wrOut ++ [⟨g, sidOf s p.part, p.what, p.addr, p.data, p.part⟩] }) s := by
  unfold issueWrite at h
  split at h
  · cases h
  · rename_i g hg
    exact ⟨g, hg, (Option.some.inj h).symm⟩

/-- An unmetered write is outstanding or waits. -/
theorem writeNow_cases (p : Piece) (s : State) :
    (∃ w, writeNow p s = onSmp (fun m => { m with wrOut := m.wrOut ++ [w] }) s) ∨
      writeNow p s = addPiece { p with cls := 0 } s := by
  unfold writeNow
  split
  · rename_i t ht
    obtain ⟨g, _, h⟩ := issueWrite_some ht
    exact .inl ⟨_, h⟩
  · exact .inr rfl

/-- Parking, holding and a change of stage change one ring. -/
theorem park_eq (r : Nat) (h : Held) (st : Stage) (s : State) : ∃ f, park r h st s = onRing r f s := ⟨_, rfl⟩

theorem setStage_eq (r seq : Nat) (st : Stage) (s : State) : ∃ f, setStage r seq st s = onRing r f s := ⟨_, rfl⟩

theorem hold_eq (r : Nat) (h : Held) (st : Stage) (s : State) : ∃ f, hold r h st s = onRing r f s := by
  unfold hold
  split <;> exact ⟨_, rfl⟩

/-! ## Wake events -/

/-- While the domain is awake and the clock granted, a wake event does nothing (R326). -/
theorem wake_awake (src : Nat) (s : State) (h : s.aon.pwr.clkAck = true) (ha : s.aon.pwr.stage = .awake) : wake src s = s := by
  simp [wake, h, ha]

/-- A wake event where the clock is neither granted nor requested: it is recorded under `RST_N` high (R16, R326), and the
clock is requested. -/
theorem wake_asleep (src : Nat) (s : State) (h : s.aon.pwr.clkAck = false) (hr : s.aon.pwr.clkReq = false)
    (hw : s.aon.pwr.wake = none) (hn : s.aon.pwr.rstN = true) :
    wake src s = requestClk (onPwr (fun q => { q with wake := some (src, now s) }) s) := by
  simp [wake, h, hr, onPwr, onAon, hw, hn]

/-- A request rises at once where `OBS_CLK_SEL` carries the ratio and the last release is over; else it is due at an AON
edge (R361). -/
theorem requestClk_cases (s : State) :
    (s.aon.pwr.relWait = false ∧ s.aon.pwr.clkSel = nextSel s ∧
      requestClk s = onPwr (fun p => { p with clkReq := true, reqDue := false }) s) ∨
    requestClk s = onPwr (fun p => { p with reqDue := true }) s := by
  unfold requestClk
  split
  · exact .inr rfl
  · rename_i h
    simp only [Bool.or_eq_true, bne_iff_ne, ne_eq, not_or, Bool.not_eq_true, Decidable.not_not] at h
    exact .inl ⟨h.1, h.2, rfl⟩

/-! ## Freezes -/

/-- No hardware freeze is scheduled under `RST_N` (R78). -/
theorem hwFreeze_reset (g cause own : Nat) (s : State) (h : s.aon.pwr.rstN = false) : hwFreeze g cause own s = s := by
  simp [hwFreeze, h]

/-- A hardware trigger changes the cut alone. -/
theorem hwFreeze_eq (g cause own : Nat) (s : State) : ∃ c, hwFreeze g cause own s = onCut (fun _ => c) s := by
  unfold hwFreeze
  split
  · exact ⟨s.obs.cut, rfl⟩
  · split <;> exact ⟨_, rfl⟩

end Sys2Proof.Machine
end

