-- ==== Sys2Proof/WellFormed.lean ====
section
/-! DEFINITION. The range of each operand: what the rule of the command can name in the largest build. -/

namespace Sys2Proof

/-- Limits of Tables 0.4, 10.4 and 17.1 to 17.10. -/
def Beat.wf (b : Beat) : Bool :=
  decide (b.fmt < 16) && decide (b.scale < 4) && decide (b.site < 2 ^ 24) && decide (b.count < 1024)

/-- Is every operand in the range its rule gives it? -/
def Instr.wf : Instr → Bool
  | .nop r => decide (r < 64)
  | .fence r => decide (r < 64)
  | .ctxOpen r => decide (r < 64)
  | .ctxClose r => decide (r < 64)
  | .ctxArm r => decide (r < 64)
  | .ctxPause r => decide (r < 64)
  | .ctxResume r => decide (r < 64)
  | .ctxSave r => decide (r < 64)
  | .ctxRestore r => decide (r < 64)
  | .freezeAt r => decide (r < 64)
  | .epochSet r => decide (r < 64)
  | .readShadow r => decide (r < 64)
  | .attrLoad r => decide (r < 64)
  | .attrClear r => decide (r < 64)
  | .lensBind r => decide (r < 64)
  | .lensRead r => decide (r < 64)
  | .lensRelease r => decide (r < 64)
  | .watchArm r => decide (r < 64)
  | .watchDisarm r => decide (r < 64)
  | .hangDumpSetArea r => decide (r < 64)
  | .hangDumpSetWdog r => decide (r < 64)
  | .hangDumpRequest r => decide (r < 64)
  | .hangDumpRelease r => decide (r < 64)
  | .sentArm r => decide (r < 64)
  | .sentDisarm r => decide (r < 64)
  | .govSet r => decide (r < 64)
  | .partCreate r => decide (r < 64)
  | .partClose r => decide (r < 64)
  | .keyInstall r => decide (r < 64)
  | .keyRotate r => decide (r < 64)
  | .scrub r => decide (r < 64)
  | .consentLoad r => decide (r < 64)
  | .egrOpen r => decide (r < 64)
  | .egrClose r => decide (r < 64)
  | .fabDiscover r => decide (r < 64)
  | .descriptorFetch r => decide (r < 64)
  | .parkedCommandComplete r _ => decide (r < 64)
  | .firmwareVerdictTimeout r _ => decide (r < 64)
  | .dbTailWrite r _ => decide (r < 64)
  | .cqHeadWrite r _ => decide (r < 64)
  | .ringEnable r v => decide (r < 64) && v.toNat.testBit 31
  | .ringDisable r v => decide (r < 64) && !v.toNat.testBit 31
  | .versionRequest v => v.toNat.testBit 0
  | .unitOwnerWrite m _ => decide (m < 512)
  | .govRuleEnable k _ => decide (k < 16)
  | .firmwareGo v => v.toNat.testBit 0
  | .debugRead v => v.toNat.testBit 0
  | .debugInject v => v.toNat.testBit 1
  | .registerWrite a _ => decide (a < 2 ^ 20) && decide (a % 4 = 0)
  | .mbistComplete _ array rows => decide (array < 2 ^ 8) && decide (rows < 2 ^ 16)
  | .calibrationDone rtt => decide (4 ≤ rtt) && decide (rtt ≤ 96)
  | .heartbeatArrival c _ => decide (c < 256)
  | .heartbeatMiss c => decide (c < 256)
  | .takeoverResume c => decide (c < 256)
  | .fencedCollectorSpeaks phys => decide (phys < 512)
  | .collectorSelfTestDone phys _ => decide (phys < 512)
  | .probeValid port _ => decide (port < 4096)
  | .collectorEventProcess c => decide (c < 256)
  | .clkActiveFall port => decide (port < 4096)
  | .clkActiveRise port => decide (port < 4096)
  | .epochBoundary p => decide (p < 16)
  | .epochRecordsTaken p => decide (p < 16)
  | .tapBeat tap b => decide (tap < 2) && b.wf
  | .spillCommitDone tap => decide (tap < 2)
  | .xltResponse tag ioa l _ => decide (tag < 64) && decide (ioa < 2 ^ 48) && decide (l < 32)
  | .xltTimeout tag => decide (tag < 64)
  | .watchdogExpiry u => decide (u < 4096)
  | .boxwoodRelease n => decide (n < 2 ^ 16)
  | .recordPlaced ctx => decide (ctx < 2 ^ 20)
  | .frameAgeTimeout ctx => decide (ctx < 2 ^ 20)
  | .smpWriteResponse tag _ => decide (tag < 128)
  | .smpReadData tag _ _ => decide (tag < 128)
  | .deadlineMiss w => decide (w < 256)
  | .pulseExpiry line => decide (line < 4)
  | .govRuleWindowEnd k => decide (k < 16)
  | .partCloseDraining p => decide (p < 16)
  | .partCloseDrainEnd p => decide (p < 16)
  | .rotationTimeout p job dir => decide (p < 16) && decide (job < 256) && decide (dir < 2)
  | .tamperRegister lines => decide (lines < 16)
  | .glitchDetect v c => v || c
  | .ucieTrainingDone lanes _ => decide (lanes = 16) || decide (lanes = 8)
  | .osepFlitAckNak f => decide (f.length = 256)
  | .fabricFlitAckNak _ f => decide (f.length = 256)
  | .rootLost _ east west other => (other :: east ++ west).all fun i => decide (i < 64)
  | .rcRegisterRead a => decide (a < 2 ^ 20) && decide (a % 4 = 0)
  | .loRegisterRead a => decide (a < 2 ^ 20) && decide (a % 4 = 0)
  | .rapObsRegisterRead a => decide (a < 2 ^ 20) && decide (a % 4 = 0)
  | .tamperInRelease line => decide (line < 4)
  | .ratioWrite _ => true
  | .gtLoRead => true
  | .fgtLoRead => true
  | .consumerSelect _ => true
  | .consumerChangeEffect => true
  | .creditAllotmentWrite _ _ => true
  | .watermarkWrite _ => true
  | .hostRingSizeWrite _ => true
  | .hostRingHeadWrite _ => true
  | .brambleDepthWrite _ => true
  | .sentinelLineAck _ => true
  | .lockSet _ => true
  | .rapHeldAccessComplete => true
  | .idcode => true
  | .dbgAccess _ => true
  | .scanMode _ => true
  | .mbist _ => true
  | .aonRstNRise => true
  | .aonRstNFall => true
  | .rstNFall => true
  | .rstNRise => true
  | .fuseWordAck _ => true
  | .fuseTimeout => true
  | .deviceKeyDerived => true
  | .sramInitDone => true
  | .firmwareLoadDone => true
  | .firmwareLoadTimeout => true
  | .firmwareReady _ _ => true
  | .obsClkGrant => true
  | .obsClkRelease => true
  | .obsClkAckDropEarly => true
  | .idleDelayExpiry => true
  | .sleepBuffersDrained => true
  | .pwrAckToggle => true
  | .lockWindowEnd _ => true
  | .freezeFinal => true
  | .frameSyncRise => true
  | .laneSpareConnected => true
  | .pairWindowExpiry => true
  | .hangInRise => true
  | .hangDumpComplete => true
  | .boxwoodAccept => true
  | .boxwoodRead => true
  | .boxwoodReadStallEnd => true
  | .boxwoodMark => true
  | .boxwoodRewind => true
  | .drainBatch => true
  | .governorIssue => true
  | .cadenceTranche => true
  | .sentinelMarkerApply => true
  | .zeroizeComplete => true
  | .sramUncorrectable _ _ => true
  | .sramCorrectable _ _ => true
  | .hedgerWatchdogExpiry => true
  | .retrainTimeout => true
  | .opticalStatusPoll _ _ => true
  | .silenceTimeout => true
  | .accept => true
  | .acceptTimeout => true
  | .credit => true
  | .fack => true
  | .fnak => true
  | .close => true
  | .frameAckTimeout _ => true
  | .probe => true
  | .answer => true
  | .assign => true
  | .token => true
  | .echo => true
  | .gtLoad => true
  | .outcome => true
  | .freezeRequest => true
  | .freezeDistribute => true
  | .freezeAccepted => true
  | .freezeRefused => true
  | .beacon => true
  | .fabricPortDown _ => true
  | .discoveryTimeout => true
  | .glitchDetectorClear => true
  | .egrTrainingTimeout => true
  | .retrainingStart => true
  | .egrCloseDrainBound => true

/-- The ring that a command names. -/
def Instr.ringArg : Instr → Option Nat
  | .nop r => some r
  | .fence r => some r
  | .ctxOpen r => some r
  | .ctxClose r => some r
  | .ctxArm r => some r
  | .ctxPause r => some r
  | .ctxResume r => some r
  | .ctxSave r => some r
  | .ctxRestore r => some r
  | .freezeAt r => some r
  | .epochSet r => some r
  | .readShadow r => some r
  | .attrLoad r => some r
  | .attrClear r => some r
  | .lensBind r => some r
  | .lensRead r => some r
  | .lensRelease r => some r
  | .watchArm r => some r
  | .watchDisarm r => some r
  | .hangDumpSetArea r => some r
  | .hangDumpSetWdog r => some r
  | .hangDumpRequest r => some r
  | .hangDumpRelease r => some r
  | .sentArm r => some r
  | .sentDisarm r => some r
  | .govSet r => some r
  | .partCreate r => some r
  | .partClose r => some r
  | .keyInstall r => some r
  | .keyRotate r => some r
  | .scrub r => some r
  | .consentLoad r => some r
  | .egrOpen r => some r
  | .egrClose r => some r
  | .fabDiscover r => some r
  | .descriptorFetch r => some r
  | .parkedCommandComplete r _ => some r
  | .firmwareVerdictTimeout r _ => some r
  | .dbTailWrite r _ => some r
  | .cqHeadWrite r _ => some r
  | .ringEnable r _ => some r
  | .ringDisable r _ => some r
  | _ => none

end Sys2Proof
end

