-- ==== Sys2Proof/Laws/PerInstr.lean ====
section
/-! SUPPORT. Statements about every command as syntax, one lemma for each constructor. -/

namespace Sys2Proof.Laws.Ranged

set_option Elab.async false

/-- A well-formed command that names a ring names one of the 64 rings (R222). -/
def Statement (i : Instr) : Prop := i.wf = true → ∀ q, i.ringArg = some q → q < 64

theorem nop (r : Nat) : Statement (.nop r) := by
  intro h q hq
  cases hq
  simp [Instr.wf] at h
  omega

theorem fence (r : Nat) : Statement (.fence r) := by
  intro h q hq
  cases hq
  simp [Instr.wf] at h
  omega

theorem ctxOpen (r : Nat) : Statement (.ctxOpen r) := by
  intro h q hq
  cases hq
  simp [Instr.wf] at h
  omega

theorem ctxClose (r : Nat) : Statement (.ctxClose r) := by
  intro h q hq
  cases hq
  simp [Instr.wf] at h
  omega

theorem ctxArm (r : Nat) : Statement (.ctxArm r) := by
  intro h q hq
  cases hq
  simp [Instr.wf] at h
  omega

theorem ctxPause (r : Nat) : Statement (.ctxPause r) := by
  intro h q hq
  cases hq
  simp [Instr.wf] at h
  omega

theorem ctxResume (r : Nat) : Statement (.ctxResume r) := by
  intro h q hq
  cases hq
  simp [Instr.wf] at h
  omega

theorem ctxSave (r : Nat) : Statement (.ctxSave r) := by
  intro h q hq
  cases hq
  simp [Instr.wf] at h
  omega

theorem ctxRestore (r : Nat) : Statement (.ctxRestore r) := by
  intro h q hq
  cases hq
  simp [Instr.wf] at h
  omega

theorem freezeAt (r : Nat) : Statement (.freezeAt r) := by
  intro h q hq
  cases hq
  simp [Instr.wf] at h
  omega

theorem epochSet (r : Nat) : Statement (.epochSet r) := by
  intro h q hq
  cases hq
  simp [Instr.wf] at h
  omega

theorem readShadow (r : Nat) : Statement (.readShadow r) := by
  intro h q hq
  cases hq
  simp [Instr.wf] at h
  omega

theorem attrLoad (r : Nat) : Statement (.attrLoad r) := by
  intro h q hq
  cases hq
  simp [Instr.wf] at h
  omega

theorem attrClear (r : Nat) : Statement (.attrClear r) := by
  intro h q hq
  cases hq
  simp [Instr.wf] at h
  omega

theorem lensBind (r : Nat) : Statement (.lensBind r) := by
  intro h q hq
  cases hq
  simp [Instr.wf] at h
  omega

theorem lensRead (r : Nat) : Statement (.lensRead r) := by
  intro h q hq
  cases hq
  simp [Instr.wf] at h
  omega

theorem lensRelease (r : Nat) : Statement (.lensRelease r) := by
  intro h q hq
  cases hq
  simp [Instr.wf] at h
  omega

theorem watchArm (r : Nat) : Statement (.watchArm r) := by
  intro h q hq
  cases hq
  simp [Instr.wf] at h
  omega

theorem watchDisarm (r : Nat) : Statement (.watchDisarm r) := by
  intro h q hq
  cases hq
  simp [Instr.wf] at h
  omega

theorem hangDumpSetArea (r : Nat) : Statement (.hangDumpSetArea r) := by
  intro h q hq
  cases hq
  simp [Instr.wf] at h
  omega

theorem hangDumpSetWdog (r : Nat) : Statement (.hangDumpSetWdog r) := by
  intro h q hq
  cases hq
  simp [Instr.wf] at h
  omega

theorem hangDumpRequest (r : Nat) : Statement (.hangDumpRequest r) := by
  intro h q hq
  cases hq
  simp [Instr.wf] at h
  omega

theorem hangDumpRelease (r : Nat) : Statement (.hangDumpRelease r) := by
  intro h q hq
  cases hq
  simp [Instr.wf] at h
  omega

theorem sentArm (r : Nat) : Statement (.sentArm r) := by
  intro h q hq
  cases hq
  simp [Instr.wf] at h
  omega

theorem sentDisarm (r : Nat) : Statement (.sentDisarm r) := by
  intro h q hq
  cases hq
  simp [Instr.wf] at h
  omega

theorem govSet (r : Nat) : Statement (.govSet r) := by
  intro h q hq
  cases hq
  simp [Instr.wf] at h
  omega

theorem partCreate (r : Nat) : Statement (.partCreate r) := by
  intro h q hq
  cases hq
  simp [Instr.wf] at h
  omega

theorem partClose (r : Nat) : Statement (.partClose r) := by
  intro h q hq
  cases hq
  simp [Instr.wf] at h
  omega

theorem keyInstall (r : Nat) : Statement (.keyInstall r) := by
  intro h q hq
  cases hq
  simp [Instr.wf] at h
  omega

theorem keyRotate (r : Nat) : Statement (.keyRotate r) := by
  intro h q hq
  cases hq
  simp [Instr.wf] at h
  omega

theorem scrub (r : Nat) : Statement (.scrub r) := by
  intro h q hq
  cases hq
  simp [Instr.wf] at h
  omega

theorem consentLoad (r : Nat) : Statement (.consentLoad r) := by
  intro h q hq
  cases hq
  simp [Instr.wf] at h
  omega

theorem egrOpen (r : Nat) : Statement (.egrOpen r) := by
  intro h q hq
  cases hq
  simp [Instr.wf] at h
  omega

theorem egrClose (r : Nat) : Statement (.egrClose r) := by
  intro h q hq
  cases hq
  simp [Instr.wf] at h
  omega

theorem fabDiscover (r : Nat) : Statement (.fabDiscover r) := by
  intro h q hq
  cases hq
  simp [Instr.wf] at h
  omega

theorem descriptorFetch (r : Nat) : Statement (.descriptorFetch r) := by
  intro h q hq
  cases hq
  simp [Instr.wf] at h
  omega

theorem parkedCommandComplete (r : Nat) (seq : Nat) : Statement (.parkedCommandComplete r seq) := by
  intro h q hq
  cases hq
  simp [Instr.wf] at h
  omega

theorem firmwareVerdictTimeout (r : Nat) (seq : Nat) : Statement (.firmwareVerdictTimeout r seq) := by
  intro h q hq
  cases hq
  simp [Instr.wf] at h
  omega

theorem dbTailWrite (r : Nat) (v : U32) : Statement (.dbTailWrite r v) := by
  intro h q hq
  cases hq
  simp [Instr.wf] at h
  omega

theorem cqHeadWrite (r : Nat) (v : U32) : Statement (.cqHeadWrite r v) := by
  intro h q hq
  cases hq
  simp [Instr.wf] at h
  omega

theorem ringEnable (r : Nat) (v : U32) : Statement (.ringEnable r v) := by
  intro h q hq
  cases hq
  simp [Instr.wf] at h
  omega

theorem ringDisable (r : Nat) (v : U32) : Statement (.ringDisable r v) := by
  intro h q hq
  cases hq
  simp [Instr.wf] at h
  omega

theorem versionRequest (v : U32) : Statement (.versionRequest v) := fun _ _ hq => nomatch hq

theorem ratioWrite (v : U32) : Statement (.ratioWrite v) := fun _ _ hq => nomatch hq

theorem gtLoRead : Statement (.gtLoRead) := fun _ _ hq => nomatch hq

theorem fgtLoRead : Statement (.fgtLoRead) := fun _ _ hq => nomatch hq

theorem consumerSelect (v : U32) : Statement (.consumerSelect v) := fun _ _ hq => nomatch hq

theorem consumerChangeEffect : Statement (.consumerChangeEffect) := fun _ _ hq => nomatch hq

theorem creditAllotmentWrite (hi : Bool) (v : U32) : Statement (.creditAllotmentWrite hi v) := fun _ _ hq => nomatch hq

theorem watermarkWrite (v : U32) : Statement (.watermarkWrite v) := fun _ _ hq => nomatch hq

theorem hostRingSizeWrite (v : U32) : Statement (.hostRingSizeWrite v) := fun _ _ hq => nomatch hq

theorem hostRingHeadWrite (v : U32) : Statement (.hostRingHeadWrite v) := fun _ _ hq => nomatch hq

theorem unitOwnerWrite (m : Nat) (v : U32) : Statement (.unitOwnerWrite m v) := fun _ _ hq => nomatch hq

theorem brambleDepthWrite (v : U32) : Statement (.brambleDepthWrite v) := fun _ _ hq => nomatch hq

theorem sentinelLineAck (v : U32) : Statement (.sentinelLineAck v) := fun _ _ hq => nomatch hq

theorem govRuleEnable (k : Nat) (v : U32) : Statement (.govRuleEnable k v) := fun _ _ hq => nomatch hq

theorem lockSet (v : U32) : Statement (.lockSet v) := fun _ _ hq => nomatch hq

theorem firmwareGo (v : U32) : Statement (.firmwareGo v) := fun _ _ hq => nomatch hq

theorem debugRead (v : U32) : Statement (.debugRead v) := fun _ _ hq => nomatch hq

theorem debugInject (v : U32) : Statement (.debugInject v) := fun _ _ hq => nomatch hq

theorem registerWrite (a : Nat) (v : U32) : Statement (.registerWrite a v) := fun _ _ hq => nomatch hq

theorem rapHeldAccessComplete : Statement (.rapHeldAccessComplete) := fun _ _ hq => nomatch hq

theorem idcode : Statement (.idcode) := fun _ _ hq => nomatch hq

theorem dbgAccess (v : BitVec 51) : Statement (.dbgAccess v) := fun _ _ hq => nomatch hq

theorem scanMode (b : Bool) : Statement (.scanMode b) := fun _ _ hq => nomatch hq

theorem mbist (v : U32) : Statement (.mbist v) := fun _ _ hq => nomatch hq

theorem mbistComplete (fail : Bool) (array : Nat) (rows : Nat) : Statement (.mbistComplete fail array rows) := fun _ _ hq => nomatch hq

theorem aonRstNRise : Statement (.aonRstNRise) := fun _ _ hq => nomatch hq

theorem aonRstNFall : Statement (.aonRstNFall) := fun _ _ hq => nomatch hq

theorem rstNFall : Statement (.rstNFall) := fun _ _ hq => nomatch hq

theorem rstNRise : Statement (.rstNRise) := fun _ _ hq => nomatch hq

theorem fuseWordAck (d : U32) : Statement (.fuseWordAck d) := fun _ _ hq => nomatch hq

theorem fuseTimeout : Statement (.fuseTimeout) := fun _ _ hq => nomatch hq

theorem deviceKeyDerived : Statement (.deviceKeyDerived) := fun _ _ hq => nomatch hq

theorem sramInitDone : Statement (.sramInitDone) := fun _ _ hq => nomatch hq

theorem firmwareLoadDone : Statement (.firmwareLoadDone) := fun _ _ hq => nomatch hq

theorem firmwareLoadTimeout : Statement (.firmwareLoadTimeout) := fun _ _ hq => nomatch hq

theorem firmwareReady (e : Bool) (w : Bool) : Statement (.firmwareReady e w) := fun _ _ hq => nomatch hq

theorem obsClkGrant : Statement (.obsClkGrant) := fun _ _ hq => nomatch hq

theorem calibrationDone (rtt : Nat) : Statement (.calibrationDone rtt) := fun _ _ hq => nomatch hq

theorem obsClkRelease : Statement (.obsClkRelease) := fun _ _ hq => nomatch hq

theorem obsClkAckDropEarly : Statement (.obsClkAckDropEarly) := fun _ _ hq => nomatch hq

theorem idleDelayExpiry : Statement (.idleDelayExpiry) := fun _ _ hq => nomatch hq

theorem sleepBuffersDrained : Statement (.sleepBuffersDrained) := fun _ _ hq => nomatch hq

theorem pwrAckToggle : Statement (.pwrAckToggle) := fun _ _ hq => nomatch hq

theorem lockWindowEnd (count : Nat) : Statement (.lockWindowEnd count) := fun _ _ hq => nomatch hq

theorem heartbeatArrival (c : Nat) (copy : Nat) : Statement (.heartbeatArrival c copy) := fun _ _ hq => nomatch hq

theorem heartbeatMiss (c : Nat) : Statement (.heartbeatMiss c) := fun _ _ hq => nomatch hq

theorem takeoverResume (c : Nat) : Statement (.takeoverResume c) := fun _ _ hq => nomatch hq

theorem fencedCollectorSpeaks (phys : Nat) : Statement (.fencedCollectorSpeaks phys) := fun _ _ hq => nomatch hq

theorem collectorSelfTestDone (phys : Nat) (pass : Bool) : Statement (.collectorSelfTestDone phys pass) := fun _ _ hq => nomatch hq

theorem probeValid (port : Nat) (w : U64) : Statement (.probeValid port w) := fun _ _ hq => nomatch hq

theorem collectorEventProcess (c : Nat) : Statement (.collectorEventProcess c) := fun _ _ hq => nomatch hq

theorem clkActiveFall (port : Nat) : Statement (.clkActiveFall port) := fun _ _ hq => nomatch hq

theorem clkActiveRise (port : Nat) : Statement (.clkActiveRise port) := fun _ _ hq => nomatch hq

theorem freezeFinal : Statement (.freezeFinal) := fun _ _ hq => nomatch hq

theorem epochBoundary (p : Nat) : Statement (.epochBoundary p) := fun _ _ hq => nomatch hq

theorem epochRecordsTaken (p : Nat) : Statement (.epochRecordsTaken p) := fun _ _ hq => nomatch hq

theorem frameSyncRise : Statement (.frameSyncRise) := fun _ _ hq => nomatch hq

theorem tapBeat (tap : Nat) (b : Beat) : Statement (.tapBeat tap b) := fun _ _ hq => nomatch hq

theorem laneSpareConnected : Statement (.laneSpareConnected) := fun _ _ hq => nomatch hq

theorem pairWindowExpiry : Statement (.pairWindowExpiry) := fun _ _ hq => nomatch hq

theorem spillCommitDone (tap : Nat) : Statement (.spillCommitDone tap) := fun _ _ hq => nomatch hq

theorem xltResponse (tag : Nat) (ioa : Nat) (log2sz : Nat) (fault : Bool) : Statement (.xltResponse tag ioa log2sz fault) := fun _ _ hq => nomatch hq

theorem xltTimeout (tag : Nat) : Statement (.xltTimeout tag) := fun _ _ hq => nomatch hq

theorem watchdogExpiry (u : Nat) : Statement (.watchdogExpiry u) := fun _ _ hq => nomatch hq

theorem hangInRise : Statement (.hangInRise) := fun _ _ hq => nomatch hq

theorem hangDumpComplete : Statement (.hangDumpComplete) := fun _ _ hq => nomatch hq

theorem boxwoodAccept : Statement (.boxwoodAccept) := fun _ _ hq => nomatch hq

theorem boxwoodRead : Statement (.boxwoodRead) := fun _ _ hq => nomatch hq

theorem boxwoodReadStallEnd : Statement (.boxwoodReadStallEnd) := fun _ _ hq => nomatch hq

theorem boxwoodMark : Statement (.boxwoodMark) := fun _ _ hq => nomatch hq

theorem boxwoodRewind : Statement (.boxwoodRewind) := fun _ _ hq => nomatch hq

theorem boxwoodRelease (n : Nat) : Statement (.boxwoodRelease n) := fun _ _ hq => nomatch hq

theorem drainBatch : Statement (.drainBatch) := fun _ _ hq => nomatch hq

theorem recordPlaced (ctx : Nat) : Statement (.recordPlaced ctx) := fun _ _ hq => nomatch hq

theorem frameAgeTimeout (ctx : Nat) : Statement (.frameAgeTimeout ctx) := fun _ _ hq => nomatch hq

theorem governorIssue : Statement (.governorIssue) := fun _ _ hq => nomatch hq

theorem cadenceTranche : Statement (.cadenceTranche) := fun _ _ hq => nomatch hq

theorem smpWriteResponse (tag : Nat) (err : Bool) : Statement (.smpWriteResponse tag err) := fun _ _ hq => nomatch hq

theorem smpReadData (tag : Nat) (data : List U64) (err : Bool) : Statement (.smpReadData tag data err) := fun _ _ hq => nomatch hq

theorem sentinelMarkerApply : Statement (.sentinelMarkerApply) := fun _ _ hq => nomatch hq

theorem deadlineMiss (w : Nat) : Statement (.deadlineMiss w) := fun _ _ hq => nomatch hq

theorem pulseExpiry (line : Nat) : Statement (.pulseExpiry line) := fun _ _ hq => nomatch hq

theorem govRuleWindowEnd (k : Nat) : Statement (.govRuleWindowEnd k) := fun _ _ hq => nomatch hq

theorem partCloseDraining (p : Nat) : Statement (.partCloseDraining p) := fun _ _ hq => nomatch hq

theorem partCloseDrainEnd (p : Nat) : Statement (.partCloseDrainEnd p) := fun _ _ hq => nomatch hq

theorem rotationTimeout (p : Nat) (job : Nat) (dir : Nat) : Statement (.rotationTimeout p job dir) := fun _ _ hq => nomatch hq

theorem tamperRegister (lines : Nat) : Statement (.tamperRegister lines) := fun _ _ hq => nomatch hq

theorem glitchDetect (voltage : Bool) (clock : Bool) : Statement (.glitchDetect voltage clock) := fun _ _ hq => nomatch hq

theorem zeroizeComplete : Statement (.zeroizeComplete) := fun _ _ hq => nomatch hq

theorem sramUncorrectable (array : Nat) (idx : Nat) : Statement (.sramUncorrectable array idx) := fun _ _ hq => nomatch hq

theorem sramCorrectable (array : Nat) (idx : Nat) : Statement (.sramCorrectable array idx) := fun _ _ hq => nomatch hq

theorem hedgerWatchdogExpiry : Statement (.hedgerWatchdogExpiry) := fun _ _ hq => nomatch hq

theorem ucieTrainingDone (lanes : Nat) (repaired : Bool) : Statement (.ucieTrainingDone lanes repaired) := fun _ _ hq => nomatch hq

theorem retrainTimeout : Statement (.retrainTimeout) := fun _ _ hq => nomatch hq

theorem opticalStatusPoll (los : Bool) (laser : Bool) : Statement (.opticalStatusPoll los laser) := fun _ _ hq => nomatch hq

theorem osepFlitAckNak (f : List Byte) : Statement (.osepFlitAckNak f) := fun _ _ hq => nomatch hq

theorem silenceTimeout : Statement (.silenceTimeout) := fun _ _ hq => nomatch hq

theorem accept : Statement (.accept) := fun _ _ hq => nomatch hq

theorem acceptTimeout : Statement (.acceptTimeout) := fun _ _ hq => nomatch hq

theorem credit : Statement (.credit) := fun _ _ hq => nomatch hq

theorem fack : Statement (.fack) := fun _ _ hq => nomatch hq

theorem fnak : Statement (.fnak) := fun _ _ hq => nomatch hq

theorem close : Statement (.close) := fun _ _ hq => nomatch hq

theorem frameAckTimeout (i : Nat) : Statement (.frameAckTimeout i) := fun _ _ hq => nomatch hq

theorem fabricFlitAckNak (east : Bool) (f : List Byte) : Statement (.fabricFlitAckNak east f) := fun _ _ hq => nomatch hq

theorem probe : Statement (.probe) := fun _ _ hq => nomatch hq

theorem answer : Statement (.answer) := fun _ _ hq => nomatch hq

theorem assign : Statement (.assign) := fun _ _ hq => nomatch hq

theorem token : Statement (.token) := fun _ _ hq => nomatch hq

theorem echo : Statement (.echo) := fun _ _ hq => nomatch hq

theorem gtLoad : Statement (.gtLoad) := fun _ _ hq => nomatch hq

theorem outcome : Statement (.outcome) := fun _ _ hq => nomatch hq

theorem freezeRequest : Statement (.freezeRequest) := fun _ _ hq => nomatch hq

theorem freezeDistribute : Statement (.freezeDistribute) := fun _ _ hq => nomatch hq

theorem freezeAccepted : Statement (.freezeAccepted) := fun _ _ hq => nomatch hq

theorem freezeRefused : Statement (.freezeRefused) := fun _ _ hq => nomatch hq

theorem beacon : Statement (.beacon) := fun _ _ hq => nomatch hq

theorem fabricPortDown (port : PortLoss) : Statement (.fabricPortDown port) := fun _ _ hq => nomatch hq

theorem rootLost (rejoined : Bool) (east west : List Nat) (other : Nat) : Statement (.rootLost rejoined east west other) := fun _ _ hq => nomatch hq

theorem discoveryTimeout : Statement (.discoveryTimeout) := fun _ _ hq => nomatch hq

theorem rcRegisterRead (a : Nat) : Statement (.rcRegisterRead a) := fun _ _ hq => nomatch hq

theorem loRegisterRead (a : Nat) : Statement (.loRegisterRead a) := fun _ _ hq => nomatch hq

theorem rapObsRegisterRead (a : Nat) : Statement (.rapObsRegisterRead a) := fun _ _ hq => nomatch hq

theorem tamperInRelease (line : Nat) : Statement (.tamperInRelease line) := fun _ _ hq => nomatch hq

theorem glitchDetectorClear : Statement (.glitchDetectorClear) := fun _ _ hq => nomatch hq

theorem egrTrainingTimeout : Statement (.egrTrainingTimeout) := fun _ _ hq => nomatch hq

theorem retrainingStart : Statement (.retrainingStart) := fun _ _ hq => nomatch hq

theorem egrCloseDrainBound : Statement (.egrCloseDrainBound) := fun _ _ hq => nomatch hq

end Sys2Proof.Laws.Ranged
end

