-- ==== Sys2Proof/Tests/Slice0.lean ====
section
/-! SUPPORT. Tests: ill-formed commands are refused, small examples of the manual, and for every clause of every
obligation with hypotheses a state and operands that meet them together (`wit_<obligation>_<clause>`). -/

namespace Sys2Proof.Tests

open Sys2Proof.Machine Sys2Proof.Safety

set_option Elab.async false

/-! ## States -/

/-- What a table gives is its default or an entry. -/
theorem smGet_mem {α : Type} (m : SMap (Option α)) (k : Nat) {v : α} (h : smGet noneD m k = some v) :
    ∃ e ∈ m, e.2 = some v := by
  induction m with
  | nil => cases h
  | cons e m ih =>
    by_cases hk : e.1 = k
    · exact ⟨e, by simp, by simpa [smGet, hk] using h⟩
    · obtain ⟨f, hf, hv⟩ := ih (by simpa [smGet, hk] using h)
      exact ⟨f, by simp [hf], hv⟩

/-- A machine at work: start-up has ended and the domain runs, at GT 2^28. -/
def up : State :=
  onTb (fun b => { b with calDone := true, rootGt := 2 ^ 28 }) (onPwr (fun p => { p with
    aonRstN := true, rstN := true, clkReq := true, clkAck := true, granted := true, ready := true, fwOk := true,
    sramDone := true, keysDone := true, fuseOk := true, fusesRead := true }) State.reset)

/-- A check of every context is a check of the table. -/
theorem noWrap_of (s : State)
    (h : (s.obs.ctxs.all fun e => match e.2 with | some c => decide (c.seq < 2 ^ 32 - 1) | none => true) = true) :
    Safety.noWrap s := by
  intro x c hc
  unfold ctxOf at hc
  obtain ⟨e, he, h1⟩ : ∃ e ∈ s.obs.ctxs, e.2 = some c := smGet_mem _ _ hc
  have := List.all_eq_true.mp h e he
  simpa [h1] using this

/-- The same with a command interface agreed at 1.1 and buffers of partition 0 admitted below 2^32. -/
def upD : State := setReg 0x530C 1 (onCmd (fun m => { m with agreed := 0x11 }) up)

/-- A fetched descriptor of the given words. -/
def hd (ws : List U32) : Held := ⟨7, ⟨ws⟩, .serial, 0⟩

/-- The descriptor stands at the front of ring 2. -/
def front (h : Held) (s : State) : State := onRing 2 (fun g => { g with fetched := [h] }) s

/-- The command is parked in ring 2. -/
def parkedIn (h : Held) (s : State) : State := onRing 2 (fun g => { g with parked := [h] }) s

/-- A resident context of partition 0, CREATED. -/
def cx : CtxSt := { (default : CtxSt) with resident := true, unitLast := 100 }

/-- A small machine (WT-1 S) whose collectors are all calibrated. -/
def upS : State :=
  (List.range 16).foldl (fun s c => onColl c (fun k => { k with cal := true, th := 2 ^ 28 - 100 }) s)
    { up with build := Build.wt1S }

/-- A flit whose check is good. -/
def flit (b : List Byte) : List Byte :=
  let x := b ++ zeros (252 - b.length)
  x ++ le 4 (crc32c x)

/-! ## Ill-formed commands are refused -/

/-- A command the check refuses. -/
abbrev bad (c : Instr) : Prop := c.wf = false

theorem test_wf_descriptor_rings : ∀ c ∈ [Instr.nop 64, .fence 64, .ctxOpen 64, .ctxClose 64, .ctxArm 64, .ctxPause 64,
    .ctxResume 64, .ctxSave 64, .ctxRestore 64, .freezeAt 64, .epochSet 64, .readShadow 64, .attrLoad 64, .attrClear 64,
    .lensBind 64, .lensRead 64, .lensRelease 64, .watchArm 64, .watchDisarm 64, .hangDumpSetArea 64,
    .hangDumpSetWdog 64, .hangDumpRequest 64, .hangDumpRelease 64, .sentArm 64, .sentDisarm 64, .govSet 64,
    .partCreate 64, .partClose 64, .keyInstall 64, .keyRotate 64, .scrub 64, .consentLoad 64, .egrOpen 64,
    .egrClose 64, .fabDiscover 64], bad c := by decide +kernel

theorem test_wf_engine_and_registers : ∀ c ∈ [Instr.descriptorFetch 64, .parkedCommandComplete 64 0,
    .firmwareVerdictTimeout 64 0, .dbTailWrite 64 0, .cqHeadWrite 64 0, .ringEnable 64 0x80000000, .ringEnable 0 0,
    .ringDisable 64 0, .ringDisable 0 0x80000000, .versionRequest 2, .unitOwnerWrite 512 0, .govRuleEnable 16 0,
    .firmwareGo 2, .debugRead 2, .debugInject 1, .registerWrite 0x100000 0, .registerWrite 2 0,
    .rcRegisterRead 0x100000, .rcRegisterRead 1, .loRegisterRead 0x100000, .loRegisterRead 3,
    .rapObsRegisterRead 0x100000, .rapObsRegisterRead 2, .mbistComplete true 256 0, .mbistComplete true 0 65536],
    bad c := by decide +kernel

theorem test_wf_hedgerow_and_cuts : ∀ c ∈ [Instr.calibrationDone 3, .calibrationDone 97, .heartbeatArrival 256 0,
    .heartbeatMiss 256, .takeoverResume 256, .fencedCollectorSpeaks 512, .collectorSelfTestDone 512 true,
    .probeValid 4096 0, .collectorEventProcess 256, .clkActiveFall 4096, .clkActiveRise 4096, .epochBoundary 16,
    .epochRecordsTaken 16, .watchdogExpiry 4096], bad c := by decide +kernel

theorem test_wf_lens_and_watches : ∀ c ∈ [Instr.tapBeat 2 default, .tapBeat 0 { (default : Beat) with fmt := 16 },
    .tapBeat 0 { (default : Beat) with scale := 4 }, .tapBeat 0 { (default : Beat) with site := 2 ^ 24 },
    .tapBeat 0 { (default : Beat) with count := 1024 }, .spillCommitDone 2, .xltResponse 64 0 12 false,
    .xltResponse 0 (2 ^ 48) 12 false, .xltResponse 0 0 32 false, .xltTimeout 64], bad c := by decide +kernel

theorem test_wf_writer_and_smp : ∀ c ∈ [Instr.boxwoodRelease 65536, .recordPlaced (2 ^ 20), .frameAgeTimeout (2 ^ 20),
    .smpWriteResponse 128 false, .smpReadData 128 [] false], bad c := by decide +kernel

theorem test_wf_sentinel_and_privet : ∀ c ∈ [Instr.deadlineMiss 256, .pulseExpiry 4, .govRuleWindowEnd 16,
    .partCloseDraining 16, .partCloseDrainEnd 16, .rotationTimeout 16 0 0, .rotationTimeout 0 256 0,
    .rotationTimeout 0 0 2, .tamperRegister 16, .tamperInRelease 4, .glitchDetect false false], bad c := by decide +kernel

theorem test_wf_links : ∀ c ∈ [Instr.ucieTrainingDone 12 false, .osepFlitAckNak [], .fabricFlitAckNak true [],
    .rootLost false [64] [] 0, .rootLost true [] [] 64], bad c := by decide +kernel

/-! ## Examples of the manual -/

/-- Chapter 2, an event through a droop: 100,011 less L_p of 8 and S_r of 3 is 100,000. -/
theorem test_stamp_of_droop_example :
    portStamp (setReg 0x3100 8 (onTb (fun b => { b with rootGt := 100000, sub := 11 }) up)) 0 = 100000 := by decide

/-- Chapter 2, a stopped clock: 250,014 less L_p of 9 and S_r of 5 at ratio 16 is 250,000. -/
theorem test_stamp_at_ratio_16 :
    portStamp (setReg 0x3100 9 (onPwr (fun p => { p with ratio := 1 })
      (onTb (fun b => { b with rootGt := 250000, sub := 14 }) up))) 0 = 250000 := by decide

/-- Chapter 9, one plain frame: its header. -/
theorem test_frame_header :
    frameHeader { (default : Frame) with
      part := 3, job := 5, ctx := 0x42, seq := 7, keygen := 1, recs := 4, gtBase := 1234000, body := zeros 104 } false
    = [0x52, 0x57, 0x01, 0x43, 0x05, 0x00, 0x04, 0x00, 0x42, 0, 0, 0, 7, 0, 0, 0, 0x50, 0xD4, 0x12, 0, 0, 0, 0, 0,
       0, 0, 0x68, 0, 0, 0, 0, 0] := by decide +kernel

/-- Chapter 9, the same frame: its MARK record. -/
theorem test_mark_record : recBytes (.mark false 2 0 0x0003 0x0115 0x40) 16 false false
    = [0x19, 0x00, 0x02, 0x00, 0x10, 0, 0, 0, 0x03, 0x00, 0x15, 0x01, 0x40, 0, 0, 0] := by decide

/-- Chapter 9, the same frame: the item of a new key, and one that repeats its payload. -/
theorem test_evt_items :
    evtItem none (evtKey 17 0x3012340000040003) 0 0x00040003 1234000 1234020 1234020
      = [0xFF, 0x11, 0x30, 0x34, 0x12, 0, 0, 0, 0, 0xD0, 0x03, 0x00, 0x04, 0x00] ∧
    evtItem (some 0) (evtKey 17 0x3012340000040003) 0x00040003 0x00040003 1234000 1234020 1234052 = [0x00, 0x30] ∧
    evtItem none (evtKey 18 0x4012340000000400) 0 0x400 1234000 1234052 1234050
      = [0xFF, 0x12, 0x40, 0x34, 0x12, 0, 0, 0, 0, 0x8E, 0x00, 0x04] := by decide

/-- Chapter 9, the same frame: its GAP record, with LATE. -/
theorem test_gap_record : recBytes (.gap false false 18 1 1234040 2) 50 true false
    = [0x16, 0x01, 0x12, 0x10, 0x32, 0, 0, 0, 0x78, 0xD4, 0x12, 0, 0, 0, 0, 0, 2, 0, 0, 0, 0, 0, 0, 0] ++ zeros 8 := by
  decide

/-- Chapter 10, a wrap with a parked command: the entry of READ_SHADOW. -/
theorem test_completion_entry : toBytes (entryWords ⟨0x0A01, 0, 3, 0x22, false, 5000600, 49⟩)
    = [0x01, 0x0A, 0, 0, 0, 0x03, 0x22, 0, 0x98, 0x4D, 0x4C, 0, 0x31, 0, 0, 0] := by decide

/-- Chapter 10, the same example: four descriptors are posted over the wrap. -/
theorem test_posted_over_wrap :
    posted (onDb 5 (fun d => { d with tail := 2 }) (onRing 5 (fun g => { g with head := 62 })
      (setReg (aRing 5) 0x0606 up))) 5 = 4 := by decide

/-- Chapter 18, a takeover seen in the registers: before the failure. -/
theorem test_takeover_registers : lcollWord up 37 = 0x00010045 ∧ sectWord up 2 = 0xA0000000 := by decide +kernel

/-- Chapter 8, a rewind overtaken by an alarm: after REWIND the three items are unread, and the alarm is presented. -/
theorem test_rewind_example :
    let a := mkItem 0x03 0 0 1 10
    let b := mkItem 0x02 0 0 2 11
    let c := mkItem 0x20 0 0 3 12
    let s := onEvq (fun e => { e with
      q := [⟨a, 0, some 0x100⟩, ⟨b, 1, some 0x101⟩, ⟨c, 2, none⟩], nextAge := 3, rseq := 0x102, mark := 0x100 }) up
    avail s = 1 ∧ avail (opRewind s) = 3 ∧ (opRewind s).obs.evq.rseq = 0x100 ∧
      (presented (opRewind s)).map (·.item) = some c := by decide

/-- Chapter 6, the KV events of the shared prefix carry no ODD; a SHARE that reports one reference does. -/
theorem test_kv_odd : kvOdd 0 1 = false ∧ kvOdd 1 2 = false ∧ kvOdd 2 1 = false ∧ kvOdd 3 1 = false ∧
    kvOdd 3 0 = false ∧ kvOdd 1 1 = true := by decide

/-- A row side record as its 128 bits. -/
def rowBits (mx denom : U32) (id block keys : Nat) (last : Bool) : BitVec 128 :=
  BitVec.ofNat 128 (mx.toNat * 2 ^ 96 + denom.toNat * 2 ^ 64 + id * 2 ^ 40 + block * 2 ^ 28 + keys * 2 ^ 12 + b2n last * 2 ^ 7)

/-- Chapter 6, a late rescale: two rescales, the last at block 3, LATE, and the outcome OK. -/
theorem test_late_rescale :
    let step := fun (p : Option Row) (w : BitVec 128) => some (rowStep p (rowRec w))
    let r := [rowBits 0x40000000 0x40600000 0x42 0 64 false, rowBits 0x40000000 0x40980000 0x42 1 128 false,
      rowBits 0x40400000 0x406FD567 0x42 2 192 false, rowBits 0x40A00000 0x4006DC5D 0x42 3 256 true].foldl step none
    r.map (fun r => (rowOutcome r, r.nresc, r.lastResc, r.late)) = some (0, 2, 3, true) := by decide

/-- Chapter 6, a fully masked row is EMPTY. -/
theorem test_masked_row :
    rowOutcome (rowStep (some (rowStep none (rowRec (rowBits 0xFF800000 0 0x43 0 0 false))))
      (rowRec (rowBits 0xFF800000 0 0x43 1 0 true))) = 2 := by decide

/-- Element codes of a width, from bit 0 upwards. -/
def packed (w : Nat) (cs : List Nat) : BitVec 2048 := BitVec.ofNat 2048 (cs.foldr (fun c a => c + a * 2 ^ w) 0)

/-- What the bins of an image hold: index, count, sum and sum of squares. -/
def binsOf (i : Img) : List (Nat × Nat × Int × Nat) := i.bins.map fun e => (e.1, e.2.n, e.2.sum, e.2.sq)

/-- Chapter 5, an FP8-E4M3 block with an E8M0 scale. -/
theorem test_fp8_block :
    let k := { (default : Slot) with fmt := 3, scale := 1, origin := -12 }
    let b := { (default : Beat) with fmt := 3, scale := 1, count := 32, scales := 0x7C
                                     data := packed 8 (List.replicate 23 0 ++ [0x80, 0x48, 0x4C, 0xC9, 0x38, 0xBC, 0x03, 0x7E, 0xFF]) }
    let i := putBeat (binCfg k) { (default : Stream) with fmt := 3, scale := 1 } b 100 default
    (binsOf i).map (fun e => (e.1, e.2.1)) = [(0, 24), (1, 1), (11, 2), (13, 3), (62, 1), (63, 1)] ∧
    (binsOf i).filter (fun e => e.1 == 1 || e.1 == 11 || e.1 == 13) = [(1, 1, 24, 576), (11, 2, -4, 208), (13, 3, 11, 289)] ∧
    i.neg = 2 ∧ i.trunc = 0 ∧ i.elems = 32 ∧ i.hist = [(15, 1)] ∧
    i.mn = some ⟨-9, -4⟩ ∧ i.mx = some ⟨7, 3⟩ ∧ i.amx = some ⟨7, 3⟩ := by decide +kernel

/-- Chapter 5, an INT4 stream with channel maxima. -/
theorem test_int4_stream :
    let k := { (default : Slot) with fmt := 12, chanBase := 100, chanCount := 4 }
    let b := { (default : Beat) with fmt := 12, count := 16
                                     data := packed 4 [0, 0, 1, 15, 2, 3, 13, 4, 7, 8, 5, 10, 0, 1, 2, 14] }
    let i := putBeat (binCfg k) { (default : Stream) with fmt := 12 } b 100 default
    let ch := (List.range 16).foldl (fun m j => putChan k j (elemVal 12 0 b j) m) []
    (binsOf i).filter (fun e => e.1 != 62) = [(0, 3, 0, 0), (1, 3, 1, 3), (2, 5, 2, 30), (3, 3, 3, 77)] ∧
    (i.bins.filter fun e => e.1 == 62).map (fun e => (e.2.n, e.2.q1, e.2.q0)) = [(2, 1, 1)] ∧
    i.neg = 5 ∧ i.mn = some ⟨-1, 3⟩ ∧ i.mx = some ⟨7, 0⟩ ∧ i.amx = some ⟨1, 3⟩ ∧
    ch = [(100, 0x40E0), (101, 0x4100), (102, 0x40A0), (103, 0x40C0)] := by decide +kernel

/-- Chapter 11, a missed sense-to-act frame: at the edge after D2 line 0 rises and a freeze is scheduled at
T = 1,056,001,024. -/
theorem test_missed_frame :
    let s := onSWatch 0 (fun w => { w with
      armed := true, startKind := 8, endKind := 1, eLayer := 0x40, eOper := 7, offset := 24000000, lines := 1
      freeze := true, insts := [⟨1032000000, 1056000000, false⟩] }) (onTb (fun b => { b with rootGt := 1056000000 }) up)
    let m := opDeadlineMiss 0 s
    let t := tick (onTb (fun b => { b with sub := 31 }) m)
    m.aon.sen.lines = 0 ∧ t.aon.tb.rootGt = 1056000032 ∧ t.aon.sen.lines = 1 ∧ t.obs.cut.hw.map (·.t) = some 1056001024 ∧
      t.aon.sen.hold.map (fun i => (i.kind, i.prio, i.arg)) = some (0x10, 1, 0x3EF14800) := by decide +kernel

/-- Chapter 0: the levels agreed for a host of levels 0x10 to 0x12. -/
theorem test_version_example : agree 0x10 0x12 = 0x11 := by decide


/-! ## Witnesses -/

theorem wit_FrontCommandIsExecuted_1 : ∃ c : Instr, ∃ rest : List Instr, ∃ s : State, (s.pending = c :: rest) :=
  ⟨.idcode, [.gtLoRead], ({ up with pending := [.idcode, .gtLoRead] } : State), by decide⟩

theorem wit_EmptyQueueIsOneTick_1 : ∃ s : State, (s.pending = []) ∧ (s.scan = false) ∧ (s.aon.pwr.aonRstN = true) ∧ (s.aon.tb.rootGt + 32 < 2 ^ 64) ∧ (s.aon.sen.due = []) ∧ (s.obs.lens.rowDue = []) ∧ (s.obs.fab.disc = none) :=
  ⟨up, by decide⟩

theorem wit_NothingActsUnderAonReset_1 : ∃ c : Instr, ∃ s : State, (underAonReset s) ∧ (c ≠ .aonRstNRise) ∧ ((∀ p, c ≠ .clkActiveFall p ∧ c ≠ .clkActiveRise p)) :=
  ⟨.idcode, State.reset, by decide, by decide, fun p => ⟨by simp, by simp⟩⟩

theorem wit_ObsDomainHeldUnderReset_1 : ∃ s : State, ∃ t : State, (underReset s) ∧ (step s = .next t) :=
  ⟨({ State.reset with pending := [.idcode] } : State), State.reset, ⟨rfl, rfl, .inl rfl, ⟨false, [], rfl⟩, by simp⟩, rfl⟩

theorem wit_ResetsRiseAndFall_1 : ∃ s : State, (s.scan = false) ∧ (s.aon.pwr.aonRstN = false) :=
  ⟨State.reset, by decide⟩

theorem wit_ResetsRiseAndFall_3 : ∃ s : State, (s.scan = false) ∧ (s.aon.pwr.aonRstN = true) ∧ (s.aon.pwr.rstN = true) :=
  ⟨up, by decide⟩

theorem wit_ResetsRiseAndFall_4 : ∃ s : State, (s.scan = false) ∧ (s.aon.pwr.aonRstN = true) ∧ (s.aon.pwr.rstN = false) ∧ (s.aon.pwr.clkAck = false) :=
  ⟨(onPwr (fun p => { p with rstN := false, clkAck := false }) up), by decide⟩

theorem wit_ResetsRiseAndFall_5 : ∃ s : State, (s.scan = false) ∧ (s.aon.pwr.aonRstN = true) ∧ (s.aon.pwr.rstN = false) ∧ (s.aon.pwr.clkAck = true) ∧ (s.aon.pwr.clkReq = false) :=
  ⟨(onPwr (fun p => { p with rstN := false, clkReq := false }) up), by decide⟩

theorem wit_ResetsRiseAndFall_6 : ∃ s : State, (s.scan = false) ∧ (s.aon.pwr.aonRstN = true) ∧ (s.aon.pwr.rstN = false) ∧ (s.aon.pwr.clkAck = true) ∧ (s.aon.pwr.clkReq = true) ∧ (s.aon.pwr.wake = none) :=
  ⟨(onPwr (fun p => { p with rstN := false }) up), by decide⟩

theorem wit_FusesAreRead_1 : ∃ s : State, (s.scan = false) ∧ (s.aon.pwr.aonRstN = true) ∧ (s.aon.pwr.fuseReq = true) ∧ (s.aon.pwr.fuseAddr < 31) :=
  ⟨(onPwr (fun p => { p with rstN := false, fusesRead := false, fuseOk := false, fuseReq := true, fuseAddr := 5 }) up), by decide⟩

theorem wit_FusesAreRead_2 : ∃ s : State, (s.scan = false) ∧ (s.aon.pwr.aonRstN = true) ∧ (s.aon.pwr.fuseReq = true) ∧ (s.aon.pwr.fuseAddr < 31) :=
  ⟨(onPwr (fun p => { p with rstN := false, fusesRead := false, fuseOk := false, fuseReq := true, fuseAddr := 5 }) up), by decide⟩

theorem wit_FusesAreRead_3 : ∃ d : U32, ∃ s : State, (s.scan = false) ∧ (s.aon.pwr.aonRstN = true) ∧ (s.aon.pwr.fuseReq = true) ∧ (s.aon.pwr.fuseAddr = 31) ∧ (crc32c (fuseBytes s 0 31) = d.toNat) :=
  ⟨(BitVec.ofNat 32 (crc32c (fuseBytes (onPwr (fun p => { p with rstN := false, fusesRead := false, fuseOk := false, fuseReq := true, fuseAddr := 31 }) up) 0 31))), (onPwr (fun p => { p with rstN := false, fusesRead := false, fuseOk := false, fuseReq := true, fuseAddr := 31 }) up), by decide, by decide, by decide, by decide, by decide +kernel⟩

theorem wit_FusesAreRead_4 : ∃ d : U32, ∃ s : State, (s.scan = false) ∧ (s.aon.pwr.aonRstN = true) ∧ (s.aon.pwr.fuseReq = true) ∧ (s.aon.pwr.fuseAddr = 31) ∧ (crc32c (fuseBytes s 0 31) ≠ d.toNat) ∧ (almAct s 2 = 0) :=
  ⟨7, (setReg (aAlm + 4) 0 (onPwr (fun p => { p with rstN := false, fusesRead := false, fuseOk := false, fuseReq := true, fuseAddr := 31 }) up)), by decide, by decide, by decide, by decide, by decide +kernel, by decide⟩

theorem wit_FusesAreRead_5 : ∃ s : State, (s.scan = false) ∧ (s.aon.pwr.aonRstN = true) ∧ (s.aon.pwr.fuseReq = true) ∧ (32 ≤ s.aon.pwr.fuseAddr) :=
  ⟨(onPwr (fun p => { p with sramDone := false, fuseReq := true, fuseAddr := 40 }) up), by decide⟩

theorem wit_StartUpReachesGo_1 : ∃ s : State, (s.scan = false) ∧ (s.aon.pwr.aonRstN = true) ∧ (s.aon.pwr.fusesRead = true) ∧ (s.aon.pwr.keysDone = false) ∧ (s.build.crypto = true) ∧ (s.aon.alm.zeroizing = false) ∧ (s.aon.alm.zeroized = false) :=
  ⟨(onPwr (fun p => { p with keysDone := false }) up), by decide⟩

theorem wit_StartUpReachesGo_2 : ∃ s : State, (running s) ∧ (s.aon.pwr.granted = true) ∧ (s.aon.pwr.fusesRead = true) ∧ (s.aon.pwr.sramDone = false) ∧ (s.aon.pwr.fuseReq = false) ∧ (s.aon.pwr.fuseAddr = 256) :=
  ⟨(onPwr (fun p => { p with sramDone := false, fuseAddr := 256 }) up), by decide⟩

theorem wit_StartUpReachesGo_3 : ∃ s : State, (running s) ∧ (s.aon.pwr.fwOk = true) ∧ (s.aon.pwr.ready = false) ∧ (s.aon.pwr.hedgerDown = false) :=
  ⟨(onPwr (fun p => { p with ready := false }) up), by decide⟩

theorem wit_StartUpReachesGo_4 : ∃ s : State, (aonOpen s) ∧ (s.aon.pwr.sramDone = true) ∧ (s.aon.pwr.goAt = none) :=
  ⟨(onPwr (fun p => { p with fwOk := false, ready := false }) up), by decide⟩

theorem wit_StartUpReachesGo_5 : ∃ s : State, (aonOpen s) ∧ (s.aon.pwr.sramDone = false ∨ s.aon.pwr.goAt.isSome = true) :=
  ⟨(onPwr (fun p => { p with fwOk := false, ready := false, goAt := some 5 }) up), by decide⟩

theorem wit_FirmwareIsJudged_1 : ∃ g : Nat, ∃ s : State, (running s) ∧ (loading s = true) ∧ (s.aon.pwr.goAt = some g) ∧ (now s ≤ g + 8000000) ∧ (fwReadOver s = true) ∧ (almAct s 3 = 0) :=
  ⟨(2 ^ 28 - 100), (onPwr (fun p => { p with fwOk := false, ready := false, goAt := some (2 ^ 28 - 100), fwReadDone := true }) (setReg (aAlm + 4) 0 up)), by decide⟩

theorem wit_FirmwareIsJudged_2 : ∃ g : Nat, ∃ s : State, (running s) ∧ (loading s = true) ∧ (s.aon.pwr.goAt = some g) ∧ (g + 8000000 < now s) ∧ (almAct s 3 = 0) :=
  ⟨5, (onPwr (fun p => { p with fwOk := false, ready := false, goAt := some 5 }) (setReg (aAlm + 4) 0 up)), by decide⟩

theorem wit_FirmwareIsJudged_3 : ∃ s : State, (running s) ∧ (s.aon.pwr.fwOk = true) ∧ (s.aon.pwr.hedgerDown = false) ∧ (almAct s 3 = 0) :=
  ⟨(setReg (aAlm + 4) 0 up), by decide⟩

theorem wit_ClockIsGranted_1 : ∃ s : State, (s.scan = false) ∧ (s.aon.pwr.aonRstN = true) ∧ (s.aon.pwr.clkReq = true) ∧ (s.aon.pwr.clkAck = false) ∧ (s.aon.pwr.rstN = true) ∧ (s.aon.pwr.wake = none) :=
  ⟨(onPwr (fun p => { p with clkAck := false }) up), by decide⟩

theorem wit_ClockIsGranted_2 : ∃ s : State, (s.scan = false) ∧ (s.aon.pwr.aonRstN = true) ∧ (s.aon.pwr.clkReq = true) ∧ (s.aon.pwr.clkAck = false) ∧ (s.aon.pwr.rstN = false) :=
  ⟨(onPwr (fun p => { p with clkAck := false, rstN := false }) up), by decide⟩

theorem wit_ClockIsGranted_3 : ∃ src : Nat, ∃ g : Nat, ∃ s : State, (s.scan = false) ∧ (s.aon.pwr.aonRstN = true) ∧ (s.aon.pwr.clkReq = true) ∧ (s.aon.pwr.clkAck = false) ∧ (s.aon.pwr.rstN = true) ∧ (s.aon.pwr.wake = some (src, g)) :=
  ⟨2, (2 ^ 28 - 100), (onPwr (fun p => { p with clkAck := false, wake := some (2, 2 ^ 28 - 100) }) up), by decide⟩

theorem wit_CalibrationAndLock_1 : ∃ s : State, (running s) ∧ (s.aon.tb.full = true) ∧ (s.aon.pwr.sramDone = true) ∧ (s.aon.pwr.stage = .awake ∨ s.aon.pwr.stage = .draining) ∧ (s.obs.hang.seq = none) ∧ (wantRatio s = s.aon.pwr.ratio) :=
  ⟨(onTb (fun p => { p with calDone := false, full := true }) up), by decide⟩

theorem wit_CalibrationAndLock_2 : ∃ n : Nat, ∃ s : State, (running s) ∧ (s.aon.tb.full = false) ∧ (s.aon.tb.lockStart + 32768 ≤ s.aon.tb.rootGt) ∧ let want := 1024 * (if s.aon.pwr.ratio = 2 then 32 else if s.aon.pwr.ratio = 1 then 16 else 8)
    (n ≤ want + 1) ∧ (want ≤ n + 1) :=
  ⟨32769, up, by decide, by decide, by decide, by decide, by decide⟩

theorem wit_CalibrationAndLock_3 : ∃ n : Nat, ∃ s : State, (running s) ∧ (s.aon.tb.full = false) ∧ (s.aon.tb.lockStart + 32768 ≤ s.aon.tb.rootGt) ∧ let want := 1024 * (if s.aon.pwr.ratio = 2 then 32 else if s.aon.pwr.ratio = 1 then 16 else 8)
    ((want + 1 < n ∨ n + 1 < want)) :=
  ⟨32770, up, by decide, by decide, by decide, by decide⟩

theorem wit_SleepAndRelease_1 : ∃ s : State, (running s) ∧ (s.aon.pwr.ready = true) ∧ (s.aon.pwr.waking = false) ∧ (s.aon.pwr.stage = .awake) ∧ (s.aon.pwr.switching = false) ∧ (anyHold s = false) ∧ (s.aon.pwr.idleSince + 2 ^ fld (reg s aPwrCtl) 0 5 ≤ s.aon.tb.rootGt) :=
  ⟨up, by decide⟩

theorem wit_SleepAndRelease_2 : ∃ s : State, (running s) ∧ (s.aon.pwr.stage = .draining) ∧ (s.aon.pwr.switching = false) ∧ (anyHold s = false) ∧ (buffersEmpty s = true) ∧ (boundsBefore s (now s) = false) :=
  ⟨(onPwr (fun p => { p with stage := .draining }) up), by decide⟩

theorem wit_SleepAndRelease_3 : ∃ s : State, (running s) ∧ (s.aon.pwr.stage = .draining) ∧ (s.aon.pwr.switching = false) ∧ (anyHold s = false) ∧ (buffersEmpty s = true) ∧ (boundsBefore s (now s) = true) :=
  ⟨(onEpoch 0 (fun p => { p with entries := [⟨⟨1, 25600, 0⟩, [2 ^ 28 - 5], none, none, none⟩] }) (onPwr (fun p => { p with stage := .draining }) up)), by decide⟩

theorem wit_SleepAndRelease_4 : ∃ s : State, (s.scan = false) ∧ (s.aon.pwr.aonRstN = true) ∧ (s.aon.pwr.clkAck = true) ∧ (s.aon.pwr.clkReq = false) :=
  ⟨(onPwr (fun p => { p with clkReq := false, stage := .dropped }) up), by decide⟩

theorem wit_SleepAndRelease_5 : ∃ s : State, (s.pending = []) ∧ (s.scan = false) ∧ (s.aon.pwr.aonRstN = true) ∧ (s.aon.pwr.clkAck = false) ∧ (s.aon.pwr.clkReq = false) :=
  ⟨(onPwr (fun p => { p with clkReq := false, clkAck := false, switching := true, relWait := true }) up), by decide⟩

theorem wit_SleepAndRelease_6 : ∃ s : State, (s.scan = false) ∧ (s.aon.pwr.aonRstN = true) ∧ (s.aon.pwr.rstN = true) ∧ (s.aon.pwr.clkAck = true) ∧ (s.aon.pwr.clkReq = true) :=
  ⟨up, by decide⟩

theorem wit_HeartbeatsAndMisses_1 : ∃ c : Nat, ∃ copy : Nat, ∃ s : State, (running s) ∧ (c < s.build.nColl) ∧ (serving s c = true) ∧ (s.obs.hed.hbStop.contains (collOf s c).phys = false) ∧ (copy ≤ now s + 1) ∧ (now s ≤ copy + 1) :=
  ⟨3, (2 ^ 28 + 1), (onColl 3 (fun p => { p with cal := true, th := 2 ^ 28 - 16384 }) up), by decide⟩

theorem wit_HeartbeatsAndMisses_2 : ∃ c : Nat, ∃ copy : Nat, ∃ s : State, (running s) ∧ (c < s.build.nColl) ∧ (serving s c = true) ∧ (s.obs.hed.hbStop.contains (collOf s c).phys = false) ∧ ((now s + 1 < copy ∨ copy + 1 < now s)) :=
  ⟨3, (2 ^ 28 + 2), (onColl 3 (fun p => { p with cal := true, th := 2 ^ 28 - 16384 }) up), by decide⟩

theorem wit_HeartbeatsAndMisses_3 : ∃ c : Nat, ∃ s : State, (running s) ∧ (c < s.build.nColl) ∧ (serving s c = true) ∧ ((collOf s c).th + 16384 * ((collOf s c).misses + 2) ≤ now s) ∧ ((collOf s c).misses < 2) :=
  ⟨3, (onColl 3 (fun p => { p with cal := true, th := 2 ^ 28 - 49152, misses := 1 }) up), by decide⟩

theorem wit_HeartbeatsAndMisses_4 : ∃ c : Nat, ∃ s : State, (running s) ∧ (c < s.build.nColl) ∧ (serving s c = true) ∧ ((collOf s c).th + 16384 * ((collOf s c).misses + 2) ≤ now s) ∧ (2 ≤ (collOf s c).misses) :=
  ⟨3, (onColl 3 (fun p => { p with cal := true, th := 2 ^ 28 - 65536, misses := 2 }) up), by decide⟩

theorem wit_TakeoversAndFencing_1 : ∃ c : Nat, ∃ j : Nat, ∃ k : Takeover, ∃ s : State, (running s) ∧ (c < s.build.nColl) ∧ ((collOf s c).taking = some k) ∧ (k.spare = some j) ∧ (mayResume s c k = true) :=
  ⟨3, 16, ⟨2 ^ 28 - 40000, 2 ^ 28 - 50000, some 16, true, true⟩, (onSect 0 (fun p => { p with idle := [17], checking := [16], out := [3] }) (onColl 3 (fun p => { p with taking := some ⟨2 ^ 28 - 40000, 2 ^ 28 - 50000, some 16, true, true⟩ }) up)), by decide⟩

theorem wit_TakeoversAndFencing_2 : ∃ phys : Nat, ∃ c : Nat, ∃ td : Nat, ∃ tc : Nat, ∃ s : State, (running s) ∧ (phys / 32 < s.build.sections) ∧ (takerOf s phys = some c) ∧ ((collOf s c).taking = some ⟨td, tc, some phys, true, false⟩) :=
  ⟨16, 3, (2 ^ 28 - 40000), (2 ^ 28 - 50000), (onSect 0 (fun p => { p with idle := [17], checking := [16], out := [3] }) (onColl 3 (fun p => { p with taking := some ⟨2 ^ 28 - 40000, 2 ^ 28 - 50000, some 16, true, false⟩ }) up)), by decide⟩

theorem wit_TakeoversAndFencing_3 : ∃ phys : Nat, ∃ c : Nat, ∃ td : Nat, ∃ tc : Nat, ∃ s : State, (running s) ∧ (phys / 32 < s.build.sections) ∧ (takerOf s phys = some c) ∧ ((collOf s c).taking = some ⟨td, tc, some phys, true, false⟩) :=
  ⟨16, 3, (2 ^ 28 - 40000), (2 ^ 28 - 50000), (onSect 0 (fun p => { p with idle := [17], checking := [16], out := [3] }) (onColl 3 (fun p => { p with taking := some ⟨2 ^ 28 - 40000, 2 ^ 28 - 50000, some 16, true, false⟩ }) up)), by decide⟩

theorem wit_TakeoversAndFencing_4 : ∃ phys : Nat, ∃ s : State, (running s) ∧ (phys / 32 < s.build.sections) ∧ ((sectOf s (phys / 32)).out.contains (phys % 32) = true) ∧ ((sectOf s (phys / 32)).oos.contains (phys % 32) = false) :=
  ⟨3, (onSect 0 (fun p => { p with out := [3] }) up), by decide⟩

theorem wit_TakeoversAndFencing_5 : ∃ phys : Nat, ∃ s : State, (running s) ∧ (phys / 32 < s.build.sections) ∧ (s.aon.pwr.fwOk = true) ∧ (s.aon.pwr.hedgerDown = false) ∧ (takerOf s phys = none) ∧ (s.aon.pwr.ready = true) ∧ ((sectOf s (phys / 32)).fenced.contains (phys % 32) = true) ∧ ((∀ k, k < 16 → (collOf s (16 * (phys / 32) + k)).lost = none)) :=
  ⟨3, (onSect 0 (fun p => { p with out := [3], fenced := [3] }) up), by decide⟩

theorem wit_TakeoversAndFencing_6 : ∃ phys : Nat, ∃ s : State, (running s) ∧ (phys / 32 < s.build.sections) ∧ (s.aon.pwr.fwOk = true) ∧ (s.aon.pwr.hedgerDown = false) ∧ (takerOf s phys = none) ∧ (s.aon.pwr.ready = true) ∧ ((sectOf s (phys / 32)).fenced.contains (phys % 32) = true) :=
  ⟨3, (onSect 0 (fun p => { p with out := [3], fenced := [3] }) up), by decide⟩

theorem wit_TakeoversAndFencing_7 : ∃ phys : Nat, ∃ s : State, (running s) ∧ (phys / 32 < s.build.sections) ∧ (s.aon.pwr.fwOk = true) ∧ (s.aon.pwr.hedgerDown = false) ∧ (takerOf s phys = none) ∧ (s.aon.pwr.ready = false) ∧ ((sectOf s (phys / 32)).idle.contains (phys % 32) = true) :=
  ⟨17, (onPwr (fun p => { p with ready := false }) up), by decide⟩

theorem wit_ProbeEvents_1 : ∃ p : Nat, ∃ w : U64, ∃ s : State, (running s) ∧ (p < s.build.units) ∧ (serving s (p / 16) = true) ∧ ((curUnit s p).isSome = true) ∧ ((portOf s p).run = none) ∧ ∃ n, ((portOf s p).mirror = n + 1) ∧ (evClass w ≠ 9) :=
  ⟨5, 0x5000000000010002, (onPort 5 (fun p => { p with mirror := 4 }) (onColl 0 (fun p => { p with cal := true, th := 2 ^ 28 - 16384 }) up)), by decide, by decide, by decide, by decide, by decide, 3, by decide⟩

theorem wit_ProbeEvents_2 : ∃ p : Nat, ∃ s : State, (running s) ∧ (p < s.build.units) ∧ (serving s (p / 16) = true) ∧ ((curUnit s p).isSome = true) ∧ ((portOf s p).run = none) ∧ ((portOf s p).mirror = 0) ∧ (unitAt s p (portStamp s p) = some p) :=
  ⟨5, (onPort 5 (fun p => { p with mirror := 0 }) (onColl 0 (fun p => { p with cal := true, th := 2 ^ 28 - 16384 }) up)), by decide⟩

theorem wit_ProbeEvents_3 : ∃ c : Nat, ∃ e : BufEv, ∃ s : State, (running s) ∧ (c < s.build.nColl) ∧ ((collOf s c).cal = true) ∧ (s.aon.pwr.stage = .awake) ∧ ((collOf s c).buf = [e]) ∧ (e.clk = none) ∧ (e.port / 16 = c) ∧ (unitAt s e.port e.stamp = some e.port) ∧ (evClass e.word = 5) ∧ ((sectOf s (c / 16)).remaps = []) ∧ (ctxIds s = []) :=
  ⟨0, ⟨5, 2 ^ 28 - 10, 0x5000000000010002, none, 2 ^ 28 - 5⟩, (onColl 0 (fun p => { p with buf := [⟨5, 2 ^ 28 - 10, 0x5000000000010002, none, 2 ^ 28 - 5⟩] }) (onPort 5 (fun p => { p with mirror := 3 }) (onColl 0 (fun p => { p with cal := true, th := 2 ^ 28 - 16384 }) up))), by decide⟩

theorem wit_ClockStops_1 : ∃ p : Nat, ∃ s : State, (running s) ∧ (p < s.build.units) ∧ (s.aon.pwr.stage = .awake) ∧ (serving s (p / 16) = true) ∧ ((portOf s p).clk = true) :=
  ⟨5, (onPort 5 (fun p => { p with clk := true }) (onColl 0 (fun p => { p with cal := true, th := 2 ^ 28 - 16384 }) up)), by decide⟩

theorem wit_ClockStops_2 : ∃ p : Nat, ∃ s : State, (running s) ∧ (p < s.build.units) ∧ (s.aon.pwr.stage = .awake) ∧ (serving s (p / 16) = true) ∧ ((portOf s p).clk = false) :=
  ⟨5, (onPort 5 (fun p => { p with clk := false }) (onColl 0 (fun p => { p with cal := true, th := 2 ^ 28 - 16384 }) up)), by decide⟩

theorem wit_ClockStops_3 : ∃ c : Nat, ∃ u : Nat, ∃ e : BufEv, ∃ s : State, (running s) ∧ (c < s.build.nColl) ∧ ((collOf s c).buf = [e]) ∧ (unitAt s e.port e.stamp = some u) ∧ ((sectOf s (c / 16)).remaps = []) ∧ (e.clk = some false) ∧ ((unitOf s u).stop = none) ∧ ((unitOf s u).wdog = none) :=
  ⟨0, 5, ⟨5, 2 ^ 28 - 10, 0x5000000000010002, some false, 2 ^ 28 - 5⟩, (onColl 0 (fun p => { p with buf := [⟨5, 2 ^ 28 - 10, 0x5000000000010002, some false, 2 ^ 28 - 5⟩] }) (onPort 5 (fun p => { p with mirror := 3 }) (onColl 0 (fun p => { p with cal := true, th := 2 ^ 28 - 16384 }) up))), by decide⟩

theorem wit_ClockStops_4 : ∃ c : Nat, ∃ u : Nat, ∃ e : BufEv, ∃ s : State, (running s) ∧ (c < s.build.nColl) ∧ ((collOf s c).buf = [e]) ∧ (unitAt s e.port e.stamp = some u) ∧ ((sectOf s (c / 16)).remaps = []) ∧ (e.clk = some true) ∧ ((unitOf s u).stop.isSome = true) :=
  ⟨0, 5, ⟨5, 2 ^ 28 - 10, 0x5000000000010002, some true, 2 ^ 28 - 5⟩, (onUnit 5 (fun p => { p with stop := some (2 ^ 28 - 100, 2 ^ 28 - 100) }) (onColl 0 (fun p => { p with buf := [⟨5, 2 ^ 28 - 10, 0x5000000000010002, some true, 2 ^ 28 - 5⟩] }) (onPort 5 (fun p => { p with mirror := 3 }) (onColl 0 (fun p => { p with cal := true, th := 2 ^ 28 - 16384 }) up)))), by decide⟩

theorem wit_RegisterReads_1 : ∃ s : State, (aonOpen s) :=
  ⟨up, by decide⟩

theorem wit_RegisterReads_2 : ∃ s : State, (obsOpen s) ∧ (s.aon.tb.full = false) :=
  ⟨up, by decide⟩

theorem wit_RegisterReads_3 : ∃ a : Nat, ∃ s : State, (obsOpen s) ∧ (winAddr a = a) ∧ (pairValue s a = none) ∧ (a ≠ 0x7010) :=
  ⟨0x7014, up, by decide⟩

theorem wit_RegisterReads_4 : ∃ a : Nat, ∃ x : Nat, ∃ s : State, (obsOpen s) ∧ (winAddr a = a) ∧ (pairValue s a = some x) ∧ (s.aon.tb.full = false) ∧ (dbgDisabled s = false) ∧ ((regSpec s.build a).rc = 0) :=
  ⟨0x9008, 3, (onLens (fun p => { p with unb0 := 3 }) up), by decide⟩

theorem wit_ObsRegistersAreReached_1 : ∃ a : Nat, ∃ s : State, (obsOpen s) ∧ (winAddr a = a) ∧ (regAon a = false) ∧ (pairValue s a = none) ∧ ((regSpec s.build a).rc = 0) :=
  ⟨0x7004, up, by decide⟩

theorem wit_ObsRegistersAreReached_2 : ∃ a : Nat, ∃ s : State, (aonOpen s) ∧ (winAddr a = a) ∧ (regAon a = false) ∧ (s.aon.pwr.rstN = true) ∧ (s.aon.pwr.clkAck = false) ∧ (s.aon.pwr.clkReq = false) ∧ (s.aon.pwr.wake = none) :=
  ⟨0x7004, (onPwr (fun p => { p with clkAck := false, clkReq := false }) up), by decide⟩

theorem wit_ObsRegistersAreReached_3 : ∃ a : Nat, ∃ s : State, (aonOpen s) ∧ (winAddr a = a) ∧ (regAon a = false) ∧ (s.aon.pwr.rstN = false) :=
  ⟨0x7004, (onPwr (fun p => { p with rstN := false }) up), by decide⟩

theorem wit_ObsRegistersAreReached_4 : ∃ a : Nat, ∃ rest : List RapAcc, ∃ s : State, (running s) ∧ (s.aon.rap.held = ⟨false, a, 0, false⟩ :: rest) ∧ (mustHold s ⟨false, a, 0, false⟩ = false) ∧ (pairValue s a = none) ∧ ((regSpec s.build a).rc = 0) ∧ (a ≠ 0x7010) :=
  ⟨0x7004, [], (onRap (fun p => { p with held := [⟨false, 0x7004, 0, false⟩] }) up), by decide⟩

theorem wit_PlainRegisterWrites_1 : ∃ a : Nat, ∃ v : U32, ∃ s : State, (obsOpen s) ∧ (winAddr a = a) ∧ ((blockOf a = 6 ∨ blockOf a = 9 ∨ blockOf a = 0xA ∨ blockOf a = 0xD)) ∧ (filterVal s a v = v) :=
  ⟨0xD000, 0x10000005, up, by decide⟩

theorem wit_DoorbellsAndWake_1 : ∃ r : Nat, ∃ v : U32, ∃ s : State, (obsOpen s) ∧ (r < 64) ∧ (fld v 0 16 < ringN s r) :=
  ⟨2, 5, (setReg (aRing 2) 0x0606 up), by decide⟩

theorem wit_DoorbellsAndWake_2 : ∃ r : Nat, ∃ v : U32, ∃ s : State, (obsOpen s) ∧ (r < 64) ∧ (ringN s r ≤ fld v 0 16) :=
  ⟨2, 64, (setReg (aRing 2) 0x0606 up), by decide⟩

theorem wit_DoorbellsAndWake_3 : ∃ r : Nat, ∃ v : U32, ∃ s : State, (obsOpen s) ∧ (r < 64) ∧ let m := ringM s r
    let h := (dbOf s r).head
    (fld v 0 16 < m) ∧ ((fld v 0 16 + m - h) % m ≤ ((ringOf s r).cqTail + m - h) % m) :=
  ⟨2, 5, (onRing 2 (fun p => { p with cqTail := 9 }) (setReg (aRing 2) 0x0606 up)), by decide, by decide, by decide, by decide⟩

theorem wit_DoorbellsAndWake_4 : ∃ r : Nat, ∃ v : U32, ∃ s : State, (obsOpen s) ∧ (r < 64) ∧ let m := ringM s r
    let h := (dbOf s r).head
    ((m ≤ fld v 0 16 ∨ ((ringOf s r).cqTail + m - h) % m < (fld v 0 16 + m - h) % m)) :=
  ⟨2, 10, (onRing 2 (fun p => { p with cqTail := 9 }) (setReg (aRing 2) 0x0606 up)), by decide, by decide, by decide⟩

theorem wit_DoorbellsAndWake_5 : ∃ r : Nat, ∃ s : State, (aonOpen s) ∧ (r < 64) ∧ (s.aon.pwr.rstN = true) ∧ (s.aon.pwr.clkAck = false) ∧ (s.aon.pwr.clkReq = false) ∧ (s.aon.pwr.wake = none) :=
  ⟨2, (onPwr (fun p => { p with clkAck := false, clkReq := false }) up), by decide⟩

theorem wit_DoorbellsAndWake_6 : ∃ r : Nat, ∃ s : State, (aonOpen s) ∧ (r < 64) ∧ (s.aon.pwr.rstN = true) ∧ (s.aon.pwr.clkAck = false) ∧ (s.aon.pwr.clkReq = false) ∧ (s.aon.pwr.wake = none) :=
  ⟨2, (onPwr (fun p => { p with clkAck := false, clkReq := false }) up), by decide⟩

theorem wit_DoorbellsAndWake_7 : ∃ r : Nat, ∃ s : State, (running s) ∧ (s.aon.pwr.waking = true) ∧ (frontOf s r = none) :=
  ⟨2, (onPwr (fun p => { p with waking := true }) up), by decide⟩

theorem wit_RingsAndVersion_1 : ∃ r : Nat, ∃ v : U32, ∃ s : State, (obsOpen s) ∧ (r < 64) ∧ (ringAct s r = false) ∧ (obsLock s = false) ∧ (fld v 16 6 < 16) ∧ ((6 ≤ fld v 0 5 ∧ fld v 0 5 ≤ 16)) ∧ ((6 ≤ fld v 8 5 ∧ fld v 8 5 ≤ 16)) ∧ ((ringOf s r).stopped = false) :=
  ⟨2, 0x80000706, up, by decide⟩

theorem wit_RingsAndVersion_2 : ∃ r : Nat, ∃ v : U32, ∃ s : State, (obsOpen s) ∧ (r < 64) ∧ (ringAct s r = false) ∧ (obsLock s = false) ∧ (fld v 16 6 < 16) ∧ ((6 ≤ fld v 0 5 ∧ fld v 0 5 ≤ 16)) ∧ ((6 ≤ fld v 8 5 ∧ fld v 8 5 ≤ 16)) ∧ ((ringOf s r).stopped = true) :=
  ⟨2, 0x80000706, (onRing 2 (fun p => { p with stopped := true, faultSt := 1 }) up), by decide⟩

theorem wit_RingsAndVersion_3 : ∃ r : Nat, ∃ v : U32, ∃ s : State, (obsOpen s) ∧ (r < 64) ∧ (ringAct s r = false) ∧ (obsLock s = false) ∧ (fld v 16 6 < 16) ∧ ((fld v 0 5 < 6 ∨ 16 < fld v 0 5 ∨ fld v 8 5 < 6 ∨ 16 < fld v 8 5)) :=
  ⟨2, 0x80000705, up, by decide⟩

theorem wit_RingsAndVersion_4 : ∃ r : Nat, ∃ s : State, (obsOpen s) ∧ (r < 64) ∧ ((ringOf s r).en = true) :=
  ⟨2, (onRing 2 (fun p => { p with en := true }) up), by decide⟩

theorem wit_RingsAndVersion_5 : ∃ s : State, (obsOpen s) ∧ (((List.range 64).any (ringAct s)) = false) :=
  ⟨up, by decide⟩

theorem wit_RingsAndVersion_6 : ∃ s : State, (obsOpen s) ∧ (((List.range 64).any (ringAct s)) = true) :=
  ⟨(onRing 2 (fun p => { p with en := true }) up), by decide⟩

theorem wit_BoxwoodRegisters_1 : ∃ s : State, (obsOpen s) ∧ (s.aon.pwr.hedgerDown = false) :=
  ⟨up, by decide⟩

theorem wit_BoxwoodRegisters_2 : ∃ hi : Bool, ∃ v : U32, ∃ s : State, (obsOpen s) ∧ (obsLock s = false) ∧ let sum := fun (x : U32) => fld x 0 6 + fld x 8 6 + fld x 16 6 + fld x 24 6
    (sum v + sum (reg s (if hi then 0x7004 else 0x7008)) ≤ 60) :=
  ⟨false, 0x01010101, up, by decide, by decide, by decide⟩

theorem wit_BoxwoodRegisters_3 : ∃ hi : Bool, ∃ v : U32, ∃ s : State, (obsOpen s) ∧ (obsLock s = false) ∧ let sum := fun (x : U32) => fld x 0 6 + fld x 8 6 + fld x 16 6 + fld x 24 6
    (60 < sum v + sum (reg s (if hi then 0x7004 else 0x7008))) :=
  ⟨false, 0x3F3F3F3F, up, by decide, by decide, by decide⟩

theorem wit_BoxwoodRegisters_4 : ∃ v : U32, ∃ s : State, (obsOpen s) ∧ ((fld v 16 7 < fld v 0 7 ∧ fld v 0 7 ≤ 64)) :=
  ⟨0x00100030, up, by decide⟩

theorem wit_BoxwoodRegisters_5 : ∃ v : U32, ∃ s : State, (obsOpen s) ∧ ((fld v 0 7 ≤ fld v 16 7 ∨ 64 < fld v 0 7)) :=
  ⟨0x00300030, up, by decide⟩

theorem wit_BoxwoodRegisters_6 : ∃ v : U32, ∃ s : State, (obsOpen s) ∧ (s.obs.evq.consAct = false) ∧ ((fld v 0 5 = 0 ∨ (4 ≤ fld v 0 5 ∧ fld v 0 5 ≤ 16))) :=
  ⟨4, up, by decide⟩

theorem wit_BoxwoodRegisters_7 : ∃ v : U32, ∃ s : State, (obsOpen s) ∧ (0 < hrN s) ∧ ((fld v 0 16 < hrN s ∧ (fld v 0 16 + hrN s - s.obs.evq.hrHead) % hrN s ≤ (s.obs.evq.hrTail + hrN s - s.obs.evq.hrHead) % hrN s)) :=
  ⟨3, (onEvq (fun p => { p with hrTail := 5 }) (setReg 0x7038 4 up)), by decide⟩

theorem wit_BoxwoodRegisters_8 : ∃ v : U32, ∃ s : State, (obsOpen s) ∧ (0 < hrN s) ∧ ((hrN s ≤ fld v 0 16 ∨ (s.obs.evq.hrTail + hrN s - s.obs.evq.hrHead) % hrN s < (fld v 0 16 + hrN s - s.obs.evq.hrHead) % hrN s)) :=
  ⟨16, (setReg 0x7038 4 up), by decide⟩

theorem wit_SetUpAndSentinelRegisters_1 : ∃ m : Nat, ∃ k : Nat, ∃ v : U32, ∃ s : State, (obsOpen s) ∧ (m < 512) ∧ (k < 8) ∧ (8 * m + k < s.build.units) ∧ ((∀ j, j < 8 → j ≠ k → fld v (4 * j) 4 = (unitOf s (8 * m + j)).owner)) ∧ (fld v (4 * k) 4 < npart s.build) ∧ (fld v (4 * k) 4 ≠ (unitOf s (8 * m + k)).owner) ∧ (ownerRefused s (8 * m + k) (fld v (4 * k) 4) = false) :=
  ⟨3, 2, 0x00000300, up, by decide⟩

theorem wit_SetUpAndSentinelRegisters_2 : ∃ v : U32, ∃ s : State, (obsOpen s) ∧ (filterBram s.build (reg s 0xB200) v = v) :=
  ⟨5, up, by decide⟩

theorem wit_SetUpAndSentinelRegisters_3 : ∃ v : U32, ∃ s : State, (obsOpen s) ∧ (s.obs.hang.seq = none) ∧ (fld v 0 2 = s.aon.pwr.ratio) ∧ (fld v 0 2 ≠ 3) :=
  ⟨2, up, by decide⟩

theorem wit_SetUpAndSentinelRegisters_4 : ∃ v : U32, ∃ s : State, (obsOpen s) ∧ (s.obs.hang.seq = none) ∧ (fld v 0 2 ≠ s.aon.pwr.ratio) ∧ (fld v 0 2 ≠ 3) ∧ (freezes s = []) ∧ (s.aon.pwr.switching = false) :=
  ⟨1, up, by decide⟩

theorem wit_SetUpAndSentinelRegisters_5 : ∃ v : U32, ∃ s : State, (obsOpen s) ∧ (s.obs.hang.seq = none) ∧ (fld v 0 2 = 3) :=
  ⟨3, up, by decide⟩

theorem wit_SetUpAndSentinelRegisters_6 : ∃ s : State, (obsOpen s) :=
  ⟨up, by decide⟩

theorem wit_SetUpAndSentinelRegisters_7 : ∃ s : State, (aonOpen s) ∧ (s.build.sentinel = true) ∧ (s.aon.sen.lines < 16) :=
  ⟨(onSen (fun p => { p with lines := 3 }) up), by decide⟩

theorem wit_SetUpAndSentinelRegisters_8 : ∃ k : Nat, ∃ v : U32, ∃ s : State, (aonOpen s) ∧ (s.build.sentinel = true) ∧ (k < 16) ∧ (ruleEn s k = false) ∧ (bit v 31 = true) ∧ (ruleValid s k v = true) :=
  ⟨2, 0x805E2000, (setReg (aRule 2 + 8) 10 up), by decide⟩

theorem wit_SetUpAndSentinelRegisters_9 : ∃ k : Nat, ∃ v : U32, ∃ s : State, (aonOpen s) ∧ (s.build.sentinel = true) ∧ (k < 16) ∧ (ruleEn s k = false) ∧ (bit v 31 = true) ∧ (ruleValid s k v = false) :=
  ⟨2, 0x80000000, up, by decide⟩

theorem wit_DebugAccess_1 : ∃ v : U32, ∃ s : State, (obsOpen s) ∧ (dbgDisabled s = false) ∧ (bit v 1 = false) ∧ (dbgShut s = false) ∧ (fld (reg s 0xC000) 24 4 = 0) ∧ (fld (reg s 0xC000) 0 24 < s.build.attrEntries) ∧ (s.obs.dbg.inject = []) :=
  ⟨1, (setReg 0xC000 7 up), by decide⟩

theorem wit_DebugAccess_2 : ∃ v : U32, ∃ s : State, (obsOpen s) ∧ (dbgDisabled s = false) ∧ (bit v 1 = false) ∧ (dbgShut s = false) ∧ (fld (reg s 0xC000) 24 4 = 0) ∧ (s.build.attrEntries ≤ fld (reg s 0xC000) 0 24) :=
  ⟨1, (setReg 0xC000 0x00FFFFFF up), by decide⟩

theorem wit_DebugAccess_3 : ∃ v : U32, ∃ s : State, (obsOpen s) ∧ (dbgDisabled s = false) ∧ (bit v 1 = false) ∧ (dbgShut s = true) :=
  ⟨1, (onPart 2 (fun p => { p with state := 1 }) up), by decide⟩

theorem wit_DebugAccess_4 : ∃ v : U32, ∃ s : State, (obsOpen s) ∧ (dbgDisabled s = false) ∧ (bit v 0 = false) ∧ (fld (reg s 0xC018) 28 4 = 3) ∧ (dbgShut s = false) ∧ (physServes s (fld (reg s 0xC018) 0 9) = true) :=
  ⟨2, (setReg 0xC018 0x30000003 (onColl 3 (fun p => { p with cal := true, th := 2 ^ 28 - 16384 }) up)), by decide⟩

theorem wit_DebugAccess_5 : ∃ v : U32, ∃ s : State, (obsOpen s) ∧ (dbgDisabled s = false) ∧ (bit v 0 = false) ∧ (fld (reg s 0xC018) 28 4 = 3) ∧ (dbgShut s = true) :=
  ⟨2, (onPart 2 (fun p => { p with state := 1 }) (setReg 0xC018 0x30000003 up)), by decide⟩

theorem wit_DebugAccess_6 : ∃ s : State, (s.scan = false) ∧ (dbgDisabled s = true) :=
  ⟨(onPwr (fun p => { p with fuses := [(0, 1)] }) up), by decide⟩

theorem wit_DebugAccess_7 : ∃ s : State, (obsOpen s) ∧ (dbgDisabled s = true) :=
  ⟨(onPwr (fun p => { p with fuses := [(0, 1)] }) up), by decide⟩

theorem wit_DebugAccess_8 : ∃ s : State, (obsOpen s) ∧ (dbgDisabled s = true) :=
  ⟨(onPwr (fun p => { p with fuses := [(0, 1)] }) up), by decide⟩

theorem wit_JtagPort_1 : ∃ s : State, (s.scan = false) ∧ (s.aon.pwr.aonRstN = true) :=
  ⟨up, by decide⟩

theorem wit_JtagPort_2 : ∃ v : BitVec 51, ∃ s : State, (aonOpen s) ∧ (jtagOpen s = true) ∧ (bit v 50 = false) ∧ (regAon (fld v 32 18 * 4) = true) ∧ (pairValue s (fld v 32 18 * 4) = none) ∧ ((regSpec s.build (fld v 32 18 * 4)).rc = 0) :=
  ⟨(BitVec.ofNat 51 (0x820 * 2 ^ 32)), up, by decide⟩

theorem wit_JtagPort_3 : ∃ s : State, (s.scan = false) ∧ (jtagOpen s = true) :=
  ⟨up, by decide⟩

theorem wit_JtagPort_4 : ∃ v : U32, ∃ s : State, (s.scan = false) ∧ (jtagOpen s = true) ∧ (bit v 31 = true) ∧ (s.aon.rap.mbRun = none) ∧ (s.aon.pwr.rstN = true) ∧ (s.aon.pwr.sramDone = true) ∧ (s.aon.pwr.goAt = none) ∧ (bit (reg s 0x201C) 0 = false) :=
  ⟨0x80000003, up, by decide⟩

theorem wit_JtagPort_5 : ∃ v : U32, ∃ s : State, (s.scan = false) ∧ (jtagOpen s = true) ∧ (bit v 31 = true) ∧ (s.aon.rap.mbRun = none) ∧ (s.aon.pwr.rstN = true) ∧ (s.aon.pwr.sramDone = true) ∧ (s.aon.pwr.goAt.isSome = true ∨ bit (reg s 0x201C) 0 = true) :=
  ⟨0x80000003, (onPwr (fun p => { p with goAt := some 5 }) up), by decide⟩

theorem wit_JtagPort_6 : ∃ s : State, (running s) ∧ (s.aon.rap.mbRun = some 0) :=
  ⟨(onRap (fun p => { p with mbRun := some 0 }) up), by decide⟩

theorem wit_ScanTestIsLeftByResetAlone_1 : ∃ c : Instr, ∃ s : State, (s.scan = true) ∧ (c ≠ .aonRstNFall) :=
  ⟨.idcode, { up with scan := true }, by decide⟩

theorem wit_BoxwoodAcceptsAndReads_1 : ∃ h : HoldReg, ∃ s : State, (running s) ∧ (nextHold s = some h) ∧ (occ s < 64) ∧ (s.obs.lens.rowDue = []) :=
  ⟨⟨0, 3, (mkItem 0x05 0 3 7 100)⟩, (onEvq (fun p => { p with holds := [⟨0, 3, (mkItem 0x05 0 3 7 100)⟩] }) up), by decide⟩

theorem wit_BoxwoodAcceptsAndReads_2 : ∃ h : HoldReg, ∃ g : Nat, ∃ i : Item, ∃ rest : List (Nat × Item), ∃ s : State, (running s) ∧ (nextHold s = some h) ∧ (occ s < 64) ∧ (s.obs.lens.rowDue = (g, i) :: rest) ∧ (s.obs.evq.holds = [h]) ∧ (h.cls = 3) ∧ (h.src = rowSrc) ∧ (i.pclass = 3) :=
  ⟨⟨3, rowSrc, (mkItem 0x05 0 3 7 100)⟩, 5, (mkItem 0x30 0 5 7 100), [], (onLens (fun p => { p with rowDue := [(5, (mkItem 0x30 0 5 7 100))] }) (onEvq (fun p => { p with holds := [⟨3, rowSrc, (mkItem 0x05 0 3 7 100)⟩] }) up)), by decide⟩

theorem wit_BoxwoodAcceptsAndReads_3 : ∃ s : State, ∃ n : Nat, (running s) ∧ (s.obs.evq.consAct = true) ∧ ∃ c : Instr, (c ∈ [Instr.boxwoodRead, .boxwoodMark, .boxwoodRewind, .boxwoodRelease n, .boxwoodReadStallEnd]) :=
  ⟨(onEvq (fun p => { p with consAct := true }) up), 0, by decide, by decide, .boxwoodRead, by decide⟩

theorem wit_BoxwoodAcceptsAndReads_4 : ∃ q : QItem, ∃ s : State, (running s) ∧ (s.obs.evq.consAct = false) ∧ (s.obs.evq.changing = false) ∧ (presented s = some q) :=
  ⟨⟨(mkItem 0x05 0 3 7 100), 0, none⟩, (onEvq (fun p => { p with q := [⟨(mkItem 0x05 0 3 7 100), 0, none⟩] }) up), by decide⟩

theorem wit_BoxwoodAcceptsAndReads_5 : ∃ s : State, (running s) ∧ (s.obs.evq.consAct = false) ∧ (s.obs.evq.changing = false) ∧ (avail s = 0) ∧ (occ s < 64) :=
  ⟨up, by decide⟩

theorem wit_BoxwoodAcceptsAndReads_6 : ∃ s : State, (running s) ∧ (s.obs.evq.consAct = false) ∧ (s.obs.evq.changing = false) ∧ (avail s = 0) ∧ (64 ≤ occ s) :=
  ⟨(onEvq (fun p => { p with q := List.replicate 64 ⟨(mkItem 0x05 0 3 7 100), 0, some 0⟩ }) up), by decide⟩

theorem wit_BoxwoodAcceptsAndReads_7 : ∃ q : QItem, ∃ s : State, (running s) ∧ (s.obs.evq.consAct = false) ∧ (s.obs.evq.stalled = true) ∧ (presented s = some q) :=
  ⟨⟨(mkItem 0x05 0 3 7 100), 0, none⟩, (onEvq (fun p => { p with stalled := true, q := [⟨(mkItem 0x05 0 3 7 100), 0, none⟩] }) up), by decide⟩

theorem wit_ReadSequenceNumbers_1 : ∃ q : QItem, ∃ s : State, (running s) ∧ (s.obs.evq.consAct = false) ∧ (s.obs.evq.changing = false) ∧ (presented s = some q) ∧ (s.obs.evq.rseq < 2 ^ 16) :=
  ⟨⟨(mkItem 0x05 0 3 7 100), 0, none⟩, (onEvq (fun p => { p with q := [⟨(mkItem 0x05 0 3 7 100), 0, none⟩], rseq := 65535 }) up), by decide⟩

theorem wit_ReadSequenceNumbers_2 : ∃ s : State, (running s) ∧ (s.obs.evq.consAct = false) :=
  ⟨(onEvq (fun p => { p with rseq := 7 }) up), by decide⟩

theorem wit_RewindUnreads_1 : ∃ s : State, (running s) ∧ (s.obs.evq.consAct = false) ∧ (s.obs.evq.rseq < 2 ^ 16) ∧ (s.obs.evq.mark < 2 ^ 16) :=
  ⟨(onEvq (fun p => { p with rseq := 1, q := [⟨(mkItem 0x05 0 3 7 100), 0, some 0⟩] }) up), by decide⟩

theorem wit_ReleaseFrees_1 : ∃ s : State, (running s) ∧ (s.obs.evq.consAct = false) ∧ ∃ c : Instr, (c ∈ [Instr.boxwoodRead, .boxwoodMark, .boxwoodRewind]) :=
  ⟨up, by decide, by decide, .boxwoodMark, by decide⟩

theorem wit_ReleaseFrees_2 : ∃ s : State, (running s) ∧ (s.obs.evq.consAct = false) ∧ (oldestRead s = none) :=
  ⟨up, by decide⟩

theorem wit_ReleaseFrees_3 : ∃ n : Nat, ∃ o : Nat, ∃ s : State, (running s) ∧ (s.obs.evq.consAct = false) ∧ (oldestRead s = some o) ∧ (seqDist o n < seqDist o s.obs.evq.rseq) :=
  ⟨0, 0, (onEvq (fun p => { p with rseq := 2, q := [⟨(mkItem 0x05 0 3 7 100), 0, some 0⟩, ⟨(mkItem 0x05 0 3 7 100), 1, some 1⟩] }) up), by decide⟩

theorem wit_ReleaseFrees_4 : ∃ n : Nat, ∃ o : Nat, ∃ s : State, (running s) ∧ (s.obs.evq.consAct = false) ∧ (oldestRead s = some o) ∧ (seqDist o s.obs.evq.rseq ≤ seqDist o n) :=
  ⟨2, 0, (onEvq (fun p => { p with rseq := 2, q := [⟨(mkItem 0x05 0 3 7 100), 0, some 0⟩, ⟨(mkItem 0x05 0 3 7 100), 1, some 1⟩] }) up), by decide⟩

theorem wit_ConsumerAndDrain_1 : ∃ s : State, (running s) ∧ (s.obs.evq.changing = true) ∧ ((∀ i ∈ s.obs.evq.q, i.read = none)) :=
  ⟨(onEvq (fun p => { p with changing := true }) (setReg aEvq 1 up)), by decide, by decide, by simp +decide⟩

theorem wit_ConsumerAndDrain_2 : ∃ s : State, (running s) ∧ (s.obs.evq.consAct = true) ∧ (s.obs.evq.changing = false) ∧ (s.obs.evq.batch = false) ∧ (s.obs.evq.redo = false) ∧ (hangHolds s = false) ∧ (0 < hrN s) ∧ (0 < avail s) ∧ (0 < (s.obs.evq.hrHead + hrN s - s.obs.evq.hrTail - 1) % hrN s) :=
  ⟨(onEvq (fun p => { p with consAct := true, q := [⟨(mkItem 0x05 0 3 7 100), 0, none⟩] }) (setReg 0x7038 4 up)), by decide⟩

theorem wit_DeadlineInstances_1 : ∃ m : Marker, ∃ w : Nat, ∃ s : State, (s.scan = false) ∧ (s.aon.pwr.aonRstN = true) ∧ (s.aon.sen.queue = [m]) ∧ (senArmed s (fun x => x.part == m.owner) = [w]) ∧ (senMatch (swatchOf s w).startKind (swatchOf s w).sLayer (swatchOf s w).sOper m = true) ∧ (senMatch (swatchOf s w).endKind (swatchOf s w).eLayer (swatchOf s w).eOper m = false) ∧ ((swatchOf s w).insts.length < 4) :=
  ⟨⟨1, 5, 6, 0, 2 ^ 28 - 20⟩, 3, (onSen (fun p => { p with queue := [⟨1, 5, 6, 0, 2 ^ 28 - 20⟩] }) (onSWatch 3 (fun p => { p with armed := true, part := 0, startKind := 1, endKind := 2, sLayer := 5, sOper := 6, eLayer := 5, eOper := 6, offset := 1000 }) up)), by decide⟩

theorem wit_DeadlineInstances_2 : ∃ w : Nat, ∃ i : SInst, ∃ s : State, (s.scan = false) ∧ (s.aon.pwr.aonRstN = true) ∧ ((swatchOf s w).armed = true) ∧ ((swatchOf s w).insts = [i]) ∧ (i.missed = false) ∧ (i.d ≤ s.aon.tb.rootGt) ∧ (s.aon.sen.acked = 0) ∧ (s.aon.pwr.clkAck = true) ∧ (s.aon.pwr.stage = .awake) :=
  ⟨3, ⟨2 ^ 28 - 2000, 2 ^ 28 - 100, false⟩, (onSWatch 3 (fun p => { p with armed := true, part := 0, startKind := 1, endKind := 2, sLayer := 5, sOper := 6, eLayer := 5, eOper := 6, offset := 1000, insts := [⟨2 ^ 28 - 2000, 2 ^ 28 - 100, false⟩] }) up), by decide⟩

theorem wit_DeadlineInstances_3 : ∃ l : Nat, ∃ g : Nat, ∃ p : Nat, ∃ fr : Bool, ∃ s : State, (running s) ∧ (s.pending = []) ∧ (32 ≤ s.aon.tb.sub + incOf s.aon.pwr.ratio) ∧ (s.aon.sen.due = [⟨l, fr, g, p⟩]) ∧ (s.obs.hang.seq = none) ∧ (s.obs.cut.hw = none) ∧ (s.obs.fab.disc = none) :=
  ⟨3, (2 ^ 28 - 100), 0, false, (onSen (fun p => { p with due := [⟨3, false, 2 ^ 28 - 100, 0⟩] }) (onTb (fun p => { p with sub := 31 }) up)), by decide⟩

theorem wit_PulsesRulesAndRequests_1 : ∃ line : Nat, ∃ s : State, (s.scan = false) ∧ (s.aon.pwr.aonRstN = true) ∧ (line < 4) ∧ (s.aon.sen.lines < 16) ∧ (s.aon.sen.lines.testBit line = true) ∧ (latched s line = false) ∧ (smGet natD s.aon.sen.pulseEnd line ≤ s.aon.tb.rootGt) :=
  ⟨1, (onSen (fun p => { p with lines := 3, pulseEnd := [(1, 2 ^ 28 - 5)] }) up), by decide⟩

theorem wit_PulsesRulesAndRequests_2 : ∃ k : Nat, ∃ s : State, (running s) ∧ (ruleEn s k = true) ∧ ((gruleOf s k).wEnd ≤ now s) ∧ ((gruleOf s k).asleep.contains (gruleOf s k).wEnd = true) :=
  ⟨2, (onGRule 2 (fun p => { p with wEnd := 2 ^ 28 - 5, asleep := [2 ^ 28 - 5] }) (setReg (aRule 2) 0x80004000 up)), by decide⟩

theorem wit_PulsesRulesAndRequests_3 : ∃ k : Nat, ∃ s : State, (running s) ∧ (ruleEn s k = true) ∧ ((gruleOf s k).wEnd ≤ now s) ∧ ((gruleOf s k).asleep.contains (gruleOf s k).wEnd = false) ∧ ((gruleOf s k).run = 0) ∧ (1 < fld (reg s (aRule k)) 13 4) ∧ (bit (reg s (aRule k)) 30 = false) :=
  ⟨2, (onGRule 2 (fun p => { p with wEnd := 2 ^ 28 - 5 }) (setReg (aRule 2) 0x80004000 up)), by decide⟩

theorem wit_PulsesRulesAndRequests_4 : ∃ s : State, (s.scan = false) ∧ (s.aon.pwr.aonRstN = true) ∧ (s.aon.pwr.pwrReq ≠ s.aon.pwr.pwrAck) :=
  ⟨(onPwr (fun p => { p with pwrReq := true }) up), by decide⟩

theorem wit_PulsesRulesAndRequests_5 : ∃ s : State, (s.pending = []) ∧ (s.scan = false) ∧ (s.aon.pwr.aonRstN = true) ∧ ((obsRuns s = false ∨ 32 ≤ s.aon.tb.sub + incOf s.aon.pwr.ratio)) ∧ (s.obs.fab.disc = none) :=
  ⟨(onPwr (fun p => { p with pwrDue := true }) (onTb (fun p => { p with sub := 31 }) up)), by decide⟩

theorem wit_Detections_1 : ∃ lines : Nat, ∃ s : State, (running s) ∧ (s.build.crypto = true) ∧ ((lines % 16 ≠ 0)) ∧ (s.aon.alm.tamperHeld = 0) ∧ (almAct s 0 = 2) ∧ (s.aon.pwr.stage = .awake) :=
  ⟨5, up, by decide⟩

theorem wit_Detections_2 : ∃ lines : Nat, ∃ s : State, (running s) ∧ (s.aon.alm.tamperHeld = lines) ∧ (lines < 16) :=
  ⟨5, (onAlm (fun p => { p with tamperHeld := 5 }) up), by decide⟩

theorem wit_Detections_3 : ∃ s : State, (running s) ∧ (s.build.crypto = true) ∧ (s.aon.alm.glitchHeld = false) ∧ (almAct s 1 = 2) ∧ (s.aon.pwr.stage = .awake) :=
  ⟨up, by decide⟩

theorem wit_Detections_4 : ∃ s : State, (running s) ∧ (s.aon.alm.glitchHeld = true) :=
  ⟨(onAlm (fun p => { p with glitchHeld := true }) up), by decide⟩

theorem wit_Detections_5 : ∃ line : Nat, ∃ s : State, (s.scan = false) ∧ (s.aon.pwr.aonRstN = true) ∧ (line < 4) ∧ (s.aon.alm.tamperHeld < 16) :=
  ⟨2, (onAlm (fun p => { p with tamperHeld := 5 }) up), by decide⟩

theorem wit_Detections_6 : ∃ s : State, (s.scan = false) ∧ (s.aon.pwr.aonRstN = true) :=
  ⟨(onAlm (fun p => { p with glitchHeld := true }) up), by decide⟩

theorem wit_Detections_7 : ∃ s : State, (s.scan = false) ∧ (s.aon.alm.zeroizing = true) :=
  ⟨(onAlm (fun p => { p with zeroizing := true }) up), by decide⟩

theorem wit_SramErrors_1 : ∃ a : Nat, ∃ idx : Nat, ∃ s : State, (running s) ∧ (wordExists s.build a idx = true) :=
  ⟨3, 5, up, by decide⟩

theorem wit_SramErrors_2 : ∃ idx : Nat, ∃ s : State, (running s) ∧ (idx < s.build.attrEntries) :=
  ⟨5, up, by decide⟩

theorem wit_FreezeBecomesFinal_1 : ∃ f : Freeze, ∃ s : State, (running s) ∧ (headFreezes s = [f]) ∧ (finalAt s f.t = true) ∧ (boundsBefore s f.t = false) ∧ (s.obs.hang.seq = none) :=
  ⟨⟨9, 2 ^ 28 - 5000, 17, false, 0, [], default, true⟩, (onCut (fun p => { p with hw := some ⟨9, 2 ^ 28 - 5000, 17, false, 0, [], default, true⟩, issued := 9 }) upS), by decide⟩

theorem wit_EpochBoundaries_1 : ∃ p : Nat, ∃ b : Nat, ∃ s : State, (running s) ∧ (boundOf s p = some b) ∧ (finalAt s b = true) ∧ (((freezes s).any fun f => decide (f.t ≤ b)) = false) :=
  ⟨0, (2 ^ 28 - 5000), (onEpoch 0 (fun p => { p with entries := [⟨⟨1, 25600, 0⟩, [2 ^ 28 - 5000], none, none, none⟩] }) upS), by decide⟩

theorem wit_EpochBoundaries_2 : ∃ p : Nat, ∃ u : Undrained, ∃ s : State, (running s) ∧ ((epochOf s p).undrained = some u) ∧ (epochRoom p u s = true) ∧ (((freezes s).any fun f => decide (f.t ≤ u.fin)) = false) ∧ (freezeHeld s p u.fin = false) ∧ ((slotsOf s (some p)).any (spillBusy s) = false) :=
  ⟨0, ⟨2 ^ 28 - 5000, 2 ^ 28 - 5000, 0, 0, 0, false, 1⟩, (onEpoch 0 (fun p => { p with undrained := some ⟨2 ^ 28 - 5000, 2 ^ 28 - 5000, 0, 0, 0, false, 1⟩ }) up), by decide⟩

theorem wit_EpochBoundaries_3 : ∃ p : Nat, ∃ x : EpEntry, ∃ s : State, (running s) ∧ (s.aon.pwr.stage = .awake) ∧ (s.aon.pwr.sleepFrom = none) ∧ (p < npart s.build) ∧ (senArmed s (fun w => w.startKind == 8) = []) ∧ ((epochOf s p).entries = [x]) ∧ (x.sched.source = 2) ∧ (x.stop = none) ∧ ((epochOf s p).lastEdge = none) :=
  ⟨0, ⟨⟨2, 25600, 0⟩, [], none, none, none⟩, (onEpoch 0 (fun p => { p with entries := [⟨⟨2, 25600, 0⟩, [], none, none, none⟩] }) up), by decide⟩

theorem wit_RecordsAndFrames_1 : ∃ x : Nat, ∃ u : Nat, ∃ stamp : Nat, ∃ w : Bool, ∃ c : CtxSt, ∃ s : State, (running s) ∧ (ctxOf s x = some c) ∧ (c.resident = true) ∧ (c.hold = [⟨stamp, .clkstop w u⟩]) ∧ (c.frame = none) ∧ (c.wgap = none) ∧ (placeable s stamp = true) ∧ (16 ≤ stamp) ∧ (1 ≤ freeBufs s) :=
  ⟨3, 5, (2 ^ 28 - 5000), true, { cx with state := .armed, hold := [⟨2 ^ 28 - 5000, .clkstop true 5⟩] }, (setCtx 3 (some { cx with state := .armed, hold := [⟨2 ^ 28 - 5000, .clkstop true 5⟩] }) upD), by decide, by decide, by decide, by decide, by decide, by decide, by decide +kernel, by decide⟩

theorem wit_RecordsAndFrames_2 : ∃ x : Nat, ∃ stamp : Nat, ∃ r : Rec, ∃ c : CtxSt, ∃ s : State, (running s) ∧ (ctxOf s x = some c) ∧ (c.resident = true) ∧ (c.hold = [r]) ∧ (isDeferred r.body = true) ∧ (r.stamp = stamp) ∧ (c.frame = none) ∧ (16 ≤ stamp) ∧ (1 ≤ freeBufs s) :=
  ⟨3, (2 ^ 28 - 5000), ⟨2 ^ 28 - 5000, .sent 3 0 0 0 5 6⟩, { cx with state := .armed, hold := [⟨2 ^ 28 - 5000, .sent 3 0 0 0 5 6⟩] }, (setCtx 3 (some { cx with state := .armed, hold := [⟨2 ^ 28 - 5000, .sent 3 0 0 0 5 6⟩] }) upD), by decide⟩

theorem wit_RecordsAndFrames_3 : ∃ x : Nat, ∃ f : FrameB, ∃ c : CtxSt, ∃ s : State, (running s) ∧ (ctxOf s x = some c) ∧ (c.frame = some f) ∧ (f.entered + 2 ^ 20 ≤ now s) ∧ (c.egr = false) ∧ (c.host = false) ∧ (c.seq < 2 ^ 32 - 1) :=
  ⟨3, { (default : FrameB) with entered := 2 ^ 27, recs := 1 }, { cx with state := .armed, frame := some { (default : FrameB) with entered := 2 ^ 27, recs := 1 } }, (setCtx 3 (some { cx with state := .armed, frame := some { (default : FrameB) with entered := 2 ^ 27, recs := 1 } }) upD), by decide⟩

theorem wit_GovernorAndCadence_1 : ∃ p : Piece, ∃ s : State, (running s) ∧ (hangHolds s = false) ∧ (cadence s = false) ∧ (ringsAsk s = s) ∧ (s.obs.smp.pieces = [p]) ∧ (p.cls = 1) ∧ (s.obs.smp.run < 15) ∧ (s.obs.smp.wrOut = []) ∧ ((∀ f, p.what ≠ .host f)) ∧ ((∀ k, p.what ≠ .lensRead k)) ∧ (costOf p.units ≤ s.obs.smp.credit) :=
  ⟨⟨1, 1, 0, .pad, 4096, [5]⟩, (onSmp (fun p => { p with pieces := [⟨1, 1, 0, .pad, 4096, [5]⟩], credit := 102400 }) up), by decide, by decide, by decide, by decide, by decide, by decide, by decide, by decide, by simp, by simp, by decide⟩

theorem wit_GovernorAndCadence_2 : ∃ s : State, (running s) ∧ (cadence s = true) ∧ (hangHolds s = false) ∧ (costOf 64 ≤ s.obs.smp.credit) ∧ (ringsAsk s = s) ∧ ((∀ k, waitingOf s k = [])) ∧ (s.obs.smp.wrOut = []) :=
  ⟨(onSmp (fun p => { p with fixed := true, credit := costOf 64 }) (setCtx 3 (some { cx with state := .armed }) up)), by decide, by decide, by decide, by decide, by decide, fun k => by
    by_cases h4 : k = 4
    · subst h4; rfl
    · by_cases h5 : k = 5
      · subst h5; rfl
      · rw [waitingOf, if_neg h4, if_neg h5]; rfl, by decide⟩

theorem wit_SmpAnswers_1 : ∃ tag : Nat, ∃ r : Nat, ∃ seq : Nat, ∃ e : Entry, ∃ q : Bool, ∃ w : Wr, ∃ s : State, (running s) ∧ (r < 64) ∧ (s.obs.smp.wrOut = [w]) ∧ (w.tag = tag) ∧ (w.what = .completion r seq e q) ∧ (q = false) ∧ (bit (reg s (aRing r + 0x28)) 8 = false ∨ (ringOf s r).pend = true) :=
  ⟨3, 2, 7, ⟨5, 0, 0, 0, true, 0, 0⟩, false, ⟨3, 0, .completion 2 7 ⟨5, 0, 0, 0, true, 0, 0⟩ false, 4096, [], 0⟩, (onRing 2 (fun p => { p with unacked := [7] }) (onSmp (fun p => { p with wrOut := [⟨3, 0, .completion 2 7 ⟨5, 0, 0, 0, true, 0, 0⟩ false, 4096, [], 0⟩] }) up)), by decide⟩

theorem wit_SmpAnswers_2 : ∃ tag : Nat, ∃ r : Nat, ∃ seq : Nat, ∃ e : Entry, ∃ q : Bool, ∃ w : Wr, ∃ s : State, (running s) ∧ (r < 64) ∧ (s.obs.smp.wrOut = [w]) ∧ (w.tag = tag) ∧ (w.what = .completion r seq e q) ∧ (q = false) ∧ (bit (reg s (aRing r + 0x28)) 8 = true) ∧ ((ringOf s r).pend = false) :=
  ⟨3, 2, 7, ⟨5, 0, 0, 0, true, 0, 0⟩, false, ⟨3, 0, .completion 2 7 ⟨5, 0, 0, 0, true, 0, 0⟩ false, 4096, [], 0⟩, (onRing 2 (fun p => { p with unacked := [7] }) (onSmp (fun p => { p with wrOut := [⟨3, 0, .completion 2 7 ⟨5, 0, 0, 0, true, 0, 0⟩ false, 4096, [], 0⟩] }) (setReg (aRing 2 + 0x28) 0x100 up))), by decide⟩

theorem wit_SmpAnswers_3 : ∃ tag : Nat, ∃ r : Nat, ∃ seq : Nat, ∃ e : Entry, ∃ q : Bool, ∃ w : Wr, ∃ s : State, (running s) ∧ (r < 64) ∧ (s.obs.smp.wrOut = [w]) ∧ (w.tag = tag) ∧ (w.what = .completion r seq e q) ∧ (q = true) :=
  ⟨3, 2, 7, ⟨5, 0, 0, 0, true, 0, 0⟩, true, ⟨3, 0, .completion 2 7 ⟨5, 0, 0, 0, true, 0, 0⟩ true, 4096, [], 0⟩, (onRing 2 (fun p => { p with unacked := [7] }) (onSmp (fun p => { p with wrOut := [⟨3, 0, .completion 2 7 ⟨5, 0, 0, 0, true, 0, 0⟩ true, 4096, [], 0⟩] }) up)), by decide⟩

theorem wit_SmpAnswers_4 : ∃ tag : Nat, ∃ r : Nat, ∃ seq : Nat, ∃ e : Entry, ∃ q : Bool, ∃ w : Wr, ∃ s : State, (running s) ∧ (r < 64) ∧ (s.obs.smp.wrOut = [w]) ∧ (w.tag = tag) ∧ (w.what = .completion r seq e q) :=
  ⟨3, 2, 7, ⟨5, 0, 0, 0, true, 0, 0⟩, true, ⟨3, 0, .completion 2 7 ⟨5, 0, 0, 0, true, 0, 0⟩ true, 4096, [], 0⟩, (onRing 2 (fun p => { p with unacked := [7] }) (onSmp (fun p => { p with wrOut := [⟨3, 0, .completion 2 7 ⟨5, 0, 0, 0, true, 0, 0⟩ true, 4096, [], 0⟩] }) up)), by decide⟩

theorem wit_SmpAnswers_5 : ∃ tag : Nat, ∃ s : State, (running s) ∧ ((∀ w ∈ s.obs.smp.wrOut, w.tag ≠ tag)) :=
  ⟨3, up, by decide⟩

theorem wit_SmpAnswers_6 : ∃ tag : Nat, ∃ r : Nat, ∃ n : Nat, ∃ q : Rd, ∃ s : State, (running s) ∧ (r < 64) ∧ (s.obs.smp.rdOut = [q]) ∧ (q.tag = tag) ∧ (q.what = .desc r n) ∧ ((ringOf s r).reading = n) ∧ (q.addr = (ringOf s r).base + 64 * (ringOf s r).head) ∧ (s.obs.wat.dumps = []) :=
  ⟨3, 2, 1, ⟨3, 0, .desc 2 1, 4096, 1⟩, (onRing 2 (fun p => { p with en := true, reading := 1, base := 4096 }) (setReg (aRing 2) 0x0606 (onSmp (fun p => { p with rdOut := [⟨3, 0, .desc 2 1, 4096, 1⟩] }) up))), by decide⟩

theorem wit_SmpAnswers_7 : ∃ tag : Nat, ∃ r : Nat, ∃ n : Nat, ∃ q : Rd, ∃ s : State, (running s) ∧ (r < 64) ∧ (s.obs.smp.rdOut = [q]) ∧ (q.tag = tag) ∧ (q.what = .desc r n) ∧ ((ringOf s r).reading = n) ∧ (q.addr = (ringOf s r).base + 64 * (ringOf s r).head) ∧ (s.obs.wat.dumps = []) :=
  ⟨3, 2, 1, ⟨3, 0, .desc 2 1, 4096, 1⟩, (onRing 2 (fun p => { p with en := true, reading := 1, base := 4096 }) (setReg (aRing 2) 0x0606 (onSmp (fun p => { p with rdOut := [⟨3, 0, .desc 2 1, 4096, 1⟩] }) up))), by decide⟩

theorem wit_Translations_1 : ∃ x : Xlt, ∃ d : Dump, ∃ ioa : Nat, ∃ l : Nat, ∃ s : State, (running s) ∧ (s.obs.wat.xlt = [x]) ∧ (x.dead = false) ∧ (s.obs.wat.dumps = [d]) ∧ (d.id = x.dump) ∧ (d.source ≠ 0) ∧ (d.ended = false) ∧ (d.todo = []) ∧ (d.more = []) ∧ (d.pageBytes = 0) ∧ (d.runs = []) ∧ (s.obs.smp.rdOut = []) ∧ (12 ≤ l) ∧ (l ≤ 30) ∧ (ioa % 4096 = 0) ∧ (x.offset = 0) ∧ (x.va % 2 ^ l = 0) ∧ (d.limit = 0) ∧ (0 < d.expect) ∧ (d.expect ≤ 2 ^ l) ∧ (d.expect ≤ 4096) ∧ (d.expect ≤ s.build.watchBuf) :=
  ⟨⟨1, 9, 0, 256, 65536, 5, 2 ^ 27, false⟩, { (default : Dump) with id := 9, watch := 3, expect := 256, source := 1 }, 8192, 12, (onWat (fun p => { p with xlt := [⟨1, 9, 0, 256, 65536, 5, 2 ^ 27, false⟩], dumps := [{ (default : Dump) with id := 9, watch := 3, expect := 256, source := 1 }] }) up), by decide⟩

theorem wit_Translations_2 : ∃ x : Xlt, ∃ d : Dump, ∃ s : State, (running s) ∧ (s.obs.wat.xlt = [x]) ∧ (x.dead = false) ∧ (s.obs.wat.dumps = [d]) ∧ (d.id = x.dump) ∧ (d.todo = []) ∧ (d.more = []) ∧ (d.expect ≤ d.next) :=
  ⟨⟨1, 9, 0, 256, 65536, 5, 2 ^ 27, false⟩, { (default : Dump) with id := 9, watch := 3, expect := 256, next := 256, source := 1 }, (onWat (fun p => { p with xlt := [⟨1, 9, 0, 256, 65536, 5, 2 ^ 27, false⟩], dumps := [{ (default : Dump) with id := 9, watch := 3, expect := 256, next := 256, source := 1 }] }) up), by decide⟩

theorem wit_Translations_3 : ∃ x : Xlt, ∃ d : Dump, ∃ s : State, (running s) ∧ (s.obs.wat.xlt = [x]) ∧ (x.dead = false) ∧ (s.obs.wat.dumps = [d]) ∧ (d.id = x.dump) ∧ (d.source ≠ 0) ∧ (d.ended = false) ∧ (d.todo = []) ∧ (d.more = []) ∧ (d.pageBytes = 0) ∧ (d.limit = 0) ∧ (d.next < d.expect) :=
  ⟨⟨1, 9, 0, 256, 65536, 5, 2 ^ 27, false⟩, { (default : Dump) with id := 9, watch := 3, expect := 256, source := 1 }, (onWat (fun p => { p with xlt := [⟨1, 9, 0, 256, 65536, 5, 2 ^ 27, false⟩], dumps := [{ (default : Dump) with id := 9, watch := 3, expect := 256, source := 1 }] }) up), by decide⟩

theorem wit_Translations_4 : ∃ x : Xlt, ∃ d : Dump, ∃ s : State, (running s) ∧ (s.obs.wat.xlt = [x]) ∧ (x.dead = false) ∧ (s.obs.wat.dumps = [d]) ∧ (d.id = x.dump) ∧ (d.todo = []) ∧ (d.more = []) ∧ (d.expect ≤ d.next) ∧ (x.since + 1600000 ≤ now s) :=
  ⟨⟨1, 9, 0, 256, 65536, 5, 2 ^ 27, false⟩, { (default : Dump) with id := 9, watch := 3, expect := 256, next := 256, source := 1 }, (onWat (fun p => { p with xlt := [⟨1, 9, 0, 256, 65536, 5, 2 ^ 27, false⟩], dumps := [{ (default : Dump) with id := 9, watch := 3, expect := 256, next := 256, source := 1 }] }) up), by decide⟩

theorem wit_Translations_5 : ∃ tag : Nat, ∃ s : State, (running s) ∧ ((∀ x ∈ s.obs.wat.xlt, x.tag ≠ tag)) :=
  ⟨2, (onWat (fun p => { p with xlt := [⟨1, 9, 0, 256, 65536, 5, 2 ^ 27, false⟩], dumps := [{ (default : Dump) with id := 9, watch := 3, expect := 256, source := 1 }] }) up), by decide⟩

theorem wit_HangSequences_1 : ∃ u : Nat, ∃ g : Nat, ∃ s : State, (running s) ∧ (u < s.build.units) ∧ (wdogDue (unitOf s u) = some g) ∧ (serving s (collOfUnit s u) = true) ∧ (g ≤ horizonOf s (collOfUnit s u)) ∧ (((collOf s (collOfUnit s u)).buf.all fun e => decide (g ≤ e.stamp)) = true) ∧ (s.obs.hang.seq = none) ∧ (s.obs.cut.hw = none) ∧ (s.aon.pwr.stage = .awake) :=
  ⟨5, (2 ^ 28 - 10000 + 1024), (onUnit 5 (fun p => { p with wdog := some ⟨10, false, false, 2 ^ 28 - 10000, false⟩ }) (onColl 0 (fun p => { p with cal := true, th := 2 ^ 28 - 100 }) up)), by decide⟩

theorem wit_HangSequences_2 : ∃ s : State, (running s) ∧ (s.obs.hang.seq = none) ∧ (s.obs.cut.hw = none) ∧ (s.aon.pwr.stage = .awake) :=
  ⟨up, by decide⟩

theorem wit_HangSequences_3 : ∃ q : HangSeq, ∃ s : State, (running s) ∧ (s.obs.hang.seq = some q) ∧ (q.step = 5) ∧ (s.obs.smp.wrOut = []) ∧ (s.obs.smp.pieces = []) ∧ (npart s.build ≤ q.done.length) :=
  ⟨{ (default : HangSeq) with step := 5, done := List.replicate 16 (0, 0, 0, 0, 0) }, (onHang (fun p => { p with seq := some { (default : HangSeq) with step := 5, done := List.replicate 16 (0, 0, 0, 0, 0) } }) up), by decide⟩

theorem wit_NopAndFence_1 : ∃ r : Nat, ∃ h : Held, ∃ s : State, (atFrontOf 0x00 r h s) ∧ (reservedBad h = false) :=
  ⟨2, (hd [256, 5]), (front (hd [256, 5]) upD), by decide⟩

theorem wit_NopAndFence_2 : ∃ r : Nat, ∃ h : Held, ∃ s : State, (atFrontOf 0x01 r h s) ∧ (reservedBad h = false) ∧ (fenceMet s r h = true) :=
  ⟨2, (hd [257, 5]), (front (hd [257, 5]) upD), by decide⟩

theorem wit_NopAndFence_3 : ∃ r : Nat, ∃ h : Held, ∃ s : State, (atFrontOf 0x01 r h s) ∧ (reservedBad h = false) ∧ (fenceMet s r h = false) ∧ (canPark s r h = true) :=
  ⟨2, (hd [257, 5]), (front (hd [257, 5]) (onRing 2 (fun p => { p with unacked := [6] }) upD)), by decide⟩

theorem wit_ContextsOpenAndClose_1 : ∃ r : Nat, ∃ h : Held, ∃ res : Bool, ∃ spill : Nat, ∃ s : State, (atFrontOf 0x10 r h s) ∧ (openWords s h = none) ∧ (dLen h 9 = 0) ∧ (placement s (fld (dw h 3) 0 2) (dAddr h 12) = some (res, spill)) ∧ (firstGap 0 (s.obs.ctxs.map (·.1)) < 2 ^ 20) :=
  ⟨2, (hd [272, 5, 0, 1]), true, 0, (front (hd [272, 5, 0, 1]) upD), by decide⟩

theorem wit_ContextsOpenAndClose_2 : ∃ r : Nat, ∃ g : Nat, ∃ h : Held, ∃ s : State, (atFrontOf 0x10 r h s) ∧ (openWords s h = none) ∧ (dLen h 9 ≠ 0) ∧ (readTag s g) ∧ (isParked s r h = false) :=
  ⟨2, 0, (hd [272, 5, 0, 1, 0, 0, 0, 0, 0, 1, 4096]), (front (hd [272, 5, 0, 1, 0, 0, 0, 0, 0, 1, 4096]) upD), by decide⟩

theorem wit_ContextsOpenAndClose_3 : ∃ r : Nat, ∃ h : Held, ∃ c : CtxSt, ∃ s : State, (atFrontOf 0x11 r h s) ∧ (reservedBad h = false) ∧ (ctxOf s (dCtx h) = some c) ∧ (c.closing = none) ∧ (closesOf s (dCtx h) = []) ∧ (c.state = .opened ∨ c.state = .saved) :=
  ⟨2, (hd [273, 5, 3]), cx, (front (hd [273, 5, 3]) (setCtx 3 (some cx) upD)), by decide⟩

theorem wit_ContextsOpenAndClose_4 : ∃ r : Nat, ∃ h : Held, ∃ c : CtxSt, ∃ s : State, (atFrontOf 0x11 r h s) ∧ (reservedBad h = false) ∧ (ctxOf s (dCtx h) = some c) ∧ (c.closing = none) ∧ (c.state = .armed ∨ c.state = .paused) ∧ (canPark s r h = true) :=
  ⟨2, (hd [273, 5, 3]), { cx with state := .armed }, (front (hd [273, 5, 3]) (setCtx 3 (some { cx with state := .armed }) upD)), by decide⟩

theorem wit_ContextsOpenAndClose_5 : ∃ r : Nat, ∃ h : Held, ∃ c : CtxSt, ∃ s : State, (atFrontOf 0x11 r h s) ∧ (reservedBad h = false) ∧ (ctxOf s (dCtx h) = some c) ∧ (c.closing.isSome = true) ∧ (canPark s r h = true) :=
  ⟨2, (hd [273, 5, 3]), { cx with state := .armed, closing := some 5 }, (front (hd [273, 5, 3]) (setCtx 3 (some { cx with state := .armed, closing := some 5 }) upD)), by decide⟩

theorem wit_ContextsOpenAndClose_6 : ∃ r : Nat, ∃ h : Held, ∃ c : CtxSt, ∃ s : State, (waits r h s) ∧ (opOf h = 0x11) ∧ (h.stage = .ctxFrame true) ∧ (ctxOf s (dCtx h) = some c) ∧ (closesOf s (dCtx h) = [(r, h)]) :=
  ⟨2, ⟨7, ⟨[0x111, 5, 3]⟩, .ctxFrame true, 0⟩, cx, (parkedIn ⟨7, ⟨[0x111, 5, 3]⟩, .ctxFrame true, 0⟩ (setCtx 3 (some cx) upD)), by decide⟩

theorem wit_ContextsArmAndSave_1 : ∃ r : Nat, ∃ h : Held, ∃ c : CtxSt, ∃ s : State, (atFrontOf 0x12 r h s) ∧ (reservedBad h = false) ∧ (ctxOf s (dCtx h) = some c) ∧ (c.state = .opened) ∧ (c.closing = none) ∧ ((partOf s c.part).region.isSome = true) ∧ (jobOf s c.part c.job = none) :=
  ⟨2, (hd [274, 5, 3]), cx, (front (hd [274, 5, 3]) (onPart 0 (fun p => { p with region := some default }) (setCtx 3 (some cx) upD))), by decide⟩

theorem wit_ContextsArmAndSave_2 : ∃ r : Nat, ∃ h : Held, ∃ c : CtxSt, ∃ k : JobKey, ∃ g : Gen, ∃ s : State, (atFrontOf 0x12 r h s) ∧ (reservedBad h = false) ∧ (ctxOf s (dCtx h) = some c) ∧ (c.state = .opened) ∧ (c.closing = none) ∧ ((partOf s c.part).region.isSome = true) ∧ (jobOf s c.part c.job = some k) ∧ (k.outb = [g]) ∧ (noWrap s) :=
  ⟨2, (hd [274, 5, 3]), { cx with job := 4 }, ⟨0, 4, [⟨0, [1], 5, []⟩], []⟩, ⟨0, [1], 5, []⟩, (front (hd [274, 5, 3]) (onKeys (fun p => { p with jobs := [⟨0, 4, [⟨0, [1], 5, []⟩], []⟩] }) (onPart 0 (fun p => { p with region := some default }) (setCtx 3 (some { cx with job := 4 }) upD)))), by decide, by decide, by decide, by decide, by decide, by decide, by decide, by decide, noWrap_of _ (by decide)⟩

theorem wit_ContextsArmAndSave_3 : ∃ r : Nat, ∃ h : Held, ∃ c : CtxSt, ∃ s : State, (atFrontOf 0x13 r h s) ∧ (reservedBad h = false) ∧ (ctxOf s (dCtx h) = some c) ∧ (c.state = .armed) ∧ (c.closing = none) :=
  ⟨2, (hd [275, 5, 3]), { cx with state := .armed }, (front (hd [275, 5, 3]) (setCtx 3 (some { cx with state := .armed }) upD)), by decide⟩

theorem wit_ContextsArmAndSave_4 : ∃ r : Nat, ∃ h : Held, ∃ c : CtxSt, ∃ s : State, (atFrontOf 0x14 r h s) ∧ (reservedBad h = false) ∧ (ctxOf s (dCtx h) = some c) ∧ (c.state = .paused) ∧ (c.closing = none) :=
  ⟨2, (hd [276, 5, 3]), { cx with state := .paused }, (front (hd [276, 5, 3]) (setCtx 3 (some { cx with state := .paused }) upD)), by decide⟩

theorem wit_ContextsArmAndSave_5 : ∃ r : Nat, ∃ h : Held, ∃ c : CtxSt, ∃ s : State, (atFrontOf 0x15 r h s) ∧ (reservedBad h = false) ∧ (ctxOf s (dCtx h) = some c) ∧ (c.state = .armed ∨ c.state = .paused) ∧ (c.closing = none) ∧ (saving s (dCtx h) = false) ∧ (canPark s r h = true) :=
  ⟨2, (hd [277, 5, 3, 4096, 0, 64]), { cx with state := .armed }, (front (hd [277, 5, 3, 4096, 0, 64]) (setCtx 3 (some { cx with state := .armed }) upD)), by decide⟩

theorem wit_ContextsArmAndSave_6 : ∃ r : Nat, ∃ units : Nat, ∃ h : Held, ∃ c : CtxSt, ∃ s : State, (waits r h s) ∧ (opOf h = 0x15) ∧ (h.stage = .output units 0 false false) ∧ (ctxOf s (dCtx h) = some c) ∧ (c.state ≠ .saved) :=
  ⟨2, 64, ⟨7, ⟨[0x115, 5, 3]⟩, .output 64 0 false false, 0⟩, { cx with state := .paused }, (parkedIn ⟨7, ⟨[0x115, 5, 3]⟩, .output 64 0 false false, 0⟩ (setCtx 3 (some { cx with state := .paused }) upD)), by decide⟩

theorem wit_ContextsArmAndSave_7 : ∃ r : Nat, ∃ g : Nat, ∃ h : Held, ∃ c : CtxSt, ∃ s : State, (atFrontOf 0x16 r h s) ∧ (reservedBad h = false) ∧ (ctxOf s (dCtx h) = some c) ∧ (c.state = .saved) ∧ (dLen h 6 ≤ 8192) ∧ (readTag s g) ∧ (isParked s r h = false) :=
  ⟨2, 0, (hd [278, 5, 3, 4096, 0, 64]), { cx with state := .saved }, (front (hd [278, 5, 3, 4096, 0, 64]) (setCtx 3 (some { cx with state := .saved }) upD)), by decide⟩

theorem wit_FreezesEpochsAndShadow_1 : ∃ r : Nat, ∃ T : Nat, ∃ h : Held, ∃ s : State, (atFrontOf 0x20 r h s) ∧ (reservedBad h = false) ∧ (bit (dw h 5) 0 = false) ∧ ((if pair (dw h 3) (dw h 4) = 0 then T = gtMod (engGt s + 1024) else T = pair (dw h 3) (dw h 4) ∧ engGt s + 1024 ≤ T ∧ T ≤ engGt s + 2 ^ 40)) ∧ (s.obs.hang.seq = none) ∧ ((∀ f ∈ freezes s, f.t + 63 < T ∨ T + 63 < f.t)) ∧ (s.obs.cut.sw.length < 4) :=
  ⟨2, (2 ^ 28 + 5000), (hd [288, 5, 0, (2 ^ 28 + 5000)]), (front (hd [288, 5, 0, (2 ^ 28 + 5000)]) upD), by decide⟩

theorem wit_FreezesEpochsAndShadow_2 : ∃ r : Nat, ∃ h : Held, ∃ s : State, (atFrontOf 0x20 r h s) ∧ (reservedBad h = false) ∧ (bit (dw h 5) 0 = false) ∧ (pair (dw h 3) (dw h 4) ≠ 0) ∧ (pair (dw h 3) (dw h 4) < engGt s + 1024) :=
  ⟨2, (hd [288, 5, 0, 1000]), (front (hd [288, 5, 0, 1000]) upD), by decide⟩

theorem wit_FreezesEpochsAndShadow_3 : ∃ r : Nat, ∃ B : Nat, ∃ h : Held, ∃ s : State, (atFrontOf 0x21 r h s) ∧ (epochStatus h = none) ∧ (B = (if pair (dw h 6) (dw h 7) = 0 then gtMod (engGt s + 1024) else pair (dw h 6) (dw h 7))) :=
  ⟨2, (2 ^ 28 + 1024), (hd [289, 5, 0, 1, 25600]), (front (hd [289, 5, 0, 1, 25600]) upD), by decide⟩

theorem wit_FreezesEpochsAndShadow_4 : ∃ r : Nat, ∃ h : Held, ∃ b : Shadow, ∃ s : State, (atFrontOf 0x22 r h s) ∧ (reservedBad h = false) ∧ (freezeIssued s (fld (dw h 3) 0 16) = true) ∧ (fld (dw h 4) 16 12 < s.build.units) ∧ (fld (dw h 4) 0 12 ≤ fld (dw h 4) 16 12) ∧ (canPark s r h = true) ∧ (s.obs.cut.shadow = some b) ∧ (freezePending s (fld (dw h 3) 0 16) = false) ∧ (b.id = fld (dw h 3) 0 16) :=
  ⟨2, (hd [290, 5, 0, 9, 65536, 4096, 0, 64]), ⟨9, 2 ^ 27, 2 ^ 27, false, 0, default⟩, (front (hd [290, 5, 0, 9, 65536, 4096, 0, 64]) (onCut (fun p => { p with issued := 9, shadow := some ⟨9, 2 ^ 27, 2 ^ 27, false, 0, default⟩ }) upD)), by decide⟩

theorem wit_FreezesEpochsAndShadow_5 : ∃ r : Nat, ∃ h : Held, ∃ b : Shadow, ∃ s : State, (atFrontOf 0x22 r h s) ∧ (reservedBad h = false) ∧ (freezeIssued s (fld (dw h 3) 0 16) = true) ∧ (fld (dw h 4) 16 12 < s.build.units) ∧ (fld (dw h 4) 0 12 ≤ fld (dw h 4) 16 12) ∧ (canPark s r h = true) ∧ (s.obs.cut.shadow = some b) ∧ (freezePending s (fld (dw h 3) 0 16) = false) ∧ (b.id ≠ fld (dw h 3) 0 16) :=
  ⟨2, (hd [290, 5, 0, 9, 65536, 4096, 0, 64]), ⟨8, 2 ^ 27, 2 ^ 27, false, 0, default⟩, (front (hd [290, 5, 0, 9, 65536, 4096, 0, 64]) (onCut (fun p => { p with issued := 9, shadow := some ⟨8, 2 ^ 27, 2 ^ 27, false, 0, default⟩ }) upD)), by decide⟩

theorem wit_FreezesEpochsAndShadow_6 : ∃ r : Nat, ∃ h : Held, ∃ s : State, (atFrontOf 0x22 r h s) ∧ (reservedBad h = false) ∧ (freezeIssued s (fld (dw h 3) 0 16) = true) ∧ (fld (dw h 4) 16 12 < s.build.units) ∧ (fld (dw h 4) 0 12 ≤ fld (dw h 4) 16 12) ∧ (canPark s r h = true) ∧ (freezePending s (fld (dw h 3) 0 16) = true) :=
  ⟨2, (hd [290, 5, 0, 9, 65536, 4096, 0, 64]), (front (hd [290, 5, 0, 9, 65536, 4096, 0, 64]) (onCut (fun p => { p with issued := 9, hw := some ⟨9, 2 ^ 28 - 5000, 17, false, 0, [], default, true⟩ }) upD)), by decide⟩

theorem wit_AttributionTable_1 : ∃ r : Nat, ∃ g : Nat, ∃ h : Held, ∃ s : State, (atFrontOf 0x30 r h s) ∧ (reservedBad h = false) ∧ (fld (dw h 3) 0 20 % 8 = 0) ∧ (attrInside s (fld (dw h 3) 0 20) (8 * dLen h 6) = true) ∧ (readTag s g) ∧ (isParked s r h = false) :=
  ⟨2, 0, (hd [304, 5, 0, 8, 4096, 0, 1]), (front (hd [304, 5, 0, 8, 4096, 0, 1]) upD), by decide⟩

theorem wit_AttributionTable_2 : ∃ r : Nat, ∃ tag : Nat, ∃ h : Held, ∃ q : Rd, ∃ ws : List U64, ∃ s : State, (running s) ∧ (s.obs.smp.rdOut = [q]) ∧ (q.tag = tag) ∧ (q.what = .cmd r h.seq 1) ∧ (q.units = 1) ∧ (ws.length = 8) ∧ ((ringOf s r).cur = some h) ∧ (opOf h = 0x30) ∧ (h.stage = .read 1 []) ∧ (dLen h 6 = 1) ∧ (attrStatus s (ringPart s r) (fld (dw h 3) 0 20) ws = none) :=
  ⟨2, 0, ⟨7, ⟨[0x130, 5, 0, 8, 4096, 0, 1]⟩, .read 1 [], 0⟩, ⟨0, 0, .cmd 2 7 1, 4096, 1⟩, [1, 0, 0, 0, 0, 0, 0, 0], (onRing 2 (fun p => { p with cur := some ⟨7, ⟨[0x130, 5, 0, 8, 4096, 0, 1]⟩, .read 1 [], 0⟩ }) (onSmp (fun p => { p with rdOut := [⟨0, 0, .cmd 2 7 1, 4096, 1⟩] }) upD)), by decide⟩

theorem wit_AttributionTable_3 : ∃ r : Nat, ∃ h : Held, ∃ s : State, (atFrontOf 0x31 r h s) ∧ (reservedBad h = false) ∧ (fld (dw h 3) 0 20 ≤ fld (dw h 4) 0 20) ∧ (fld (dw h 4) 0 20 < s.build.attrEntries) ∧ ((∀ x, fld (dw h 3) 0 20 ≤ x → x ≤ fld (dw h 4) 0 20 → attrForeign s (ringPart s r) x = false)) :=
  ⟨2, (hd [305, 5, 0, 8, 9]), (front (hd [305, 5, 0, 8, 9]) (onHed (fun p => { p with attr := [(8, 1)] }) upD)), by decide, by decide, by decide, by decide, by
    intro x h1 h2
    obtain rfl | rfl : x = 8 ∨ x = 9 := by
      (have h3 : 8 ≤ x := h1; have h4 : x ≤ 9 := h2; omega)
    all_goals decide⟩

theorem wit_LensSlotsAndQueues_1 : ∃ r : Nat, ∃ h : Held, ∃ s : State, (atFrontOf 0x40 r h s) ∧ (bindReserved s h = false) ∧ (bindLength s h = false) ∧ (s.obs.lens.oos = false) ∧ (firstGap 0 (s.obs.lens.slots.map (·.1)) < 65536) ∧ (0 < resFree s ∨ dAddr h 12 ≠ 0) :=
  ⟨2, (hd [320, 5, 0, 0, 5, 0, 0, 9]), (front (hd [320, 5, 0, 0, 5, 0, 0, 9]) upD), by decide⟩

theorem wit_LensSlotsAndQueues_2 : ∃ r : Nat, ∃ h : Held, ∃ s : State, (atFrontOf 0x41 r h s) ∧ (reservedBad h = false) ∧ (fld (dw h 5) 0 16 = 0) ∧ (0 < fld (dw h 4) 0 16) ∧ (fld (dw h 3) 0 16 + fld (dw h 4) 0 16 ≤ 65536) ∧ (canPark s r h = true) ∧ (freezePending s 0 = false) ∧ (bit (dw h 5) 17 = false) ∧ (s.obs.lens.spill = []) ∧ ((∀ k x, k ∈ readSlots h → slotOf s k = some x → x.part = ringPart s r → x.resident = true)) :=
  ⟨2, (hd [321, 5, 0, 0, 1, 0, 4096, 0, 64]), (front (hd [321, 5, 0, 0, 1, 0, 4096, 0, 64]) upD), by decide, by decide, by decide, by decide, by decide, by decide, by decide, by decide, by decide, fun _ _ _ h => (Option.some_ne_none _ h.symm).elim⟩

theorem wit_LensSlotsAndQueues_3 : ∃ r : Nat, ∃ k : Nat, ∃ h : Held, ∃ x : Slot, ∃ s : State, (atFrontOf 0x41 r h s) ∧ (reservedBad h = false) ∧ (fld (dw h 5) 0 16 = 0) ∧ (fld (dw h 3) 0 16 = k) ∧ (fld (dw h 4) 0 16 = 1) ∧ (canPark s r h = true) ∧ (freezePending s 0 = false) ∧ (s.obs.lens.spill = []) ∧ (hasConsent s (ringPart s r) 2 = true) ∧ (slotOf s k = some x) ∧ (x.part = ringPart s r) ∧ (x.resident = false) ∧ (x.stored = true) ∧ (spillWriting s k = false) :=
  ⟨2, 4, (hd [321, 5, 0, 4, 1, 0, 4096, 0, 64]), { (default : Slot) with stored := true, spillAddr := 8192 }, (front (hd [321, 5, 0, 4, 1, 0, 4096, 0, 64]) (onPart 0 (fun p => { p with consent := 255 }) (setSlot 4 (some { (default : Slot) with stored := true, spillAddr := 8192 }) upD))), by decide⟩

theorem wit_LensSlotsAndQueues_4 : ∃ r : Nat, ∃ h : Held, ∃ s : State, (atFrontOf 0x42 r h s) ∧ (reservedBad h = false) ∧ (slotOf s (fld (dw h 3) 0 16) = none) :=
  ⟨2, (hd [322, 5, 0, 4]), (front (hd [322, 5, 0, 4]) upD), by decide⟩

theorem wit_LensSlotsAndQueues_5 : ∃ r : Nat, ∃ h : Held, ∃ x : Slot, ∃ s : State, (atFrontOf 0x42 r h s) ∧ (reservedBad h = false) ∧ (slotOf s (fld (dw h 3) 0 16) = some x) ∧ (x.part = ringPart s r) ∧ (x.resident = true) ∧ (s.obs.lens.spill = []) :=
  ⟨2, (hd [322, 5, 0, 4]), { (default : Slot) with resident := true }, (front (hd [322, 5, 0, 4]) (setSlot 4 (some { (default : Slot) with resident := true }) upD)), by decide⟩

theorem wit_LensSlotsAndQueues_6 : ∃ s : State, (running s) :=
  ⟨(onLens (fun p => { p with replacing := some 3 }) up), by decide⟩

theorem wit_LensSlotsAndQueues_7 : ∃ p : PairSt, ∃ s : State, (running s) ∧ (s.obs.lens.pairs = [p]) ∧ (p.joined = false) ∧ (p.since + 64 * incOf s.aon.pwr.ratio ≤ now s) :=
  ⟨{ (default : PairSt) with id := 3, slot := 4, since := 2 ^ 27, open0 := true, q0 := [(0, 5, 2 ^ 27)] }, (onLens (fun p => { p with pairs := [{ (default : PairSt) with id := 3, slot := 4, since := 2 ^ 27, open0 := true, q0 := [(0, 5, 2 ^ 27)] }] }) up), by decide⟩

theorem wit_LensSlotsAndQueues_8 : ∃ tap : Nat, ∃ i : Img, ∃ q : SpillQ, ∃ x : Slot, ∃ s : State, (running s) ∧ (s.obs.lens.spill = [q]) ∧ (q.what = .commit (some tap) [(0, i)]) ∧ (spillReady q = true) ∧ (slotOf s q.slot = some x) ∧ (x.resident = false) ∧ (x.lostDue = 0) ∧ ((partOf s x.part).state = 1) :=
  ⟨0, default, ⟨6, 4, .commit (some 0) [(0, default)], some 36, (List.range 9).map fun k => (8192 + 256 * k, List.replicate 32 0)⟩, { (default : Slot) with stored := true, spillAddr := 8192 }, (setSlot 4 (some { (default : Slot) with stored := true, spillAddr := 8192 }) (onLens (fun p => { p with spill := [⟨6, 4, .commit (some 0) [(0, default)], some 36, (List.range 9).map fun k => (8192 + 256 * k, List.replicate 32 0)⟩] }) up)), by decide⟩

theorem wit_WatchAndHangCommands_1 : ∃ r : Nat, ∃ id : Nat, ∃ h : Held, ∃ s : State, (atFrontOf 0x50 r h s) ∧ (watchStatus s (ringPart s r) (watchOfDesc s (ringPart s r) h) h = none) ∧ (lowestFree 64 (s.obs.wat.watches.map (·.1)) = some id) ∧ (fld (dw h 4) 28 2 ≠ 2) :=
  ⟨2, 0, (hd [336, 5, 3, 0, 65537, 0, 9]), (front (hd [336, 5, 3, 0, 65537, 0, 9]) (onPart 0 (fun p => { p with consent := 255 }) (setCtx 3 (some { cx with state := .armed }) upD))), by decide⟩

theorem wit_WatchAndHangCommands_2 : ∃ r : Nat, ∃ id : Nat, ∃ h : Held, ∃ c : CtxSt, ∃ s : State, (atFrontOf 0x50 r h s) ∧ (watchStatus s (ringPart s r) (watchOfDesc s (ringPart s r) h) h = none) ∧ (lowestFree 64 (s.obs.wat.watches.map (·.1)) = some id) ∧ (fld (dw h 4) 28 2 = 2) ∧ (ctxOf s (dCtx h) = some c) ∧ (ctxArmed c = true) ∧ (c.closing = none) ∧ (s.obs.wat.dumps.length < 16) :=
  ⟨2, 0, (hd [336, 5, 3, 0, 536870912, 0, 9, 4, 65536, 327680, 256]), { cx with state := .armed }, (front (hd [336, 5, 3, 0, 536870912, 0, 9, 4, 65536, 327680, 256]) (onPart 0 (fun p => { p with consent := 255 }) (setCtx 3 (some { cx with state := .armed }) upD))), by decide⟩

theorem wit_WatchAndHangCommands_3 : ∃ r : Nat, ∃ h : Held, ∃ s : State, (atFrontOf 0x51 r h s) ∧ (reservedBad h = false) ∧ (watchOf s (fld (dw h 3) 0 6) = none) :=
  ⟨2, (hd [337, 5, 0, 4]), (front (hd [337, 5, 0, 4]) upD), by decide⟩

theorem wit_WatchAndHangCommands_4 : ∃ r : Nat, ∃ h : Held, ∃ w : Watch, ∃ s : State, (atFrontOf 0x51 r h s) ∧ (reservedBad h = false) ∧ (watchOf s (fld (dw h 3) 0 6) = some w) ∧ (w.part = ringPart s r) ∧ (dumping s (fld (dw h 3) 0 6) = false) ∧ (bit (dw h 3) 8 = false) :=
  ⟨2, (hd [337, 5, 0, 4]), { (default : Watch) with ctx := 3, completed := 6 }, (front (hd [337, 5, 0, 4]) (setWatch 4 (some { (default : Watch) with ctx := 3, completed := 6 }) upD)), by decide⟩

theorem wit_WatchAndHangCommands_5 : ∃ r : Nat, ∃ h : Held, ∃ s : State, (atFrontOf 0x52 r h s) ∧ (fld (dw h 3) 0 4 = 0) ∧ (outside [0xF, 0xFFFFFFFF, 0xFFFF, 0xFFFFFF] h = false) ∧ (areaBusy s (ringPart s r) = false) :=
  ⟨2, (hd [338, 5, 0, 0, 4096, 0, 64]), (front (hd [338, 5, 0, 0, 4096, 0, 64]) upD), by decide⟩

theorem wit_WatchAndHangCommands_6 : ∃ r : Nat, ∃ h : Held, ∃ s : State, (atFrontOf 0x52 r h s) ∧ (fld (dw h 3) 0 4 = 1) ∧ (outside [0xF, 0xFFF, 0xFFF, 0x33F] h = false) ∧ ((fld (dw h 6) 0 6 = 0 ∨ (10 ≤ fld (dw h 6) 0 6 ∧ fld (dw h 6) 0 6 ≤ 40))) ∧ (fld (dw h 4) 0 12 ≤ fld (dw h 5) 0 12) ∧ (fld (dw h 5) 0 12 < s.build.units) ∧ ((∀ u, fld (dw h 4) 0 12 ≤ u → u ≤ fld (dw h 5) 0 12 → (unitOf s u).owner = ringPart s r)) :=
  ⟨2, (hd [338, 5, 0, 1, 3, 4, 10]), (front (hd [338, 5, 0, 1, 3, 4, 10]) upD), by decide, by decide, by decide, by decide, by decide, by decide, by
    intro u h1 h2
    obtain rfl | rfl : u = 3 ∨ u = 4 := by
      (have h3 : 3 ≤ u := h1; have h4 : u ≤ 4 := h2; omega)
    all_goals decide⟩

theorem wit_WatchAndHangCommands_7 : ∃ r : Nat, ∃ h : Held, ∃ s : State, (atFrontOf 0x52 r h s) ∧ (fld (dw h 3) 0 4 = 2) ∧ (outside [0xF] h = false) ∧ (ringPart s r = 0) ∧ (s.obs.hang.seq = none) ∧ (s.obs.cut.hw = none) :=
  ⟨2, (hd [338, 5, 0, 2]), (front (hd [338, 5, 0, 2]) upD), by decide⟩

theorem wit_WatchAndHangCommands_8 : ∃ r : Nat, ∃ h : Held, ∃ s : State, (atFrontOf 0x52 r h s) ∧ (fld (dw h 3) 0 4 = 3) ∧ (outside [0xF] h = false) :=
  ⟨2, (hd [338, 5, 0, 3]), (front (hd [338, 5, 0, 3]) (setArea 0 (some ⟨4096, 64, true⟩) upD)), by decide⟩

theorem wit_SentinelAndGovernorAreSet_1 : ∃ r : Nat, ∃ h : Held, ∃ s : State, (atFrontOf 0x60 r h s) ∧ (reservedBad h = false) ∧ (kindBad false (fld (dw h 6) 0 4) (fld (dw h 4) 16 16) (fld (dw h 4) 0 16) = false) ∧ (kindBad true (fld (dw h 6) 4 4) (fld (dw h 5) 16 16) (fld (dw h 5) 0 16) = false) ∧ (2048 ≤ pair (dw h 7) (dw h 8)) ∧ ((swatchOf s (fld (dw h 3) 0 8)).armed = false) ∧ (fld (dw h 3) 8 4 &&& granted s (ringPart s r) = fld (dw h 3) 8 4) :=
  ⟨2, (hd [352, 5, 0, 259, 327686, 327686, 17, 5000]), (front (hd [352, 5, 0, 259, 327686, 327686, 17, 5000]) upD), by decide⟩

theorem wit_SentinelAndGovernorAreSet_2 : ∃ r : Nat, ∃ h : Held, ∃ s : State, (atFrontOf 0x61 r h s) ∧ (reservedBad h = false) ∧ ((swatchOf s (fld (dw h 3) 0 8)).part = ringPart s r) :=
  ⟨2, (hd [353, 5, 0, 3]), (front (hd [353, 5, 0, 3]) (onSWatch 3 (fun p => { p with armed := true }) upD)), by decide⟩

theorem wit_SentinelAndGovernorAreSet_3 : ∃ r : Nat, ∃ h : Held, ∃ s : State, (atFrontOf 0x62 r h s) ∧ (reservedBad h = false) ∧ (5 ≤ fld (dw h 3) 0 7) ∧ (fld (dw h 3) 0 7 ≤ 100) ∧ ((bit (dw h 3) 16 = true → padAddr s ≠ 0 ∧ inWin s 0 (padAddr s) 64 = true)) :=
  ⟨2, (hd [354, 5, 0, 50]), (front (hd [354, 5, 0, 50]) upD), by decide⟩

theorem wit_Partitions_1 : ∃ r : Nat, ∃ g : Nat, ∃ h : Held, ∃ s : State, (atFrontOf 0x70 r h s) ∧ (reservedBad h = false) ∧ (createStatus s h = none) ∧ (canPark s r h = true) ∧ (readTag s g) :=
  ⟨2, 0, (hd [131440, 5, 0, 4096, 0, 2, 8192, 0, 4, 12288]), (front (hd [131440, 5, 0, 4096, 0, 2, 8192, 0, 4, 12288]) (setReg 0x532C 1 upD)), by decide⟩

theorem wit_Partitions_2 : ∃ r : Nat, ∃ h : Held, ∃ d : Nat, ∃ got : List (List U64), ∃ s : State, (waits r h s) ∧ (opOf h = 0x70) ∧ (h.stage = .firmware d got) ∧ (now s < d) ∧ (fwRuns s = true) ∧ (createStatus s h = none) ∧ (dPart h ≠ 0) ∧ ((gotBytes got 1).length = 128) ∧ (s.obs.ctxs = []) ∧ (s.obs.wat.dumps = []) :=
  ⟨2, ⟨7, ⟨[0x00020170, 5, 0, 4096, 0, 2, 8192, 0, 4, 12288]⟩, .firmware (2 ^ 28 + 100) [List.replicate 4 0, List.replicate 16 0], 0⟩, (2 ^ 28 + 100), [List.replicate 4 0, List.replicate 16 0], (parkedIn ⟨7, ⟨[0x00020170, 5, 0, 4096, 0, 2, 8192, 0, 4, 12288]⟩, .firmware (2 ^ 28 + 100) [List.replicate 4 0, List.replicate 16 0], 0⟩ upD), by decide +kernel⟩

theorem wit_Partitions_3 : ∃ r : Nat, ∃ h : Held, ∃ s : State, (atFrontOf 0x71 r h s) ∧ (reservedBad h = false) ∧ (dPart h ≠ 0) ∧ ((partOf s (dPart h)).state = 1) ∧ (ringPart s r = 0) ∧ (canPark s r h = true) ∧ (noWrap s) :=
  ⟨2, (hd [196977, 5]), (front (hd [196977, 5]) (onPart 3 (fun p => { p with state := 1 }) upD)), by decide, by decide, by decide, by decide, by decide, by decide, noWrap_of _ (by decide)⟩

theorem wit_Partitions_4 : ∃ r : Nat, ∃ h : Held, ∃ s : State, (atFrontOf 0x74 r h s) ∧ (reservedBad h = false) ∧ ((partOf s (dPart h)).state = 4) ∧ (canPark s r h = true) :=
  ⟨2, (hd [196980, 5]), (front (hd [196980, 5]) (onPart 3 (fun p => { p with state := 4 }) upD)), by decide⟩

theorem wit_Partitions_5 : ∃ r : Nat, ∃ h : Held, ∃ d : Nat, ∃ s : State, (waits r h s) ∧ (opOf h = 0x74) ∧ (h.stage = .scrub d) ∧ (now s < d) ∧ (fwRuns s = true) :=
  ⟨2, ⟨7, ⟨[196980, 5]⟩, .scrub (2 ^ 28 + 9), 0⟩, (2 ^ 28 + 9), (parkedIn ⟨7, ⟨[196980, 5]⟩, .scrub (2 ^ 28 + 9), 0⟩ (onPart 3 (fun p => { p with state := 4 }) upD)), by decide⟩

theorem wit_Partitions_6 : ∃ p : Nat, ∃ r : Nat, ∃ d : Nat, ∃ h : Held, ∃ s : State, (running s) ∧ (closingOf s p = some (r, h, d)) ∧ ((partOf s p).state = 2) ∧ ((∀ x c, ctxOf s x = some c → c.part = p → c.hold = [] ∧ c.frame = none)) :=
  ⟨3, 2, 6, ⟨7, ⟨[196977, 5]⟩, .partClose 5 6 0 1, 0⟩, (parkedIn ⟨7, ⟨[196977, 5]⟩, .partClose 5 6 0 1, 0⟩ (onPart 3 (fun p => { p with state := 2 }) upD)), by decide, by decide, by decide, fun _ _ h => (Option.some_ne_none _ h.symm).elim⟩

theorem wit_Partitions_7 : ∃ p : Nat, ∃ r : Nat, ∃ d : Nat, ∃ h : Held, ∃ s : State, (running s) ∧ (closingOf s p = some (r, h, d)) ∧ ((partOf s p).state = 3) ∧ ((drainBusy s p = false ∨ d + 160000 ≤ engGt s)) :=
  ⟨3, 2, 6, ⟨7, ⟨[196977, 5]⟩, .partClose 5 6 0 1, 0⟩, (parkedIn ⟨7, ⟨[196977, 5]⟩, .partClose 5 6 0 1, 0⟩ (onPart 3 (fun p => { p with state := 3 }) upD)), by decide⟩

theorem wit_KeysAndConsent_1 : ∃ r : Nat, ∃ g : Nat, ∃ h : Held, ∃ s : State, (atFrontOf 0x72 r h s) ∧ (reservedBad h = false) ∧ (dLen h 6 = 5) ∧ (canPark s r h = true) ∧ (readTag s g) :=
  ⟨2, 0, (hd [370, 5, 0, 4, 4096, 0, 5]), (front (hd [370, 5, 0, 4, 4096, 0, 5]) upD), by decide⟩

theorem wit_KeysAndConsent_2 : ∃ r : Nat, ∃ d : Nat, ∃ h : Held, ∃ got : List (List U64), ∃ s : State, (waits r h s) ∧ (opOf h = 0x72) ∧ (h.stage = .firmware d got) ∧ (now s < d) ∧ (fwRuns s = true) :=
  ⟨2, (2 ^ 28 + 9), ⟨7, ⟨[370, 5, 0, 4, 4096, 0, 5]⟩, .firmware (2 ^ 28 + 9) [List.replicate 40 0], 0⟩, [List.replicate 40 0], (parkedIn ⟨7, ⟨[370, 5, 0, 4, 4096, 0, 5]⟩, .firmware (2 ^ 28 + 9) [List.replicate 40 0], 0⟩ upD), by decide⟩

theorem wit_KeysAndConsent_3 : ∃ r : Nat, ∃ g : Nat, ∃ h : Held, ∃ s : State, (atFrontOf 0x75 r h s) ∧ (reservedBad h = false) ∧ (dLen h 5 = 3) ∧ (canPark s r h = true) ∧ (readTag s g) :=
  ⟨2, 0, (hd [373, 5, 0, 4096, 0, 3]), (front (hd [373, 5, 0, 4096, 0, 3]) upD), by decide⟩

theorem wit_KeysAndConsent_4 : ∃ r : Nat, ∃ d : Nat, ∃ h : Held, ∃ got : List (List U64), ∃ s : State, (waits r h s) ∧ (opOf h = 0x75) ∧ (h.stage = .firmware d got) ∧ (now s < d) ∧ (fwRuns s = true) ∧ (consentStatus s (ringPart s r) ((gotBytes got 0).take 192) = none) :=
  ⟨2, (2 ^ 28 + 9), ⟨7, ⟨[373, 5, 0, 4096, 0, 3]⟩, .firmware (2 ^ 28 + 9) [[0x14357] ++ List.replicate 23 0], 0⟩, [[0x14357] ++ List.replicate 23 0], (parkedIn ⟨7, ⟨[373, 5, 0, 4096, 0, 3]⟩, .firmware (2 ^ 28 + 9) [[0x14357] ++ List.replicate 23 0], 0⟩ (onKeys (fun p => { p with tenant := [(0, some [1])] }) upD)), by decide +kernel⟩

theorem wit_KeysAndConsent_5 : ∃ r : Nat, ∃ h : Held, ∃ g : Gen, ∃ s : State, (atFrontOf 0x73 r h s) ∧ (reservedBad h = false) ∧ (rotGens s r h = some [g]) ∧ (canPark s r h = true) ∧ (noWrap s) :=
  ⟨2, (hd [371, 5, 0, 4]), ⟨0, [1], 5, []⟩, (front (hd [371, 5, 0, 4]) (onKeys (fun p => { p with jobs := [⟨0, 4, [⟨0, [1], 5, []⟩], []⟩] }) upD)), by decide, by decide, by decide, by decide, noWrap_of _ (by decide)⟩

theorem wit_KeysAndConsent_6 : ∃ r : Nat, ∃ g : Nat, ∃ clean : Bool, ∃ h : Held, ∃ x : Gen, ∃ s : State, (waits r h s) ∧ (opOf h = 0x73) ∧ (h.stage = .rotate g 2 clean) ∧ (rotGens s r h = some [x]) :=
  ⟨2, 1, true, ⟨7, ⟨[371, 5, 0, 4]⟩, .rotate 1 2 true, 0⟩, ⟨0, [1], 5, []⟩, (parkedIn ⟨7, ⟨[371, 5, 0, 4]⟩, .rotate 1 2 true, 0⟩ (onKeys (fun p => { p with jobs := [⟨0, 4, [⟨0, [1], 5, []⟩], []⟩] }) upD)), by decide⟩

theorem wit_KeysAndConsent_7 : ∃ p : Nat, ∃ j : Nat, ∃ dir : Nat, ∃ k : JobKey, ∃ a : Gen, ∃ b : Gen, ∃ s : State, (running s) ∧ (jobOf s p j = some k) ∧ (gensOf k dir = [a, b]) ∧ (a.since + 2 ^ fld (reg s aPrv) 0 6 ≤ now s) :=
  ⟨0, 4, 0, ⟨0, 4, [⟨0, [1], 5, []⟩, ⟨3, [2], 1, []⟩], []⟩, ⟨0, [1], 5, []⟩, ⟨3, [2], 1, []⟩, (onKeys (fun p => { p with jobs := [⟨0, 4, [⟨0, [1], 5, []⟩, ⟨3, [2], 1, []⟩], []⟩] }) up), by decide⟩

theorem wit_EngineTurnsAndParked_1 : ∃ r : Nat, ∃ g : Nat, ∃ n : Nat, ∃ s : State, (running s) ∧ (r < 64) ∧ (s.aon.pwr.ready = true) ∧ ((ringOf s r).en = true) ∧ ((ringOf s r).reading = 0) ∧ ((ringOf s r).fetched = []) ∧ ((ringOf s r).parked.length < 8) ∧ (0 < posted s r) ∧ (0 < entriesFree s r) ∧ (nextRing s = some r) ∧ (readTag s g) ∧ (n = min (min 4 (64 - (ringOf s r).head % 64)) (min (min (posted s r) (entriesFree s r)) (ringN s r - (ringOf s r).head))) :=
  ⟨2, 0, 3, (onDb 2 (fun p => { p with tail := 3 }) (onRing 2 (fun p => { p with en := true }) (setReg (aRing 2) 0x0606 upD))), by decide⟩

theorem wit_EngineTurnsAndParked_2 : ∃ r : Nat, ∃ s : State, (running s) ∧ (r < 64) ∧ (s.aon.pwr.ready = true) ∧ ((ringOf s r).en = true) ∧ ((ringOf s r).reading = 0) ∧ ((ringOf s r).fetched = []) ∧ ((ringOf s r).parked.length < 8) ∧ (0 < posted s r) ∧ (entriesFree s r = 0) ∧ ((ringOf s r).full = false) ∧ (nextRing s = some r) :=
  ⟨2, (onDb 2 (fun p => { p with tail := 3 }) (onRing 2 (fun p => { p with en := true, cqTail := 63 }) (setReg (aRing 2) 0x0606 upD))), by decide⟩

theorem wit_EngineTurnsAndParked_3 : ∃ r : Nat, ∃ s : State, (running s) ∧ (frontOf s r = none) ∧ (nextRing s ≠ some r) :=
  ⟨2, up, by decide⟩

theorem wit_EngineTurnsAndParked_4 : ∃ r : Nat, ∃ d : Nat, ∃ h : Held, ∃ got : List (List U64), ∃ s : State, (waits r h s) ∧ (h.stage = .firmware d got) ∧ (d ≤ now s) :=
  ⟨2, 9, ⟨7, ⟨[370, 5]⟩, .firmware 9 [], 0⟩, [], (parkedIn ⟨7, ⟨[370, 5]⟩, .firmware 9 [], 0⟩ upD), by decide⟩

theorem wit_EngineTurnsAndParked_5 : ∃ r : Nat, ∃ h : Held, ∃ s : State, (waits r h s) ∧ (h.stage = .fence) ∧ (bit (dw h 3) 0 = false) ∧ (fenceMet s r h = true) :=
  ⟨2, ⟨7, ⟨[257, 5]⟩, .fence, 0⟩, (parkedIn ⟨7, ⟨[257, 5]⟩, .fence, 0⟩ upD), by decide⟩

theorem wit_EngineTurnsAndParked_6 : ∃ r : Nat, ∃ h : Held, ∃ s : State, (waits r h s) ∧ (h.stage = .fence) ∧ (bit (dw h 3) 0 = false) ∧ (fenceMet s r h = false) :=
  ⟨2, ⟨7, ⟨[257, 5]⟩, .fence, 0⟩, (onRing 2 (fun p => { p with unacked := [6] }) (parkedIn ⟨7, ⟨[257, 5]⟩, .fence, 0⟩ upD)), by decide⟩

theorem wit_EngineTurnsAndParked_7 : ∃ r : Nat, ∃ units : Nat, ∃ left : Nat, ∃ err : Bool, ∃ h : Held, ∃ s : State, (waits r h s) ∧ (h.stage = .output units left err false) ∧ (opOf h ≠ 0x22) ∧ (opOf h ≠ 0x15) ∧ (left = 0) :=
  ⟨2, 36, 0, false, ⟨7, ⟨[321, 5]⟩, .output 36 0 false false, 0⟩, (parkedIn ⟨7, ⟨[321, 5]⟩, .output 36 0 false false, 0⟩ upD), by decide⟩

theorem wit_EngineTurnsAndParked_8 : ∃ r : Nat, ∃ units : Nat, ∃ left : Nat, ∃ err : Bool, ∃ h : Held, ∃ s : State, (waits r h s) ∧ (h.stage = .output units left err false) ∧ (opOf h ≠ 0x22) ∧ (opOf h ≠ 0x15) ∧ (left ≠ 0) :=
  ⟨2, 36, 2, false, ⟨7, ⟨[321, 5]⟩, .output 36 2 false false, 0⟩, (parkedIn ⟨7, ⟨[321, 5]⟩, .output 36 2 false false, 0⟩ upD), by decide⟩

theorem wit_EngineTurnsAndParked_9 : ∃ r : Nat, ∃ h : Held, ∃ s : State, (waits r h s) ∧ (h.stage = .serial) ∧ (opOf h = 0) ∧ (mustWait s r h = none) ∧ (common s r h = none) ∧ (reservedBad h = false) :=
  ⟨2, ⟨7, ⟨[8448, 5]⟩, .serial, 0⟩, (parkedIn ⟨7, ⟨[8448, 5]⟩, .serial, 0⟩ upD), by decide⟩

theorem wit_TapBeats_1 : ∃ tap : Nat, ∃ b : Beat, ∃ s : State, (running s) ∧ (s.build.lens = true) ∧ (tap < 2) ∧ (tapOf s tap = none) ∧ (s.obs.lens.inject = []) ∧ (b.fails = none) ∧ (b.first = true) ∧ (b.last = true) ∧ (attrOf s (b.site % 2 ^ 20) = none) :=
  ⟨0, { (default : Beat) with first := true, last := true, count := 2, data := 0x3F800000 }, up, by decide⟩

theorem wit_TapBeats_2 : ∃ tap : Nat, ∃ k : Nat, ∃ b : Beat, ∃ x : Slot, ∃ s : State, (running s) ∧ (s.build.lens = true) ∧ (tap < 2) ∧ (tapOf s tap = none) ∧ (rowsOf s tap = []) ∧ (s.obs.lens.inject = []) ∧ (s.obs.lens.replacing = none) ∧ (s.obs.lens.pairs = []) ∧ (s.obs.wat.watches = []) ∧ (s.obs.wat.dumps = []) ∧ (b.first = true) ∧ (b.last = true) ∧ (b.rowv = false) ∧ (b.fails = none) ∧ (b.count ≤ fmtFull b.fmt) ∧ (b.count < 1024) ∧ (slotFor s tap (newStream s b (tapHorizon s tap)) = some k) ∧ (slotOf s k = some x) ∧ (x.pair = false) ∧ (x.resident = true) ∧ ((partOf s x.part).state = 1) ∧ (pendCuts s x.part = []) :=
  ⟨0, 4, { (default : Beat) with first := true, last := true, count := 2, data := 0x3F800000 }, { (default : Slot) with resident := true, siteLast := 0xFFFFF, operLast := 0xFFFF, stepLast := 0xFFFFFFFF, roleMask := 1 }, (setSlot 4 (some { (default : Slot) with resident := true, siteLast := 0xFFFFF, operLast := 0xFFFF, stepLast := 0xFFFFFFFF, roleMask := 1 }) (onHed (fun p => { p with attr := [(0, 1)] }) up)), by decide⟩

theorem wit_TapBeats_3 : ∃ tap : Nat, ∃ g : Nat, ∃ b : Beat, ∃ s : State, (running s) ∧ (s.build.lens = true) ∧ (tap < 2) ∧ (tapOf s tap = none) ∧ (s.obs.lens.inject = []) ∧ (s.obs.lens.oos = false) ∧ (s.obs.lens.spareUsed = false) ∧ (b.fails = some g) ∧ (g < 8) ∧ (b.first = true) ∧ (b.last = true) ∧ (attrOf s (b.site % 2 ^ 20) = none) :=
  ⟨0, 3, { (default : Beat) with first := true, last := true, count := 2, data := 0x3F800000 , fails := some 3 }, up, by decide⟩

theorem wit_EgressLink_1 : ∃ r : Nat, ∃ g : Nat, ∃ h : Held, ∃ s : State, (atFrontOf 0x80 r h s) ∧ (reservedBad h = false) ∧ (fld (dw h 6) 0 2 < 2) ∧ (fld (dw h 6) 3 13 = 0) ∧ (dLen h 5 = 3) ∧ (canPark s r h = true) ∧ (readTag s g) :=
  ⟨2, 0, (hd [384, 5, 0, 4096, 0, 3, 0]), (front (hd [384, 5, 0, 4096, 0, 3, 0]) upD), by decide⟩

theorem wit_EgressLink_2 : ∃ r : Nat, ∃ h : Held, ∃ s : State, (atFrontOf 0x81 r h s) ∧ (reservedBad h = false) ∧ (s.obs.egr.state = 0) :=
  ⟨2, (hd [385, 5]), (front (hd [385, 5]) upD), by decide⟩

theorem wit_EgressLink_3 : ∃ r : Nat, ∃ h : Held, ∃ s : State, (atFrontOf 0x81 r h s) ∧ (reservedBad h = false) ∧ (s.obs.egr.state = 3) ∧ (bit (dw h 3) 0 = true) ∧ (s.obs.egr.slots ≠ []) ∧ (canPark s r h = true) :=
  ⟨2, (hd [385, 5, 0, 1]), (front (hd [385, 5, 0, 1]) (onEgr (fun p => { p with state := 3, slots := [default] }) upD)), by decide⟩

theorem wit_EgressLink_4 : ∃ r : Nat, ∃ h : Held, ∃ s : State, (atFrontOf 0x81 r h s) ∧ (reservedBad h = false) ∧ (s.obs.egr.state ≠ 0) ∧ (bit (dw h 3) 0 = false) :=
  ⟨2, (hd [385, 5]), (front (hd [385, 5]) (onEgr (fun p => { p with state := 3, slots := [default] }) upD)), by decide⟩

theorem wit_EgressLink_5 : ∃ r : Nat, ∃ seq : Nat, ∃ h : Held, ∃ s : State, (running s) ∧ (s.obs.egr.state = 1) ∧ (s.obs.egr.loopback = true) ∧ (s.obs.egr.cmd = some (r, seq)) ∧ ((ringOf s r).cur = none) ∧ ((ringOf s r).parked.find? (fun x => x.seq == seq) = some h) :=
  ⟨2, 7, ⟨7, ⟨[384, 5]⟩, .egrOpen 1 5, 0⟩, (onEgr (fun p => { p with state := 1, loopback := true, cmd := some (2, 7) }) (parkedIn ⟨7, ⟨[384, 5]⟩, .egrOpen 1 5, 0⟩ upD)), by decide⟩

theorem wit_EgressLink_6 : ∃ s : State, (running s) ∧ (s.obs.egr.state = 1) ∧ (s.obs.egr.loopback = false) ∧ (s.obs.egr.wantLanes = 16) ∧ (s.obs.egr.link.kept = []) ∧ (s.obs.egr.link.waiting = []) :=
  ⟨(onEgr (fun p => { p with state := 1, wantLanes := 16 }) up), by decide⟩

theorem wit_EgressLink_7 : ∃ lanes : Nat, ∃ s : State, (running s) ∧ (lanes = 8 ∨ lanes = 16) ∧ (2 ≤ s.obs.egr.state) ∧ (s.obs.egr.retraining.isSome = true) :=
  ⟨8, (onEgr (fun p => { p with state := 3, retraining := some 5 }) up), by decide⟩

theorem wit_EgressLink_8 : ∃ s : State, (running s) ∧ (2 ≤ s.obs.egr.state) ∧ (s.obs.egr.retraining = none) :=
  ⟨(onEgr (fun p => { p with state := 3 }) up), by decide⟩

theorem wit_EgressLink_9 : ∃ g : Nat, ∃ s : State, (running s) ∧ (s.obs.egr.state ≠ 0) ∧ (s.obs.egr.retraining = some g) ∧ (g + 1600000 ≤ now s) :=
  ⟨5, (onEgr (fun p => { p with state := 3, retraining := some 5 }) up), by decide⟩

theorem wit_EgressLink_10 : ∃ s : State, (running s) ∧ (s.obs.egr.state ≠ 0) :=
  ⟨(onEgr (fun p => { p with state := 3, slots := [default] }) up), by decide⟩

theorem wit_EgressLink_11 : ∃ s : State, (running s) :=
  ⟨(onEgr (fun p => { p with state := 3, slots := [default] }) up), by decide⟩

theorem wit_EgressLink_12 : ∃ s : State, (running s) ∧ (2 ≤ s.obs.egr.state) ∧ (s.obs.egr.link.lastFlit + 2 ^ 20 ≤ now s) :=
  ⟨(onEgr (fun p => { p with state := 3, slots := [default] }) up), by decide⟩

theorem wit_EgressLink_13 : ∃ r : Nat, ∃ seq : Nat, ∃ g : Nat, ∃ h : Held, ∃ s : State, (running s) ∧ (s.obs.egr.cmd = some (r, seq)) ∧ (heldOf s r seq = some h) ∧ (h.stage = .egrOpen 1 g) ∧ (s.obs.egr.state = 1) ∧ (s.obs.egr.slots = []) ∧ (g + 1600000 ≤ now s) :=
  ⟨2, 7, 5, ⟨7, ⟨[384, 5]⟩, .egrOpen 1 5, 0⟩, (onEgr (fun p => { p with state := 1, cmd := some (2, 7) }) (parkedIn ⟨7, ⟨[384, 5]⟩, .egrOpen 1 5, 0⟩ upD)), by decide⟩

theorem wit_EgressLink_14 : ∃ r : Nat, ∃ seq : Nat, ∃ g : Nat, ∃ h : Held, ∃ s : State, (running s) ∧ (s.obs.egr.cmd = some (r, seq)) ∧ (heldOf s r seq = some h) ∧ (h.stage = .egrOpen 2 g) ∧ (g + 160000000 ≤ now s) :=
  ⟨2, 7, 5, ⟨7, ⟨[384, 5]⟩, .egrOpen 2 5, 0⟩, (onEgr (fun p => { p with state := 2, cmd := some (2, 7) }) (parkedIn ⟨7, ⟨[384, 5]⟩, .egrOpen 2 5, 0⟩ upD)), by decide⟩

theorem wit_EgressMessages_1 : ∃ f : List Byte, ∃ s : State, (running s) ∧ (2 ≤ s.obs.egr.state) ∧ (f.length = 256) ∧ (flitGood f = false) :=
  ⟨(zeros 255 ++ [1]), (onEgr (fun p => { p with state := 3 }) up), by decide +kernel⟩

theorem wit_EgressMessages_2 : ∃ f : List Byte, ∃ s : State, (running s) ∧ (2 ≤ s.obs.egr.state) ∧ (s.obs.egr.state ≠ 5) ∧ (flitGood f = true) ∧ (leAt f 0 1 = 2) ∧ (leAt f 4 4 = (s.obs.egr.link.recvSeq + 1) % 2 ^ 32) ∧ (s.obs.egr.link.kept = []) ∧ (s.obs.egr.link.waiting = []) ∧ (s.obs.egr.slots = []) ∧ (s.obs.egr.lastMsg = none) ∧ (stationMsg (leAt f 16 1) = true) :=
  ⟨(flit ([2, 0, 0, 0, 1, 0, 0, 0] ++ zeros 8 ++ [4, 0, 32])), (onEgr (fun p => { p with state := 3 }) up), by decide, by decide, by decide, by decide +kernel, by decide⟩

theorem wit_EgressMessages_3 : ∃ r : Nat, ∃ seq : Nat, ∃ h : Held, ∃ m : List Byte, ∃ s : State, (running s) ∧ (s.obs.egr.inbox = [m]) ∧ (leAt m 0 1 = 2) ∧ (msgShape 224 m = true) ∧ (reservedIn m [(5, 3), (121, 7)] = false) ∧ (leAt m 4 1 = 1) ∧ (s.obs.egr.state = 2) ∧ (s.obs.egr.cmd = some (r, seq)) ∧ (heldOf s r seq = some h) :=
  ⟨2, 7, ⟨7, ⟨[384, 5]⟩, .egrOpen 2 5, 0⟩, ([2, 0, 224, 0, 1] ++ zeros 219), (onEgr (fun p => { p with state := 2, inbox := [([2, 0, 224, 0, 1] ++ zeros 219)], cmd := some (2, 7) }) (parkedIn ⟨7, ⟨[384, 5]⟩, .egrOpen 2 5, 0⟩ upD)), by decide +kernel⟩

theorem wit_EgressMessages_4 : ∃ m : List Byte, ∃ s : State, (running s) ∧ (s.obs.egr.inbox = [m]) ∧ (leAt m 0 1 = 4) ∧ (msgShape 32 m = true) ∧ (s.obs.egr.state = 3) ∧ (s.obs.egr.slots = []) ∧ (s.obs.egr.limFaults + 1 < fld (reg s (aEgr + 4)) 16 8) :=
  ⟨([4, 0, 32, 0, 1] ++ zeros 27), (onEgr (fun p => { p with state := 3, inbox := [([4, 0, 32, 0, 1] ++ zeros 27)] }) up), by decide⟩

theorem wit_EgressMessages_5 : ∃ m : List Byte, ∃ s : State, (running s) ∧ (s.obs.egr.inbox = [m]) ∧ (leAt m 0 1 = 6) ∧ (msgShape 32 m = true) ∧ (s.obs.egr.state = 3) ∧ (s.obs.egr.limFaults + 1 < fld (reg s (aEgr + 4)) 16 8) :=
  ⟨([6, 0, 32, 0, 1] ++ zeros 27), (onEgr (fun p => { p with state := 3, inbox := [([6, 0, 32, 0, 1] ++ zeros 27)] }) up), by decide⟩

theorem wit_EgressMessages_6 : ∃ m : List Byte, ∃ s : State, (running s) ∧ (s.obs.egr.inbox = [m]) ∧ (leAt m 0 1 = 0x10) ∧ (msgShape 40 m = true) ∧ (leAt m 4 1 < 16) ∧ (leAt m 6 1 < 4) ∧ (leAt m 7 1 < 64) ∧ (leAt m 7 1 ≠ s.aon.instId) :=
  ⟨([0x10, 0, 40, 0, 3, 4, 1, 9] ++ zeros 32), (onEgr (fun p => { p with state := 3, inbox := [([0x10, 0, 40, 0, 3, 4, 1, 9] ++ zeros 32)] }) up), by decide⟩

theorem wit_EgressMessages_7 : ∃ m : List Byte, ∃ s : State, (running s) ∧ (s.obs.egr.inbox = [m]) ∧ (leAt m 0 1 = 0x10) ∧ (msgShape 40 m = true) ∧ (leAt m 4 1 < 16) ∧ (leAt m 6 1 < 4) ∧ (leAt m 7 1 < 64) ∧ (leAt m 7 1 = s.aon.instId) ∧ (s.obs.egr.limFaults + 1 < fld (reg s (aEgr + 4)) 16 8) ∧ (s.obs.egr.state = 3) :=
  ⟨([0x10, 0, 40, 0, 3, 4, 1, 0] ++ zeros 32), (onEgr (fun p => { p with state := 3, inbox := [([0x10, 0, 40, 0, 3, 4, 1, 0] ++ zeros 32)] }) up), by decide⟩

theorem wit_EgressMessages_8 : ∃ m : List Byte, ∃ s : State, (running s) ∧ (s.obs.egr.inbox = [m]) ∧ (leAt m 0 1 = 0x11) ∧ (msgShape 40 m = true) ∧ (leAt m 4 1 < 16) ∧ (leAt m 6 1 < 4) ∧ (leAt m 7 1 < 64) ∧ (leAt m 7 1 = s.aon.instId) ∧ (s.obs.egr.limFaults + 1 < fld (reg s (aEgr + 4)) 16 8) ∧ (s.obs.egr.state = 3) :=
  ⟨([0x11, 0, 40, 0, 3, 4, 1, 0] ++ zeros 32), (onEgr (fun p => { p with state := 3, inbox := [([0x11, 0, 40, 0, 3, 4, 1, 0] ++ zeros 32)] }) up), by decide⟩

theorem wit_EgressMessages_9 : ∃ g : Nat, ∃ e : ESlot, ∃ s : State, (running s) ∧ (s.obs.egr.slots = [e]) ∧ (s.obs.egr.state = 3) ∧ (e.sentAt = some g) ∧ (g + ackTo s ≤ now s) :=
  ⟨5, { (default : ESlot) with sentAt := some 5 }, (onEgr (fun p => { p with state := 3, slots := [{ (default : ESlot) with sentAt := some 5 }] }) up), by decide⟩

theorem wit_EgressMessages_10 : ∃ s : State, (running s) ∧ (s.obs.egr.state = 4) ∧ (s.obs.egr.closeAt + ackTo s ≤ now s) :=
  ⟨(onEgr (fun p => { p with state := 4, closeAt := 5, slots := [default] }) up), by decide⟩

theorem wit_DiscoveryAndTime_1 : ∃ r : Nat, ∃ h : Held, ∃ s : State, (atFrontOf 0x90 r h s) ∧ (reservedBad h = false) ∧ (fwRuns s = true) ∧ (s.obs.fab.eUp = false) ∧ (s.obs.fab.wUp = false) :=
  ⟨2, (hd [400, 5]), (front (hd [400, 5]) upD), by decide⟩

theorem wit_DiscoveryAndTime_2 : ∃ r : Nat, ∃ h : Held, ∃ s : State, (atFrontOf 0x90 r h s) ∧ (reservedBad h = false) ∧ (fwRuns s = true) ∧ (s.obs.fab.eUp = true ∨ s.obs.fab.wUp = true) ∧ (s.obs.fab.cmd = none) ∧ (canPark s r h = true) :=
  ⟨2, (hd [400, 5]), (front (hd [400, 5]) (onFab (fun p => { p with eUp := true }) upD)), by decide⟩

theorem wit_DiscoveryAndTime_3 : ∃ r : Nat, ∃ h : Held, ∃ s : State, (atFrontOf 0x90 r h s) ∧ (reservedBad h = false) ∧ (fwRuns s = false) ∧ (s.obs.fab.cmd = none) ∧ (canPark s r h = true) :=
  ⟨2, (hd [400, 5]), (front (hd [400, 5]) (onPwr (fun p => { p with hedgerDown := true }) upD)), by decide⟩

theorem wit_DiscoveryAndTime_4 : ∃ x : FMsg, ∃ hops : Nat, ∃ east : Nat, ∃ s : State, (running s) ∧ (s.obs.fab.inbox = [x]) ∧ (leAt x.payload 0 1 = 0x20) ∧ (portUp s x.east = true) ∧ (hops = leAt x.payload 5 1 + 1) ∧ (east = (if x.east then (256 - hops) % 256 else hops)) ∧ let key := probeKey (leAt x.payload 4 1 % 64) (leAt x.payload 6 2)
    (seenBefore s key = false) :=
  ⟨⟨true, 9, 0, 5, ([0x20, 0, 0, 0, 1, 7, 5, 0] ++ zeros 24)⟩, 8, 248, (onFab (fun p => { p with inbox := [⟨true, 9, 0, 5, ([0x20, 0, 0, 0, 1, 7, 5, 0] ++ zeros 24)⟩], eUp := true, wUp := true }) up), by decide, by decide, by decide, by decide, by decide, by decide, by decide⟩

theorem wit_DiscoveryAndTime_5 : ∃ x : FMsg, ∃ hops : Nat, ∃ east : Nat, ∃ s : State, (running s) ∧ (s.obs.fab.inbox = [x]) ∧ (leAt x.payload 0 1 = 0x20) ∧ (portUp s x.east = true) ∧ (hops = leAt x.payload 5 1 + 1) ∧ (east = (if x.east then (256 - hops) % 256 else hops)) ∧ let key := probeKey (leAt x.payload 4 1 % 64) (leAt x.payload 6 2)
    (seenBefore s key = true) :=
  ⟨⟨true, 9, 0, 5, ([0x20, 0, 0, 0, 1, 7, 5, 0] ++ zeros 24)⟩, 8, 248, (onFab (fun p => { p with inbox := [⟨true, 9, 0, 5, ([0x20, 0, 0, 0, 1, 7, 5, 0] ++ zeros 24)⟩], eUp := true, wUp := true, seen := [⟨probeKey 1 5, true, 5⟩] }) up), by decide, by decide, by decide, by decide, by decide, by decide, by decide⟩

theorem wit_DiscoveryAndTime_6 : ∃ x : FMsg, ∃ d : Disc, ∃ s : State, (running s) ∧ (s.obs.fab.inbox = [x]) ∧ (leAt x.payload 0 1 = 0x21) ∧ (s.obs.fab.disc = some d) :=
  ⟨⟨true, 9, 0, 5, ([0x21, 0, 0, 0, 1, 7] ++ zeros 26)⟩, ⟨0, 1, 5, [⟨0, 0, 63, 0, false, true⟩]⟩, (onFab (fun p => { p with inbox := [⟨true, 9, 0, 5, ([0x21, 0, 0, 0, 1, 7] ++ zeros 26)⟩], disc := some ⟨0, 1, 5, [⟨0, 0, 63, 0, false, true⟩]⟩ }) up), by decide⟩

theorem wit_DiscoveryAndTime_7 : ∃ r : Nat, ∃ g : Nat, ∃ h : Held, ∃ d : Disc, ∃ s : State, (waits r h s) ∧ ((ringOf s r).cur = none) ∧ (h.stage = .fab g) ∧ (s.obs.fab.cmd = some (r, h.seq)) ∧ (s.obs.fab.assigned = false) ∧ (s.obs.fab.disc = some d) ∧ (s.obs.fab.state = 1) ∧ (fwRuns s = true) ∧ (g + 16384 ≤ now s) ∧ (sharedPair (eastward d.found) = false) ∧ (((eastward d.found).any fun m => m.busy && m.first) = false) ∧ (((eastward d.found).any fun m => decide (rankOf (ownPrio s) (ownSeed s) < rankOf m.prio m.seed)) = false) ∧ ((eastward d.found).any (isMe s) = true) :=
  ⟨2, 5, ⟨7, ⟨[400, 5]⟩, .fab 5, 0⟩, ⟨0, 1, 5, [⟨0, 0, 63, 0, false, true⟩]⟩, (onFab (fun p => { p with cmd := some (2, 7), state := 1, disc := some ⟨0, 1, 5, [⟨0, 0, 63, 0, false, true⟩]⟩ }) (parkedIn ⟨7, ⟨[400, 5]⟩, .fab 5, 0⟩ upD)), by decide⟩

theorem wit_DiscoveryAndTime_8 : ∃ r : Nat, ∃ g : Nat, ∃ h : Held, ∃ s : State, (waits r h s) ∧ ((ringOf s r).cur = none) ∧ (h.stage = .fab g) ∧ (s.obs.fab.cmd = some (r, h.seq)) ∧ (s.obs.fab.assigned = true) ∧ (fwRuns s = true) ∧ (s.obs.fab.root = true ∨ s.aon.discovered = true) :=
  ⟨2, 5, ⟨7, ⟨[400, 5]⟩, .fab 5, 0⟩, (onFab (fun p => { p with cmd := some (2, 7), assigned := true, root := true }) (parkedIn ⟨7, ⟨[400, 5]⟩, .fab 5, 0⟩ upD)), by decide⟩

theorem wit_DiscoveryAndTime_9 : ∃ x : FMsg, ∃ me : Member, ∃ s : State, (running s) ∧ (s.obs.fab.inbox = [x]) ∧ (leAt x.payload 0 1 = 0x22) ∧ (seenBefore s (le 1 0x22 ++ le 2 (leAt x.payload 6 2)) = false) ∧ ((assignMembers x.payload).find? (isMe s) = some me) :=
  ⟨⟨true, 9, 0, 5, ([0x22, 0, 0, 0, 2, 0, 5, 0] ++ le 4 (5 + 1 * 65536) ++ le 4 (2 * 65536) ++ zeros 60)⟩, ⟨0, 0, 2, 0, false, false⟩, (onFab (fun p => { p with inbox := [⟨true, 9, 0, 5, ([0x22, 0, 0, 0, 2, 0, 5, 0] ++ le 4 (5 + 1 * 65536) ++ le 4 (2 * 65536) ++ zeros 60)⟩] }) up), by decide⟩

theorem wit_DiscoveryAndTime_10 : ∃ x : FMsg, ∃ s : State, (running s) ∧ (s.obs.fab.inbox = [x]) ∧ (leAt x.payload 0 1 = 0x22) ∧ ((assignMembers x.payload).any (isMe s) = false) :=
  ⟨⟨true, 9, 0, 5, ([0x22, 0, 0, 0, 1, 0, 5, 0] ++ le 4 (5 + 1 * 65536) ++ zeros 64)⟩, (onFab (fun p => { p with inbox := [⟨true, 9, 0, 5, ([0x22, 0, 0, 0, 1, 0, 5, 0] ++ le 4 (5 + 1 * 65536) ++ zeros 64)⟩] }) up), by decide⟩

theorem wit_DiscoveryAndTime_11 : ∃ r : Nat, ∃ seq : Nat, ∃ g : Nat, ∃ h : Held, ∃ s : State, (running s) ∧ (s.obs.fab.cmd = some (r, seq)) ∧ (heldOf s r seq = some h) ∧ (h.stage = .fab g) ∧ (g + 320000 ≤ now s) :=
  ⟨2, 7, 5, ⟨7, ⟨[400, 5]⟩, .fab 5, 0⟩, (onFab (fun p => { p with cmd := some (2, 7), state := 1 }) (parkedIn ⟨7, ⟨[400, 5]⟩, .fab 5, 0⟩ upD)), by decide⟩

theorem wit_DiscoveryAndTime_12 : ∃ x : FMsg, ∃ s : State, (running s) ∧ (s.obs.fab.inbox = [x]) ∧ (leAt x.payload 0 1 = 0x23) ∧ (s.obs.fab.root = true) :=
  ⟨⟨true, 9, 0, 5, ([0x23] ++ zeros 15)⟩, (onFab (fun p => { p with inbox := [⟨true, 9, 0, 5, ([0x23] ++ zeros 15)⟩], eUp := true, root := true }) up), by decide⟩

theorem wit_DiscoveryAndTime_13 : ∃ g : Nat, ∃ x : FMsg, ∃ s : State, (running s) ∧ (s.obs.fab.inbox = [x]) ∧ (leAt x.payload 0 1 = 0x24) ∧ (s.obs.fab.tokenAt = some g) :=
  ⟨(2 ^ 28 - 50), ⟨true, 9, 0, 5, ([0x24] ++ zeros 15)⟩, (onFab (fun p => { p with inbox := [⟨true, 9, 0, 5, ([0x24] ++ zeros 15)⟩], tokenAt := some (2 ^ 28 - 50) }) up), by decide⟩

theorem wit_DiscoveryAndTime_14 : ∃ x : FMsg, ∃ s : State, (running s) ∧ (s.obs.fab.inbox = [x]) ∧ (leAt x.payload 0 1 = 0x25) ∧ (s.aon.discovered = false) ∧ (s.obs.fab.root = false) ∧ (s.obs.fab.assigned = true) ∧ (s.obs.fab.cmd = none) :=
  ⟨⟨true, 9, 0, 5, ([0x25, 0, 0, 0] ++ le 8 (2 ^ 30) ++ zeros 4)⟩, (onFab (fun p => { p with inbox := [⟨true, 9, 0, 5, ([0x25, 0, 0, 0] ++ le 8 (2 ^ 30) ++ zeros 4)⟩], root := false, assigned := true }) up), by decide⟩

theorem wit_DiscoveryAndTime_15 : ∃ rtt : Nat, ∃ x : FMsg, ∃ s : State, (running s) ∧ (s.obs.fab.inbox = [x]) ∧ (leAt x.payload 0 1 = 0x31) ∧ (s.obs.fab.root = false) ∧ (s.aon.misalign = false) ∧ (seenBefore s (le 1 0x31 ++ bytesAt x.payload 4 9) = false) ∧ (s.aon.fabRtt = some rtt) ∧ (s.aon.discovered = true) :=
  ⟨9, ⟨true, 9, 0, 5, ([0x31, 0, 0, 0] ++ le 8 (2 ^ 28) ++ zeros 4)⟩, (onFab (fun p => { p with inbox := [⟨true, 9, 0, 5, ([0x31, 0, 0, 0] ++ le 8 (2 ^ 28) ++ zeros 4)⟩], root := false }) { up with aon := { up.aon with discovered := true, fabRtt := some 9 } }), by decide⟩

theorem wit_FabricFreezesAndLinks_1 : ∃ T : Nat, ∃ x : FMsg, ∃ s : State, (running s) ∧ (s.obs.fab.inbox = [x]) ∧ (leAt x.payload 0 1 = 0x30) ∧ (leAt x.payload 4 1 = 0) ∧ (leAt x.payload 8 8 = T) ∧ (s.obs.fab.root = true) ∧ (s.aon.misalign = false) ∧ (engGt s + 64 ≤ T) ∧ (s.obs.hang.seq = none) ∧ ((∀ f ∈ freezes s, f.t + 63 < T ∨ T + 63 < f.t)) ∧ (s.obs.cut.sw.length < 4) :=
  ⟨(2 ^ 28 + 900), ⟨true, 9, 0, 5, ([0x30, 0, 0, 0, 0, 9, 6, 0] ++ le 8 (2 ^ 28 + 900) ++ zeros 8)⟩, (onFab (fun p => { p with inbox := [⟨true, 9, 0, 5, ([0x30, 0, 0, 0, 0, 9, 6, 0] ++ le 8 (2 ^ 28 + 900) ++ zeros 8)⟩], eUp := true, root := true }) up), by decide⟩

theorem wit_FabricFreezesAndLinks_2 : ∃ T : Nat, ∃ x : FMsg, ∃ s : State, (running s) ∧ (s.obs.fab.inbox = [x]) ∧ (leAt x.payload 0 1 = 0x30) ∧ (leAt x.payload 4 1 = 1) ∧ (leAt x.payload 8 8 = T) ∧ (leAt x.payload 5 1 % 64 ≠ s.aon.instId) ∧ (seenBefore s (freezeKey (leAt x.payload 6 2)) = false) ∧ (s.aon.misalign = false) ∧ (engGt s + 64 ≤ T) ∧ (s.obs.hang.seq = none) ∧ ((∀ f ∈ freezes s, f.t + 63 < T ∨ T + 63 < f.t)) ∧ (s.obs.cut.sw.length < 4) :=
  ⟨(2 ^ 28 + 900), ⟨true, 9, 0, 5, ([0x30, 0, 0, 0, 1, 9, 6, 0] ++ le 8 (2 ^ 28 + 900) ++ zeros 8)⟩, (onFab (fun p => { p with inbox := [⟨true, 9, 0, 5, ([0x30, 0, 0, 0, 1, 9, 6, 0] ++ le 8 (2 ^ 28 + 900) ++ zeros 8)⟩], root := false, eUp := true }) up), by decide⟩

theorem wit_FabricFreezesAndLinks_3 : ∃ x : FMsg, ∃ s : State, (running s) ∧ (s.obs.fab.inbox = [x]) ∧ (leAt x.payload 0 1 = 0x30) ∧ (leAt x.payload 4 1 = 1) ∧ (seenBefore s (freezeKey (leAt x.payload 6 2)) = true) :=
  ⟨⟨true, 9, 0, 5, ([0x30, 0, 0, 0, 1, 9, 6, 0] ++ le 8 (2 ^ 28 + 900) ++ zeros 8)⟩, (onFab (fun p => { p with inbox := [⟨true, 9, 0, 5, ([0x30, 0, 0, 0, 1, 9, 6, 0] ++ le 8 (2 ^ 28 + 900) ++ zeros 8)⟩], seen := [⟨freezeKey 6, true, 5⟩] }) up), by decide⟩

theorem wit_FabricFreezesAndLinks_4 : ∃ r : Nat, ∃ q : Nat, ∃ T : Nat, ∃ left : Nat, ∃ id : Nat, ∃ x : FMsg, ∃ h : Held, ∃ s : State, (running s) ∧ (s.obs.fab.inbox = [x]) ∧ (leAt x.payload 0 1 = 0x30) ∧ (leAt x.payload 4 1 = 2) ∧ (leAt x.payload 5 1 % 64 = s.aon.instId) ∧ (s.obs.fab.freezeCmds = [⟨r, h.seq, T⟩]) ∧ ((ringOf s r).cur = none) ∧ ((ringOf s r).parked.find? (fun y => y.seq == h.seq) = some h) ∧ (h.stage = .fabFreeze q left id) ∧ (q = leAt x.payload 6 2) ∧ (id ≠ 0) ∧ (left = 1) :=
  ⟨2, 6, (2 ^ 28 + 900), 1, 8, ⟨true, 9, 0, 5, ([0x30, 0, 0, 0, 2, 0, 6, 0] ++ le 8 (2 ^ 28 + 900) ++ zeros 8)⟩, ⟨7, ⟨[288, 5, 0, 0, 0, 1]⟩, .fabFreeze 6 1 8, 0⟩, (onFab (fun p => { p with inbox := [⟨true, 9, 0, 5, ([0x30, 0, 0, 0, 2, 0, 6, 0] ++ le 8 (2 ^ 28 + 900) ++ zeros 8)⟩], freezeCmds := [⟨2, 7, 2 ^ 28 + 900⟩] }) (parkedIn ⟨7, ⟨[288, 5, 0, 0, 0, 1]⟩, .fabFreeze 6 1 8, 0⟩ upD)), by decide⟩

theorem wit_FabricFreezesAndLinks_5 : ∃ r : Nat, ∃ q : Nat, ∃ T : Nat, ∃ left : Nat, ∃ id : Nat, ∃ x : FMsg, ∃ h : Held, ∃ s : State, (running s) ∧ (s.obs.fab.inbox = [x]) ∧ (leAt x.payload 0 1 = 0x30) ∧ (leAt x.payload 4 1 = 2) ∧ (leAt x.payload 5 1 % 64 = s.aon.instId) ∧ (s.obs.fab.freezeCmds = [⟨r, h.seq, T⟩]) ∧ ((ringOf s r).cur = none) ∧ ((ringOf s r).parked.find? (fun y => y.seq == h.seq) = some h) ∧ (h.stage = .fabFreeze q left id) ∧ (q = leAt x.payload 6 2) ∧ (id ≠ 0) ∧ (1 < left) :=
  ⟨2, 6, (2 ^ 28 + 900), 2, 8, ⟨true, 9, 0, 5, ([0x30, 0, 0, 0, 2, 0, 6, 0] ++ le 8 (2 ^ 28 + 900) ++ zeros 8)⟩, ⟨7, ⟨[288, 5, 0, 0, 0, 1]⟩, .fabFreeze 6 2 8, 0⟩, (onFab (fun p => { p with inbox := [⟨true, 9, 0, 5, ([0x30, 0, 0, 0, 2, 0, 6, 0] ++ le 8 (2 ^ 28 + 900) ++ zeros 8)⟩], freezeCmds := [⟨2, 7, 2 ^ 28 + 900⟩] }) (parkedIn ⟨7, ⟨[288, 5, 0, 0, 0, 1]⟩, .fabFreeze 6 2 8, 0⟩ upD)), by decide⟩

theorem wit_FabricFreezesAndLinks_6 : ∃ r : Nat, ∃ q : Nat, ∃ T : Nat, ∃ left : Nat, ∃ id : Nat, ∃ x : FMsg, ∃ h : Held, ∃ s : State, (running s) ∧ (s.obs.fab.inbox = [x]) ∧ (leAt x.payload 0 1 = 0x30) ∧ (leAt x.payload 4 1 = 3) ∧ (leAt x.payload 5 1 % 64 = s.aon.instId) ∧ (s.obs.fab.freezeCmds = [⟨r, h.seq, T⟩]) ∧ (heldOf s r h.seq = some h) ∧ (h.stage = .fabFreeze q left id) ∧ (q = leAt x.payload 6 2) :=
  ⟨2, 6, (2 ^ 28 + 900), 1, 8, ⟨true, 9, 0, 5, ([0x30, 0, 0, 0, 3, 0, 6, 0] ++ le 8 (2 ^ 28 + 900) ++ zeros 8)⟩, ⟨7, ⟨[288, 5, 0, 0, 0, 1]⟩, .fabFreeze 6 1 8, 0⟩, (onFab (fun p => { p with inbox := [⟨true, 9, 0, 5, ([0x30, 0, 0, 0, 3, 0, 6, 0] ++ le 8 (2 ^ 28 + 900) ++ zeros 8)⟩], freezeCmds := [⟨2, 7, 2 ^ 28 + 900⟩] }) (parkedIn ⟨7, ⟨[288, 5, 0, 0, 0, 1]⟩, .fabFreeze 6 1 8, 0⟩ upD)), by decide⟩

theorem wit_FabricFreezesAndLinks_7 : ∃ east : Bool, ∃ s : State, (running s) ∧ ((if east then s.obs.fab.eUp else s.obs.fab.wUp) = true) ∧ ((linkOf s east).lastFlit + 3 * 2 ^ 14 ≤ now s) ∧ (s.obs.fab.root = true) ∧ (s.obs.fab.members.length ≠ 2) :=
  ⟨true, (onFab (fun p => { p with eUp := true, wUp := true, root := true }) up), by decide⟩

theorem wit_FabricFreezesAndLinks_8 : ∃ east : Bool, ∃ m : Member, ∃ s : State, (running s) ∧ ((if east then s.obs.fab.eUp else s.obs.fab.wUp) = true) ∧ ((linkOf s east).lastFlit + 3 * 2 ^ 14 ≤ now s) ∧ (neighbour s east = some m) ∧ (m.id ≠ s.aon.instId) :=
  ⟨true, ⟨1, 5, 4, 0, false, true⟩, (onFab (fun p => { p with eUp := true, wUp := true, state := 2, members := [⟨0, 0, 0, 0, false, true⟩, ⟨1, 5, 4, 0, false, true⟩, ⟨2, 5, 7, 0, false, true⟩], rootId := 7 }) up), by decide⟩

theorem wit_FabricFreezesAndLinks_9 : ∃ east : List Nat, ∃ west : List Nat, ∃ seg : List Member, ∃ m : Member, ∃ s : State, (running s) ∧ (s.obs.fab.state = 2) ∧ (seg = segment (east ++ west) s) ∧ (elected seg = some m) ∧ ((seg.any fun x => x.id == s.obs.fab.rootId) = false) ∧ (s.obs.fab.freezeCmds = []) :=
  ⟨[4], [], [⟨0, 0, 0, 0, false, true⟩, ⟨1, 5, 4, 0, false, true⟩], ⟨1, 5, 4, 0, false, true⟩, (onFab (fun p => { p with eUp := true, state := 2, root := false, rootId := 7, members := [⟨0, 0, 0, 0, false, true⟩, ⟨1, 5, 4, 0, false, true⟩, ⟨2, 5, 7, 0, false, true⟩] }) up), by decide⟩

theorem wit_FabricFreezesAndLinks_10 : ∃ east : List Nat, ∃ west : List Nat, ∃ other : Nat, ∃ seg : List Member, ∃ m : Member, ∃ s : State, (running s) ∧ (s.obs.fab.state = 2) ∧ (seg = segment (east ++ west) s) ∧ (m ∈ seg) ∧ (m.id = s.obs.fab.rootId) ∧ ((∀ x ∈ seg, x.id = s.obs.fab.rootId ∨ x.id = other → x = m ∨ rankOf x.prio x.seed < rankOf m.prio m.seed)) :=
  ⟨[4], [7], 4, [⟨0, 0, 0, 0, false, true⟩, ⟨1, 5, 4, 0, false, true⟩, ⟨2, 6, 7, 0, false, true⟩], ⟨2, 6, 7, 0, false, true⟩, (onFab (fun p => { p with eUp := true, state := 2, root := false, rootId := 7, members := [⟨0, 0, 0, 0, false, true⟩, ⟨1, 5, 4, 0, false, true⟩, ⟨2, 6, 7, 0, false, true⟩] }) up), by decide⟩

theorem wit_FabricFreezesAndLinks_11 : ∃ east : Bool, ∃ f : List Byte, ∃ s : State, (running s) ∧ (s.build.fabric = true) ∧ (s.aon.pwr.ready = true) ∧ (f.length = 256) ∧ (peerOk s east = true) ∧ (dropsFlit s east f = false) ∧ (flitGood f = false) :=
  ⟨true, (zeros 255 ++ [1]), (onFab (fun p => { p with eUp := true }) up), by decide +kernel⟩

theorem wit_FabricFreezesAndLinks_12 : ∃ east : Bool, ∃ f : List Byte, ∃ s : State, (running s) ∧ (s.build.fabric = true) ∧ (s.aon.pwr.ready = true) ∧ (f.length = 256) ∧ (dropsFlit s east f = false) ∧ (flitGood f = true) ∧ (portUp s east = true) ∧ (portX s east = false) ∧ ((linkOf s east).kept = []) ∧ ((linkOf s east).waiting = []) ∧ (leAt f 0 1 = 2) ∧ (leAt f 1 1 % 64 = s.aon.instId) ∧ (leAt f 4 4 = ((linkOf s east).recvSeq + 1) % 2 ^ 32) ∧ (leAt (bytesAt f 16 232) 0 1 ≠ 0x10) ∧ (leAt (bytesAt f 16 232) 0 1 ≠ 0x11) ∧ (fabLen 2 (leAt (bytesAt f 16 232) 0 1) ≠ 0) ∧ (leAt (bytesAt f 16 232) 2 2 = fabLen 2 (leAt (bytesAt f 16 232) 0 1)) ∧ (s.obs.fab.inbox = []) :=
  ⟨true, (flit ([2, 0, 0, 9, 1, 0, 0, 0] ++ zeros 8 ++ [0x20, 0, 8, 0])), (onFab (fun p => { p with eUp := true }) up), by decide +kernel⟩

theorem wit_FabricFreezesAndLinks_13 : ∃ x : FMsg, ∃ f : Frame, ∃ s : State, (running s) ∧ (s.obs.fab.inbox = [x]) ∧ (leAt x.payload 0 1 = 0x26) ∧ (s.obs.fab.sent = [f]) ∧ (f.part = leAt x.payload 4 1 % 16) ∧ (f.job = leAt x.payload 5 1) ∧ (f.ctx = leAt x.payload 8 4) ∧ (f.seq = leAt x.payload 12 4) ∧ (s.aon.keys.jobs = []) ∧ (s.build.egress = true) :=
  ⟨⟨true, 9, 0, 5, ([0x26, 0, 0, 0, 2, 4, 1, 0, 5, 0, 0, 0, 6, 0, 0, 0] ++ zeros 8)⟩, { (default : Frame) with part := 2, job := 4, ctx := 5, seq := 6 }, (onFab (fun p => { p with inbox := [⟨true, 9, 0, 5, ([0x26, 0, 0, 0, 2, 4, 1, 0, 5, 0, 0, 0, 6, 0, 0, 0] ++ zeros 8)⟩], sent := [{ (default : Frame) with part := 2, job := 4, ctx := 5, seq := 6 }] }) up), by decide⟩

end Sys2Proof.Tests
end

section
/-! SUPPORT. Boxwood's consumer operations (chapter 8): the frame of a command, what each operation does to the queue
and to its sequence numbers, and the statements about READ, MARK, REWIND and RELEASE. -/

/-! ## Frames -/

namespace Sys2Proof.Safety

open Sys2Proof.Machine

theorem onlyChanges.mono {ps qs : List Part} {s t : State} (h : onlyChanges ps s t) (hs : ps ⊆ qs) :
    onlyChanges qs s t := by
  obtain ⟨hb, hsc, hp, hparts⟩ := h
  exact ⟨hb, hsc, hp, fun p hq => hparts p fun hm => hq (hs hm)⟩

theorem same_trans {p : Part} {s t u : State} (h : same p s t) (k : same p t u) : same p s u := by
  cases p with
  | ident =>
    obtain ⟨h1, h2, h3, h4, h5⟩ := h
    obtain ⟨k1, k2, k3, k4, k5⟩ := k
    exact ⟨k1.trans h1, k2.trans h2, k3.trans h3, k4.trans h4, k5.trans h5⟩
  | _ => exact Eq.trans k h

theorem onlyChanges.trans {ps : List Part} {s t u : State} (h : onlyChanges ps s t) (k : onlyChanges ps t u) :
    onlyChanges ps s u := by
  obtain ⟨hb, hsc, hp, hparts⟩ := h
  obtain ⟨kb, ksc, kp, kparts⟩ := k
  exact ⟨kb.trans hb, ksc.trans hsc, kp.trans hp, fun p hq => same_trans (hparts p hq) (kparts p hq)⟩

theorem onlyChanges.ite {ps : List Part} {s t u : State} (c : Prop) [Decidable c] (h : onlyChanges ps s t)
    (k : onlyChanges ps s u) : onlyChanges ps s (if c then t else u) := by
  split
  · exact h
  · exact k

theorem onlyChanges_onEvq (f : Evq → Evq) (s : State) : onlyChanges [.evq] s (onEvq f s) := by
  refine ⟨rfl, rfl, rfl, fun p hp => ?_⟩
  cases p with
  | evq => simp at hp
  | ident => exact ⟨rfl, rfl, rfl, rfl, rfl⟩
  | _ => rfl

/-- A store to a register of an OBS block has those registers for its frame. -/
theorem onlyChanges_setReg_obs {a : Nat} (h : regAon a = false) (v : U32) (s : State) :
    onlyChanges [.obsRegs] s (setReg a v s) := by
  obtain ⟨m, hm⟩ := setReg_obs h v s
  rw [hm]
  refine ⟨rfl, rfl, rfl, fun p hp => ?_⟩
  cases p with
  | obsRegs => simp at hp
  | ident => exact ⟨rfl, rfl, rfl, rfl, rfl⟩
  | _ => rfl

end Sys2Proof.Safety

namespace Sys2Proof.Machine

open Sys2Proof.Safety

/-! ## Lists -/

theorem leastBy_eq_none {α : Type} {key : α → Nat} {l : List α} (h : leastBy key l = none) : l = [] := by
  cases l with
  | nil => rfl
  | cons y ys =>
    rw [leastBy] at h
    split at h
    · cases h
    · split at h <;> cases h

theorem leastBy_le {α : Type} {key : α → Nat} {l : List α} {x : α} (h : leastBy key l = some x) :
    ∀ y ∈ l, key x ≤ key y := by
  induction l generalizing x with
  | nil => cases h
  | cons y ys ih =>
    rw [leastBy] at h
    intro z hz
    split at h
    · rename_i hn
      cases h
      rw [leastBy_eq_none hn, List.mem_singleton] at hz
      exact Nat.le_of_eq (congrArg key hz.symm)
    · rename_i w hw
      have hys := ih hw
      obtain rfl | hz := List.mem_cons.mp hz
      · split at h <;> cases h <;> omega
      · have := hys z hz
        split at h <;> cases h <;> omega

/-- A change of one element that a function does not see leaves the function's values. -/
theorem map_modFirst {α β : Type} (p : α → Bool) (f : α → α) (g : α → β) (h : ∀ x, g (f x) = g x) (l : List α) :
    (modFirst p f l).map g = l.map g := by
  induction l with
  | nil => rfl
  | cons x xs ih =>
    rw [modFirst]
    split
    · simp [h]
    · simp [ih]

/-! ## State and registers -/

theorem onEvq_self {f : Evq → Evq} {s : State} (h : f s.obs.evq = s.obs.evq) : onEvq f s = s := by
  simp only [onEvq, onObs, h]

@[simp] theorem bit_or {w : Nat} (x y : BitVec w) (i : Nat) : bit (x ||| y) i = (bit x i || bit y i) := by
  simp [bit, BitVec.toNat_or]

/-! ## A change of OCC (R189, R190) -/

theorem occMoved_evq (old : Nat) (s : State) :
    ∃ p, (occMoved old s).obs.evq = { s.obs.evq with pinHi := p } := by
  unfold occMoved
  extract_lets n hwm lwm s1 s2 s3
  have h2 : s2.obs.evq = s1.obs.evq := by unfold s2; split <;> simp
  have h3 : s3.obs.evq = s2.obs.evq := by unfold s3; split <;> simp
  refine ⟨s1.obs.evq.pinHi, Eq.trans (b := s3.obs.evq) ?_ (h3.trans h2)⟩
  split <;> simp

@[simp] theorem occMoved_q (old : Nat) (s : State) : (occMoved old s).obs.evq.q = s.obs.evq.q := by
  obtain ⟨_, h⟩ := occMoved_evq old s; rw [h]

@[simp] theorem occMoved_rseq (old : Nat) (s : State) : (occMoved old s).obs.evq.rseq = s.obs.evq.rseq := by
  obtain ⟨_, h⟩ := occMoved_evq old s; rw [h]

@[simp] theorem occMoved_mark (old : Nat) (s : State) : (occMoved old s).obs.evq.mark = s.obs.evq.mark := by
  obtain ⟨_, h⟩ := occMoved_evq old s; rw [h]

/-- A store to one of Boxwood's status registers, within the frame of a change of OCC. -/
theorem onlyChanges_setReg_evq {a : Nat} (h : regAon a = false) (v : U32) (s : State) :
    onlyChanges [.obsRegs, .evq] s (setReg a v s) :=
  (onlyChanges_setReg_obs h v s).mono (by simp)

theorem onlyChanges_occMoved (old : Nat) (s : State) : onlyChanges [.obsRegs, .evq] s (occMoved old s) := by
  have crossing : ∀ (m k : U32) (lo : Nat) (t : State), onlyChanges [.obsRegs, .evq] t
      (bumpReg (aEvq + 0x14) lo 8 1 (orReg (aEvq + 0x24) m (orReg (aEvq + 0x10) k t))) := fun m k lo t =>
    ((onlyChanges_setReg_evq (by decide) _ t).trans (onlyChanges_setReg_evq (by decide) _ _)).trans
      (onlyChanges_setReg_evq (by decide) _ _)
  unfold occMoved
  extract_lets n hwm lwm s1 s2 s3
  have h1 : onlyChanges [.obsRegs, .evq] s s1 := (onlyChanges_onEvq _ s).mono (by simp)
  have h2 : onlyChanges [.obsRegs, .evq] s s2 := .ite _ (h1.trans (onlyChanges_setReg_evq (by decide) _ s1)) h1
  have h3 : onlyChanges [.obsRegs, .evq] s s3 := .ite _ (h2.trans (crossing _ _ _ s2)) h2
  exact .ite _ (h3.trans (crossing _ _ _ s3)) h3

/-! ## Hedger's operations as commands (R186) -/

section Hedger

variable {s : State} (hr : running s) (hc : s.obs.evq.consAct = false)
include hr hc

/-- While Hedger is the consumer in force, its operation acts, and then what follows every command. -/
theorem run_byHedger (f : State → State) : run (byHedger f) s = .next (settle s (f s)) := by
  obtain ⟨hscan, hruns⟩ := hr
  rw [run_next _ _ hscan, byHedger, hc, if_neg Bool.false_ne_true, inObs_run _ _ hruns]

theorem goesTo_boxwoodRead : goesTo .boxwoodRead s (opRead s) := run_byHedger hr hc opRead

theorem goesTo_boxwoodMark : goesTo .boxwoodMark s (opMark s) := run_byHedger hr hc opMark

theorem goesTo_boxwoodRewind : goesTo .boxwoodRewind s (opRewind s) := run_byHedger hr hc opRewind

theorem goesTo_boxwoodRelease (n : Nat) : goesTo (.boxwoodRelease n) s (opRelease n s) :=
  run_byHedger hr hc (opRelease n)

end Hedger

/-! ## The stages that operations leave occupied -/

/-- The occupied stages, whatever their READ state: the items with their order of acceptance. -/
def stages (s : State) : List (Item × Nat) := s.obs.evq.q.map fun i => (i.item, i.age)

theorem stages_readItem (q : QItem) (s : State) : stages (readItem q s) = stages s :=
  map_modFirst _ (fun i : QItem => { i with read := some s.obs.evq.rseq }) _ (fun _ => rfl) _

theorem stages_opRead (s : State) : stages (opRead s) = stages s := by
  unfold opRead
  split
  · rfl
  · split
    · exact stages_readItem _ s
    · split <;> rfl

theorem stages_opMark (s : State) : stages (opMark s) = stages s := rfl

/-! ## READ (R178, R180, R181) -/

theorem opRead_of_presented {q : QItem} {s : State} (hch : s.obs.evq.changing = false) (hq : presented s = some q) :
    opRead s = readItem q s := by
  simp [opRead, hch, hq]

/-- No unread item has a lower PRIO than the item that the selector presents. -/
theorem presented_prio_le {q : QItem} {s : State} (h : presented s = some q) :
    ∀ i ∈ s.obs.evq.q, i.read = none → q.item.prio ≤ i.item.prio := by
  intro i hi hu
  have hle := leastBy_le h i (by simp [hi, hu])
  omega

/-- The number after a 16-bit sequence number (R181). -/
theorem succ_mod_seq {r : Nat} (h : r < 2 ^ 16) : (r + 1) % 2 ^ 16 = if r = 0xFFFF then 0 else r + 1 := by
  split <;> omega

/-! ## REWIND (R182) -/

/-- The numbers within k of m are m, m + 1, …, modulo 2^16. -/
theorem seqDist_lt_iff {m n : Nat} (hm : m < 2 ^ 16) (hn : n < 2 ^ 16) (k : Nat) :
    seqDist m n < k ↔ ∃ d, d < k ∧ n = (m + d) % 2 ^ 16 := by
  unfold seqDist
  constructor
  · exact fun h => ⟨_, h, by omega⟩
  · rintro ⟨d, hd, rfl⟩
    omega

@[simp] theorem seqDist_self (m : Nat) : seqDist m m = 0 := by
  unfold seqDist
  omega

/-- An item after a REWIND with mark m at RSEQ r. -/
def rewound (m r : Nat) (i : QItem) : QItem :=
  match i.read with
  | some n => if seqDist m n < seqDist m r then { i with read := none } else i
  | none => i

theorem rewound_of_lt {m r n : Nat} {i : QItem} (h : i.read = some n) (hn : seqDist m n < seqDist m r) :
    rewound m r i = { i with read := none } := by
  simp [rewound, h, hn]

theorem rewound_of_le {m r n : Nat} {i : QItem} (h : i.read = some n) (hn : seqDist m r ≤ seqDist m n) :
    rewound m r i = i := by
  simp [rewound, h, Nat.not_lt.mpr hn]

theorem rewound_self (m : Nat) (i : QItem) : rewound m m i = i := by
  cases h : i.read <;> simp [rewound, h]

theorem rewound_stage (m r : Nat) (i : QItem) : ((rewound m r i).item, (rewound m r i).age) = (i.item, i.age) := by
  unfold rewound
  split
  · split <;> rfl
  · rfl

theorem opRewind_eq (s : State) :
    opRewind s = onEvq (fun e => { e with rseq := e.mark, q := e.q.map (rewound e.mark e.rseq) }) s := rfl

theorem stages_opRewind (s : State) : stages (opRewind s) = stages s := by
  simp [stages, opRewind_eq, rewound_stage]

theorem opRewind_at_mark {s : State} (h : s.obs.evq.rseq = s.obs.evq.mark) : opRewind s = s := by
  have hid : rewound s.obs.evq.mark s.obs.evq.mark = id := funext (rewound_self _)
  have hq : s.obs.evq.q.map (rewound s.obs.evq.mark s.obs.evq.rseq) = s.obs.evq.q := by rw [h, hid, List.map_id]
  rw [opRewind_eq]
  apply onEvq_self
  rw [hq]
  exact congrArg (fun r => { s.obs.evq with rseq := r }) h.symm

theorem rewound_mem_opRewind {s : State} {i : QItem} (h : i ∈ s.obs.evq.q) :
    rewound s.obs.evq.mark s.obs.evq.rseq i ∈ (opRewind s).obs.evq.q :=
  List.mem_map_of_mem h

/-! ## RELEASE (R183) -/

theorem opRelease_of_none {s : State} (n : Nat) (h : oldestRead s = none) :
    opRelease n s = orReg (aEvq + 0x10) 0x10 s := by
  simp [opRelease, h]

theorem opRelease_of_le {s : State} {n o : Nat} (h : oldestRead s = some o)
    (hn : seqDist o s.obs.evq.rseq ≤ seqDist o n) : opRelease n s = orReg (aEvq + 0x10) 0x10 s := by
  simp [opRelease, h, Nat.not_lt.mpr hn]

/-- Does a RELEASE up to n keep the item, with o the oldest number in the READ state? -/
def keptPast (o n : Nat) (i : QItem) : Bool :=
  match i.read with
  | some m => decide (seqDist o n < seqDist o m)
  | none => true

theorem keptPast_iff (o n : Nat) (i : QItem) :
    keptPast o n i = true ↔ i.read = none ∨ ∃ m, i.read = some m ∧ seqDist o n < seqDist o m := by
  cases h : i.read <;> simp [keptPast, h]

/-- The mark after a RELEASE up to n: it moves where it lies from o to n. -/
def markPast (o n : Nat) (e : Evq) : Nat :=
  if seqDist o e.mark ≤ seqDist o n ∧ seqDist o e.mark < seqDist o e.rseq + 1 then (n + 1) % 2 ^ 16 else e.mark

theorem markPast_of_le {o n : Nat} {e : Evq} (hn : seqDist o n < seqDist o e.rseq)
    (h : seqDist o e.mark ≤ seqDist o n) : markPast o n e = (n + 1) % 2 ^ 16 :=
  if_pos ⟨h, by omega⟩

theorem markPast_of_lt {o n : Nat} {e : Evq} (h : seqDist o e.rseq < seqDist o e.mark) : markPast o n e = e.mark :=
  if_neg fun ⟨_, hlt⟩ => by omega

theorem opRelease_of_lt {s : State} {n o : Nat} (h : oldestRead s = some o)
    (hn : seqDist o n < seqDist o s.obs.evq.rseq) :
    opRelease n s = occMoved (occ s)
      (onEvq (fun e => { e with q := e.q.filter (keptPast o n), mark := markPast o n e }) s) := by
  simp only [opRelease, h, if_pos hn]
  rfl

theorem onlyChanges_opRelease_of_lt {s : State} {n o : Nat} (h : oldestRead s = some o)
    (hn : seqDist o n < seqDist o s.obs.evq.rseq) : onlyChanges [.obsRegs, .evq] s (opRelease n s) := by
  rw [opRelease_of_lt h hn]
  exact ((onlyChanges_onEvq _ s).mono (by simp)).trans (onlyChanges_occMoved _ _)

/-- A refused RELEASE sets REL_ERR and has no other effect. -/
theorem release_refused {s : State} {n : Nat} (hr : running s) (hc : s.obs.evq.consAct = false)
    (h : opRelease n s = orReg (aEvq + 0x10) 0x10 s) :
    ∃ t, goesTo (.boxwoodRelease n) s t ∧ onlyChanges [.obsRegs] s t ∧ bit (reg t 0x7010) 4 = true ∧
      ∀ b, b ≠ 0x7010 → reg t b = reg s b := by
  refine ⟨_, goesTo_boxwoodRelease hr hc n, ?_, ?_, fun b hb => ?_⟩
  · rw [h]
    exact onlyChanges_setReg_obs (by decide) _ s
  · have hbit : bit (0x10 : U32) 4 = true := by decide
    rw [h, orReg_eq, show aEvq + 0x10 = 0x7010 from rfl, reg_setReg_same, bit_or, hbit, Bool.or_true]
  · rw [h]
    exact reg_setReg_other _ _ _ _ hb

/-! ## The statements -/

/-- Settles O30, by the equation of a READ that has an item (`opRead_of_presented`) and of the number after RSEQ
(`succ_mod_seq`); MARK and reset by unfolding. -/
theorem readSequenceNumbers : Obligations.ReadSequenceNumbers := by
  unfold Obligations.ReadSequenceNumbers
  refine ⟨fun b z => ⟨rfl, rfl⟩, ?_, ?_⟩
  · intro q s hr hc hch hq hseq
    refine ⟨_, goesTo_boxwoodRead hr hc, ?_⟩
    rw [opRead_of_presented hch hq]
    exact ⟨onlyChanges_onEvq _ s, rfl, Nat.mod_lt _ (by omega), succ_mod_seq hseq⟩
  · intro s hr hc
    exact ⟨_, goesTo_boxwoodMark hr hc, onlyChanges_onEvq _ s, rfl⟩

/-- Settles O31: REWIND acts item by item as `rewound`, whose condition is the range of R182. -/
theorem rewindUnreads : Obligations.RewindUnreads := by
  unfold Obligations.RewindUnreads
  intro s hr hc _ hm
  refine ⟨_, goesTo_boxwoodRewind hr hc, onlyChanges_onEvq _ s, rfl, rfl, opRewind_at_mark, stages_opRewind s, ?_,
    fun q hq => presented_prio_le hq⟩
  intro i hi n hread hn
  have hmem := rewound_mem_opRewind hi
  have hrange := seqDist_lt_iff hm hn (seqDist s.obs.evq.mark s.obs.evq.rseq)
  constructor
  · intro hin
    rwa [rewound_of_lt hread (hrange.mpr hin)] at hmem
  · intro hout
    have hle : ¬ seqDist s.obs.evq.mark n < seqDist s.obs.evq.mark s.obs.evq.rseq := fun hlt => by
      obtain ⟨d, hd, heq⟩ := hrange.mp hlt
      exact hout d hd heq
    rwa [rewound_of_le hread (Nat.not_lt.mp hle)] at hmem

/-- Settles O32: within the range a RELEASE filters the stages by `keptPast` and moves M by `markPast`; outside it, it
sets REL_ERR; READ, MARK and REWIND keep every stage. -/
theorem releaseFrees : Obligations.ReleaseFrees := by
  unfold Obligations.ReleaseFrees
  refine ⟨?_, ?_, ?_⟩
  · intro s hr hc c hmem
    simp only [List.mem_cons, List.not_mem_nil, or_false] at hmem
    obtain rfl | rfl | rfl := hmem
    · exact ⟨_, goesTo_boxwoodRead hr hc, stages_opRead s⟩
    · exact ⟨_, goesTo_boxwoodMark hr hc, stages_opMark s⟩
    · exact ⟨_, goesTo_boxwoodRewind hr hc, stages_opRewind s⟩
  · intro n s hr hc hnone
    exact release_refused hr hc (opRelease_of_none n hnone)
  · intro n o s hr hc ho
    refine ⟨fun hn => ?_, fun hn => release_refused hr hc (opRelease_of_le ho hn)⟩
    refine ⟨_, goesTo_boxwoodRelease hr hc n, onlyChanges_opRelease_of_lt ho hn, ?_⟩
    rw [opRelease_of_lt ho hn]
    refine ⟨occMoved_rseq _ _, fun i => ?_, fun hle => ?_, fun hlt => ?_⟩
    · rw [occMoved_q, ← keptPast_iff]
      exact List.mem_filter
    · rw [occMoved_mark]
      exact markPast_of_le hn hle
    · rw [occMoved_mark]
      exact markPast_of_lt hlt

end Sys2Proof.Machine
end

section
/-! SUPPORT. The machine held by `RST_N` (Table 14.3): what each operation of the AON domain leaves, and the statements
about states under reset. -/

namespace Sys2Proof.Machine

open Sys2Proof.Safety

set_option Elab.async false

/-! ## Commands of the OBS domain while it does not run -/

theorem run_of_rest {f : State → State} {s : State} (hs : s.scan = false) (hf : f s = s) : run f s = .next s := by
  rw [run_next _ _ hs, hf, settle_self]

/-- A command of the OBS domain changes nothing while the domain does not run. -/
theorem run_inObs_rest (f : State → State) {s : State} (hs : s.scan = false) (h : obsRuns s = false) :
    run (inObs f) s = .next s :=
  run_of_rest hs (inObs_rest f s h)

theorem run_byHedger_rest (f : State → State) {s : State} (hs : s.scan = false) (h : obsRuns s = false) :
    run (byHedger f) s = .next s :=
  run_of_rest hs (by unfold byHedger; split <;> simp [inObs_rest _ _ h])

/-! ## Held by `RST_N` -/

/-- Held by `RST_N`, with the commands l waiting. -/
def heldWith (l : List Instr) (s : State) : Prop :=
  s.scan = false ∧ s.aon.pwr.rstN = false ∧ (s.aon.pwr.stage = .awake ∨ s.aon.pwr.stage = .dropped) ∧ obsHeld s ∧
    s.pending = l

theorem underReset_iff (s : State) :
    underReset s ↔ heldWith s.pending s ∧ ∀ c ∈ s.pending, c ≠ .rstNRise ∧ c ≠ .scanMode true :=
  ⟨fun ⟨hs, hr, hst, ho, hp⟩ => ⟨⟨hs, hr, hst, ho, rfl⟩, hp⟩, fun ⟨⟨hs, hr, hst, ho, _⟩, hp⟩ => ⟨hs, hr, hst, ho, hp⟩⟩

/-- A change in the AON domain that leaves `RST_N` and the stage of sleep. -/
theorem heldWith.of_aon {l : List Instr} {s t : State} (h : heldWith l s) (hb : t.build = s.build) (hs : t.scan = s.scan)
    (hp : t.pending = s.pending) (ho : t.obs = s.obs) (hr : t.aon.pwr.rstN = s.aon.pwr.rstN)
    (hst : t.aon.pwr.stage = s.aon.pwr.stage) : heldWith l t := by
  obtain ⟨h1, h2, h3, ⟨z, ports, h4⟩, h5⟩ := h
  exact ⟨hs.trans h1, hr.trans h2, by rwa [hst], ⟨z, ports, by rw [ho, hb, h4]⟩, hp.trans h5⟩

theorem heldWith.ite {l : List Instr} {c : Prop} [Decidable c] {t u : State} (ht : c → heldWith l t) (hu : ¬ c → heldWith l u) :
    heldWith l (if c then t else u) := by
  split
  · exact ht ‹_›
  · exact hu ‹_›

section Held

variable {l : List Instr} {s : State} (h : heldWith l s)
include h

theorem heldWith.obsRuns : obsRuns s = false := by simp [Machine.obsRuns, h.2.1]

theorem heldWith.ctxIds : ctxIds s = [] := by
  obtain ⟨_, _, _, ⟨z, ports, ho⟩, _⟩ := h
  rw [Machine.ctxIds, ho]; rfl

theorem heldWith.seq : s.obs.hang.seq = none := by
  obtain ⟨_, _, _, ⟨z, ports, ho⟩, _⟩ := h
  rw [ho]; rfl

theorem heldWith.onTb (f : Tb → Tb) : heldWith l (onTb f s) := h.of_aon rfl rfl rfl rfl rfl rfl
theorem heldWith.onSen (f : Sen → Sen) : heldWith l (onSen f s) := h.of_aon rfl rfl rfl rfl rfl rfl
theorem heldWith.onAlm (f : Alm → Alm) : heldWith l (onAlm f s) := h.of_aon rfl rfl rfl rfl rfl rfl
theorem heldWith.onKeys (f : Keys → Keys) : heldWith l (onKeys f s) := h.of_aon rfl rfl rfl rfl rfl rfl
theorem heldWith.onRap (f : Rap → Rap) : heldWith l (onRap f s) := h.of_aon rfl rfl rfl rfl rfl rfl
theorem heldWith.onSWatch (w : Nat) (f : SWatch → SWatch) : heldWith l (onSWatch w f s) := h.onSen _
theorem heldWith.onGRule (k : Nat) (f : GRule → GRule) : heldWith l (onGRule k f s) := h.onSen _

theorem heldWith.onPwr {f : Pwr → Pwr} (hr : (f s.aon.pwr).rstN = s.aon.pwr.rstN)
    (hst : (f s.aon.pwr).stage = s.aon.pwr.stage) : heldWith l (onPwr f s) :=
  h.of_aon rfl rfl rfl rfl hr hst

theorem heldWith.setReg {a : Nat} (ha : regAon a = true) (v : U32) : heldWith l (setReg a v s) :=
  h.of_aon (by simp) (by simp) (by simp) (setReg_oregs _ _ _ ha) (by simp) (by simp)

theorem heldWith.orReg {a : Nat} (ha : regAon a = true) (v : U32) : heldWith l (orReg a v s) := h.setReg ha _

theorem heldWith.bumpReg {a : Nat} (ha : regAon a = true) (lo n k : Nat) : heldWith l (bumpReg a lo n k s) :=
  h.setReg ha _

end Held

theorem heldWith_foldl {α : Type} {l : List Instr} {f : State → α → State} (hf : ∀ t x, heldWith l t → heldWith l (f t x))
    (xs : List α) : ∀ {s : State}, heldWith l s → heldWith l (xs.foldl f s) := by
  induction xs with
  | nil => exact fun h => h
  | cons x xs ih => exact fun h => ih (hf _ x h)

section Held

variable {l : List Instr} {s : State} (h : heldWith l s)
include h

/-! ## Shared operations -/

theorem heldWith.requestClk : heldWith l (requestClk s) := by
  unfold Machine.requestClk
  split <;> exact h.onPwr rfl rfl

/-- A wake event changes Quickset alone: a held machine is in no stage that owes credits. -/
theorem heldWith.wake (n : Nat) : heldWith l (wake n s) := by
  unfold Machine.wake
  simp only
  split
  · split
    · exact h
    · obtain hst | hst := h.2.2.1 <;> rw [hst]
      · exact h
      · exact h.onPwr (by split <;> rfl) (by split <;> rfl)
  · split
    · exact h
    · exact (h.onPwr (by split <;> rfl) (by split <;> rfl)).requestClk

theorem heldWith.countOvf (c : Nat) : heldWith l (countOvf c s) := by
  have hr := h.2.1
  simpa [Machine.countOvf, hr] using h

/-- Items of the Sentinel and of Blackthorn go to registers of the AON domain. -/
theorem heldWith.push {src : Nat} {i : Item} (hi : i.pclass = 1 ∨ i.pclass = 2 ∧ src = 0) :
    heldWith l (push src i s) := by
  unfold Machine.push
  split
  · split
    · exact h.onSen _
    · exact (h.onSen _).countOvf 1
  · rw [if_pos (hi.resolve_left ‹_›)]
    split
    · exact h.onAlm _
    · exact (h.onAlm _).countOvf 2

theorem heldWith.offerWhere (f : CtxSt → Bool) (r : CtxSt → Rec) : heldWith l (offerWhere f r s) := by
  rwa [offerWhere_none f r s h.ctxIds]

theorem heldWith.trigger (g cause own : Nat) : heldWith l (trigger g cause own s) := by
  unfold Machine.trigger
  rw [h.seq, hwFreeze_reset _ _ _ _ h.2.1]
  exact h

/-- ZEROIZE under `RST_N` leaves partition 0 without consent, as a later `RST_N` does (R288). -/
theorem heldWith.zeroize : heldWith l (zeroize s) := by
  have parts : ∀ {u : State}, heldWith l u → heldWith l (Machine.onPrv (fun v => { v with parts := [] }) u) := by
    intro u ⟨h1, h2, h3, ⟨z, ports, h4⟩, h5⟩
    refine ⟨h1, h2, h3, ⟨true, ports, ?_⟩, h5⟩
    simp only [Machine.onPrv, onObs, h4, Obs.reset]
    simp
  have port : ∀ {u : State}, heldWith l u → egrDown 8 u = u := by
    intro u ⟨_, _, _, ⟨z, ports, hu⟩, _⟩
    have : u.obs.egr.state = 0 := by rw [hu]; rfl
    simp [egrDown, this]
  have h1 := h.onAlm fun m => { m with zeroizing := !m.zeroized }
  have h2 := heldWith.ite (c := (Machine.onAlm (fun m => { m with zeroizing := !m.zeroized }) s).build.crypto = true)
    (fun _ => h1.onKeys fun _ => default) (fun _ => h1)
  have h3 := parts h2
  unfold Machine.zeroize
  simp only [h2.2.1, Bool.false_eq_true, ↓reduceIte]
  rwa [port h3]

theorem heldWith.alarm (c : Nat) (arg : U32) (g : Nat) : heldWith l (alarm c arg g s) := by
  have h1 := ((h.onAlm fun m => { m with alarms := sat 255 (m.alarms + 1) }).orReg (a := aAlm) (by decide)
    (BitVec.ofNat 32 (2 ^ c))).push (i := mkItem 0x20 0 c (BitVec.ofNat 32 (almAct s c)) g) (.inr ⟨rfl, rfl⟩)
  have h2 := h1.offerWhere (fun _ => true) (fun x => ⟨g, .alarm c (almAct s c) (if x.part = 0 then arg else 0)⟩)
  have h3 := h2.trigger g 4 0
  unfold Machine.alarm
  refine heldWith.ite (fun _ => h2) fun _ => ?_
  simp only [alarmRecord, h3.2.1, Bool.false_eq_true, ↓reduceIte]
  exact heldWith.ite (fun _ => (h3.wake 5).zeroize) (fun _ => h3.wake 5)

theorem heldWith.offerReq : heldWith l (offerReq s) := by
  unfold Machine.offerReq
  exact heldWith.ite (fun _ => heldWith.ite (fun _ => h.onPwr rfl rfl) (fun _ => h)) (fun _ => h.onPwr rfl rfl)

theorem heldWith.startRepair : heldWith l (startRepair s) := by
  unfold Machine.startRepair
  exact heldWith.ite (fun _ => h.onPwr rfl rfl) (fun _ => h)

/-! ## What follows a command, and a tick -/

/-- Both states held: no MSI, no change of cadence mode; a wake at most. -/
theorem heldWith.settle {k : List Instr} {b : State} (hb : heldWith k b) : heldWith l (settle b s) := by
  have cad : ∀ {m : List Instr} {u : State}, heldWith m u → cadence u = false := by
    intro m u ⟨_, _, _, ⟨z, ports, hu⟩, _⟩
    rw [cadence, hu]; rfl
  have msi : ∀ j, lineMsi b j s = s := fun j => by simp [lineMsi, h.2.1]
  simp only [Machine.settle, List.foldl, msi, cad h, cad hb, if_true]
  exact heldWith.ite (fun _ => h.wake 7) (fun _ => h)

theorem heldWith.obsCommand (f : State → State) : heldWith l (Machine.inObs f s) := by
  rwa [inObs_rest f s h.obsRuns]

end Held

/-- A command whose effect keeps the machine held. -/
theorem heldWith.run {l : List Instr} {s t : State} {f : State → State} (hf : heldWith l s → heldWith l (f s))
    (h : heldWith l s) (hst : run f s = .next t) : heldWith l t := by
  rw [run_next _ _ h.1] at hst
  cases hst
  exact (hf h).settle h

theorem heldWith.rest {l : List Instr} {s t : State} {f : State → State} (h : heldWith l s)
    (hst : Machine.run (inObs f) s = .next t) : heldWith l t := by
  rw [run_inObs_rest f h.1 h.obsRuns] at hst
  cases hst
  exact h

theorem heldWith.restHedger {l : List Instr} {s t : State} {f : State → State} (h : heldWith l s)
    (hst : Machine.run (byHedger f) s = .next t) : heldWith l t := by
  rw [run_byHedger_rest f h.1 h.obsRuns] at hst
  cases hst
  exact h

section Held

variable {l : List Instr} {s : State} (h : heldWith l s)
include h

/-! ## The Sentinel -/

theorem heldWith.ruleCount (src unit t n : Nat) : heldWith l (ruleCount src unit t n s) := by
  unfold Machine.ruleCount
  exact heldWith.ite (fun _ => h) (fun _ => h.onSen _)

theorem heldWith.senMiss (w d start : Nat) (o : Bool) : heldWith l (senMiss w d start o s) :=
  ((((((h.onSWatch w _).onSen _).orReg (by decide) _).push (.inl rfl)).offerWhere _ _).ruleCount _ _ _ _).wake 4

theorem heldWith.senStart (w t : Nat) : heldWith l (senStart w t s) :=
  heldWith.ite (fun _ => h.onSWatch w _) (fun _ => h.senMiss _ _ _ _)

theorem heldWith.senEnd (w t : Nat) : heldWith l (senEnd w t s) := by
  unfold Machine.senEnd
  simp only
  split
  · exact h
  · exact heldWith.ite (fun _ => (h.onSWatch w _).offerWhere _ _) (fun _ => h.onSWatch w _)

theorem heldWith.senApply (m : Marker) : heldWith l (senApply m s) :=
  heldWith_foldl (fun _ w hu =>
    have hv := heldWith.ite (fun _ => hu.senEnd w m.stamp) (fun _ => hu)
    heldWith.ite (fun _ => hv.senStart w m.stamp) (fun _ => hv)) _ h

theorem heldWith.opMarkerApply : heldWith l (opMarkerApply s) :=
  heldWith.ite (fun _ => h) (fun _ => heldWith_foldl (fun _ m hu => hu.senApply m) _ (h.onSen _))

theorem heldWith.opDeadlineMiss (w : Nat) : heldWith l (opDeadlineMiss w s) := by
  unfold Machine.opDeadlineMiss
  simp only
  split
  · exact h
  · exact heldWith.ite (fun _ => (h.onSWatch w _).senMiss _ _ _ _) (fun _ => h)

theorem heldWith.driveDue : heldWith l (driveDue s) := by
  refine heldWith_foldl (fun _ d hu => ?_) _ (h.onSen _)
  exact heldWith.ite (fun _ => (hu.onSen _).trigger d.g 8 d.part) (fun _ => hu.onSen _)

theorem heldWith.opPulseExpiry (k : Nat) : heldWith l (opPulseExpiry k s) :=
  heldWith.ite (fun _ => h.onSen _) (fun _ => h)

theorem heldWith.opLineAck (v : U32) : heldWith l (opLineAck v s) :=
  heldWith.ite (fun _ => h) (fun _ => h.onSen _)

theorem heldWith.ruleChanged (k : Nat) (r : Bool) (t st : Nat) : heldWith l (ruleChanged k r t st s) :=
  (h.push (.inl rfl)).offerWhere _ _

theorem heldWith.opWindowEnd (k : Nat) : heldWith l (opWindowEnd k s) :=
  heldWith.ite (fun _ => h) fun _ => heldWith.ite (fun _ => h.onGRule k _) fun _ =>
    heldWith.ite (fun _ => ((h.onGRule k _).ruleChanged _ _ _ _).offerReq) (fun _ => h.onGRule k _)

theorem heldWith.sleepWindows : heldWith l (sleepWindows s) :=
  heldWith.ite (fun _ => h) fun _ =>
    heldWith_foldl (fun _ k hu => heldWith.ite (fun _ => hu.onGRule k _) (fun _ => hu)) _ h

theorem heldWith.opPwrAck : heldWith l (opPwrAck s) :=
  heldWith.ite (fun _ => (h.onPwr rfl rfl).offerReq) (fun _ => h)

theorem heldWith.opFrameSync : heldWith l (opFrameSync s) := by
  unfold Machine.opFrameSync
  simp only [h.obsRuns, Bool.false_and, Bool.false_eq_true, ↓reduceIte]
  exact heldWith.ite (fun _ => h) fun _ => heldWith_foldl (fun _ w hu => hu.senStart w _) _ h

/-! ## Quickset, fuses, Blackthorn -/

theorem heldWith.tokenEdge : heldWith l (tokenEdge s) := heldWith.ite (fun _ => h.onPwr rfl rfl) (fun _ => h)

theorem heldWith.edgeIdle : heldWith l (edgeIdle s) := heldWith.ite (fun _ => h.onPwr rfl rfl) (fun _ => h)

theorem heldWith.edgeRequest : heldWith l (edgeRequest s) :=
  heldWith.ite (fun _ => h) fun _ => heldWith.ite (fun _ => h.onPwr rfl rfl) fun _ =>
    heldWith.ite (fun _ => h.onPwr rfl rfl) (fun _ => h.onPwr rfl rfl)

theorem heldWith.beacon : heldWith l (beacon s) := by
  have hr := h.obsRuns
  simpa [Machine.beacon, hr] using h

theorem heldWith.discEdge : heldWith l (discEdge s) := by
  have hd : s.obs.fab.disc = none := by
    obtain ⟨_, _, _, ⟨z, ports, ho⟩, _⟩ := h
    rw [ho]; rfl
  simpa [Machine.discEdge, hd] using h

/-- A tick of a held machine is one AON cycle. -/
theorem heldWith.tick : heldWith l (tick s) := by
  unfold Machine.tick
  simp only [h.1, h.obsRuns, Bool.false_eq_true, ↓reduceIte]
  exact heldWith.ite (fun _ => h) fun _ =>
    (h.onTb _).tokenEdge.driveDue.sleepWindows.edgeIdle.edgeRequest.beacon.discEdge

theorem heldWith.opFuseAck (d : U32) : heldWith l (opFuseAck d s) := by
  have word : ∀ {u : State}, heldWith l u → heldWith l (repairWord d u) := fun {u} hu =>
    heldWith.ite (fun _ => hu) fun _ => heldWith.ite (fun _ => hu.onPwr rfl rfl) (fun _ => hu.onPwr rfl rfl)
  have last : ∀ {u : State}, heldWith l u → heldWith l (fusesEnd u) := fun {u} hu => by
    have hv := hu.onPwr (f := fun p => { p with
      fuseReq := false, fusesRead := true, fuseOk := decide (crc32c (fuseBytes u 0 31) = (fuse u 31).toNat)
      keysDone := p.keysDone || !u.build.crypto }) rfl rfl
    exact (heldWith.ite (fun _ => hv) (fun _ => hv.alarm 2 0 _)).startRepair
  unfold Machine.opFuseAck
  have h1 := h.onPwr (f := fun p => { p with
    fuseAddr := s.aon.pwr.fuseAddr + 1, fuseReq := s.aon.pwr.fuseAddr != 255 }) rfl rfl
  have h2 := h1.onPwr (f := fun p => { p with fuses := smPut (fun _ => 0) p.fuses s.aon.pwr.fuseAddr d }) rfl rfl
  exact heldWith.ite (fun _ => h) fun _ => heldWith.ite
    (fun _ => heldWith.ite (fun _ => last h2) (fun _ => h2)) (fun _ => word h1)

theorem heldWith.opDeviceKey : heldWith l (opDeviceKey s) :=
  heldWith.ite (fun _ => h) fun _ =>
    heldWith.onPwr (heldWith.ite (fun _ => h.onKeys _) (fun _ => h)) rfl rfl

theorem heldWith.opGrant : heldWith l (opGrant s) := by
  have hr := h.2.1
  unfold Machine.opGrant
  refine heldWith.ite (fun _ => h) fun _ => ?_
  have h1 := h.onPwr (f := fun p => { p with clkAck := true, ratio := p.clkSel }) rfl rfl
  have noSeq : ∀ (g : HangSeq → HangSeq) (u : State), u.obs.hang.seq = none →
      Machine.onHang (fun x => { x with seq := x.seq.map g }) u = u := by
    intro g u hu
    simp only [Machine.onHang, onObs, hu, Option.map_none]
    rw [← hu]
  simp only [hr, Bool.false_eq_true, ↓reduceIte]
  rw [noSeq _ _ h1.seq]
  exact h1

theorem heldWith.opClkRelease : heldWith l (opClkRelease s) := by
  refine heldWith.ite (fun _ => h) fun _ => ?_
  obtain ⟨h1, h2, _, h4, h5⟩ := h
  exact ⟨h1, h2, .inl rfl, h4, h5⟩

theorem heldWith.opAckDrop : heldWith l (opAckDrop s) := by
  have hr := h.2.1
  unfold Machine.opAckDrop
  have h1 := h.onPwr (f := fun p => { p with clkAck := false }) rfl rfl
  simp only [hr, Bool.false_eq_true, ↓reduceIte]
  exact heldWith.ite (fun _ => h1) (fun _ => h)

theorem heldWith.opHangIn : heldWith l (opHangIn s) := by
  have hr := h.2.1
  unfold Machine.opHangIn
  simp only [hr, Bool.not_false, ↓reduceIte]
  have h1 := h.orReg (a := aPwrStat) (by decide) 1
  exact heldWith.ite (fun _ => h) fun _ => heldWith.ite (fun _ => h1) fun _ =>
    heldWith.ite (fun _ => h1.onPwr rfl rfl) (fun _ => h1.requestClk)

theorem heldWith.opTamper (k : Nat) : heldWith l (opTamper k s) :=
  heldWith.ite (fun _ => h) fun _ => heldWith.ite (fun _ => h) (fun _ => (h.onAlm _).alarm _ _ _)

theorem heldWith.opTamperRelease (k : Nat) : heldWith l (opTamperRelease k s) :=
  heldWith.ite (fun _ => h) (fun _ => h.onAlm _)

theorem heldWith.opGlitchClear : heldWith l (opGlitchClear s) := heldWith.ite (fun _ => h) (fun _ => h.onAlm _)

theorem heldWith.opZeroizeComplete : heldWith l (opZeroizeComplete s) :=
  heldWith.ite (fun _ => h.onAlm _) (fun _ => h)

theorem heldWith.opGlitch (v c : Bool) : heldWith l (opGlitch v c s) :=
  heldWith.ite (fun _ => h) (fun _ => (h.onAlm _).alarm _ _ _)

theorem heldWith.opUncorrectable13 (idx : Nat) : heldWith l (opUncorrectable 13 idx s) := by
  have hr := h.2.1
  unfold Machine.opUncorrectable
  simp only [hr, Bool.false_eq_true, ↓reduceIte]
  exact heldWith.ite (fun _ => h) (fun _ => h.alarm _ _ _)

/-- Among the SRAM errors only one of the key store, an array of the AON domain, acts. -/
theorem heldWith.sramError (a idx : Nat) :
    heldWith l (if a = 13 then opUncorrectable a idx s else Machine.inWriter (opUncorrectable a idx) s) := by
  refine heldWith.ite (fun ha => ?_) (fun _ => h.obsCommand _)
  rw [ha]
  exact h.opUncorrectable13 idx

/-- A level of `CLK_ACTIVE` reaches its port; no collector serves. -/
theorem heldWith.opClk (p : Nat) (v : Bool) : heldWith l (opClk p v s) := by
  have hr := h.2.1
  unfold Machine.opClk
  refine heldWith.ite (fun _ => h) fun _ => ?_
  obtain ⟨h1, h2, h3, ⟨z, ports, h4⟩, h5⟩ := h
  have h6 : heldWith l (Machine.onPort p (fun t => { t with clk := v }) s) :=
    ⟨h1, h2, h3, ⟨z, _, by simp only [Machine.onPort, Machine.onHed, onObs, h4]; rfl⟩, h5⟩
  simpa [takesClk, h6.obsRuns] using h6

end Held

section Held

variable {l : List Instr} {s : State} (h : heldWith l s)
include h

/-! ## The register window -/

theorem heldWith.putFields {a : Nat} (ha : regAon a = true) (v : U32) : heldWith l (putFields a v s) := h.setReg ha _

theorem heldWith.putLat {a : Nat} (ha : regAon a = true) (v : U32) : heldWith l (putLat a v s) := by
  unfold Machine.putLat
  exact heldWith.ite (fun _ => h.putFields ha v) (fun _ => (h.putFields ha v).onTb _)

theorem heldWith.opGo (v : U32) : heldWith l (opGo v s) := by
  have h1 := h.setReg (a := 0x201C) (by decide) 1
  unfold Machine.opGo
  refine heldWith.ite (fun _ => h) fun _ => heldWith.ite (fun _ => h1) fun _ => ?_
  have h2 := h1.onPwr (f := fun p => { p with
    goAt := some (now (Machine.setReg 0x201C 1 s))
    fwAt := pair (reg (Machine.setReg 0x201C 1 s) 0x2010) (reg (Machine.setReg 0x201C 1 s) 0x2014)
    fwLen := fld (reg (Machine.setReg 0x201C 1 s) 0x2018) 0 14, fwWords := [], fwReadErr := false, fwReadDone := false })
    rfl rfl
  rw [if_neg (by rw [h2.obsRuns]; decide)]
  exact h2

theorem heldWith.opRatioWrite (v : U32) : heldWith l (opRatioWrite v s) := by
  have h1 := h.setReg (a := aTbClk) (by decide) (v &&& 3)
  have hr := h.obsRuns
  unfold Machine.opRatioWrite
  exact heldWith.ite (fun _ => h) fun _ => by simpa [maybeSwitch, hr] using h1

theorem heldWith.opRuleWrite {k : Nat} (hk : k < 16) (v : U32) : heldWith l (opRuleWrite k v s) := by
  have ha : regAon (aRule k) = true := by
    have : blockOf (aRule k) = 8 := by unfold blockOf aRule aSen; omega
    simp [regAon, this]
  unfold Machine.opRuleWrite
  refine heldWith.ite (fun _ => h) fun _ => heldWith.ite (fun _ => heldWith.ite (fun _ => h) fun _ => ?_) fun _ =>
    heldWith.ite (fun _ => h.setReg ha _) fun _ => heldWith.ite (fun _ => (h.setReg ha _).onGRule k _)
      (fun _ => h.orReg (by decide) _)
  have h1 : heldWith l (if (gruleOf s k).active then
      Machine.ruleChanged k false s.aon.tb.rootGt (gruleOf s k).runStart s else s) :=
    heldWith.ite (fun _ => h.ruleChanged _ _ _ _) (fun _ => h)
  exact ((h1.setReg ha _).onGRule k _).offerReq

theorem heldWith.opDbTail (r : Nat) (v : U32) : heldWith l (opDbTail r v s) := by
  have hr := h.2.1
  simpa [Machine.opDbTail, hr] using h.wake 1

theorem heldWith.opCqHead (r : Nat) (v : U32) : heldWith l (opCqHead r v s) := by
  have hr := h.2.1
  simpa [Machine.opCqHead, hr] using h.wake 1

/-- Writes of the AON blocks stay there. -/
theorem heldWith.regWrite {a : Nat} (ha : regAon a = true) (v : U32) : heldWith l (regWrite a v s) := by
  have block {b : Nat} (hb : blockOf a = b) (hn : b = 1 ∨ b = 4 ∨ b = 5 ∨ b = 7 ∨ b = 9 ∨ b = 0xB ∨ b = 0xC) : False := by
    simp only [regAon, hb] at ha
    obtain rfl | rfl | rfl | rfl | rfl | rfl | rfl := hn <;> simp at ha
  unfold Machine.regWrite
  simp only
  split
  next hb => exact (block hb (by decide)).elim
  next hb =>
    exact heldWith.ite (fun _ => h.opGo v) fun _ => heldWith.ite (fun _ => h.orReg (by decide) _) (fun _ => h.putFields ha v)
  next hb =>
    exact heldWith.ite (fun _ => h.opRatioWrite v) fun _ =>
      heldWith.ite (fun _ => h.putLat ha v) (fun _ => h.putFields ha v)
  next hb => exact (block hb (by decide)).elim
  next hb => exact (block hb (by decide)).elim
  next hb => exact (block hb (by decide)).elim
  next hb =>
    exact heldWith.ite (fun _ => h.opLineAck v) fun _ =>
      heldWith.ite (fun ho => h.opRuleWrite (by omega) v) (fun _ => h.putFields ha v)
  next hb => exact (block hb (by decide)).elim
  next hb => exact (block hb (by decide)).elim
  next hb => exact (block hb (by decide)).elim
  next =>
    exact heldWith.ite (fun _ => heldWith.ite (fun _ => h.opDbTail _ v) fun _ =>
      heldWith.ite (fun _ => h.opCqHead _ v) (fun _ => h)) (fun _ => h.putFields ha v)

theorem heldWith.regReadDone {a : Nat} (ha : regAon a = true) : heldWith l (regReadDone a s) := by
  have h1 : heldWith l (match pairValue s a with
      | some x => Machine.onRap (fun r => { r with latch := smPut (fun _ => 0) r.latch a (hi32 x) }) s
      | none => s) := by
    split
    · exact h.onRap _
    · exact h
  exact heldWith.ite (fun _ => (heldWith.ite (fun _ => h1) (fun _ => h1.setReg ha _)).setReg ha _)
    (fun _ => heldWith.ite (fun _ => h1) (fun _ => h1.setReg ha _))

theorem heldWith.rapResult (x : RapAcc) (v : U32) (e : Bool) : heldWith l (rapResult x v e s) := h.onRap _

theorem heldWith.perform (x : RapAcc) : heldWith l (perform x s) := by
  unfold Machine.perform
  by_cases ha : regAon x.addr = true
  · simp only [ha, Bool.not_true, Bool.false_and, Bool.false_eq_true, ↓reduceIte]
    exact heldWith.ite (fun _ => (h.regWrite ha _).rapResult _ _ _) (fun _ => (h.regReadDone ha).rapResult _ _ _)
  · simp only [ha, h.2.1, Bool.not_false, Bool.and_self, ↓reduceIte]
    exact h.rapResult _ _ _

theorem heldWith.present (x : RapAcc) : heldWith l (present x s) := by
  have h1 : heldWith l (if s.aon.pwr.rstN && !regAon x.addr then Machine.wake 2 s else s) :=
    heldWith.ite (fun _ => h.wake 2) (fun _ => h)
  exact heldWith.ite (fun _ => h) fun _ => heldWith.ite (fun _ => h1.onRap _) (fun _ => h1.perform x)

theorem heldWith.opHeldAccess : heldWith l (opHeldAccess s) := by
  unfold Machine.opHeldAccess
  split
  · exact heldWith.ite (fun _ => h) (fun _ => (h.onRap _).perform _)
  · exact h

theorem heldWith.captureDr (n : Nat) : heldWith l (captureDr n s) := h.onRap _

theorem heldWith.opDbgAccess (v : BitVec 51) : heldWith l (opDbgAccess v s) := by
  unfold Machine.opDbgAccess
  exact heldWith.ite (fun _ => h) fun _ =>
    heldWith.ite (fun _ => h.captureDr _) (fun _ => (h.captureDr _).present _)

theorem heldWith.opMbist (v : U32) : heldWith l (opMbist v s) := by
  have h1 := h.captureDr (mbistWord s)
  unfold Machine.opMbist
  exact heldWith.ite (fun _ => h) fun _ => heldWith.ite (fun _ => h1) fun _ =>
    heldWith.ite (fun _ => h1.onRap _) (fun _ => h1.onRap _)

theorem heldWith.opScan_false : heldWith l (opScan false s) :=
  heldWith.ite (fun _ => h) (fun _ => h.captureDr _)

theorem heldWith.opAonRise : heldWith l (opAonRise s) := by
  unfold Machine.opAonRise
  exact heldWith.ite (fun _ => h) (fun _ => heldWith.onTb (h.onPwr rfl rfl) _)

theorem heldWith.aonReset : heldWith l (aonReset s) :=
  ⟨rfl, rfl, .inl rfl, ⟨false, [], rfl⟩, h.2.2.2.2⟩

theorem heldWith.opRstFall : heldWith l (opRstFall s) := by
  have hr := h.2.1
  simpa [Machine.opRstFall, hr] using h

theorem heldWith.of_obsRuns_guard {f : State → State} (hf : Machine.obsRuns s = false → f s = s) : heldWith l (f s) := by
  rwa [hf h.obsRuns]

end Held

end Sys2Proof.Machine
end

section
namespace Sys2Proof.Machine

open Sys2Proof.Safety

set_option Elab.async false

section Held

variable {l : List Instr} {s : State} (h : heldWith l s)
include h

/-! ## Every command -/

/-- Every command but the rise of `RST_N` and the entry to scan test keeps a held machine held. -/
theorem heldWith.exec {c : Instr} {t : State} (hc : c ≠ .rstNRise) (hc' : c ≠ .scanMode true)
    (hst : exec c s = .next t) : heldWith l t := by
  have run {f : State → State} (hf : heldWith l (f s)) (hst : Machine.run f s = .next t) : heldWith l t :=
    h.run (fun _ => hf) hst
  cases c
  case dbTailWrite => exact run (h.present _) hst
  case cqHeadWrite => exact run (h.present _) hst
  case ringEnable => exact run (h.present _) hst
  case ringDisable => exact run (h.present _) hst
  case versionRequest => exact run (h.present _) hst
  case ratioWrite => exact run (h.present _) hst
  case gtLoRead => exact run (h.present _) hst
  case fgtLoRead => exact run (h.present _) hst
  case consumerSelect => exact run (h.present _) hst
  case creditAllotmentWrite => exact run (h.present _) hst
  case watermarkWrite => exact run (h.present _) hst
  case hostRingSizeWrite => exact run (h.present _) hst
  case hostRingHeadWrite => exact run (h.present _) hst
  case unitOwnerWrite => exact run (h.present _) hst
  case brambleDepthWrite => exact run (h.present _) hst
  case sentinelLineAck => exact run (h.present _) hst
  case govRuleEnable => exact run (h.present _) hst
  case lockSet => exact run (h.present _) hst
  case firmwareGo => exact run (h.present _) hst
  case debugRead => exact run (h.present _) hst
  case debugInject => exact run (h.present _) hst
  case registerWrite => exact run (h.present _) hst
  case rcRegisterRead => exact run (h.present _) hst
  case loRegisterRead => exact run (h.present _) hst
  case rapObsRegisterRead => exact run (h.present _) hst
  case rapHeldAccessComplete => exact run h.opHeldAccess hst
  case idcode => exact run (heldWith.ite (fun _ => h.captureDr (idcodeWord s.build)) (fun _ => h)) hst
  case dbgAccess v => exact run (h.opDbgAccess v) hst
  case mbist v => exact run (h.opMbist v) hst
  case scanMode b =>
    cases b with
    | true => exact absurd rfl hc'
    | false => exact run h.opScan_false hst
  case aonRstNRise => exact run h.opAonRise hst
  case aonRstNFall => cases hst; exact h.aonReset
  case rstNFall => exact run h.opRstFall hst
  case rstNRise => exact absurd rfl hc
  case fuseWordAck d => exact run (h.opFuseAck d) hst
  case fuseTimeout => exact run (h.opFuseAck 0) hst
  case deviceKeyDerived => exact run h.opDeviceKey hst
  case obsClkGrant => exact run h.opGrant hst
  case obsClkRelease => exact run h.opClkRelease hst
  case obsClkAckDropEarly => exact run h.opAckDrop hst
  case pwrAckToggle => exact run h.opPwrAck hst
  case hangInRise => exact run h.opHangIn hst
  case frameSyncRise => exact run h.opFrameSync hst
  case sentinelMarkerApply => exact run h.opMarkerApply hst
  case deadlineMiss w => exact run (h.opDeadlineMiss w) hst
  case pulseExpiry k => exact run (h.opPulseExpiry k) hst
  case govRuleWindowEnd k => exact run (h.opWindowEnd k) hst
  case tamperRegister k => exact run (h.opTamper k) hst
  case tamperInRelease k => exact run (h.opTamperRelease k) hst
  case glitchDetect v c => exact run (h.opGlitch v c) hst
  case glitchDetectorClear => exact run h.opGlitchClear hst
  case zeroizeComplete => exact run h.opZeroizeComplete hst
  case clkActiveFall p => exact run (h.opClk p false) hst
  case clkActiveRise p => exact run (h.opClk p true) hst
  case sramUncorrectable a idx =>
    exact run (f := fun s => if a = 13 then opUncorrectable a idx s else inWriter (opUncorrectable a idx) s)
      (h.sramError a idx) hst
  case idleDelayExpiry => exact run (h.of_obsRuns_guard fun hr => by simp [opIdleExpiry, hr]) hst
  case sleepBuffersDrained => exact run (h.of_obsRuns_guard fun hr => by simp [opDrained, hr]) hst
  case lockWindowEnd n => exact run (h.of_obsRuns_guard fun hr => by simp [opLockWindow, hr]) hst
  case boxwoodRead => exact h.restHedger hst
  case boxwoodReadStallEnd => exact h.restHedger hst
  case boxwoodMark => exact h.restHedger hst
  case boxwoodRewind => exact h.restHedger hst
  case boxwoodRelease => exact h.restHedger hst
  all_goals exact h.rest hst

end Held

/-- Settles O5: `heldWith` is kept by every command that does not lift the reset (`heldWith.exec`) and by a tick. -/
theorem obsDomainHeldUnderReset : Obligations.ObsDomainHeldUnderReset := by
  unfold Obligations.ObsDomainHeldUnderReset
  intro s t hs hst
  obtain ⟨h, hp⟩ := (underReset_iff s).mp hs
  rw [underReset_iff]
  cases hq : s.pending with
  | nil =>
    have ht := h.tick
    simp only [step, hq] at hst ht
    cases hst
    exact ⟨by rw [ht.2.2.2.2]; exact ht, by simp [ht.2.2.2.2]⟩
  | cons c rest =>
    simp only [step, hq] at hst
    rw [hq] at hp
    obtain ⟨h1, h2, h3, h4, _⟩ := h
    have h5 : heldWith rest { s with pending := rest } := ⟨h1, h2, h3, h4, rfl⟩
    obtain ⟨hc, hc'⟩ := hp c (by simp)
    have ht := h5.exec hc hc' hst
    rw [ht.2.2.2.2]
    exact ⟨ht, fun d hd => hp d (by simp [hd])⟩

end Sys2Proof.Machine
end

section
/-! SUPPORT. Statements about the step, about what follows a command, and about the states under reset. -/

namespace Sys2Proof.Machine

open Sys2Proof.Safety

set_option Elab.async false

/-! ## What follows a command -/

/-- The pieces that the rises of lines add are MSIs of class 1. -/
theorem lineMsis_are_msis (b : State) (ks : List Nat) (s : State) :
    ∃ ps, (ks.foldl (fun acc k => lineMsi b k acc) s).obs.smp.pieces = s.obs.smp.pieces ++ ps ∧
      ∀ p ∈ ps, p.cls = 1 ∧ ∃ r a d, p.what = .msi r a d := by
  induction ks generalizing s with
  | nil => exact ⟨[], by simp, by simp⟩
  | cons k ks ih =>
    have one : ∃ ps, (lineMsi b k s).obs.smp.pieces = s.obs.smp.pieces ++ ps ∧
        ∀ p ∈ ps, p.cls = 1 ∧ ∃ r a d, p.what = .msi r a d := by
      unfold lineMsi
      split
      · split
        · exact ⟨_, rfl, by simp⟩
        · exact ⟨[], by simp, by simp⟩
      · exact ⟨[], by simp, by simp⟩
    obtain ⟨ps, hps, hp⟩ := one
    obtain ⟨qs, hqs, hq⟩ := ih (lineMsi b k s)
    refine ⟨ps ++ qs, ?_, fun x hx => ?_⟩
    · rw [List.foldl_cons, hqs, hps, List.append_assoc]
    · obtain hx | hx := List.mem_append.mp hx
      · exact hp x hx
      · exact hq x hx

/-- What Quickset keeps from p to q through a wake event: resets, grant, ratio, READY, and a request that stands. -/
def keepsGrant (p q : Pwr) : Prop :=
  q.rstN = p.rstN ∧ q.aonRstN = p.aonRstN ∧ q.clkAck = p.clkAck ∧ q.ratio = p.ratio ∧ q.ready = p.ready ∧
    (p.clkReq = true → q.clkReq = true)

theorem keepsGrant_refl (p : Pwr) : keepsGrant p p := ⟨rfl, rfl, rfl, rfl, rfl, id⟩

theorem keepsGrant_requestClk {p : Pwr} {s : State} (h : keepsGrant p s.aon.pwr) :
    keepsGrant p (requestClk s).aon.pwr := by
  obtain ⟨h1, h2, h3, h4, h5, h6⟩ := h
  unfold requestClk
  split
  · exact ⟨h1, h2, h3, h4, h5, h6⟩
  · exact ⟨h1, h2, h3, h4, h5, fun _ => rfl⟩

theorem keepsGrant.reqDue {p q : Pwr} (h : keepsGrant p q) : keepsGrant p { q with reqDue := true } := h

theorem keepsGrant.stage {p q : Pwr} (h : keepsGrant p q) (st : SleepStage) : keepsGrant p { q with stage := st } := h

theorem keepsGrant.ite {p q r : Pwr} (c : Prop) [Decidable c] (h : keepsGrant p q) (k : keepsGrant p r) :
    keepsGrant p (if c then q else r) := by
  split
  · exact h
  · exact k

theorem keepsGrant_wake (n : Nat) (s : State) : keepsGrant s.aon.pwr (wake n s).aon.pwr := by
  have noted : keepsGrant s.aon.pwr
      (if s.aon.pwr.rstN && s.aon.pwr.wake.isNone then { s.aon.pwr with wake := some (n, now s) } else s.aon.pwr) :=
    .ite _ ⟨rfl, rfl, rfl, rfl, rfl, id⟩ (keepsGrant_refl _)
  unfold wake
  simp only
  split
  · split
    · exact keepsGrant_refl _
    · split
      · exact keepsGrant_refl _
      · obtain ⟨c, p, hh⟩ := returnWithheld_hed (onPwr (fun q => { q with stage := .awake }) s)
        rw [hh, onHed_aon, onPwr_pwr]
        exact (keepsGrant_refl _).stage _
      all_goals
        rw [onPwr_pwr]
        exact noted.reqDue
  · split
    · exact keepsGrant_refl _
    · exact keepsGrant_requestClk (by rw [onPwr_pwr]; exact noted)

theorem lineMsis_pwr (b : State) (ks : List Nat) (s : State) :
    (ks.foldl (fun acc k => lineMsi b k acc) s).aon.pwr = s.aon.pwr := by
  obtain ⟨ps, h⟩ := lineMsis_eq b ks s
  rw [h]; rfl

theorem wake_smp (n : Nat) (s : State) : (wake n s).obs.smp = s.obs.smp := by
  obtain ⟨c, p, q, h⟩ := wake_eq n s
  rw [h]; rfl

theorem keepsGrant_settle (b s : State) : keepsGrant s.aon.pwr (settle b s).aon.pwr := by
  have hp := lineMsis_pwr b [1, 2, 3, 4, 5, 6, 7] s
  unfold settle
  generalize [1, 2, 3, 4, 5, 6, 7].foldl (fun acc k => lineMsi b k acc) s = u at hp
  simp only
  have woken (v : State) (hv : v.aon.pwr = s.aon.pwr) (c : Prop) [Decidable c] :
      keepsGrant s.aon.pwr (if c then wake 7 v else v).aon.pwr := by
    split
    · exact hv ▸ keepsGrant_wake 7 v
    · exact hv ▸ keepsGrant_refl _
  split
  · exact woken u hp _
  · exact woken (onSmp (fun m => { m with credit := 0 }) u) hp _

theorem settle_pieces (b s : State) :
    ∃ ps, (settle b s).obs.smp.pieces = s.obs.smp.pieces ++ ps ∧ ∀ p ∈ ps, p.cls = 1 ∧ ∃ r a d, p.what = .msi r a d := by
  obtain ⟨ps, hps, hm⟩ := lineMsis_are_msis b [1, 2, 3, 4, 5, 6, 7] s
  refine ⟨ps, ?_, hm⟩
  rw [← hps]
  unfold settle
  simp only
  split <;> split <;> simp [wake_smp]

/-- The credit stands where cadence mode stays. -/
theorem settle_credit (b s : State) (h : cadence b = cadence s) : (settle b s).obs.smp.credit = s.obs.smp.credit := by
  obtain ⟨ps, hps⟩ := lineMsis_eq b [1, 2, 3, 4, 5, 6, 7] s
  have hc : cadence ([1, 2, 3, 4, 5, 6, 7].foldl (fun acc k => lineMsi b k acc) s) = cadence s := by rw [hps]; rfl
  unfold settle
  simp only [hc, h, if_true]
  split
  · rw [wake_smp, hps]; rfl
  · rw [hps]; rfl

/-- Nothing follows a command after which no line has risen, cadence mode is as it was and no hold condition is new. -/
theorem settle_eq_self (b s : State) (hl : ∀ k, 0 < k → k < 8 → irqLine b k = false → irqLine s k = false)
    (hc : cadence b = cadence s) (hh : anyHold s = true → anyHold b = true) : settle b s = s := by
  have line : ∀ k ∈ [1, 2, 3, 4, 5, 6, 7], lineMsi b k s = s := by
    intro k hk
    have := hl k (by simp at hk; omega) (by simp at hk; omega)
    unfold lineMsi
    cases hb : irqLine b k
    · simp [this hb]
    · simp
  have lines : ∀ l : List Nat, (∀ k ∈ l, lineMsi b k s = s) → l.foldl (fun acc k => lineMsi b k acc) s = s := by
    intro l
    induction l with
    | nil => exact fun _ => rfl
    | cons k l ih =>
      intro h
      rw [List.foldl_cons, h k (by simp)]
      exact ih fun j hj => h j (by simp [hj])
  unfold settle
  simp only [lines _ line, hc, if_true]
  rw [if_neg]
  intro hw
  simp only [Bool.and_eq_true, Bool.not_eq_true'] at hw
  obtain ⟨⟨_, hs⟩, hb⟩ := hw
  rw [hh hs] at hb
  cases hb

/-- Settles O3: the form of `settle_eq`, with what its parts are read off the result. -/
theorem whatFollowsACommand : Obligations.WhatFollowsACommand := by
  unfold Obligations.WhatFollowsACommand
  intro b s
  refine ⟨?_, settle_eq_self b s⟩
  obtain ⟨ps, credit, c, p, q, h⟩ := settle_eq b s
  obtain ⟨ms, hms, hm⟩ := settle_pieces b s
  have hg := keepsGrant_settle b s
  have hcr := settle_credit b s
  rw [h] at hms hg hcr
  have hps : ps = ms := List.append_cancel_left hms
  subst hps
  obtain ⟨h1, h2, h3, h4, h5, h6⟩ := hg
  exact ⟨ps, credit, c, p, q, h, hm, h1, h2, h3, h4, h5, h6, hcr⟩

/-! ## The step and the state after reset -/

/-- Settles O1: the step's own equation. -/
theorem frontCommandIsExecuted : Obligations.FrontCommandIsExecuted := by
  unfold Obligations.FrontCommandIsExecuted
  intro c rest s hs
  rw [step, hs]

/-- Settles O6: by evaluation of the state after reset. -/
theorem resetStateIsHeld : Obligations.ResetStateIsHeld := by
  unfold Obligations.ResetStateIsHeld
  exact ⟨⟨rfl, rfl, .inl rfl, ⟨false, [], rfl⟩, fun c hc => by cases hc⟩, rfl, rfl, rfl⟩

/-- After reset no condition of Table 14.2 holds. -/
theorem holdCond_reset (n : Nat) : holdCond State.reset n = false := by
  match n with
  | 0 | 1 | 2 | 3 | 4 | 5 | 6 | 7 | 8 | 10 | 11 | 12 | 13 | 14 | 15 | 16 => decide
  | 9 => decide
  | _ + 17 => rfl

/-- Settles O7: every table of the state after reset is empty, so each read gives its default. -/
theorem resetValues : Obligations.ResetValues := by
  unfold Obligations.ResetValues
  have hreg (a : Nat) : reg State.reset a = (regSpec State.reset.build a).reset := by unfold reg; split <;> rfl
  exact ⟨rfl, rfl, fun _ => rfl, fun _ => rfl, rfl, rfl, hreg, fun _ => ⟨rfl, rfl, rfl⟩, fun _ => rfl, fun _ => rfl,
    fun _ => rfl, fun _ => rfl, rfl, rfl, rfl, rfl, rfl, rfl, holdCond_reset⟩

/-! ## Under `AON_RST_N` -/

section AonReset

variable {s : State} (h : underAonReset s)
include h

theorem underAonReset_aonRstN : s.aon.pwr.aonRstN = false := by rw [h.2.1]; rfl

theorem underAonReset_obsRuns : obsRuns s = false := by simp [Machine.obsRuns, (underAonReset_aonRstN h)]

/-- A command whose effect is guarded by `AON_RST_N`. -/
theorem underAonReset_run {f : State → State} (hf : s.aon.pwr.aonRstN = false → f s = s) : run f s = .next s :=
  run_of_rest h.1 (hf (underAonReset_aonRstN h))

theorem underAonReset_present (x : RapAcc) : Machine.run (present x) s = .next s :=
  underAonReset_run h fun hn => by simp [Machine.present, hn]

theorem underAonReset_exec {c : Instr} (hc : c ≠ .aonRstNRise) (hl : ∀ p, c ≠ .clkActiveFall p ∧ c ≠ .clkActiveRise p) :
    exec c s = .next s := by
  have hr := underAonReset_obsRuns h
  have hz : s.aon.alm.zeroizing = false := by rw [h.2.1]; rfl
  have hh : s.aon.rap.held = [] := by rw [h.2.1]; rfl
  cases c
  case dbTailWrite => exact underAonReset_present h _
  case cqHeadWrite => exact underAonReset_present h _
  case ringEnable => exact underAonReset_present h _
  case ringDisable => exact underAonReset_present h _
  case versionRequest => exact underAonReset_present h _
  case ratioWrite => exact underAonReset_present h _
  case gtLoRead => exact underAonReset_present h _
  case fgtLoRead => exact underAonReset_present h _
  case consumerSelect => exact underAonReset_present h _
  case creditAllotmentWrite => exact underAonReset_present h _
  case watermarkWrite => exact underAonReset_present h _
  case hostRingSizeWrite => exact underAonReset_present h _
  case hostRingHeadWrite => exact underAonReset_present h _
  case unitOwnerWrite => exact underAonReset_present h _
  case brambleDepthWrite => exact underAonReset_present h _
  case sentinelLineAck => exact underAonReset_present h _
  case govRuleEnable => exact underAonReset_present h _
  case lockSet => exact underAonReset_present h _
  case firmwareGo => exact underAonReset_present h _
  case debugRead => exact underAonReset_present h _
  case debugInject => exact underAonReset_present h _
  case registerWrite => exact underAonReset_present h _
  case rcRegisterRead => exact underAonReset_present h _
  case loRegisterRead => exact underAonReset_present h _
  case rapObsRegisterRead => exact underAonReset_present h _
  case rapHeldAccessComplete => exact run_of_rest h.1 (by rw [opHeldAccess, hh])
  case idcode => exact underAonReset_run h (fun hn => if_neg (by simp [hn]))
  case dbgAccess v => exact underAonReset_run h (fun hn => by simp [opDbgAccess, jtagOpen, hn])
  case mbist v => exact underAonReset_run h (fun hn => by simp [opMbist, jtagOpen, hn])
  case scanMode b => exact underAonReset_run h (fun hn => by simp [opScan, jtagOpen, hn])
  case aonRstNRise => exact absurd rfl hc
  case aonRstNFall =>
    obtain ⟨hs, ha, ho⟩ := h
    show Host.Outcome.next (aonReset s) = _
    rw [aonReset, ← ha, ← ho, ← hs]
  case rstNFall => exact underAonReset_run h (fun hn => by simp [opRstFall, hn])
  case rstNRise => exact underAonReset_run h (fun hn => by simp [opRstRise, hn])
  case fuseWordAck d => exact underAonReset_run h (fun hn => by simp [opFuseAck, hn])
  case fuseTimeout => exact underAonReset_run h (fun hn => by simp [opFuseAck, hn])
  case deviceKeyDerived => exact underAonReset_run h (fun hn => by simp [opDeviceKey, hn])
  case obsClkGrant => exact underAonReset_run h (fun hn => by simp [opGrant, hn])
  case obsClkRelease => exact underAonReset_run h (fun hn => by simp [opClkRelease, hn])
  case obsClkAckDropEarly => exact underAonReset_run h (fun hn => by simp [opAckDrop, hn])
  case pwrAckToggle => exact underAonReset_run h (fun hn => by simp [opPwrAck, hn])
  case hangInRise => exact underAonReset_run h (fun hn => by simp [opHangIn, hn])
  case frameSyncRise => exact underAonReset_run h (fun hn => by simp [opFrameSync, hn])
  case sentinelMarkerApply => exact underAonReset_run h (fun hn => by simp [opMarkerApply, hn])
  case deadlineMiss w => exact underAonReset_run h (fun hn => by unfold opDeadlineMiss; simp only; split <;> simp [hn])
  case pulseExpiry k => exact underAonReset_run h (fun hn => by simp [opPulseExpiry, hn])
  case govRuleWindowEnd k => exact underAonReset_run h (fun hn => by simp [opWindowEnd, hn])
  case tamperRegister k => exact underAonReset_run h (fun hn => by simp [opTamper, hn])
  case tamperInRelease k => exact underAonReset_run h (fun hn => by simp [opTamperRelease, hn])
  case glitchDetect v c => exact underAonReset_run h (fun hn => by simp [opGlitch, hn])
  case glitchDetectorClear => exact underAonReset_run h (fun hn => by simp [opGlitchClear, hn])
  case zeroizeComplete => exact run_of_rest h.1 (by simp [opZeroizeComplete, hz])
  case clkActiveFall p => exact absurd rfl (hl p).1
  case clkActiveRise p => exact absurd rfl (hl p).2
  case sramUncorrectable a idx =>
    refine run_of_rest (f := fun s => if a = 13 then opUncorrectable a idx s else inWriter (opUncorrectable a idx) s)
      h.1 ?_
    simp [opUncorrectable, inWriter, inObs_rest _ _ hr, (underAonReset_aonRstN h), hr]
  case idleDelayExpiry => exact run_of_rest h.1 (by simp [opIdleExpiry, hr])
  case sleepBuffersDrained => exact run_of_rest h.1 (by simp [opDrained, hr])
  case lockWindowEnd n => exact run_of_rest h.1 (by simp [opLockWindow, hr])
  case boxwoodRead => exact run_byHedger_rest _ h.1 hr
  case boxwoodReadStallEnd => exact run_byHedger_rest _ h.1 hr
  case boxwoodMark => exact run_byHedger_rest _ h.1 hr
  case boxwoodRewind => exact run_byHedger_rest _ h.1 hr
  case boxwoodRelease => exact run_byHedger_rest _ h.1 hr
  all_goals exact run_inObs_rest _ h.1 hr

end AonReset

/-- Settles O4: every effect but a rise of `AON_RST_N` and a level is guarded by `AON_RST_N` or by the running of the
OBS domain. -/
theorem nothingActsUnderAonReset : Obligations.NothingActsUnderAonReset := by
  unfold Obligations.NothingActsUnderAonReset
  exact fun c s h hc hl => underAonReset_exec h hc hl

/-! ## Scan test -/

theorem run_inScan {s : State} (f : State → State) (hs : s.scan = true) : run f s = .next (inScan s) := by
  simp [run, hs]

theorem exec_inScan {s : State} (hs : s.scan = true) {c : Instr} (hc : c ≠ .aonRstNFall) : exec c s = .next (inScan s) := by
  cases c
  case aonRstNFall => exact absurd rfl hc
  case sramUncorrectable a idx =>
    exact run_inScan (fun s => if a = 13 then opUncorrectable a idx s else inWriter (opUncorrectable a idx) s) hs
  all_goals exact run_inScan _ hs

/-- Settles O28: in scan test `run` answers a free state, whatever the effect. -/
theorem scanTestIsLeftByResetAlone : Obligations.ScanTestIsLeftByResetAlone := by
  unfold Obligations.ScanTestIsLeftByResetAlone
  exact fun c s hs hc => ⟨inScan s, exec_inScan hs hc, rfl, rfl, rfl⟩

end Sys2Proof.Machine
end

section
/-! SUPPORT. Frames: what each update of the state leaves, chained from the state before a command, and how a command
that acts leads to the state that its effect names. -/

namespace Sys2Proof.Safety

open Sys2Proof.Machine

set_option Elab.async false

/-! ## Frames of the updates -/

theorem onlyChanges.refl (ps : List Part) (s : State) : onlyChanges ps s s :=
  ⟨rfl, rfl, rfl, fun p _ => by cases p with
    | ident => exact ⟨rfl, rfl, rfl, rfl, rfl⟩
    | _ => rfl⟩

section Chain

variable {ps : List Part} {s t : State} (h : onlyChanges ps s t)
include h

/-- A change of one part that the frame names. -/
theorem onlyChanges.part {p : Part} {u : State} (hm : p ∈ ps) (hb : u.build = t.build) (hs : u.scan = t.scan)
    (hp : u.pending = t.pending) (hq : ∀ q, q ≠ p → same q t u) : onlyChanges ps s u :=
  h.trans ⟨hb, hs, hp, fun q hn => hq q fun he => hn (he ▸ hm)⟩

theorem onlyChanges.onTb (f : Tb → Tb) (hm : .tb ∈ ps := by decide) : onlyChanges ps s (onTb f t) :=
  h.part hm rfl rfl rfl fun q hq => by
    cases q with
    | tb => exact absurd rfl hq
    | ident => exact ⟨rfl, rfl, rfl, rfl, rfl⟩
    | _ => rfl

theorem onlyChanges.onPwr (f : Pwr → Pwr) (hm : .pwr ∈ ps := by decide) : onlyChanges ps s (onPwr f t) :=
  h.part hm rfl rfl rfl fun q hq => by
    cases q with
    | pwr => exact absurd rfl hq
    | ident => exact ⟨rfl, rfl, rfl, rfl, rfl⟩
    | _ => rfl

theorem onlyChanges.onSen (f : Sen → Sen) (hm : .sen ∈ ps := by decide) : onlyChanges ps s (onSen f t) :=
  h.part hm rfl rfl rfl fun q hq => by
    cases q with
    | sen => exact absurd rfl hq
    | ident => exact ⟨rfl, rfl, rfl, rfl, rfl⟩
    | _ => rfl

theorem onlyChanges.onAlm (f : Alm → Alm) (hm : .alm ∈ ps := by decide) : onlyChanges ps s (onAlm f t) :=
  h.part hm rfl rfl rfl fun q hq => by
    cases q with
    | alm => exact absurd rfl hq
    | ident => exact ⟨rfl, rfl, rfl, rfl, rfl⟩
    | _ => rfl

theorem onlyChanges.onKeys (f : Keys → Keys) (hm : .keys ∈ ps := by decide) : onlyChanges ps s (onKeys f t) :=
  h.part hm rfl rfl rfl fun q hq => by
    cases q with
    | keys => exact absurd rfl hq
    | ident => exact ⟨rfl, rfl, rfl, rfl, rfl⟩
    | _ => rfl

theorem onlyChanges.onRap (f : Rap → Rap) (hm : .rap ∈ ps := by decide) : onlyChanges ps s (onRap f t) :=
  h.part hm rfl rfl rfl fun q hq => by
    cases q with
    | rap => exact absurd rfl hq
    | ident => exact ⟨rfl, rfl, rfl, rfl, rfl⟩
    | _ => rfl

theorem onlyChanges.onHed (f : Hed → Hed) (hm : .hed ∈ ps := by decide) : onlyChanges ps s (onHed f t) :=
  h.part hm rfl rfl rfl fun q hq => by
    cases q with
    | hed => exact absurd rfl hq
    | ident => exact ⟨rfl, rfl, rfl, rfl, rfl⟩
    | _ => rfl

theorem onlyChanges.onCut (f : Cut → Cut) (hm : .cut ∈ ps := by decide) : onlyChanges ps s (onCut f t) :=
  h.part hm rfl rfl rfl fun q hq => by
    cases q with
    | cut => exact absurd rfl hq
    | ident => exact ⟨rfl, rfl, rfl, rfl, rfl⟩
    | _ => rfl

theorem onlyChanges.onSmp (f : Smp → Smp) (hm : .smp ∈ ps := by decide) : onlyChanges ps s (onSmp f t) :=
  h.part hm rfl rfl rfl fun q hq => by
    cases q with
    | smp => exact absurd rfl hq
    | ident => exact ⟨rfl, rfl, rfl, rfl, rfl⟩
    | _ => rfl

theorem onlyChanges.onCmd (f : Cmd → Cmd) (hm : .cmd ∈ ps := by decide) : onlyChanges ps s (onCmd f t) :=
  h.part hm rfl rfl rfl fun q hq => by
    cases q with
    | cmd => exact absurd rfl hq
    | ident => exact ⟨rfl, rfl, rfl, rfl, rfl⟩
    | _ => rfl

theorem onlyChanges.onEvq (f : Evq → Evq) (hm : .evq ∈ ps := by decide) : onlyChanges ps s (onEvq f t) :=
  h.part hm rfl rfl rfl fun q hq => by
    cases q with
    | evq => exact absurd rfl hq
    | ident => exact ⟨rfl, rfl, rfl, rfl, rfl⟩
    | _ => rfl

theorem onlyChanges.onLens (f : Lens → Lens) (hm : .lens ∈ ps := by decide) : onlyChanges ps s (onLens f t) :=
  h.part hm rfl rfl rfl fun q hq => by
    cases q with
    | lens => exact absurd rfl hq
    | ident => exact ⟨rfl, rfl, rfl, rfl, rfl⟩
    | _ => rfl

theorem onlyChanges.onWat (f : Wat → Wat) (hm : .wat ∈ ps := by decide) : onlyChanges ps s (onWat f t) :=
  h.part hm rfl rfl rfl fun q hq => by
    cases q with
    | wat => exact absurd rfl hq
    | ident => exact ⟨rfl, rfl, rfl, rfl, rfl⟩
    | _ => rfl

theorem onlyChanges.onHang (f : Hang → Hang) (hm : .hang ∈ ps := by decide) : onlyChanges ps s (onHang f t) :=
  h.part hm rfl rfl rfl fun q hq => by
    cases q with
    | hang => exact absurd rfl hq
    | ident => exact ⟨rfl, rfl, rfl, rfl, rfl⟩
    | _ => rfl

theorem onlyChanges.onPrv (f : Prv → Prv) (hm : .prv ∈ ps := by decide) : onlyChanges ps s (onPrv f t) :=
  h.part hm rfl rfl rfl fun q hq => by
    cases q with
    | prv => exact absurd rfl hq
    | ident => exact ⟨rfl, rfl, rfl, rfl, rfl⟩
    | _ => rfl

theorem onlyChanges.onEgr (f : Egr → Egr) (hm : .egr ∈ ps := by decide) : onlyChanges ps s (onEgr f t) :=
  h.part hm rfl rfl rfl fun q hq => by
    cases q with
    | egr => exact absurd rfl hq
    | ident => exact ⟨rfl, rfl, rfl, rfl, rfl⟩
    | _ => rfl

theorem onlyChanges.onFab (f : Fab → Fab) (hm : .fab ∈ ps := by decide) : onlyChanges ps s (onFab f t) :=
  h.part hm rfl rfl rfl fun q hq => by
    cases q with
    | fab => exact absurd rfl hq
    | ident => exact ⟨rfl, rfl, rfl, rfl, rfl⟩
    | _ => rfl

theorem onlyChanges.onDbg (f : Dbg → Dbg) (hm : .dbg ∈ ps := by decide) : onlyChanges ps s (onDbg f t) :=
  h.part hm rfl rfl rfl fun q hq => by
    cases q with
    | dbg => exact absurd rfl hq
    | ident => exact ⟨rfl, rfl, rfl, rfl, rfl⟩
    | _ => rfl

theorem onlyChanges.onUnit (u : Nat) (f : UnitSt → UnitSt) (hm : .hed ∈ ps := by decide) : onlyChanges ps s (onUnit u f t) :=
  h.onHed _ hm

theorem onlyChanges.onPort (p : Nat) (f : PortSt → PortSt) (hm : .hed ∈ ps := by decide) : onlyChanges ps s (onPort p f t) :=
  h.onHed _ hm

theorem onlyChanges.onColl (c : Nat) (f : CollSt → CollSt) (hm : .hed ∈ ps := by decide) : onlyChanges ps s (onColl c f t) :=
  h.onHed _ hm

theorem onlyChanges.onSect (i : Nat) (f : SectSt → SectSt) (hm : .hed ∈ ps := by decide) : onlyChanges ps s (onSect i f t) :=
  h.onHed _ hm

theorem onlyChanges.onEpoch (p : Nat) (f : EpochSt → EpochSt) (hm : .cut ∈ ps := by decide) : onlyChanges ps s (onEpoch p f t) :=
  h.onCut _ hm

theorem onlyChanges.onRing (r : Nat) (f : Ring → Ring) (hm : .cmd ∈ ps := by decide) : onlyChanges ps s (onRing r f t) :=
  h.onCmd _ hm

theorem onlyChanges.onPart (p : Nat) (f : PartSt → PartSt) (hm : .prv ∈ ps := by decide) : onlyChanges ps s (onPart p f t) :=
  h.onPrv _ hm

theorem onlyChanges.onSWatch (w : Nat) (f : SWatch → SWatch) (hm : .sen ∈ ps := by decide) : onlyChanges ps s (onSWatch w f t) :=
  h.onSen _ hm

theorem onlyChanges.onGRule (k : Nat) (f : GRule → GRule) (hm : .sen ∈ ps := by decide) : onlyChanges ps s (onGRule k f t) :=
  h.onSen _ hm

theorem onlyChanges.setSlot (k : Nat) (v : Option Slot) (hm : .lens ∈ ps := by decide) : onlyChanges ps s (setSlot k v t) :=
  h.onLens _ hm

theorem onlyChanges.setTap (k : Nat) (v : Option Stream) (hm : .lens ∈ ps := by decide) : onlyChanges ps s (setTap k v t) :=
  h.onLens _ hm

theorem onlyChanges.setRows (k : Nat) (v : List Row) (hm : .lens ∈ ps := by decide) : onlyChanges ps s (setRows k v t) :=
  h.onLens _ hm

theorem onlyChanges.setWatch (w : Nat) (v : Option Watch) (hm : .wat ∈ ps := by decide) : onlyChanges ps s (setWatch w v t) :=
  h.onWat _ hm

theorem onlyChanges.setArea (p : Nat) (v : Option Area) (hm : .hang ∈ ps := by decide) : onlyChanges ps s (setArea p v t) :=
  h.onHang _ hm

theorem onlyChanges.onDb (r : Nat) (f : Db → Db) (hm : .db ∈ ps := by decide) : onlyChanges ps s (onDb r f t) :=
  h.part hm rfl rfl rfl fun q hq => by
    cases q with
    | db => exact absurd rfl hq
    | ident => exact ⟨rfl, rfl, rfl, rfl, rfl⟩
    | _ => rfl

theorem onlyChanges.ctxs (f : SMap (Option CtxSt) → SMap (Option CtxSt)) (hm : .ctxs ∈ ps := by decide) :
    onlyChanges ps s (onObs (fun o => { o with ctxs := f o.ctxs }) t) :=
  h.part hm rfl rfl rfl fun q hq => by
    cases q with
    | ctxs => exact absurd rfl hq
    | ident => exact ⟨rfl, rfl, rfl, rfl, rfl⟩
    | _ => rfl

theorem onlyChanges.setCtx (x : Nat) (c : Option CtxSt) (hm : .ctxs ∈ ps := by decide) :
    onlyChanges ps s (setCtx x c t) := h.ctxs (fun o => smPut noneD o x c) hm

theorem onlyChanges.onCtx (x : Nat) (f : CtxSt → CtxSt) (hm : .ctxs ∈ ps := by decide) :
    onlyChanges ps s (onCtx x f t) := by
  obtain ⟨c, hc⟩ := onCtx_eq x f t
  rw [hc]
  exact h.ctxs (fun _ => c) hm

theorem onlyChanges.draw (hm : .draws ∈ ps := by decide) : onlyChanges ps s (draw t) :=
  h.part hm rfl rfl rfl fun q hq => by
    cases q with
    | draws => exact absurd rfl hq
    | ident => exact ⟨rfl, rfl, rfl, rfl, rfl⟩
    | _ => rfl

/-- The part that holds the register at an address. -/
abbrev regPart (a : Nat) : Part := if regAon a then .aonRegs else .obsRegs

theorem onlyChanges.setReg (a : Nat) (v : U32) (hm : regPart a ∈ ps := by decide) : onlyChanges ps s (setReg a v t) := by
  unfold Machine.setReg
  unfold regPart at hm
  split at hm
  · rw [if_pos ‹_›]
    exact h.part hm rfl rfl rfl fun q hq => by
      cases q with
      | aonRegs => exact absurd rfl hq
      | ident => exact ⟨rfl, rfl, rfl, rfl, rfl⟩
      | _ => rfl
  · rw [if_neg ‹_›]
    exact h.part hm rfl rfl rfl fun q hq => by
      cases q with
      | obsRegs => exact absurd rfl hq
      | ident => exact ⟨rfl, rfl, rfl, rfl, rfl⟩
      | _ => rfl

theorem onlyChanges.orReg (a : Nat) (m : U32) (hm : regPart a ∈ ps := by decide) : onlyChanges ps s (orReg a m t) :=
  h.setReg a _ hm

theorem onlyChanges.bumpReg (a lo n k : Nat) (hm : regPart a ∈ ps := by decide) :
    onlyChanges ps s (bumpReg a lo n k t) := h.setReg a _ hm

theorem onlyChanges.foldl {α : Type} {f : State → α → State} (hf : ∀ u x, onlyChanges ps s u → onlyChanges ps s (f u x))
    (l : List α) : onlyChanges ps s (l.foldl f t) := by
  induction l generalizing t with
  | nil => exact h
  | cons x l ih => exact ih (hf t x h)

end Chain

/-! ## What a frame leaves -/

section Left

variable {ps : List Part} {s t : State} (h : onlyChanges ps s t)
include h

theorem onlyChanges.aonRegs_eq (hm : .aonRegs ∉ ps := by decide) : t.aon.regs = s.aon.regs := h.2.2.2 .aonRegs hm
theorem onlyChanges.tb_eq (hm : .tb ∉ ps := by decide) : t.aon.tb = s.aon.tb := h.2.2.2 .tb hm
theorem onlyChanges.pwr_eq (hm : .pwr ∉ ps := by decide) : t.aon.pwr = s.aon.pwr := h.2.2.2 .pwr hm
theorem onlyChanges.sen_eq (hm : .sen ∉ ps := by decide) : t.aon.sen = s.aon.sen := h.2.2.2 .sen hm
theorem onlyChanges.alm_eq (hm : .alm ∉ ps := by decide) : t.aon.alm = s.aon.alm := h.2.2.2 .alm hm
theorem onlyChanges.keys_eq (hm : .keys ∉ ps := by decide) : t.aon.keys = s.aon.keys := h.2.2.2 .keys hm
theorem onlyChanges.rap_eq (hm : .rap ∉ ps := by decide) : t.aon.rap = s.aon.rap := h.2.2.2 .rap hm
theorem onlyChanges.db_eq (hm : .db ∉ ps := by decide) : t.aon.db = s.aon.db := h.2.2.2 .db hm
theorem onlyChanges.obsRegs_eq (hm : .obsRegs ∉ ps := by decide) : t.obs.regs = s.obs.regs := h.2.2.2 .obsRegs hm
theorem onlyChanges.hed_eq (hm : .hed ∉ ps := by decide) : t.obs.hed = s.obs.hed := h.2.2.2 .hed hm
theorem onlyChanges.cut_eq (hm : .cut ∉ ps := by decide) : t.obs.cut = s.obs.cut := h.2.2.2 .cut hm
theorem onlyChanges.ctxs_eq (hm : .ctxs ∉ ps := by decide) : t.obs.ctxs = s.obs.ctxs := h.2.2.2 .ctxs hm
theorem onlyChanges.smp_eq (hm : .smp ∉ ps := by decide) : t.obs.smp = s.obs.smp := h.2.2.2 .smp hm
theorem onlyChanges.cmd_eq (hm : .cmd ∉ ps := by decide) : t.obs.cmd = s.obs.cmd := h.2.2.2 .cmd hm
theorem onlyChanges.evq_eq (hm : .evq ∉ ps := by decide) : t.obs.evq = s.obs.evq := h.2.2.2 .evq hm
theorem onlyChanges.lens_eq (hm : .lens ∉ ps := by decide) : t.obs.lens = s.obs.lens := h.2.2.2 .lens hm
theorem onlyChanges.wat_eq (hm : .wat ∉ ps := by decide) : t.obs.wat = s.obs.wat := h.2.2.2 .wat hm
theorem onlyChanges.hang_eq (hm : .hang ∉ ps := by decide) : t.obs.hang = s.obs.hang := h.2.2.2 .hang hm
theorem onlyChanges.prv_eq (hm : .prv ∉ ps := by decide) : t.obs.prv = s.obs.prv := h.2.2.2 .prv hm
theorem onlyChanges.egr_eq (hm : .egr ∉ ps := by decide) : t.obs.egr = s.obs.egr := h.2.2.2 .egr hm
theorem onlyChanges.fab_eq (hm : .fab ∉ ps := by decide) : t.obs.fab = s.obs.fab := h.2.2.2 .fab hm
theorem onlyChanges.dbg_eq (hm : .dbg ∉ ps := by decide) : t.obs.dbg = s.obs.dbg := h.2.2.2 .dbg hm
theorem onlyChanges.draws_eq (hm : .draws ∉ ps := by decide) : t.draws = s.draws := h.2.2.2 .draws hm

theorem onlyChanges.build_eq : t.build = s.build := h.1
theorem onlyChanges.scan_eq : t.scan = s.scan := h.2.1
theorem onlyChanges.pending_eq : t.pending = s.pending := h.2.2.1

theorem onlyChanges.now_eq (hm : .tb ∉ ps := by decide) : now t = now s := by simp [now, h.tb_eq hm]

theorem onlyChanges.obsRuns_eq (hm : .pwr ∉ ps := by decide) : obsRuns t = obsRuns s := by simp [obsRuns, h.pwr_eq hm]

theorem onlyChanges.reg_eq (a : Nat) (hm : regPart a ∉ ps := by decide) : reg t a = reg s a := by
  unfold regPart at hm
  unfold reg
  split at hm
  · simp [h.build_eq, h.aonRegs_eq hm, ‹regAon a = true›]
  · simp [h.build_eq, h.obsRegs_eq hm, ‹¬regAon a = true›]

theorem onlyChanges.ringOf_eq (r : Nat) (hm : .cmd ∉ ps := by decide) : ringOf t r = ringOf s r := by
  simp [ringOf, h.cmd_eq hm]

theorem onlyChanges.ctxOf_eq (x : Nat) (hm : .ctxs ∉ ps := by decide) : ctxOf t x = ctxOf s x := by
  simp [ctxOf, h.ctxs_eq hm]

theorem onlyChanges.partOf_eq (p : Nat) (hm : .prv ∉ ps := by decide) : partOf t p = partOf s p := by
  simp [partOf, h.prv_eq hm]

theorem onlyChanges.dbOf_eq (r : Nat) (hm : .db ∉ ps := by decide) : dbOf t r = dbOf s r := by
  simp [dbOf, h.db_eq hm]

theorem onlyChanges.unitOf_eq (u : Nat) (hm : .hed ∉ ps := by decide) : unitOf t u = unitOf s u := by
  simp [unitOf, h.hed_eq hm]

theorem onlyChanges.collOf_eq (c : Nat) (hm : .hed ∉ ps := by decide) : collOf t c = collOf s c := by
  simp [collOf, h.hed_eq hm]

theorem onlyChanges.portOf_eq (p : Nat) (hm : .hed ∉ ps := by decide) : portOf t p = portOf s p := by
  simp [portOf, h.hed_eq hm]

end Left

/-! ## Frames of the shared operations -/

section Shared

variable {ps : List Part} {s t : State} (h : onlyChanges ps s t)
include h

theorem onlyChanges.countOvf {c : Nat} (hc : c < 8) (hm : .obsRegs ∈ ps := by decide) :
    onlyChanges ps s (countOvf c t) := by
  have hr : regPart (aEvq + 0x18 + 4 * (c / 4)) = .obsRegs := by
    obtain hq | hq : c / 4 = 0 ∨ c / 4 = 1 := by omega
    all_goals rw [hq]; rfl
  unfold Machine.countOvf
  split
  · exact (h.bumpReg _ _ _ _ (hr ▸ hm)).orReg _ _ hm
  · exact h

/-- An item that reaches Boxwood changes a holding register, or its class's overflow count. -/
theorem onlyChanges.pushItem (src : Nat) (i : Item) (hi : i.pclass < 8)
    (h1 : .sen ∈ ps ∨ i.pclass ≠ 1) (h2 : .alm ∈ ps ∨ ¬ (i.pclass = 2 ∧ src = 0))
    (h3 : .evq ∈ ps ∨ i.pclass = 1 ∨ (i.pclass = 2 ∧ src = 0)) (hm : .obsRegs ∈ ps) :
    onlyChanges ps s (push src i t) := by
  unfold Machine.push
  split
  · have hs := h1.resolve_right fun hn => hn ‹_›
    split
    · exact h.onSen _ hs
    · exact (h.onSen _ hs).countOvf (by omega) hm
  · rename_i hn1
    split
    · have ha := h2.resolve_right fun hn => hn ‹_›
      split
      · exact h.onAlm _ ha
      · exact (h.onAlm _ ha).countOvf (by omega) hm
    · have he := h3.resolve_right (by simp [hn1, ‹¬_›])
      split
      · exact h.onEvq _ he
      · exact (h.onEvq _ he).countOvf hi hm

/-- The same for an item of a kind of Table 8.3. -/
theorem onlyChanges.push (src kind part from_ : Nat) (arg : U32) (g : Nat) (hi : (kindCls kind).1 < 8 := by decide)
    (h1 : .sen ∈ ps ∨ (kindCls kind).1 ≠ 1 := by decide)
    (h2 : .alm ∈ ps ∨ ¬ ((kindCls kind).1 = 2 ∧ src = 0) := by decide)
    (h3 : .evq ∈ ps ∨ (kindCls kind).1 = 1 ∨ ((kindCls kind).1 = 2 ∧ src = 0) := by decide)
    (hm : .obsRegs ∈ ps := by decide) : onlyChanges ps s (push src (mkItem kind part from_ arg g) t) :=
  h.pushItem src _ hi h1 h2 h3 hm

theorem onlyChanges.offerWhere (f : CtxSt → Bool) (r : CtxSt → Rec) (hm : .ctxs ∈ ps := by decide) :
    onlyChanges ps s (offerWhere f r t) := by
  obtain ⟨c, hc⟩ := offerWhere_eq f r t
  rw [hc]
  exact h.ctxs (fun _ => c) hm

theorem onlyChanges.offerAll (r : Rec) (hm : .ctxs ∈ ps := by decide) : onlyChanges ps s (offerAll r t) :=
  h.offerWhere _ _ hm

theorem onlyChanges.offerPart (p : Nat) (r : Rec) (hm : .ctxs ∈ ps := by decide) : onlyChanges ps s (offerPart p r t) :=
  h.offerWhere _ _ hm

theorem onlyChanges.offerUnit (u : Nat) (r : Rec) (hm : .ctxs ∈ ps := by decide) : onlyChanges ps s (offerUnit u r t) :=
  h.offerWhere _ _ hm

theorem onlyChanges.giveRec (x : Nat) (r : Rec) (hm : .ctxs ∈ ps := by decide) : onlyChanges ps s (giveRec x r t) :=
  h.onCtx _ _ hm

theorem onlyChanges.offerRec (x : Nat) (r : Rec) (hm : .ctxs ∈ ps := by decide) : onlyChanges ps s (offerRec x r t) := by
  obtain ⟨c, hc⟩ := offerRec_eq x r t
  rw [hc]
  exact h.ctxs (fun _ => c) hm

theorem onlyChanges.returnWithheld (hm : .hed ∈ ps := by decide) : onlyChanges ps s (returnWithheld t) := by
  obtain ⟨c, p, hh⟩ := returnWithheld_hed t
  rw [hh]
  exact h.onHed _ hm

theorem onlyChanges.requestClk (hm : .pwr ∈ ps := by decide) : onlyChanges ps s (requestClk t) :=
  .ite _ (h.onPwr _ hm) (h.onPwr _ hm)

theorem onlyChanges.edgeRequest (hm : .pwr ∈ ps := by decide) : onlyChanges ps s (edgeRequest t) :=
  .ite _ h (.ite _ (h.onPwr _ hm) (.ite _ (h.onPwr _ hm) (h.onPwr _ hm)))

theorem onlyChanges.wake (src : Nat) (hm : .pwr ∈ ps := by decide) (hh : .hed ∈ ps := by decide) :
    onlyChanges ps s (wake src t) := by
  obtain ⟨c, p, q, he⟩ := wake_eq src t
  rw [he]
  exact (h.onHed _ hh).onPwr _ hm

theorem onlyChanges.hwFreeze (g cause own : Nat) (hm : .cut ∈ ps := by decide) :
    onlyChanges ps s (hwFreeze g cause own t) := by
  obtain ⟨c, hc⟩ := hwFreeze_eq g cause own t
  rw [hc]
  exact h.onCut _ hm

theorem onlyChanges.trigger (g cause own : Nat) (hm : .cut ∈ ps := by decide) (hh : .hang ∈ ps := by decide) :
    onlyChanges ps s (trigger g cause own t) := by
  unfold Machine.trigger
  split
  · exact .ite _ (h.onHang _ hh) (h.hwFreeze _ _ _ hm)
  · exact h.hwFreeze _ _ _ hm

theorem onlyChanges.addPiece (p : Piece) (hm : .smp ∈ ps := by decide) : onlyChanges ps s (addPiece p t) := h.onSmp _ hm

theorem onlyChanges.addPieces (cls part : Nat) (w last : WrWhat) (addr : Nat) (data : List U64)
    (hm : .smp ∈ ps := by decide) : onlyChanges ps s (addPieces cls part w last addr data t) := h.onSmp _ hm

theorem onlyChanges.readPieces (cls part : Nat) (w : WrWhat) (addr units : Nat) (hm : .smp ∈ ps := by decide) :
    onlyChanges ps s (readPieces cls part w addr units t) := h.onSmp _ hm

theorem onlyChanges.writeNow (p : Piece) (hm : .smp ∈ ps := by decide) : onlyChanges ps s (writeNow p t) := by
  obtain ⟨w, he⟩ | he := writeNow_cases p t
  · rw [he]
    exact h.onSmp _ hm
  · rw [he]
    exact h.addPiece _ hm

theorem onlyChanges.complete (r : Nat) (x : Held) (st : Nat) (res : U32) (hm : .smp ∈ ps := by decide)
    (hc : .cmd ∈ ps := by decide) : onlyChanges ps s (complete r x st res t) := by
  obtain ⟨f, he⟩ := complete_eq r x st res t
  rw [he]
  exact (h.addPiece _ hm).onRing _ _ hc

theorem onlyChanges.completeSeq (r seq st : Nat) (res : U32) (hm : .smp ∈ ps := by decide)
    (hc : .cmd ∈ ps := by decide) : onlyChanges ps s (completeSeq r seq st res t) := by
  unfold Machine.completeSeq
  split
  · exact h.complete _ _ _ _ hm hc
  · exact h

theorem onlyChanges.addMsi (r k : Nat) (hm : .smp ∈ ps := by decide) : onlyChanges ps s (addMsi r k t) := h.addPiece _ hm

theorem onlyChanges.raisePend (r : Nat) (hm : .smp ∈ ps := by decide) (hc : .cmd ∈ ps := by decide) :
    onlyChanges ps s (raisePend r t) := by
  unfold Machine.raisePend
  exact .ite _ h (.ite _ ((h.onRing _ _ hc).addMsi _ _ hm) (h.onRing _ _ hc))

theorem onlyChanges.park (r : Nat) (x : Held) (st : Stage) (hc : .cmd ∈ ps := by decide) :
    onlyChanges ps s (park r x st t) := h.onRing _ _ hc

theorem onlyChanges.setStage (r seq : Nat) (st : Stage) (hc : .cmd ∈ ps := by decide) :
    onlyChanges ps s (setStage r seq st t) := h.onRing _ _ hc

theorem onlyChanges.hold (r : Nat) (x : Held) (st : Stage) (hc : .cmd ∈ ps := by decide) :
    onlyChanges ps s (hold r x st t) := .ite _ (h.setStage _ _ _ hc) (h.onRing _ _ hc)

theorem onlyChanges.onLink (east : Bool) (g : Link → Link) (hm : .fab ∈ ps := by decide) :
    onlyChanges ps s (onLink east g t) := h.onFab _ hm

theorem onlyChanges.portForward (src : Nat) (east : Bool) (ftype dst mtype : Nat) (body : List Byte)
    (hm : .fab ∈ ps := by decide) : onlyChanges ps s (portForward src east ftype dst mtype body t) := h.onLink _ _ hm

theorem onlyChanges.portSend (east : Bool) (ftype dst mtype : Nat) (body : List Byte) (hm : .fab ∈ ps := by decide) :
    onlyChanges ps s (portSend east ftype dst mtype body t) := h.onLink _ _ hm

theorem onlyChanges.fabSend (dst ftype mtype : Nat) (body : List Byte) (hm : .fab ∈ ps := by decide) :
    onlyChanges ps s (fabSend dst ftype mtype body t) := h.onLink _ _ hm

theorem onlyChanges.fabBoth (ftype mtype : Nat) (body : List Byte) (hm : .fab ∈ ps := by decide) :
    onlyChanges ps s (fabBoth ftype mtype body t) := by
  have k : onlyChanges ps s (if portUp t true then Machine.portSend true ftype 0x3F mtype body t else t) :=
    .ite _ (h.portSend _ _ _ _ _ hm) h
  exact .ite _ (k.portSend _ _ _ _ _ hm) k

theorem onlyChanges.countTo (p g : Nat) (f : Nat → Bank → Bank) (hm : .cut ∈ ps := by decide) :
    onlyChanges ps s (countTo p g f t) := h.onCut _ hm

theorem onlyChanges.count (p g : Nat) (f : Bank → Bank) (hm : .cut ∈ ps := by decide) :
    onlyChanges ps s (count p g f t) := h.onCut _ hm

theorem onlyChanges.countLink (g : Nat) (f : Bank → Bank) (hm : .cut ∈ ps := by decide) :
    onlyChanges ps s (countLink g f t) := h.onCut _ hm

end Shared

/-! ## A command that acts -/

/-- A command leads to what its effect names. -/
theorem goesTo_run {c : Instr} {f : State → State} {s : State} (he : exec c s = run f s) (hs : s.scan = false) :
    goesTo c s (f s) := he.trans (run_next f s hs)

/-- A command of the OBS domain leads to what its effect names while the domain runs. -/
theorem goesTo_inObs {c : Instr} {f : State → State} {s : State} (he : exec c s = run (inObs f) s) (hr : running s) :
    goesTo c s (f s) := by
  have h := goesTo_run he hr.1
  rwa [inObs_run f s hr.2] at h

end Sys2Proof.Safety
end

section
/-! SUPPORT. One tick of the clocks, and the statement about a step on an empty queue. -/

namespace Sys2Proof.Machine

open Sys2Proof.Safety

set_option Elab.async false

/-- The windows that end asleep are noted in the rules. -/
theorem sleepWindows_eq (s : State) : ∃ r, sleepWindows s = onSen (fun n => { n with rules := r }) s := by
  have fold (l : List Nat) (a : State) : ∃ r, l.foldl (fun a k =>
      if ruleEn a k && a.aon.tb.rootGt % 2 ^ ruleLog2w a k == 0 then
        onGRule k (fun g => { g with asleep := g.asleep ++ [a.aon.tb.rootGt] }) a
      else a) a = onSen (fun n => { n with rules := r }) a := by
    induction l generalizing a with
    | nil => exact ⟨a.aon.sen.rules, rfl⟩
    | cons k l ih =>
      rw [List.foldl_cons]
      split
      · obtain ⟨r, hr⟩ := ih (onGRule k (fun g => { g with asleep := g.asleep ++ [a.aon.tb.rootGt] }) a)
        exact ⟨r, by rw [hr]; rfl⟩
      · exact ih a
  unfold sleepWindows
  split
  · exact ⟨s.aon.sen.rules, rfl⟩
  · exact fold _ s

theorem driveDue_of_nil {s : State} (h : s.aon.sen.due = []) :
    driveDue s = onSen (fun n => { n with due := [], acked := 0 }) s := by
  rw [driveDue, h]; rfl

theorem discEdge_of_none {s : State} (h : s.obs.fab.disc = none) : discEdge s = s := by rw [discEdge, h]

theorem onlyChanges_tokenEdge (s : State) : onlyChanges [.pwr] s (tokenEdge s) :=
  .ite _ ((onlyChanges.refl _ s).onPwr _) (.refl _ s)

theorem onlyChanges_edgeIdle (s : State) : onlyChanges [.pwr] s (edgeIdle s) :=
  .ite _ ((onlyChanges.refl _ s).onPwr _) (.refl _ s)

theorem onlyChanges_beacon (s : State) : onlyChanges [.fab] s (beacon s) :=
  .ite _ ((onlyChanges.refl _ s).fabBoth _ _ _) (.refl _ s)

theorem fabBoth_disc (ftype mtype : Nat) (body : List Byte) (s : State) :
    (fabBoth ftype mtype body s).obs.fab.disc = s.obs.fab.disc := by
  have one (e : Bool) (u : State) : (portSend e ftype 0x3F mtype body u).obs.fab.disc = u.obs.fab.disc := by
    cases e <;> rfl
  have first : (if portUp s true then portSend true ftype 0x3F mtype body s else s).obs.fab.disc = s.obs.fab.disc := by
    split
    · exact one _ _
    · rfl
  unfold fabBoth
  generalize (if portUp s true then portSend true ftype 0x3F mtype body s else s) = u at first
  simp only
  split
  · rw [one, first]
  · exact first

theorem beacon_disc (s : State) : (beacon s).obs.fab.disc = s.obs.fab.disc := by
  simp only [beacon]
  split
  · exact fabBoth_disc _ _ _ _
  · rfl

/-- The state as the root has counted an AON cycle. -/
def rootCounts (s : State) : State := onTb (fun t => { t with rootGt := gtMod (t.rootGt + 32), sub := 0 }) s

/-- Where no miss waits for its lines and no discovery runs, an AON edge is a count of the root, and requests, windows
asleep and the beacon follow. -/
theorem aonEdge_quiet {s : State} (hd : s.aon.sen.due = []) (hf : s.obs.fab.disc = none) :
    onlyChanges [.pwr, .sen, .fab] (rootCounts s) (aonEdge s) ∧ (aonEdge s).aon.sen.watches = s.aon.sen.watches ∧
      (aonEdge s).aon.sen.lines = s.aon.sen.lines := by
  have ht := onlyChanges_tokenEdge (rootCounts s)
  obtain ⟨r, hr⟩ := sleepWindows_eq (driveDue (tokenEdge (rootCounts s)))
  have hdrive := driveDue_of_nil (s := tokenEdge (rootCounts s)) (by rw [ht.sen_eq]; exact hd)
  have hw : onlyChanges [.pwr, .sen, .fab] (rootCounts s) (sleepWindows (driveDue (tokenEdge (rootCounts s)))) := by
    rw [hr, hdrive]
    exact ((ht.mono (by decide)).onSen _).onSen _
  have hi := onlyChanges_edgeIdle (sleepWindows (driveDue (tokenEdge (rootCounts s))))
  have hq := (onlyChanges.refl [Part.pwr] (edgeIdle (sleepWindows (driveDue (tokenEdge (rootCounts s)))))).edgeRequest
  have hb := onlyChanges_beacon (edgeRequest (edgeIdle (sleepWindows (driveDue (tokenEdge (rootCounts s))))))
  have hdisc : (edgeRequest (edgeIdle (sleepWindows (driveDue (tokenEdge (rootCounts s)))))).obs.fab.disc = none := by
    rw [hq.fab_eq, hi.fab_eq, hr, hdrive, onSen_obs, onSen_obs, ht.fab_eq]
    exact hf
  have he : aonEdge s = beacon (edgeRequest (edgeIdle (sleepWindows (driveDue (tokenEdge (rootCounts s)))))) :=
    discEdge_of_none ((beacon_disc _).trans (hdisc : (edgeRequest (edgeIdle (sleepWindows (driveDue (tokenEdge
      (rootCounts s)))))).obs.fab.disc = none))
  have hsen : (aonEdge s).aon.sen = { s.aon.sen with due := [], acked := 0, rules := r } := by
    rw [he, hb.sen_eq, hq.sen_eq, hi.sen_eq, hr, hdrive, onSen_sen, onSen_sen, ht.sen_eq]
    rfl
  rw [hsen, he]
  exact ⟨hw.trans ((hi.mono (by decide)).trans ((hq.mono (by decide)).trans (hb.mono (by decide)))), rfl, rfl⟩

theorem dueRowItems_of_nil {s : State} (h : s.obs.lens.rowDue = []) : onlyChanges [] s (dueRowItems s) := by
  have hl : ({ s.obs.lens with rowDue := s.obs.lens.rowDue.filter fun e => !decide (e.1 ≤ now s) } : Lens) = s.obs.lens := by
    rw [h, List.filter_nil, ← h]
  have he : dueRowItems s = s := by
    unfold dueRowItems
    rw [h]
    exact congrArg (fun l => onLens (fun _ => l) s) hl
  rw [he]
  exact .refl _ s

theorem onlyChanges_creditGrow (i : Nat) (s : State) : onlyChanges [.smp] s (creditGrow i s) :=
  .ite _ (.refl _ s) ((onlyChanges.refl _ s).onSmp _)

/-- Settles O2: a tick is a growth of the governor's credit, and an AON edge (`aonEdge_quiet`) or a count of the OBS
cycle's GT. -/
theorem emptyQueueIsOneTick : Obligations.EmptyQueueIsOneTick := by
  unfold Obligations.EmptyQueueIsOneTick
  intro s hp hs hn hg hd hr hf
  refine ⟨tick s, by rw [step, hp], ?_⟩
  have edge {u : State} (hu : onlyChanges [.smp] s u) :
      onlyChanges [.tb, .pwr, .sen, .smp, .fab] s (aonEdge u) ∧
      (aonEdge u).aon.tb = { s.aon.tb with rootGt := gtMod (s.aon.tb.rootGt + 32), sub := 0 } ∧
      (aonEdge u).aon.sen.watches = s.aon.sen.watches ∧ (aonEdge u).aon.sen.lines = s.aon.sen.lines := by
    obtain ⟨ho, hw, hl⟩ := aonEdge_quiet (s := u) (by rw [hu.sen_eq]; exact hd) (by rw [hu.fab_eq]; exact hf)
    refine ⟨((hu.mono (by decide)).onTb _).trans (ho.mono (by decide)), ?_, ?_, ?_⟩
    · rw [ho.tb_eq, rootCounts, onTb_tb, hu.tb_eq]
    · rw [hw, hu.sen_eq]
    · rw [hl, hu.sen_eq]
  have hmod : gtMod (s.aon.tb.rootGt + 32) = s.aon.tb.rootGt + 32 := Nat.mod_eq_of_lt hg
  unfold tick
  rw [if_neg (by simp [hs]), if_neg (by simp [hn])]
  by_cases hrun : obsRuns s = true
  · rw [if_pos hrun]
    have hc := onlyChanges_creditGrow (incOf s.aon.pwr.ratio) s
    have hu : onlyChanges [.smp] s (dueRowItems (creditGrow (incOf s.aon.pwr.ratio) s)) :=
      hc.trans ((dueRowItems_of_nil (by rw [hc.lens_eq]; exact hr)).mono (by decide))
    simp only
    split
    · obtain ⟨ho, ht, hw, hl⟩ := edge hu
      refine ⟨ho, ?_, hw, hl, fun _ hle => ?_, fun h => absurd hrun (by simp [h])⟩
      · rw [ht]
        simp only [hmod]
        omega
      · have : s.aon.tb.sub + incOf s.aon.pwr.ratio = 32 := by omega
        simp only [now, ht, hmod]
        simp only [gtMod]
        omega
    · refine ⟨(hu.mono (by decide)).onTb _, ?_, ?_, ?_, fun _ _ => ?_, fun h => absurd hrun (by simp [h])⟩
      · rw [onTb_tb, hu.tb_eq]
      · rw [onTb_sen, hu.sen_eq]
      · rw [onTb_sen, hu.sen_eq]
      · rw [now, now, onTb_tb, hu.tb_eq]
        simp only [gtMod]
        omega
  · rw [if_neg hrun]
    obtain ⟨ho, ht, hw, hl⟩ := edge (onlyChanges.refl _ s)
    refine ⟨ho, ?_, hw, hl, fun h => absurd h hrun, fun _ => ?_⟩
    · rw [ht]
      simp only [hmod]
      omega
    · rw [ht]
      exact ⟨hmod, rfl⟩

end Sys2Proof.Machine
end

section
/-! SUPPORT. Words: their bits and fields under the model's operations, and the cause bits that Blackthorn sets. -/

namespace Sys2Proof.Machine

open Sys2Proof.Safety

set_option Elab.async false

/-! ## Bits and fields -/

theorem bit_eq_getLsbD {w : Nat} (x : BitVec w) (i : Nat) : bit x i = x.getLsbD i := rfl

@[simp] theorem bit_and {w : Nat} (x y : BitVec w) (i : Nat) : bit (x &&& y) i = (bit x i && bit y i) := by
  simp [bit_eq_getLsbD]

theorem bit_not {w : Nat} (x : BitVec w) {i : Nat} (hi : i < w) : bit (~~~ x) i = !bit x i := by
  simp [bit_eq_getLsbD, hi]

theorem bit_ofNat {w : Nat} (n : Nat) {i : Nat} (hi : i < w) : bit (BitVec.ofNat w n) i = n.testBit i := by
  rw [bit_eq_getLsbD, BitVec.getLsbD_ofNat, decide_eq_true hi, Bool.true_and]

/-- Two words are equal where their bits are. -/
theorem eq_of_bits {x y : U32} (h : ∀ i, i < 32 → bit x i = bit y i) : x = y := by
  apply BitVec.eq_of_getLsbD_eq
  exact h

theorem testBit_fld {w : Nat} (x : BitVec w) (lo n i : Nat) :
    (fld x lo n).testBit i = (decide (i < n) && bit x (lo + i)) := by
  simp [fld, nfld, bit, Nat.testBit_mod_two_pow, Nat.testBit_div_two_pow, Nat.add_comm]

/-- A field is what its bits are. -/
theorem fld_congr {w v : Nat} {x : BitVec w} {y : BitVec v} {lo n m : Nat}
    (h : ∀ i, i < n → bit x (lo + i) = bit y (m + i)) : fld x lo n = fld y m n := by
  apply Nat.eq_of_testBit_eq
  intro i
  rw [testBit_fld, testBit_fld]
  by_cases hi : i < n
  · rw [h i hi]
  · simp [hi]

theorem fld_lt {w : Nat} (x : BitVec w) (lo n : Nat) : fld x lo n < 2 ^ n := Nat.mod_lt _ (Nat.two_pow_pos n)

theorem bit_ones {lo n i : Nat} (hi : i < 32) : bit (ones lo n) i = decide (lo ≤ i ∧ i < lo + n) := by
  rw [ones, bit_ofNat _ hi, Nat.testBit_mul_two_pow, Nat.testBit_two_pow_sub_one]
  by_cases h : lo ≤ i
  · simp [h]
    omega
  · simp [h]

/-- A field set takes its value's bits, and every other bit stands. -/
theorem bit_setFld (x : U32) (lo n v : Nat) {i : Nat} (hi : i < 32) :
    bit (setFld x lo n v) i = if lo ≤ i ∧ i < lo + n then v.testBit (i - lo) else bit x i := by
  rw [setFld, bit_or, bit_and, bit_not _ hi, bit_ones hi, bit_ofNat _ hi, Nat.testBit_mul_two_pow, Nat.testBit_mod_two_pow]
  by_cases h : lo ≤ i
  · by_cases hn : i < lo + n
    · have : i - lo < n := by omega
      simp [h, hn, this]
    · have : ¬ i - lo < n := by omega
      simp [h, hn, this]
  · simp [h]

theorem fld_setFld_same (x : U32) {lo n : Nat} (v : Nat) (h : lo + n ≤ 32) : fld (setFld x lo n v) lo n = v % 2 ^ n := by
  apply Nat.eq_of_testBit_eq
  intro i
  rw [testBit_fld, Nat.testBit_mod_two_pow]
  by_cases hi : i < n
  · rw [bit_setFld _ _ _ _ (by omega)]
    simp [hi]
  · simp [hi]

theorem fld_setFld_other (x : U32) {lo n lo' n' : Nat} (v : Nat) (h : lo' + n' ≤ 32)
    (hd : lo' + n' ≤ lo ∨ lo + n ≤ lo') : fld (setFld x lo n v) lo' n' = fld x lo' n' :=
  fld_congr fun i hi => by
    rw [bit_setFld _ _ _ _ (by omega), if_neg (by omega)]

/-- A number of one bit has that bit alone. -/
theorem bit_two_pow {k i : Nat} (hi : i < 32) : bit (BitVec.ofNat 32 (2 ^ k)) i = decide (k = i) := by
  rw [bit_ofNat _ hi, Nat.testBit_two_pow]

/-- A word with a bit in a mask is not clear under it. -/
theorem and_ne_zero_of_bit {x m : U32} {i : Nat} (hx : bit x i = true) (hm : bit m i = true) : (x &&& m != 0) = true := by
  rw [bne_iff_ne]
  intro h
  have hb : bit (x &&& m) i = false := by rw [h]; simp [bit_eq_getLsbD]
  rw [bit_and, hx, hm] at hb
  cases hb

theorem bit_reg_orReg (a : Nat) (m : U32) (s : State) (i : Nat) :
    bit (reg (orReg a m s) a) i = (bit (reg s a) i || bit m i) := by
  rw [orReg_eq, reg_setReg_same, bit_or]

theorem reg_orReg_other (a : Nat) (m : U32) (s : State) {b : Nat} (h : b ≠ a) : reg (orReg a m s) b = reg s b :=
  reg_setReg_other a _ s b h

theorem reg_bumpReg_other (a lo n k : Nat) (s : State) {b : Nat} (h : b ≠ a) : reg (bumpReg a lo n k s) b = reg s b :=
  reg_setReg_other a _ s b h

/-- A saturating count in its field. -/
theorem fld_reg_bumpReg (a : Nat) {lo n : Nat} (k : Nat) (s : State) (h : lo + n ≤ 32) :
    fld (reg (bumpReg a lo n k s) a) lo n = sat (2 ^ n - 1) (fld (reg s a) lo n + k) := by
  rw [bumpReg_eq, reg_setReg_same, fld_setFld_same _ _ h, Nat.mod_eq_of_lt]
  have := Nat.two_pow_pos n
  unfold sat
  split <;> omega

/-! ## Alarms whose action is LOG -/

section Alarm

variable {ps : List Part} {s t : State} (h : onlyChanges ps s t)
include h

theorem onlyChanges_alarmRecord (c a : Nat) (arg : U32) (g : Nat) (hm : .ctxs ∈ ps := by decide) :
    onlyChanges ps s (alarmRecord c a arg g t) := h.offerWhere _ _ hm

end Alarm

/-- Blackthorn's cause bit, its count, its item and its records: all that an alarm does whose action is LOG. -/
def alarmLogged (c : Nat) (arg : U32) (g : Nat) (s : State) : State :=
  alarmRecord c (almAct s c) arg g (push 0 (mkItem 0x20 0 c (BitVec.ofNat 32 (almAct s c)) g)
    (orReg aAlm (BitVec.ofNat 32 (2 ^ c)) (onAlm (fun m => { m with alarms := sat 255 (m.alarms + 1) }) s)))

theorem alarm_of_log {c : Nat} {s : State} (h : almAct s c = 0) (arg : U32) (g : Nat) :
    alarm c arg g s = alarmLogged c arg g s := by
  simp only [alarm, alarmLogged, h, if_true]

theorem onlyChanges_alarmLogged (c : Nat) (arg : U32) (g : Nat) (s : State) :
    onlyChanges [.aonRegs, .alm, .obsRegs, .ctxs] s (alarmLogged c arg g s) :=
  onlyChanges_alarmRecord ((((onlyChanges.refl _ s).onAlm _).orReg _ _).push 0 _ _ _ _ _) _ _ _ _

theorem onlyChanges_alarm_of_log {c : Nat} {s : State} (h : almAct s c = 0) (arg : U32) (g : Nat) :
    onlyChanges [.aonRegs, .alm, .obsRegs, .ctxs] s (alarm c arg g s) := by
  rw [alarm_of_log h]
  exact onlyChanges_alarmLogged c arg g s

/-- After its cause bit an alarm leaves every AON register. -/
theorem reg_alarmLogged (c : Nat) (arg : U32) (g : Nat) (s : State) {a : Nat} (ha : regAon a = true) :
    reg (alarmLogged c arg g s) a = reg (orReg aAlm (BitVec.ofNat 32 (2 ^ c)) s) a := by
  have k := onlyChanges_alarmRecord ((onlyChanges.refl [.alm, .obsRegs, .ctxs]
    (orReg aAlm (BitVec.ofNat 32 (2 ^ c)) (onAlm (fun m => { m with alarms := sat 255 (m.alarms + 1) }) s))).push 0
      0x20 0 c (BitVec.ofNat 32 (almAct s c)) g) c (almAct s c) arg g
  exact k.reg_eq a (by simp [regPart, ha])

theorem bit_alarmLogged (c : Nat) (hc : c < 32) (arg : U32) (g : Nat) (s : State) :
    bit (reg (alarmLogged c arg g s) aAlm) c = true := by
  rw [reg_alarmLogged _ _ _ _ (by decide), bit_reg_orReg, bit_two_pow hc]
  simp

theorem bit_alarm_of_log {c : Nat} (hc : c < 32) {s : State} (h : almAct s c = 0) (arg : U32) (g : Nat) :
    bit (reg (alarm c arg g s) aAlm) c = true := by
  rw [alarm_of_log h]
  exact bit_alarmLogged c hc arg g s

end Sys2Proof.Machine
end

section
/-! SUPPORT. The register window: accesses served, held and refused, and the commands that are accesses. -/

namespace Sys2Proof.Machine

open Sys2Proof.Safety

set_option Elab.async false

/-! ## Accesses that are served -/

theorem obsRuns_iff (s : State) :
    obsRuns s = true ↔ s.aon.pwr.aonRstN = true ∧ s.aon.pwr.rstN = true ∧ s.aon.pwr.clkAck = true := by
  simp [obsRuns, and_assoc]

theorem aonOpen_of_obsOpen {s : State} (h : obsOpen s) : aonOpen s := by
  obtain ⟨⟨hs, hr⟩, _, hh⟩ := h
  exact ⟨hs, ((obsRuns_iff s).mp hr).1, hh⟩

theorem obsAwake_of_obsOpen {s : State} (h : obsOpen s) : obsAwake s = true := by
  obtain ⟨⟨_, hr⟩, ha, _⟩ := h
  simp [obsAwake, hr, ha]

/-- An access of the AON domain is carried out at once. -/
theorem present_aon {s : State} {x : RapAcc} (h : aonOpen s) (hx : regAon x.addr = true) : present x s = perform x s := by
  obtain ⟨_, hn, hh⟩ := h
  simp [present, hn, hx, hh, mustHold]

/-- With the window open to both domains every access but a read of `FGT_LO` is carried out at once. -/
theorem present_open {s : State} {x : RapAcc} (h : obsOpen s)
    (hf : x.addr = 0x3008 → x.write = false → s.aon.tb.full = false) : present x s = perform x s := by
  obtain ⟨⟨_, hr⟩, ha, hh⟩ := h
  obtain ⟨hn, hr', hk⟩ := (obsRuns_iff s).mp hr
  have hm : mustHold s x = false := by
    have hfgt : (x.addr == 0x3008 && !x.write && s.aon.tb.full) = false := by
      by_cases hx : x.addr = 0x3008
      · cases hw : x.write
        · simp [hf hx hw]
        · simp
      · simp [hx]
    rw [mustHold, hfgt]
    simp [obsAwake, hr, ha]
  simp [present, hn, hh, hm, wake_awake 2 s hk ha]

/-- A write that is carried out completes with ERR 0. -/
theorem perform_write {s : State} {a : Nat} (v : U32) (h : regAon a = true ∨ s.aon.pwr.rstN = true) (j : Bool) :
    perform ⟨true, a, v, j⟩ s = rapResult ⟨true, a, v, j⟩ 0 false (regWrite a v s) := by
  obtain h | h := h <;> simp [perform, h]

/-- A read that is carried out returns the register's value, with ERR 0. -/
theorem perform_read {s : State} {a : Nat} (h : regAon a = true ∨ s.aon.pwr.rstN = true) (w : U32) (j : Bool) :
    perform ⟨false, a, w, j⟩ s = rapResult ⟨false, a, w, j⟩ (regRead s a) false (regReadDone a s) := by
  obtain h | h := h <;> simp [perform, h]

/-- What a write through the RAP leads to. -/
def rapWrote (a : Nat) (v : U32) (s : State) : State := rapResult ⟨true, a, v, false⟩ 0 false (regWrite a v s)

/-- What a read through the RAP leads to. -/
def rapReadOut (a : Nat) (s : State) : State := rapResult ⟨false, a, 0, false⟩ (regRead s a) false (regReadDone a s)

theorem goesTo_write {c : Instr} {a : Nat} {v : U32} {s : State} (he : exec c s = run (rapWrite a v) s) (h : obsOpen s)
    (ha : winAddr a = a) : goesTo c s (rapWrote a v s) := by
  have hg := goesTo_run he h.1.1
  rwa [rapWrite, ha, present_open h (by simp), perform_write v (.inr ((obsRuns_iff s).mp h.1.2).2.1)] at hg

theorem goesTo_write_aon {c : Instr} {a : Nat} {v : U32} {s : State} (he : exec c s = run (rapWrite a v) s)
    (h : aonOpen s) (ha : winAddr a = a) (hx : regAon a = true) : goesTo c s (rapWrote a v s) := by
  have hg := goesTo_run he h.1
  rwa [rapWrite, ha, present_aon h hx, perform_write v (.inl hx)] at hg

theorem goesTo_read {c : Instr} {a : Nat} {s : State} (he : exec c s = run (rapRead a) s) (h : obsOpen s)
    (ha : winAddr a = a) (hf : a = 0x3008 → s.aon.tb.full = false) : goesTo c s (rapReadOut a s) := by
  have hg := goesTo_run he h.1.1
  rwa [rapRead, ha, present_open h (fun hx _ => hf hx), perform_read (.inr ((obsRuns_iff s).mp h.1.2).2.1)] at hg

theorem goesTo_read_aon {c : Instr} {a : Nat} {s : State} (he : exec c s = run (rapRead a) s) (h : aonOpen s)
    (ha : winAddr a = a) (hx : regAon a = true) : goesTo c s (rapReadOut a s) := by
  have hg := goesTo_run he h.1
  rwa [rapRead, ha, present_aon h hx, perform_read (.inl hx)] at hg

/-! ## What a served access leaves -/

section Frame

variable {ps : List Part} {s t : State} (h : onlyChanges ps s t)
include h

theorem onlyChanges_rapResult (x : RapAcc) (v : U32) (e : Bool) (hm : .rap ∈ ps := by decide) :
    onlyChanges ps s (rapResult x v e t) := h.onRap _ hm

end Frame

theorem onlyChanges_rapWrote {ps : List Part} {a : Nat} {v : U32} {s : State} (h : onlyChanges ps s (regWrite a v s))
    (hm : .rap ∈ ps := by decide) : onlyChanges ps s (rapWrote a v s) := onlyChanges_rapResult h _ _ _ hm

@[simp] theorem rapWrote_err (a : Nat) (v : U32) (s : State) : (rapWrote a v s).aon.rap.err = false := rfl
@[simp] theorem rapWrote_regs (a : Nat) (v : U32) (s : State) : (rapWrote a v s).aon.regs = (regWrite a v s).aon.regs := rfl
@[simp] theorem rapWrote_tb (a : Nat) (v : U32) (s : State) : (rapWrote a v s).aon.tb = (regWrite a v s).aon.tb := rfl
@[simp] theorem rapWrote_pwr (a : Nat) (v : U32) (s : State) : (rapWrote a v s).aon.pwr = (regWrite a v s).aon.pwr := rfl
@[simp] theorem rapWrote_sen (a : Nat) (v : U32) (s : State) : (rapWrote a v s).aon.sen = (regWrite a v s).aon.sen := rfl
@[simp] theorem rapWrote_db (a : Nat) (v : U32) (s : State) : (rapWrote a v s).aon.db = (regWrite a v s).aon.db := rfl
@[simp] theorem rapWrote_obs (a : Nat) (v : U32) (s : State) : (rapWrote a v s).obs = (regWrite a v s).obs := rfl
@[simp] theorem reg_rapWrote (a : Nat) (v : U32) (s : State) (b : Nat) :
    reg (rapWrote a v s) b = reg (regWrite a v s) b := rfl
@[simp] theorem rapReadOut_err (a : Nat) (s : State) : (rapReadOut a s).aon.rap.err = false := rfl
@[simp] theorem rapReadOut_rdata (a : Nat) (s : State) : (rapReadOut a s).aon.rap.rdata = regRead s a := rfl

/-! ## Plain registers -/

/-- A plain write stores one register. -/
theorem putFields_eq (a : Nat) (v : U32) (s : State) : ∃ w, putFields a v s = setReg a w s := ⟨_, rfl⟩

section Frame

variable {ps : List Part} {s t : State} (h : onlyChanges ps s t)
include h

theorem onlyChanges_putFields (a : Nat) (v : U32) (hm : regPart a ∈ ps := by decide) :
    onlyChanges ps s (putFields a v t) := h.setReg _ _ hm

end Frame

theorem reg_putFields_other (a : Nat) (v : U32) (s : State) {b : Nat} (h : b ≠ a) :
    reg (putFields a v s) b = reg s b := reg_setReg_other a _ s b h

/-- The bits that a plain write takes. -/
def takesBit (s : State) (a i : Nat) : Bool :=
  fieldsOpen s a && (bit (regSpec s.build a).rw i || (bit (regSpec s.build a).rwl i && !locked s a))

/-- A plain write bit by bit (R385, R386). -/
theorem bit_reg_putFields (a : Nat) (v : U32) (s : State) {i : Nat} (hi : i < 32) :
    bit (reg (putFields a v s) a) i = ((if takesBit s a i then bit (filterVal s a v) i else bit (reg s a) i) &&
      !(bit v i && bit (regSpec s.build a).w1c i)) := by
  have hm : bit (if fieldsOpen s a then (regSpec s.build a).rw ||| (if locked s a then 0 else (regSpec s.build a).rwl)
      else 0) i = takesBit s a i := by
    unfold takesBit
    cases fieldsOpen s a
    · simp [bit_eq_getLsbD]
    · cases locked s a <;> simp [bit_eq_getLsbD]
  rw [putFields, reg_setReg_same, bit_and, bit_not _ hi, bit_and, bit_or, bit_and, bit_not _ hi, bit_and, hm]
  cases takesBit s a i <;> simp

end Sys2Proof.Machine
end

section
/-! SUPPORT. The resets and the start-up (chapter 14), and the statements about them. -/

namespace Sys2Proof.Machine

open Sys2Proof.Safety

set_option Elab.async false

/-! ## Requests and repair entries -/

/-- The governor's offer changes the word offered. -/
theorem offerReq_eq (s : State) : ∃ c l r d, offerReq s =
    onPwr (fun q => { q with pwrCode := c, pwrLevel := l, pwrRule := r, pwrDue := d }) s := by
  unfold offerReq
  simp only
  split
  · split
    · exact ⟨s.aon.pwr.pwrCode, s.aon.pwr.pwrLevel, _, s.aon.pwr.pwrDue, rfl⟩
    · exact ⟨s.aon.pwr.pwrCode, s.aon.pwr.pwrLevel, s.aon.pwr.pwrRule, s.aon.pwr.pwrDue, rfl⟩
  · exact ⟨_, _, _, _, rfl⟩

/-- The reading of repair entries begins, or nothing happens. -/
theorem startRepair_eq (s : State) : ∃ q a r j, startRepair s =
    onPwr (fun p => { p with fuseReq := q, fuseAddr := a, repairs := r, rejected := j }) s := by
  unfold startRepair
  simp only
  split
  · exact ⟨_, _, _, _, rfl⟩
  · exact ⟨s.aon.pwr.fuseReq, s.aon.pwr.fuseAddr, s.aon.pwr.repairs, s.aon.pwr.rejected, rfl⟩

/-- A grant without a recorded wake event: the OBS domain starts, its copies are due, the credit restarts. -/
theorem useGrant_of_no_wake {s : State} (h : s.aon.pwr.wake = none) : useGrant s =
    startRepair (onSmp (fun m => { m with credit := 0 }) (onTb (fun b => { b with calDone := false, full := true })
      (onPwr (fun p => { p with waking := p.ready, granted := true, switching := false, stage := .awake }) s))) := by
  simp only [useGrant, h]

/-- A grant with a recorded wake event shows it first (Table 14.7). -/
theorem useGrant_of_wake {s : State} {src g : Nat} (h : s.aon.pwr.wake = some (src, g)) : useGrant s =
    useGrant (onPwr (fun p => { p with lastSrc := src, lastLat := sat 0xFFFF (now s - g), wake := none })
      (bumpReg aPwrStat 8 8 1 s)) := by
  have hn : (onPwr (fun p => { p with lastSrc := src, lastLat := sat 0xFFFF (now s - g), wake := none })
      (bumpReg aPwrStat 8 8 1 s)).aon.pwr.wake = none := rfl
  rw [useGrant_of_no_wake hn]
  simp only [useGrant, h]

/-! ## The fall of `RST_N` -/

/-- Under `RST_N` every port is at its default but for its level. -/
theorem smGet_keepLevels (ports : SMap PortSt) (p : Nat) :
    smGet portD (keepLevels ports) p = { portD p with clk := (smGet portD ports p).clk } := by
  have absent (l : SMap PortSt) (h : ∀ e ∈ l, e.1 ≠ p) : smGet portD l p = portD p := by
    induction l with
    | nil => rfl
    | cons e l ih =>
      rw [smGet, if_neg (h e (by simp))]
      exact ih fun d hd => h d (by simp [hd])
  have put (l : SMap PortSt) (m : SMap PortSt) :
      smGet portD (l.foldl (fun m e => smPut portD m e.1 { portD e.1 with clk := (smGet portD ports e.1).clk }) m) p =
        if ∃ e ∈ l, e.1 = p then { portD p with clk := (smGet portD ports p).clk } else smGet portD m p := by
    induction l generalizing m with
    | nil => simp
    | cons e l ih =>
      rw [List.foldl_cons, ih]
      by_cases hl : ∃ d ∈ l, d.1 = p
      · rw [if_pos hl, if_pos (by obtain ⟨d, hd, he⟩ := hl; exact ⟨d, by simp [hd], he⟩)]
      · rw [if_neg hl]
        by_cases he : e.1 = p
        · rw [if_pos ⟨e, by simp, he⟩, he, smGet_smPut_same]
        · rw [smGet_smPut_other _ _ _ (Ne.symm he), if_neg]
          rintro ⟨d, hd, hp⟩
          obtain rfl | hd := List.mem_cons.mp hd
          · exact he hp
          · exact hl ⟨d, hd, hp⟩
  rw [keepLevels, put]
  split
  · rfl
  · rename_i hn
    rw [absent ports fun e he h => hn ⟨e, he, h⟩]
    rfl

/-- The machine as `RST_N` falls, before its lock and its offer (Table 14.3). -/
def fallen (s : State) : State := { s with obs := obsUnderReset s, aon := aonUnderReset s.aon }

theorem onlyChanges_fallen (s : State) : onlyChanges [.aonRegs, .tb, .pwr, .alm, .keys, .rap, .db, .obsRegs, .hed, .cut,
    .ctxs, .smp, .cmd, .evq, .lens, .wat, .hang, .prv, .egr, .fab, .dbg] s (fallen s) := by
  refine ⟨rfl, rfl, rfl, fun p hp => ?_⟩
  cases p with
  | sen => rfl
  | ident => exact ⟨rfl, rfl, rfl, rfl, rfl⟩
  | draws => rfl
  | _ => simp at hp

theorem opRstFall_eq {s : State} (h : s.aon.pwr.aonRstN = true) (hr : s.aon.pwr.rstN = true) :
    ∃ c l r d, opRstFall s = onPwr (fun q => { q with pwrCode := c, pwrLevel := l, pwrRule := r, pwrDue := d })
      (setReg aLock (reg s aLock &&& 1) (fallen s)) := by
  unfold opRstFall
  rw [if_neg (by simp [h, hr])]
  exact offerReq_eq _

/-- Settles O8: the effects of the four rows, written out. -/
theorem resetsRiseAndFall : Obligations.ResetsRiseAndFall := by
  unfold Obligations.ResetsRiseAndFall
  refine ⟨?_, ?_, ?_, ?_⟩
  · intro s hs hn
    refine ⟨_, goesTo_run rfl hs, ?_⟩
    rw [opAonRise, if_neg (by simp [hn])]
    exact ⟨((onlyChanges.refl _ s).onPwr _).onTb _, rfl, rfl, rfl, rfl, rfl, rfl, rfl⟩
  · exact fun s => ⟨_, rfl, rfl, rfl, rfl, rfl, rfl⟩
  · intro s hs hn hr
    obtain ⟨c, l, r, d, he⟩ := opRstFall_eq hn hr
    refine ⟨_, goesTo_run rfl hs, ?_⟩
    rw [he]
    have hf := ((onlyChanges_fallen s).setReg aLock (reg s aLock &&& 1)).onPwr
      (fun q => { q with pwrCode := c, pwrLevel := l, pwrRule := r, pwrDue := d })
    refine ⟨hf, ⟨_, _, rfl⟩, fun p => ?_, rfl, rfl, rfl, rfl, rfl, rfl, rfl, fun _ => rfl, rfl, rfl, rfl, rfl, rfl, rfl,
      ?_, ?_, fun a _ ha => ?_⟩
    · show (smGet portD (keepLevels s.obs.hed.ports) p).clk = _
      rw [smGet_keepLevels]
      rfl
    · rw [obsLock, reg_onPwr, reg_setReg_same, bit_and, show bit (1 : U32) 1 = false from rfl, Bool.and_false]
    · rw [aonLock, reg_onPwr, reg_setReg_same, bit_and, show bit (1 : U32) 0 = true from rfl, Bool.and_true, aonLock]
    · rw [reg_onPwr, reg_setReg_other _ _ _ _ ha]
      unfold reg
      rw [if_pos ‹_›, if_pos ‹_›]
      rfl
  · intro s hs hn hr
    have rise : opRstRise s = (if s.aon.pwr.clkAck then
        (if s.aon.pwr.clkReq then useGrant (onPwr (fun p => { p with rstN := true, rstAt := now s }) s)
          else onPwr (fun p => { p with reqDue := true }) (onPwr (fun p => { p with rstN := true, rstAt := now s }) s))
        else if s.aon.pwr.clkReq then onPwr (fun p => { p with rstN := true, rstAt := now s }) s
        else requestClk (onPwr (fun p => { p with rstN := true, rstAt := now s }) s)) := by
      rw [opRstRise, if_neg (by simp [hn, hr])]
    have up := (onlyChanges.refl [Part.pwr] s).onPwr (fun p => { p with rstN := true, rstAt := now s })
    refine ⟨fun ha => ⟨_, goesTo_run rfl hs, ?_⟩, fun ha hq => ⟨_, goesTo_run rfl hs, ?_⟩,
      fun ha hq hw => ⟨_, goesTo_run rfl hs, ?_⟩⟩
    · rw [rise, if_neg (by simp [ha])]
      split
      · rename_i hq
        exact ⟨up, rfl, by simp [obsRuns, ha], .inl hq, fun _ _ => hq⟩
      · refine ⟨up.requestClk, ?_⟩
        obtain ⟨_, _, he⟩ | he := requestClk_cases (onPwr (fun p => { p with rstN := true, rstAt := now s }) s)
        · rw [he]
          exact ⟨rfl, by simp [obsRuns, ha], .inl rfl, fun _ _ => rfl⟩
        · refine ⟨by rw [he]; rfl, by rw [he]; simp [obsRuns, ha], by rw [he]; exact .inr rfl, fun hrw hsel => ?_⟩
          rw [requestClk, if_neg]
          · rfl
          · have : nextSel (onPwr (fun p => { p with rstN := true, rstAt := now s }) s) = nextSel s := rfl
            simp [this, hrw, hsel]
    · rw [rise, if_pos ha, if_neg (by simp [hq])]
      exact ⟨up.onPwr _, rfl, hq, rfl, rfl⟩
    · rw [rise, if_pos ha, if_pos hq, useGrant_of_no_wake (by simpa using hw)]
      obtain ⟨q, a, r, j, he⟩ := startRepair_eq (onSmp (fun m => { m with credit := 0 })
        (onTb (fun b => { b with calDone := false, full := true })
          (onPwr (fun p => { p with waking := p.ready, granted := true, switching := false, stage := .awake })
            (onPwr (fun p => { p with rstN := true, rstAt := now s }) s))))
      rw [he]
      exact ⟨(((((up.mono (by decide)).onPwr _).onTb _).onSmp _).onPwr _), by simp [obsRuns, hn, ha], rfl, rfl, rfl⟩

/-! ## Fuses -/

/-- The state in which the handshake of the word at `FUSE_ADDR` has ended. -/
def fuseTaken (s : State) : State :=
  onPwr (fun p => { p with fuseAddr := s.aon.pwr.fuseAddr + 1, fuseReq := s.aon.pwr.fuseAddr != 255 }) s

/-- A word of the fuse block is stored. -/
def storeFuse (i : Nat) (d : U32) : State → State := onPwr fun p => { p with fuses := smPut (fun _ => 0) p.fuses i d }

theorem fuse_storeFuse_same (i : Nat) (d : U32) (s : State) : fuse (storeFuse i d s) i = d :=
  smGet_smPut_same _ _ _ _

theorem fuse_storeFuse_other {i j : Nat} (h : j ≠ i) (d : U32) (s : State) : fuse (storeFuse i d s) j = fuse s j :=
  smGet_smPut_other _ _ _ h

section Fuse

variable {s : State} (hn : s.aon.pwr.aonRstN = true) (hq : s.aon.pwr.fuseReq = true)
include hn hq

theorem opFuseAck_word (d : U32) (hi : s.aon.pwr.fuseAddr < 31) :
    opFuseAck d s = storeFuse s.aon.pwr.fuseAddr d (fuseTaken s) := by
  rw [opFuseAck]
  simp only [hn, hq, Bool.not_true, Bool.or_self, Bool.false_eq_true, if_false]
  rw [if_pos (by omega), if_neg (by omega)]
  rfl

theorem opFuseAck_last (d : U32) (hi : s.aon.pwr.fuseAddr = 31) :
    opFuseAck d s = fusesEnd (storeFuse 31 d (fuseTaken s)) := by
  rw [opFuseAck]
  simp only [hn, hq, hi, Bool.not_true, Bool.or_self, Bool.false_eq_true, if_false]
  rw [if_pos (by omega), if_pos trivial, fuseTaken, hi]
  rfl

theorem opFuseAck_repair (d : U32) (hi : 32 ≤ s.aon.pwr.fuseAddr) : opFuseAck d s = repairWord d (fuseTaken s) := by
  rw [opFuseAck]
  simp only [hn, hq, Bool.not_true, Bool.or_self, Bool.false_eq_true, if_false]
  rw [if_neg (by omega)]
  rfl

/-- A word below 31, read or given up: it is stored, and the next is asked for. -/
theorem fuse_word_taken (d : U32) (hi : s.aon.pwr.fuseAddr < 31) :
    onlyChanges [.pwr] s (opFuseAck d s) ∧ fuse (opFuseAck d s) s.aon.pwr.fuseAddr = d ∧
      (opFuseAck d s).aon.pwr.fuseAddr = s.aon.pwr.fuseAddr + 1 ∧ (opFuseAck d s).aon.pwr.fuseReq = true ∧
      (∀ i, i ≠ s.aon.pwr.fuseAddr → fuse (opFuseAck d s) i = fuse s i) := by
  rw [opFuseAck_word hn hq d hi]
  refine ⟨((onlyChanges.refl _ s).onPwr _).onPwr _, fuse_storeFuse_same _ _ _, rfl, ?_, fun i hne => ?_⟩
  · have : s.aon.pwr.fuseAddr ≠ 255 := by omega
    simpa [storeFuse, fuseTaken] using this
  · exact fuse_storeFuse_other hne _ _

end Fuse

theorem fuse_startRepair (s : State) (i : Nat) : fuse (startRepair s) i = fuse s i := by
  obtain ⟨q, a, r, j, he⟩ := startRepair_eq s
  rw [he]; rfl

/-- Words 0 to 30 as they stand once word 31 has been stored. -/
theorem fuseBytes_storeFuse_last (d : U32) (s : State) : fuseBytes (storeFuse 31 d s) 0 31 = fuseBytes s 0 31 := by
  unfold fuseBytes
  simp only [List.flatMap_def]
  refine congrArg List.flatten (List.map_congr_left fun i hi => ?_)
  rw [fuse_storeFuse_other]
  have := List.mem_range.mp hi
  omega

/-- The end of step 2, before a mismatch registers. -/
def fuseJudged (good : Bool) (s : State) : State :=
  onPwr (fun p => { p with fuseReq := false, fusesRead := true, fuseOk := good, keysDone := p.keysDone || !s.build.crypto }) s

theorem almAct_fuseWord (d : U32) (s : State) (c : Nat) :
    almAct (fuseJudged false (storeFuse 31 d (fuseTaken s))) c = almAct s c := by
  have hf : onlyChanges [.pwr] s (fuseJudged false (storeFuse 31 d (fuseTaken s))) :=
    (((onlyChanges.refl _ s).onPwr _).onPwr _).onPwr _
  rw [almAct, hf.reg_eq (aAlm + 4)]
  rfl

theorem fusesEnd_good {s : State} (h : crc32c (fuseBytes s 0 31) = (fuse s 31).toNat) :
    fusesEnd s = startRepair (fuseJudged true s) := by simp [fusesEnd, h, fuseJudged]

theorem fusesEnd_bad {s : State} (h : crc32c (fuseBytes s 0 31) ≠ (fuse s 31).toNat) :
    fusesEnd s = startRepair (alarm 2 0 s.aon.tb.rootGt (fuseJudged false s)) := by simp [fusesEnd, h, fuseJudged]

/-- Settles O9: the word below 31, word 31 by its CRC, and the repair words by `repairBad`. -/
theorem fusesAreRead : Obligations.FusesAreRead := by
  unfold Obligations.FusesAreRead
  refine ⟨?_, ?_, ?_, ?_, ?_⟩
  · exact fun d s hs hn hq hi => ⟨_, goesTo_run rfl hs, fuse_word_taken hn hq d hi⟩
  · exact fun s hs hn hq hi => ⟨_, goesTo_run rfl hs, fuse_word_taken hn hq 0 hi⟩
  · intro d s hs hn hq hi hcrc
    refine ⟨_, goesTo_run rfl hs, ?_⟩
    rw [opFuseAck_last hn hq d hi, fusesEnd_good (by
      rw [fuseBytes_storeFuse_last, fuse_storeFuse_same]; exact hcrc), ]
    obtain ⟨q, a, r, j, he⟩ := startRepair_eq (fuseJudged true (storeFuse 31 d (fuseTaken s)))
    refine ⟨?_, by rw [he]; rfl, by rw [he]; rfl, ?_⟩
    · rw [he]
      exact ((((onlyChanges.refl _ s).onPwr _).onPwr _).onPwr _).onPwr _
    · rw [fuse_startRepair]
      exact fuse_storeFuse_same 31 d _
  · intro d s hs hn hq hi hcrc hact
    refine ⟨_, goesTo_run rfl hs, ?_⟩
    rw [opFuseAck_last hn hq d hi, fusesEnd_bad (by
      rw [fuseBytes_storeFuse_last, fuse_storeFuse_same]; exact hcrc)]
    have hact' : almAct (fuseJudged false (storeFuse 31 d (fuseTaken s))) 2 = 0 := (almAct_fuseWord d s 2).trans hact
    have hb := bit_alarm_of_log (c := 2) (by decide) hact' 0 s.aon.tb.rootGt
    have hf := onlyChanges_alarm_of_log hact' 0 s.aon.tb.rootGt
    obtain ⟨q, a, r, j, he⟩ := startRepair_eq (alarm 2 0 s.aon.tb.rootGt
      (fuseJudged false (storeFuse 31 d (fuseTaken s))))
    refine ⟨?_, ?_, ?_⟩
    · exact (congrArg (fun t : State => t.aon.pwr.fusesRead) he).trans (congrArg Pwr.fusesRead hf.pwr_eq)
    · exact (congrArg (fun t : State => t.aon.pwr.fuseOk) he).trans (congrArg Pwr.fuseOk hf.pwr_eq)
    · exact (congrArg (fun t : State => bit (reg t aAlm) 2) he).trans hb
  · intro d s hs hn hq hi
    refine ⟨_, goesTo_run rfl hs, ?_⟩
    rw [opFuseAck_repair hn hq d hi]
    have taken : onlyChanges [.pwr] s (fuseTaken s) := (onlyChanges.refl _ s).onPwr _
    have hbad : repairBad (fuseTaken s) d = repairBad s d := rfl
    have hreq : (s.aon.pwr.fuseAddr != 255) = true ↔ s.aon.pwr.fuseAddr ≠ 255 := by simp
    unfold repairWord
    cases h31 : bit d 31
    · exact ⟨taken, rfl, rfl, hreq, fun _ => ⟨rfl, rfl⟩, fun h => by simp at h, fun h => by simp at h⟩
    · rw [hbad]
      cases hb : repairBad s d
      · rw [if_neg (by simp), if_neg (by simp)]
        exact ⟨taken.onPwr _, rfl, rfl, hreq, fun h => by simp at h, fun _ _ => ⟨rfl, rfl⟩, fun _ h => by simp at h⟩
      · rw [if_neg (by simp), if_pos rfl]
        exact ⟨taken.onPwr _, rfl, rfl, hreq, fun h => by simp at h, fun _ h => by simp at h, fun _ _ => ⟨rfl, rfl⟩⟩

end Sys2Proof.Machine
end

section
/-! SUPPORT. Firmware (chapters 14 and 15): GO, the boot ROM's verdict, and Hedger's failure. -/

namespace Sys2Proof.Machine

open Sys2Proof.Safety

set_option Elab.async false

/-! ## GO -/

/-- The word that a GO writes has its bit 0 set. -/
theorem bit_withBit_same (v : U32) {i : Nat} (hi : i < 32) (b : Bool) : bit (withBit v i b) i = b := by
  rw [withBit, bit_setFld _ _ _ _ hi, if_pos (by omega), Nat.sub_self]
  cases b <;> rfl

theorem bit_withBit_other (v : U32) {i j : Nat} (hj : j < 32) (h : j ≠ i) (b : Bool) : bit (withBit v i b) j = bit v j := by
  rw [withBit, bit_setFld _ _ _ _ hj, if_neg (by omega)]

theorem fld_withBit (v : U32) {i lo n : Nat} (hl : lo + n ≤ 32) (h : i < lo ∨ lo + n ≤ i) (b : Bool) :
    fld (withBit v i b) lo n = fld v lo n :=
  fld_congr fun j _ => bit_withBit_other v (by omega) (by omega) b

theorem onlyChanges_issueRead_getD {ps : List Part} {s t : State} (h : onlyChanges ps s t) (w : RdWhat) (p a n : Nat)
    (hm : .smp ∈ ps := by decide) : onlyChanges ps s ((issueRead w p a n t).getD t) := by
  cases hi : issueRead w p a n t with
  | none => exact h
  | some u =>
    obtain ⟨g, _, rfl⟩ := issueRead_some hi
    rw [Option.getD_some]
    exact h.onSmp _ hm

theorem onlyChanges_fwAsk {ps : List Part} {s t : State} (h : onlyChanges ps s t) (hm : .smp ∈ ps := by decide) :
    onlyChanges ps s (fwAsk t) := by
  simp only [fwAsk]
  exact .ite _ (onlyChanges_issueRead_getD h _ _ _ _ hm) h

/-- GO is taken: the bit, the image's place and length, and the time. -/
def goTaken (s : State) : State :=
  onPwr (fun p => { p with
    goAt := some (now s), fwAt := pair (reg s 0x2010) (reg s 0x2014), fwLen := fld (reg s 0x2018) 0 14, fwWords := []
    fwReadErr := false, fwReadDone := false }) (setReg 0x201C 1 s)

theorem opGo_taken {v : U32} {s : State} (hv : bit v 0 = true) (hs : s.aon.pwr.sramDone = true)
    (hg : s.aon.pwr.goAt = none) : opGo v s = if obsRuns s then fwAsk (goTaken s) else goTaken s := by
  have hr : obsRuns (goTaken s) = obsRuns s := rfl
  have hb (b : Nat) (h : b ≠ 0x201C) : reg (setReg 0x201C 1 s) b = reg s b := reg_setReg_other _ _ _ _ h
  have hn : now (setReg 0x201C 1 s) = now s := rfl
  simp only [opGo, hv, hs, hg, Bool.not_true, Bool.false_eq_true, if_false, Option.isSome_none, Bool.or_self,
    hb 0x2010 (by decide), hb 0x2014 (by decide), hb 0x2018 (by decide), hn]
  rfl

theorem opGo_ignored {v : U32} {s : State} (hv : bit v 0 = true)
    (h : s.aon.pwr.sramDone = false ∨ s.aon.pwr.goAt.isSome = true) : opGo v s = setReg 0x201C 1 s := by
  have hc : (!s.aon.pwr.sramDone || s.aon.pwr.goAt.isSome) = true := by
    obtain h | h := h <;> simp [h]
  simp only [opGo, hv, Bool.not_true, Bool.false_eq_true, if_false]
  rw [if_pos hc]

/-- Settles O10: the effects of steps 3, 4 and 7, and GO by `opGo_taken` and `opGo_ignored`. -/
theorem startUpReachesGo : Obligations.StartUpReachesGo := by
  unfold Obligations.StartUpReachesGo
  refine ⟨?_, ?_, ?_, ?_, ?_⟩
  · intro s hs hn hf hk hc hz hzd
    refine ⟨_, goesTo_run rfl hs, ?_⟩
    have he : opDeviceKey s = onPwr (fun p => { p with keysDone := true }) (onKeys (fun k => { k with
        device := some (Config.deviceScalar ((List.range 8).flatMap fun i => le 4 (fuse s (16 + i)).toNat)) }) s) := by
      simp [opDeviceKey, hn, hf, hk, hc, hz, hzd]
    rw [he]
    exact ⟨((onlyChanges.refl _ s).onKeys _).onPwr _, rfl, rfl, rfl, rfl, rfl⟩
  · intro s hr hg hf hd hq ha
    refine ⟨_, goesTo_inObs rfl hr, ?_⟩
    have he : opSramInit s = onPwr (fun p => { p with sramDone := true }) s := by
      simp [opSramInit, hr.2, hg, hf, hd, hq, ha]
    rw [he]
    exact ⟨(onlyChanges.refl _ s).onPwr _, rfl⟩
  · intro e w s hr hok hrd hh
    refine ⟨_, goesTo_inObs rfl hr, ?_⟩
    simp only [opFwReady]
    rw [if_neg (by simp [hok, hrd, hh])]
    exact ⟨((onlyChanges.refl _ s).onFab _).onPwr _, rfl, rfl, rfl⟩
  · intro v s ho hd hg
    refine ⟨_, goesTo_write_aon rfl ho (by decide) (by decide), ?_⟩
    have he : regWrite 0x201C (withBit v 0 true) s = if obsRuns s then fwAsk (goTaken s) else goTaken s :=
      opGo_taken (bit_withBit_same v (by decide) true) hd hg
    have taken : onlyChanges [.aonRegs, .pwr, .smp, .rap] s (goTaken s) := ((onlyChanges.refl _ s).setReg _ _).onPwr _
    have asked : onlyChanges [.smp] (goTaken s) (regWrite 0x201C (withBit v 0 true) s) := by
      rw [he]
      exact .ite _ (onlyChanges_fwAsk (.refl _ _)) (.refl _ _)
    refine ⟨onlyChanges_rapWrote (taken.trans (asked.mono (by decide))), ?_, ?_, ?_, ?_, rfl, fun b hb => ?_⟩
    · rw [rapWrote_pwr, asked.pwr_eq]; rfl
    · rw [rapWrote_pwr, asked.pwr_eq]; rfl
    · rw [rapWrote_pwr, asked.pwr_eq]; rfl
    · rw [reg_rapWrote, asked.reg_eq 0x201C, goTaken, reg_onPwr, reg_setReg_same]
    · rw [reg_rapWrote, asked.reg_eq b (by unfold regPart; split <;> decide), goTaken, reg_onPwr,
        reg_setReg_other _ _ _ _ hb]
  · intro v s ho hd
    refine ⟨_, goesTo_write_aon rfl ho (by decide) (by decide), ?_⟩
    have he : regWrite 0x201C (withBit v 0 true) s = setReg 0x201C 1 s :=
      opGo_ignored (bit_withBit_same v (by decide) true) hd
    refine ⟨onlyChanges_rapWrote (by rw [he]; exact (onlyChanges.refl _ s).setReg _ _), ?_, fun b hb => ?_⟩
    · rw [reg_rapWrote, he, reg_setReg_same]
    · rw [reg_rapWrote, he, reg_setReg_other _ _ _ _ hb]

/-! ## The verdict on an image -/

/-- A refused image, before its alarm: READY sets at once (R331). -/
def fwRefused (code : Nat) (s : State) : State :=
  setReg 0x201C 0 (onPwr (fun p => { p with fwFail := true, fwCode := code, ready := true, fwWords := [] }) s)

/-- A refusal whose FW_VERIFY is LOG. -/
theorem fwRefuse_of_log {code : Nat} {s : State} (ha : almAct s 3 = 0) :
    (fwRefuse code s).aon.pwr = { s.aon.pwr with fwFail := true, fwCode := code, ready := true, fwWords := [] } ∧
      reg (fwRefuse code s) 0x201C = 0 ∧ bit (reg (fwRefuse code s) aAlm) 3 = true := by
  have ha' : almAct (fwRefused code s) 3 = 0 := by
    rw [almAct, fwRefused, reg_setReg_other _ _ _ _ (by decide)]
    exact ha
  have hf := onlyChanges_alarm_of_log ha' (BitVec.ofNat 32 code) (engGt (fwRefused code s))
  have he : fwRefuse code s = alarm 3 (BitVec.ofNat 32 code) (engGt (fwRefused code s)) (fwRefused code s) := rfl
  rw [he]
  refine ⟨hf.pwr_eq, ?_, bit_alarm_of_log (by decide) ha' _ _⟩
  rw [alarm_of_log ha', reg_alarmLogged _ _ _ _ (by decide), reg_orReg_other _ _ _ (by decide), fwRefused,
    reg_setReg_same]

theorem fwOk_of_loading {s : State} (h : loading s = true) : s.aon.pwr.fwOk = false := by
  simp only [loading, Bool.and_eq_true, Bool.not_eq_true'] at h
  exact h.1.2

theorem opFwDone_judges {g : Nat} {s : State} (hl : loading s = true) (hg : s.aon.pwr.goAt = some g)
    (hn : now s ≤ g + 8000000) (ho : fwReadOver s = true) :
    opFwDone s = if fwCheck s = 0 then fwAccept s else fwRefuse (fwCheck s) s := by
  have : ¬ g + 8000000 < now s := by omega
  simp [opFwDone, hg, hl, this, ho]

theorem opFwTimeout_refuses {g : Nat} {s : State} (hl : loading s = true) (hg : s.aon.pwr.goAt = some g)
    (hn : g + 8000000 < now s) : opFwTimeout s = fwRefuse 7 s := by simp [opFwTimeout, hg, hl, hn]

/-! ## Hedger's failure -/

/-- Where no item is READ, none has been read. -/
theorem read_eq_none_of_oldestRead {s : State} (h : oldestRead s = none) : ∀ i ∈ s.obs.evq.q, i.read = none := by
  have hn := leastBy_eq_none h
  rw [List.map_id, List.filterMap_eq_nil_iff] at hn
  exact hn

/-- After `unreadAll` no item is READ. -/
theorem read_unreadAll (s : State) : ∀ i ∈ (unreadAll s).obs.evq.q, i.read = none := by
  unfold unreadAll
  split
  · exact read_eq_none_of_oldestRead ‹_›
  · intro i hi
    obtain ⟨j, _, rfl⟩ := List.mem_map.mp hi
    rfl

theorem read_unreadAll_unstalled (s : State) :
    ∀ i ∈ (onEvq (fun e => { e with stalled := false }) (unreadAll s)).obs.evq.q, i.read = none := read_unreadAll s

theorem onlyChanges_unreadAll {ps : List Part} {s t : State} (h : onlyChanges ps s t) (hm : .evq ∈ ps := by decide) :
    onlyChanges ps s (unreadAll t) := by
  unfold unreadAll
  split
  · exact h
  · exact h.onEvq _ hm

/-- Settles O11: the verdict by `fwCheck`, a refusal by `fwRefuse_of_log`, and Hedger's items by `read_unreadAll`. -/
theorem firmwareIsJudged : Obligations.FirmwareIsJudged := by
  unfold Obligations.FirmwareIsJudged
  refine ⟨?_, ?_, ?_⟩
  · intro g s hr hl hg hn ho ha
    refine ⟨_, goesTo_inObs rfl hr, ?_⟩
    rw [opFwDone_judges hl hg hn ho]
    refine ⟨fun hc => ?_, fun hc => ?_⟩
    · rw [if_pos hc]
      exact ⟨(onlyChanges.refl _ s).onPwr _, rfl, rfl⟩
    · rw [if_neg hc]
      obtain ⟨hp, hgo, hb⟩ := fwRefuse_of_log (code := fwCheck s) ha
      rw [hp]
      exact ⟨rfl, rfl, rfl, fwOk_of_loading hl, hgo, hb⟩
  · intro g s hr hl hg hn ha
    refine ⟨_, goesTo_inObs rfl hr, ?_⟩
    rw [opFwTimeout_refuses hl hg hn]
    obtain ⟨hp, hgo, hb⟩ := fwRefuse_of_log (code := 7) ha
    rw [hp]
    exact ⟨rfl, rfl, rfl, fwOk_of_loading hl, hgo, hb⟩
  · intro s hr hok hd ha
    refine ⟨_, goesTo_inObs rfl hr, ?_⟩
    have down : almAct (onPwr (fun p => { p with hedgerDown := true }) s) 3 = 0 := ha
    have he : opHedgerExpiry s = if (alarm 3 0x80 (engGt s) (onPwr (fun p => { p with hedgerDown := true }) s)).obs.evq.consAct
        then alarm 3 0x80 (engGt s) (onPwr (fun p => { p with hedgerDown := true }) s)
        else onEvq (fun e => { e with stalled := false })
          (unreadAll (alarm 3 0x80 (engGt s) (onPwr (fun p => { p with hedgerDown := true }) s))) := by
      rw [opHedgerExpiry, if_pos hok, hedgerFails, if_neg (by simp [hd])]
      rfl
    have hf := onlyChanges_alarm_of_log down 0x80 (engGt s)
    have hb := bit_alarm_of_log (c := 3) (by decide) down 0x80 (engGt s)
    have hk : onlyChanges [.evq] (alarm 3 0x80 (engGt s) (onPwr (fun p => { p with hedgerDown := true }) s))
        (opHedgerExpiry s) := by
      rw [he]
      exact .ite _ (.refl _ _) ((onlyChanges_unreadAll (.refl _ _)).onEvq _)
    have hp : (opHedgerExpiry s).aon.pwr = { s.aon.pwr with hedgerDown := true } := by rw [hk.pwr_eq, hf.pwr_eq]; rfl
    refine ⟨hp, by rw [hk.reg_eq aAlm]; exact hb, ?_, fun hc => ?_⟩
    · have hrst := ((obsRuns_iff s).mp hr.2).2.1
      simp [irqLine, hp, hrst]
    · rw [he, if_neg (by rw [hf.evq_eq]; simpa using hc)]
      exact read_unreadAll_unstalled _

end Sys2Proof.Machine
end

section
/-! SUPPORT. Reads, held accesses, plain writes and doorbells (chapters 10, 17 and 18), and the statements about them. -/

namespace Sys2Proof.Machine

open Sys2Proof.Safety

set_option Elab.async false

/-! ## Reads -/

theorem pairValue_eq_some {s : State} {a x : Nat} (h : pairValue s a = some x) :
    a = 0x3000 ∨ a = 0x3008 ∨ a = 0x9008 ∨ a = 0x9010 ∨ a = 0xB00C ∨ a = 0xC010 := by
  refine Decidable.byContradiction fun hn => ?_
  simp only [not_or] at hn
  obtain ⟨h1, h2, h3, h4, h5, h6⟩ := hn
  simp [pairValue, h1, h2, h3, h4, h5, h6] at h

/-- The word latched for the upper half of a pair. -/
def latchHi (a x : Nat) : State → State := onRap fun r => { r with latch := smPut (fun _ => 0) r.latch a (hi32 x) }

/-- A read of the low word of a pair latches the high word. -/
theorem regReadDone_pair {s : State} {a x : Nat} (h : pairValue s a = some x) (hc : (regSpec s.build a).rc = 0) :
    regReadDone a s = latchHi a x s := by
  have ha : a ≠ 0x7010 := by
    have := pairValue_eq_some h
    omega
  simp only [regReadDone, h, hc, if_true]
  rw [if_neg ha]
  rfl

/-- A read of another register clears its RC fields. -/
theorem regReadDone_plain {s : State} {a : Nat} (h : pairValue s a = none) (ha : a ≠ 0x7010) :
    regReadDone a s = if (regSpec s.build a).rc = 0 then s else setReg a (reg s a &&& ~~~ (regSpec s.build a).rc) s := by
  simp only [regReadDone, h]
  rw [if_neg ha]

theorem regRead_pair {s : State} {a x : Nat} (h : pairValue s a = some x)
    (hd : dbgDisabled s = false ∨ blockOf a ≠ 0xC) : regRead s a = lo32 x := by
  rw [regRead, h]
  have : (dbgDisabled s && blockOf a = 0xC) = false := by
    obtain hd | hd := hd <;> simp [hd]
  simp [this]

/-- The upper half of a pair reads what the lower half latched. -/
theorem regRead_latchHi {s t : State} {a x : Nat} (h : pairValue s a = some x)
    (ht : smGet (fun _ => 0) t.aon.rap.latch a = hi32 x) (hd : dbgDisabled t = false ∨ blockOf (a + 4) ≠ 0xC) :
    regRead t (a + 4) = hi32 x := by
  have hn : (dbgDisabled t && blockOf (a + 4) = 0xC) = false := by
    obtain hd | hd := hd <;> simp [hd]
  have hpair : pairValue t (a + 4) = none ∧ loOf (a + 4) = some a := by
    obtain rfl | rfl | rfl | rfl | rfl | rfl := pairValue_eq_some h <;> exact ⟨rfl, rfl⟩
  rw [regRead, hpair.1, hpair.2]
  simp only [hn]
  exact ht

theorem latch_rapReadOut {s : State} {a x : Nat} (h : pairValue s a = some x) (hc : (regSpec s.build a).rc = 0) :
    smGet (fun _ => 0) (rapReadOut a s).aon.rap.latch a = hi32 x := by
  have he : (rapReadOut a s).aon.rap.latch = (regReadDone a s).aon.rap.latch := rfl
  rw [he, regReadDone_pair h hc]
  exact smGet_smPut_same _ _ _ _

/-- A read of the low word of a pair: the window alone changes, and the pair is read from one moment. -/
theorem rapReadOut_pair {s : State} {a x : Nat} (h : pairValue s a = some x) (hc : (regSpec s.build a).rc = 0)
    (hd : dbgDisabled s = false ∨ blockOf a ≠ 0xC) (hd' : dbgDisabled s = false ∨ blockOf (a + 4) ≠ 0xC) :
    onlyChanges [.rap] s (rapReadOut a s) ∧ (rapReadOut a s).aon.rap.err = false ∧
      (rapReadOut a s).aon.rap.rdata = lo32 x ∧ regRead (rapReadOut a s) (a + 4) = hi32 x := by
  have hf : onlyChanges [.rap] s (rapReadOut a s) := by
    unfold rapReadOut
    rw [regReadDone_pair h hc]
    exact onlyChanges_rapResult ((onlyChanges.refl _ s).onRap _) _ _ _
  refine ⟨hf, rfl, regRead_pair h hd, regRead_latchHi h (latch_rapReadOut h hc) ?_⟩
  have : dbgDisabled (rapReadOut a s) = dbgDisabled s := by simp [dbgDisabled, fuse, hf.pwr_eq]
  rwa [this]

/-- Settles O19: a pair by `rapReadOut_pair`, an RC read by `regReadDone_plain`. -/
theorem registerReads : Obligations.RegisterReads := by
  unfold Obligations.RegisterReads
  refine ⟨?_, ?_, ?_, ?_⟩
  · intro s ho
    exact ⟨_, goesTo_read_aon rfl ho (by decide) (by decide),
      rapReadOut_pair (a := 0x3000) rfl rfl (.inr (by decide)) (.inr (by decide))⟩
  · intro s ho hf
    exact ⟨_, goesTo_read rfl ho (by decide) fun _ => hf,
      rapReadOut_pair (a := 0x3008) rfl rfl (.inr (by decide)) (.inr (by decide))⟩
  · intro a s ho ha hp hn
    have hfgt : a ≠ 0x3008 := by rintro rfl; cases hp
    refine ⟨_, goesTo_read rfl ho ha fun h => absurd h hfgt, ?_, rfl, rfl, ?_⟩
    · unfold rapReadOut
      rw [regReadDone_plain hp hn]
      refine onlyChanges_rapResult (.ite _ (.refl _ s) ((onlyChanges.refl _ s).setReg _ _ ?_)) _ _ _
      unfold regPart
      split <;> decide
    · have hreg (b : Nat) : reg (rapReadOut a s) b = reg (regReadDone a s) b := rfl
      simp only [hreg, regReadDone_plain hp hn]
      split
      · rename_i h0
        rw [h0]
        exact ⟨(BitVec.and_allOnes (x := reg s a)).symm, fun _ _ => rfl⟩
      · exact ⟨reg_setReg_same _ _ _, fun b hb => reg_setReg_other _ _ _ _ hb⟩
  · intro a x s ho ha hp hf hd hc
    exact ⟨_, goesTo_read rfl ho ha fun _ => hf, rapReadOut_pair hp hc (.inl hd) (.inl hd)⟩

/-! ## A wake event asleep -/

/-- A wake event with the clock withdrawn: recorded, and the clock requested. -/
theorem wake_requests {s : State} (src : Nat) (hk : s.aon.pwr.clkAck = false) (hq : s.aon.pwr.clkReq = false)
    (hw : s.aon.pwr.wake = none) (hr : s.aon.pwr.rstN = true) :
    onlyChanges [.pwr] s (wake src s) ∧ (wake src s).aon.pwr.wake = some (src, now s) ∧
      (wake src s).aon.pwr.rstN = true ∧ (wake src s).aon.pwr.clkAck = false ∧
      ((wake src s).aon.pwr.clkReq = true ∨ (wake src s).aon.pwr.reqDue = true) ∧
      (s.aon.pwr.relWait = false → s.aon.pwr.clkSel = nextSel s → (wake src s).aon.pwr.clkReq = true) := by
  rw [wake_asleep src s hk hq hw hr]
  have hsel : nextSel (onPwr (fun q => { q with wake := some (src, now s) }) s) = nextSel s := rfl
  have hnote := (onlyChanges.refl [.pwr] s).onPwr fun q => { q with wake := some (src, now s) }
  refine ⟨hnote.requestClk, ?_⟩
  unfold requestClk
  split
  · rename_i hc
    refine ⟨rfl, hr, hk, .inr rfl, fun h1 h2 => ?_⟩
    rw [hsel] at hc
    simp [h1, h2] at hc
  · exact ⟨rfl, hr, hk, .inl rfl, fun _ _ => rfl⟩

/-- A machine at work, with every register at its reset value. -/
def atWork : State :=
  onPwr (fun p => { p with aonRstN := true, rstN := true, clkReq := true, clkAck := true, ready := true }) State.reset

/-- A machine at work in which a read of `WRN_PWR_HOLD` waits. -/
def holdReadWaits : State := onRap (fun r => { r with held := [⟨false, 0x2008, 0, false⟩] }) atWork

/-- Refutes O20: the access that waits longest may be a read of `WRN_PWR_HOLD`, whose bit 16 says that an access waits
(Table 14.2). The read is carried out once the access has left the queue, so with no other access waiting it returns the
bit clear, where the register read the bit set while the access waited. -/
theorem not_obsRegistersAreReached : ¬ Obligations.ObsRegistersAreReached := by
  unfold Obligations.ObsRegistersAreReached
  rintro ⟨_, _, _, h⟩
  obtain ⟨t, hg, _, hrap⟩ := h 0x2008 [] holdReadWaits ⟨rfl, rfl⟩ rfl rfl rfl rfl (by decide)
  have hr := goesTo_run (c := .rapHeldAccessComplete) rfl (s := holdReadWaits) rfl
  have hd : (settle holdReadWaits t).aon.rap.rdata = (settle holdReadWaits (opHeldAccess holdReadWaits)).aon.rap.rdata :=
    congrArg (fun o => match o with | .next u => u.aon.rap.rdata | _ => 0) (hg.symm.trans hr)
  rw [settle_rap, settle_rap, hrap] at hd
  exact absurd hd (by decide)

/-! ## A plain write -/

/-- Refutes O21: `WRN_LENS_CTL` (0x9000) is an RWL register of block 9, but its word is the Lens's latency, and a write
that changes it keeps the old value in the timebase for the events still in the synchroniser (R40): the timebase
changes, which the frame of the statement excludes. -/
theorem not_plainRegisterWrites : ¬ Obligations.PlainRegisterWrites := by
  unfold Obligations.PlainRegisterWrites
  intro h
  have ho : obsOpen atWork := by decide
  obtain ⟨t, hg, hf, _⟩ := h 0x9000 1 atWork ho (by decide) (.inr (.inl (by decide))) (by decide)
  have hw := goesTo_write (c := .registerWrite 0x9000 1) rfl ho (by decide)
  have htb : (settle atWork t).aon.tb = (settle atWork (rapWrote 0x9000 1 atWork)).aon.tb :=
    congrArg (fun o => match o with | .next u => u.aon.tb | _ => default) (hg.symm.trans hw)
  rw [settle_tb, settle_tb, hf.tb_eq] at htb
  exact absurd (congrArg Tb.latOld htb) (by decide)

/-! ## Doorbells -/

theorem blockOf_page {r : Nat} (hr : r < 64) : blockOf (pageOf r) = r + 16 ∧ offOf (pageOf r) = 0 := by
  unfold blockOf offOf pageOf
  omega

theorem blockOf_page_head {r : Nat} (hr : r < 64) : blockOf (pageOf r + 8) = r + 16 ∧ offOf (pageOf r + 8) = 8 := by
  unfold blockOf offOf pageOf
  omega

theorem regAon_page {a r : Nat} (ha : blockOf a = r + 16) : regAon a = true := by
  simp [regAon, ha]

theorem winAddr_page (r : Nat) : winAddr (pageOf r) = pageOf r ∧ winAddr (pageOf r + 8) = pageOf r + 8 := by
  unfold winAddr pageOf
  omega

/-- A write of a doorbell page. -/
theorem regWrite_page {a r : Nat} (v : U32) (s : State) (hr : r < 64) (ha : blockOf a = r + 16) : regWrite a v s =
    if offOf a = 0 then opDbTail r v s else if offOf a = 8 then opCqHead r v s else s := by
  unfold regWrite
  rw [ha]
  have h1 : 0x10 ≤ r + 16 ∧ r + 16 < 0x50 := by omega
  simp only [h1, and_self, if_true, Nat.add_sub_cancel]

theorem regWrite_tail {r : Nat} (v : U32) (s : State) (hr : r < 64) : regWrite (pageOf r) v s = opDbTail r v s := by
  obtain ⟨hb, ho⟩ := blockOf_page hr
  rw [regWrite_page v s hr hb, if_pos ho]

theorem regWrite_head {r : Nat} (v : U32) (s : State) (hr : r < 64) : regWrite (pageOf r + 8) v s = opCqHead r v s := by
  obtain ⟨hb, ho⟩ := blockOf_page_head hr
  rw [regWrite_page v s hr hb, ho, if_neg (by decide), if_pos rfl]

section Ring

variable {r : Nat} (hr : r < 64)
include hr

/-- The registers of a ring lie in an OBS block. -/
theorem regAon_ring {o : Nat} (ho : o < 0x40) : regAon (aRing r + o) = false := by
  have : blockOf (aRing r + o) = 4 := by unfold blockOf aRing; omega
  simp [regAon, this]

theorem regPart_ring {o : Nat} (ho : o < 0x40) : regPart (aRing r + o) = .obsRegs := by
  simp [regPart, regAon_ring hr ho]

theorem onlyChanges_setReg_ring {ps : List Part} {s t : State} (h : onlyChanges ps s t) {o : Nat} (ho : o < 0x40) (v : U32)
    (hm : .obsRegs ∈ ps := by decide) : onlyChanges ps s (setReg (aRing r + o) v t) :=
  h.setReg _ _ (regPart_ring hr ho ▸ hm)

end Ring

theorem wake_awake_onObs {s t : State} (h : obsOpen s) (ht : t.aon.pwr = s.aon.pwr) (src : Nat) : wake src t = t := by
  obtain ⟨⟨_, hr⟩, ha, _⟩ := h
  exact wake_awake src t (by rw [ht]; exact ((obsRuns_iff s).mp hr).2.2) (by rw [ht]; exact ha)

/-- A tail written while the domain is awake is checked (R223). -/
theorem opDbTail_awake {r : Nat} {v : U32} {s : State} (h : obsOpen s) : opDbTail r v s = checkTail r (fld v 0 16) s := by
  have hp : (checkTail r (fld v 0 16) s).aon.pwr = s.aon.pwr := by
    unfold checkTail
    split
    · rfl
    · exact orReg_pwr _ _ _
  rw [opDbTail, if_neg (by simp [((obsRuns_iff s).mp h.1.2).2.1]), if_pos (obsAwake_of_obsOpen h)]
  exact wake_awake_onObs h hp 1

/-- A head written while the domain is awake is checked (R224). -/
theorem opCqHead_awake {r : Nat} {v : U32} {s : State} (h : obsOpen s) : opCqHead r v s = checkHead r (fld v 0 16) s := by
  have hp : (checkHead r (fld v 0 16) s).aon.pwr = s.aon.pwr := by
    simp only [checkHead]
    split
    · rfl
    · exact orReg_pwr _ _ _
  rw [opCqHead, if_neg (by simp [((obsRuns_iff s).mp h.1.2).2.1]), if_pos (obsAwake_of_obsOpen h)]
  exact wake_awake_onObs h hp 1

theorem goesTo_tail {r : Nat} {v : U32} {s : State} (ho : obsOpen s) (hr : r < 64) :
    goesTo (.dbTailWrite r v) s (rapWrote (pageOf r) v s) ∧ regWrite (pageOf r) v s = checkTail r (fld v 0 16) s :=
  ⟨goesTo_write rfl ho (winAddr_page r).1, (regWrite_tail v s hr).trans (opDbTail_awake ho)⟩

theorem goesTo_head {r : Nat} {v : U32} {s : State} (ho : obsOpen s) (hr : r < 64) :
    goesTo (.cqHeadWrite r v) s (rapWrote (pageOf r + 8) v s) ∧
      regWrite (pageOf r + 8) v s = checkHead r (fld v 0 16) s :=
  ⟨goesTo_write rfl ho (winAddr_page r).2, (regWrite_head v s hr).trans (opCqHead_awake ho)⟩

theorem opDbTail_asleep {r : Nat} {v : U32} {s : State} (hr : s.aon.pwr.rstN = true) (hk : s.aon.pwr.clkAck = false) :
    opDbTail r v s = wake 1 (onDb r (fun d => { d with tailHeld := some (fld v 0 16) }) s) := by
  simp [opDbTail, hr, obsAwake, obsRuns, hk]

theorem opCqHead_asleep {r : Nat} {v : U32} {s : State} (hr : s.aon.pwr.rstN = true) (hk : s.aon.pwr.clkAck = false) :
    opCqHead r v s = wake 1 (onDb r (fun d => { d with headHeld := some (fld v 0 16) }) s) := by
  simp [opCqHead, hr, obsAwake, obsRuns, hk]

end Sys2Proof.Machine
end

section
/-! SUPPORT. Commands that write frames: where no context's SEQ returns to 0, nothing follows their effect. -/

namespace Sys2Proof.Machine

open Sys2Proof.Safety

set_option Elab.async false

/-- Where no context's SEQ passes its last value, no key advances. -/
theorem seqWrapped_of {b s : State}
    (h : ∀ x c d, ctxOf b x = some c → ctxOf s x = some d → ¬ (d.seq < c.seq ∧ c.seq = 2 ^ 32 - 1)) :
    seqWrapped b s = s := by
  have fold (l : List Nat) : l.foldl (fun acc x => match ctxOf b x, ctxOf s x with
      | some b, some c =>
        if c.seq < b.seq ∧ b.seq = 2 ^ 32 - 1 ∧ armedAnew b c = false then advanceGen none c.part c.job 0 acc else acc
      | _, _ => acc) s = s := by
    induction l with
    | nil => rfl
    | cons x l ih =>
      rw [List.foldl_cons]
      split
      · rename_i c d hc hd
        rw [if_neg fun hn => h x c d hc hd ⟨hn.1, hn.2.1⟩]
        exact ih
      · exact ih
  exact fold _

/-- Where the contexts stand, nothing follows. -/
theorem seqWrapped_of_ctxs {b s : State} (h : s.obs.ctxs = b.obs.ctxs) : seqWrapped b s = s :=
  seqWrapped_of fun x c d hc hd => by
    have : ctxOf s x = ctxOf b x := by simp [ctxOf, h]
    rw [this, hc] at hd
    cases hd
    omega

theorem seqWrapped_of_noWrap {b : State} (h : noWrap b) (s : State) : seqWrapped b s = s :=
  seqWrapped_of fun x c _ hc _ hn => by
    have := h x c hc
    omega

/-- A command that may write frames leads to what its effect names where no context's SEQ returns to 0. -/
theorem goesTo_inWriter {c : Instr} {f : State → State} {s : State} (he : exec c s = run (inWriter f) s) (hr : running s)
    (hw : seqWrapped s (f s) = f s) : goesTo c s (f s) := by
  have h := goesTo_inObs he hr
  rwa [hw] at h

theorem goesTo_inWriter_of_ctxs {c : Instr} {f : State → State} {s : State} (he : exec c s = run (inWriter f) s)
    (hr : running s) (hc : (f s).obs.ctxs = s.obs.ctxs) : goesTo c s (f s) :=
  goesTo_inWriter he hr (seqWrapped_of_ctxs hc)

end Sys2Proof.Machine
end

section
/-! SUPPORT. Doorbells, rings, version negotiation, and Boxwood's registers: the statements about them. -/

namespace Sys2Proof.Machine

open Sys2Proof.Safety

set_option Elab.async false

/-! ## Doorbells -/

theorem checkTail_taken {r v : Nat} {s : State} (h : v < ringN s r) :
    checkTail r v s = onDb r (fun d => { d with tail := v }) s := if_pos h

theorem checkTail_ignored {r v : Nat} {s : State} (h : ringN s r ≤ v) :
    checkTail r v s = orReg (aRing r + 0x18) 2 s := if_neg (by omega)

/-- A head in the cyclic range to `CQ_TAIL` consumes entries. -/
theorem checkHead_taken {r v : Nat} {s : State} (hv : v < ringM s r)
    (hd : (v + ringM s r - (dbOf s r).head) % ringM s r ≤
      ((ringOf s r).cqTail + ringM s r - (dbOf s r).head) % ringM s r) :
    ∃ left pend, checkHead r v s = onDb r (fun d => { d with head := v })
      (onRing r (fun g => { g with full := false, noirq := left, pend := pend }) s) := by
  simp only [checkHead]
  rw [if_pos ⟨hv, hd⟩]
  exact ⟨_, _, rfl⟩

theorem checkHead_ignored {r v : Nat} {s : State} (h : ringM s r ≤ v ∨
      ((ringOf s r).cqTail + ringM s r - (dbOf s r).head) % ringM s r <
        (v + ringM s r - (dbOf s r).head) % ringM s r) : checkHead r v s = orReg (aRing r + 0x18) 4 s := by
  simp only [checkHead]
  rw [if_neg (by omega)]

theorem dropUnknown_of_front {r n : Nat} {s : State} (h : frontOf s r = none) : dropUnknown n r s = s := by
  cases n with
  | zero => rfl
  | succ n => rw [dropUnknown, h]

theorem nextRing_waking {s : State} (h : s.aon.pwr.waking = true) : nextRing s = none := by
  have hn : ∀ r, fetchable s r = false := fun r => by simp [fetchable, h]
  rw [nextRing, List.find?_eq_none]
  exact fun r _ => by simp [hn r]

/-- Settles O22: taken and ignored values by `checkTail` and `checkHead`, held ones by `wake_requests`. -/
theorem doorbellsAndWake : Obligations.DoorbellsAndWake := by
  unfold Obligations.DoorbellsAndWake
  refine ⟨?_, ?_, ?_, ?_⟩
  · intro r v s ho hr
    obtain ⟨hg, hw⟩ := goesTo_tail (v := v) ho hr
    refine ⟨fun h => ⟨_, hg, ?_⟩, fun h => ⟨_, hg, ?_⟩⟩
    · rw [checkTail_taken h] at hw
      have hdb (q : Nat) : dbOf (rapWrote (pageOf r) v s) q = dbOf (onDb r (fun d => { d with tail := fld v 0 16 }) s) q := by
        show dbOf (regWrite (pageOf r) v s) q = _
        rw [hw]
      refine ⟨onlyChanges_rapWrote (by rw [hw]; exact (onlyChanges.refl _ s).onDb _ _), ?_, fun q hq => ?_⟩
      · rw [hdb, dbOf_onDb_same]
      · rw [hdb, dbOf_onDb_other _ _ _ _ hq]
    · rw [checkTail_ignored h] at hw
      refine ⟨onlyChanges_rapWrote (by rw [hw]; exact onlyChanges_setReg_ring hr (.refl _ s) (by decide) _), ?_⟩
      rw [reg_rapWrote, hw, orReg_eq, reg_setReg_same]
  · intro r v s ho hr
    obtain ⟨hg, hw⟩ := goesTo_head (v := v) ho hr
    refine ⟨fun hv hd => ⟨_, hg, ?_⟩, fun h => ⟨_, hg, ?_⟩⟩
    · obtain ⟨left, pend, he⟩ := checkHead_taken hv hd
      rw [he] at hw
      have hdb (q : Nat) : dbOf (rapWrote (pageOf r + 8) v s) q = dbOf (regWrite (pageOf r + 8) v s) q := rfl
      have hring (q : Nat) : ringOf (rapWrote (pageOf r + 8) v s) q =
          ringOf (onRing r (fun g => { g with full := false, noirq := left, pend := pend }) s) q := by
        show ringOf (regWrite (pageOf r + 8) v s) q = _
        rw [hw]
        rfl
      refine ⟨onlyChanges_rapWrote (by rw [hw]; exact ((onlyChanges.refl _ s).onRing _ _).onDb _ _), ?_, ?_, ?_,
        fun q hq => ⟨?_, ?_⟩⟩
      · rw [hdb, hw, dbOf_onDb_same]
        rfl
      · rw [hring, ringOf_onRing_same]
      · rw [hring, ringOf_onRing_same]
      · rw [hdb, hw, dbOf_onDb_other _ _ _ _ hq]
        rfl
      · rw [hring, ringOf_onRing_other _ _ _ _ hq]
    · rw [checkHead_ignored h] at hw
      refine ⟨onlyChanges_rapWrote (by rw [hw]; exact onlyChanges_setReg_ring hr (.refl _ s) (by decide) _), ?_⟩
      rw [reg_rapWrote, hw, orReg_eq, reg_setReg_same]
  · intro r v s ho hr hrst hk hq hw
    have page {a : Nat} (ha : blockOf a = r + 16) : regAon a = true := regAon_page ha
    refine ⟨⟨_, goesTo_write_aon rfl ho (winAddr_page r).1 (page (blockOf_page hr).1), ?_⟩,
      ⟨_, goesTo_write_aon rfl ho (winAddr_page r).2 (page (blockOf_page_head hr).1), ?_⟩⟩
    · have he := (regWrite_tail v s hr).trans (opDbTail_asleep (r := r) hrst hk)
      obtain ⟨hf, hwake, _, _, hreq, hnow⟩ := wake_requests (s := onDb r (fun d => { d with tailHeld := some (fld v 0 16) }) s)
        1 hk hq hw hrst
      rw [← he] at hf hwake hreq hnow
      refine ⟨onlyChanges_rapWrote (((onlyChanges.refl _ s).onDb _ _).trans (hf.mono (by decide))), ?_, hwake, hreq, hnow⟩
      have : dbOf (rapWrote (pageOf r) v s) r = dbOf (regWrite (pageOf r) v s) r := rfl
      rw [this, hf.dbOf_eq, dbOf_onDb_same]
    · have he := (regWrite_head v s hr).trans (opCqHead_asleep (r := r) hrst hk)
      obtain ⟨hf, hwake, _, _, hreq, _⟩ := wake_requests (s := onDb r (fun d => { d with headHeld := some (fld v 0 16) }) s)
        1 hk hq hw hrst
      rw [← he] at hf hwake hreq
      refine ⟨onlyChanges_rapWrote (((onlyChanges.refl _ s).onDb _ _).trans (hf.mono (by decide))), ?_, hwake, hreq⟩
      have : dbOf (rapWrote (pageOf r + 8) v s) r = dbOf (regWrite (pageOf r + 8) v s) r := rfl
      rw [this, hf.dbOf_eq, dbOf_onDb_same]
  · intro r s hr hwk hf
    have he : opFetch r s = s := by
      unfold opFetch
      rw [dropUnknown_of_front hf]
      simp only [nextRing_waking hwk]
      split <;> simp
    have hg := goesTo_inWriter_of_ctxs (c := .descriptorFetch r) (f := opFetch r) rfl hr (by rw [he])
    rwa [he, goesTo, settle_self] at hg

/-! ## Rings -/

section Ring

variable {r : Nat} (hr : r < 64)
include hr

theorem regWrite_ring (v : U32) (s : State) : regWrite (aRing r) v s = opRingCtl r v s := by
  have hb : blockOf (aRing r) = 4 := by unfold blockOf aRing; omega
  have ho : offOf (aRing r) % 0x40 = 0 := by unfold offOf aRing; omega
  have hd : offOf (aRing r) / 0x40 = r := by unfold offOf aRing; omega
  unfold regWrite
  rw [hb]
  simp only [ho, hd, if_true]

theorem winAddr_ring : winAddr (aRing r) = aRing r := by
  unfold winAddr aRing
  omega

theorem regSpec_ring (b : Build) : regSpec b (aRing r) = rsRwl 0x003F1F1F 0 := by
  have hb : blockOf (aRing r) = 4 := by unfold blockOf aRing; omega
  have ho : offOf (aRing r) % 0x40 = 0 := by unfold offOf aRing; omega
  unfold regSpec
  rw [hb]
  simp [rsRing, ho]

theorem fieldsOpen_ring (s : State) : fieldsOpen s (aRing r) = !ringAct s r := by
  have hb : blockOf (aRing r) = 4 := by unfold blockOf aRing; omega
  have ho : aRing r % 0x40 = 0 := by unfold aRing; omega
  have hd : offOf (aRing r) / 0x40 = r := by unfold offOf aRing; omega
  simp [fieldsOpen, hb, ho, hd]

theorem filterVal_ring (s : State) {v : U32} (h : fld v 16 6 < 16) : filterVal s (aRing r) v = v := by
  have hb : blockOf (aRing r) = 4 := by unfold blockOf aRing; omega
  have h0 : aRing r ≠ 0x2000 ∧ aRing r ≠ 0x2020 := by unfold aRing; omega
  have ho : aRing r % 0x40 = 0 := by unfold aRing; omega
  have hn : ¬ 16 ≤ fld v 16 6 := by omega
  simp [filterVal, h0, hb, ho, hn, keepFld]

/-- The control word of an inactive ring takes the sizes and the partition (R222). -/
theorem fld_reg_ring {s : State} {v : U32} (ha : ringAct s r = false) (hl : obsLock s = false) (hp : fld v 16 6 < 16)
    {lo n : Nat} (hn : lo + n ≤ 32) (hm : ∀ i, i < n → bit (0x003F1F1F#32) (lo + i) = true) :
    fld (reg (putFields (aRing r) v s) (aRing r)) lo n = fld v lo n := by
  refine fld_congr fun i hi => ?_
  have hreg : regAon (aRing r) = false := regAon_ring (o := 0) hr (by decide)
  have htake : takesBit s (aRing r) (lo + i) = true := by
    simp only [takesBit, fieldsOpen_ring hr, ha, regSpec_ring hr, rsRwl, locked, hreg, hl]
    simp [hm i hi]
  rw [bit_reg_putFields _ _ _ (by omega), htake, filterVal_ring hr s hp, regSpec_ring hr]
  simp [rsRwl, bit_eq_getLsbD]

theorem goesTo_ringEnable {s : State} (ho : obsOpen s) (v : U32) :
    goesTo (.ringEnable r v) s (rapWrote (aRing r) (withBit v 31 true) s) := by
  have hm : r % 64 = r := Nat.mod_eq_of_lt hr
  refine goesTo_write ?_ ho (winAddr_ring hr)
  rw [show exec (.ringEnable r v) s = run (rapWrite (aRing (r % 64)) (withBit v 31 true)) s from rfl, hm]

theorem goesTo_ringDisable {s : State} (ho : obsOpen s) (v : U32) :
    goesTo (.ringDisable r v) s (rapWrote (aRing r) (withBit v 31 false) s) := by
  have hm : r % 64 = r := Nat.mod_eq_of_lt hr
  refine goesTo_write ?_ ho (winAddr_ring hr)
  rw [show exec (.ringDisable r v) s = run (rapWrite (aRing (r % 64)) (withBit v 31 false)) s from rfl, hm]

theorem onlyChanges_putFields_ring (v : U32) (s : State) : onlyChanges [.obsRegs] s (putFields (aRing r) v s) :=
  onlyChanges_putFields (.refl _ s) _ _ (by rw [show aRing r = aRing r + 0 from rfl, regPart_ring hr (by decide)]; decide)

end Ring

end Sys2Proof.Machine
end

section
/-! SUPPORT. Rings enabled and disabled, version negotiation, and Boxwood's registers: the statements about them. -/

namespace Sys2Proof.Machine

open Sys2Proof.Safety

set_option Elab.async false

/-! ## A ring is enabled (R225) -/

/-- The state in which ring r's EN has risen, its bases read from the registers. -/
def ringOn (r : Nat) (s : State) : State :=
  onRing r (fun g => { g with
    en := true, base := pair (reg s (aRing r + 4)) (reg s (aRing r + 8))
    cqBase := pair (reg s (aRing r + 0xC)) (reg s (aRing r + 0x10))
    msia := pair (reg s (aRing r + 0x1C)) (reg s (aRing r + 0x20)) }) s

section Enable

variable {r : Nat} {s : State}

theorem enableRing_refused (h : outOf 6 16 (fld (reg s (aRing r)) 0 5) = true ∨ outOf 6 16 (fld (reg s (aRing r)) 8 5) = true) :
    enableRing r s = orReg (aRing r + 0x18) 8 s := by
  simp only [enableRing]
  rw [if_pos (by simpa using h)]

variable (hn : outOf 6 16 (fld (reg s (aRing r)) 0 5) = false) (hm : outOf 6 16 (fld (reg s (aRing r)) 8 5) = false)
include hn hm

theorem enableRing_anew (h : (ringOf s r).stopped = false) : enableRing r s = onDb r (fun _ => dbD r)
    (onRing r (fun g => { g with head := 0, cqTail := 0, phase := true, full := false, noirq := [] }) (ringOn r s)) := by
  simp only [enableRing]
  rw [if_neg (by simp [hn, hm]), if_neg (by simp [h])]
  rfl

theorem enableRing_stopped (h : (ringOf s r).stopped = true) :
    ∃ ps, enableRing r s = onSmp (fun m => { m with pieces := m.pieces ++ ps })
      (onRing r (fun g => { g with stopped := false, again := [] }) (ringOn r s)) := by
  have fold (l : List Piece) (a : State) : ∃ ps, l.foldl (fun acc p => addPiece p acc) a =
      onSmp (fun m => { m with pieces := m.pieces ++ ps }) a := by
    induction l generalizing a with
    | nil => exact ⟨[], by simp [onSmp, onObs]⟩
    | cons p l ih =>
      obtain ⟨ps, hp⟩ := ih (addPiece p a)
      exact ⟨p :: ps, by rw [List.foldl_cons, hp]; simp [addPiece_eq, onSmp, onObs]⟩
  simp only [enableRing]
  rw [if_neg (by simp [hn, hm]), if_pos h]
  exact fold _ _

end Enable

theorem outOf_eq_false {lo hi x : Nat} (h : lo ≤ x ∧ x ≤ hi) : outOf lo hi x = false := by
  simp [outOf, h]

theorem outOf_eq_true {lo hi x : Nat} (h : x < lo ∨ hi < x) : outOf lo hi x = true := by
  simpa [outOf] using h

theorem ringOf_putFields (a : Nat) (v : U32) (s : State) (q : Nat) : ringOf (putFields a v s) q = ringOf s q := by
  simp [ringOf, putFields]

theorem dbOf_putFields (a : Nat) (v : U32) (s : State) (q : Nat) : dbOf (putFields a v s) q = dbOf s q := by
  simp [dbOf, putFields]

/-- A write that sets EN of an inactive ring: what its control word holds, and where the write leads. -/
theorem ring_written {r : Nat} (hr : r < 64) {v : U32} {s : State} (ho : obsOpen s) (ha : ringAct s r = false)
    (hl : obsLock s = false) (hp : fld v 16 6 < 16) :
    (∀ lo n, lo + n ≤ 32 → (∀ i, i < n → bit (0x003F1F1F#32) (lo + i) = true) → lo + n ≤ 31 →
      fld (reg (putFields (aRing r) (withBit v 31 true) s) (aRing r)) lo n = fld v lo n) ∧
    goesTo (.ringEnable r v) s (rapWrote (aRing r) (withBit v 31 true) s) ∧
    regWrite (aRing r) (withBit v 31 true) s = enableRing r (putFields (aRing r) (withBit v 31 true) s) := by
  refine ⟨fun lo n hn hm h31 => ?_, goesTo_ringEnable hr ho v, ?_⟩
  · rw [fld_reg_ring hr ha hl (by rwa [fld_withBit _ (by decide) (by decide)]) hn hm, fld_withBit _ hn (by omega)]
  · have hen : (ringOf s r).en = false := by
      simp only [ringAct, Bool.or_eq_false_iff] at ha
      exact ha.1
    rw [regWrite_ring hr, opRingCtl, ringOf_putFields, hen, bit_withBit_same _ (by decide)]
    simp

theorem ring_enabled {r : Nat} (hr : r < 64) {v : U32} {s : State} (ho : obsOpen s) (ha : ringAct s r = false)
    (hl : obsLock s = false) (hp : fld v 16 6 < 16) (hn : 6 ≤ fld v 0 5 ∧ fld v 0 5 ≤ 16)
    (hm : 6 ≤ fld v 8 5 ∧ fld v 8 5 ≤ 16) :
    ((ringOf s r).stopped = false →
      ∃ t, goesTo (.ringEnable r v) s t ∧ onlyChanges [.rap, .obsRegs, .cmd, .db] s t ∧ (ringOf t r).en = true ∧
        (ringOf t r).head = 0 ∧ (ringOf t r).cqTail = 0 ∧ (ringOf t r).phase = true ∧ dbOf t r = dbD r ∧
        ringN t r = 2 ^ fld v 0 5 ∧ ringM t r = 2 ^ fld v 8 5 ∧ ringPart t r = fld v 16 6 ∧
        (ringOf t r).base = pair (reg s (aRing r + 4)) (reg s (aRing r + 8)) ∧
        (∀ q, q ≠ r → ringOf t q = ringOf s q ∧ dbOf t q = dbOf s q)) ∧
    ((ringOf s r).stopped = true →
      ∃ t, goesTo (.ringEnable r v) s t ∧ onlyChanges [.rap, .obsRegs, .cmd, .smp] s t ∧ (ringOf t r).en = true ∧
        (ringOf t r).stopped = false ∧ (ringOf t r).head = (ringOf s r).head ∧
        (ringOf t r).cqTail = (ringOf s r).cqTail ∧ (ringOf t r).phase = (ringOf s r).phase) := by
  obtain ⟨hfld, hg, hw⟩ := ring_written hr ho ha hl hp
  have h0 := hfld 0 5 (by decide) (by decide) (by decide)
  have h8 := hfld 8 5 (by decide) (by decide) (by decide)
  have h16 := hfld 16 6 (by decide) (by decide) (by decide)
  have hput := onlyChanges_putFields_ring hr (withBit v 31 true) s
  have hstop : (ringOf (putFields (aRing r) (withBit v 31 true) s) r).stopped = (ringOf s r).stopped := by
    rw [ringOf_putFields]
  have hno := outOf_eq_false (h0 ▸ hn)
  have hmo := outOf_eq_false (h8 ▸ hm)
  refine ⟨fun hst => ⟨_, hg, ?_⟩, fun hst => ⟨_, hg, ?_⟩⟩
  · rw [enableRing_anew hno hmo (hstop.trans hst)] at hw
    generalize hu : putFields (aRing r) (withBit v 31 true) s = u at *
    have hring (q : Nat) : ringOf (rapWrote (aRing r) (withBit v 31 true) s) q =
        ringOf (onRing r (fun g => { g with head := 0, cqTail := 0, phase := true, full := false, noirq := [] })
          (ringOn r u)) q := by
      show ringOf (regWrite (aRing r) (withBit v 31 true) s) q = _
      rw [hw]; rfl
    have hdb (q : Nat) : dbOf (rapWrote (aRing r) (withBit v 31 true) s) q = dbOf (onDb r (fun _ => dbD r) u) q := by
      show dbOf (regWrite (aRing r) (withBit v 31 true) s) q = _
      rw [hw]; rfl
    have hreg (b : Nat) : reg (rapWrote (aRing r) (withBit v 31 true) s) b = reg u b := by
      rw [reg_rapWrote, hw]; rfl
    have other (o : Nat) (h : 0 < o) : reg u (aRing r + o) = reg s (aRing r + o) := by
      rw [← hu, reg_putFields_other _ _ _ (by omega)]
    refine ⟨onlyChanges_rapWrote (by rw [hw]; exact (((hput.mono (by decide)).onRing _ _).onRing _ _).onDb _ _),
      ?_, ?_, ?_, ?_, ?_, ?_, ?_, ?_, ?_, fun q hq => ⟨?_, ?_⟩⟩
    · rw [hring, ringOf_onRing_same, ringOn, ringOf_onRing_same]
    · rw [hring, ringOf_onRing_same]
    · rw [hring, ringOf_onRing_same]
    · rw [hring, ringOf_onRing_same]
    · rw [hdb, dbOf_onDb_same]
    · rw [ringN, hreg, h0]
    · rw [ringM, hreg, h8]
    · rw [ringPart, hreg, h16]
    · rw [hring, ringOf_onRing_same, ringOn, ringOf_onRing_same, ← other 4 (by decide), ← other 8 (by decide)]
    · rw [hring, ringOf_onRing_other _ _ _ _ hq, ringOn, ringOf_onRing_other _ _ _ _ hq, hput.ringOf_eq]
    · rw [hdb, dbOf_onDb_other _ _ _ _ hq, hput.dbOf_eq]
  · obtain ⟨ps, he⟩ := enableRing_stopped hno hmo (hstop.trans hst)
    rw [he] at hw
    have hring : ringOf (rapWrote (aRing r) (withBit v 31 true) s) r =
        ringOf (onRing r (fun g => { g with stopped := false, again := [] })
          (ringOn r (putFields (aRing r) (withBit v 31 true) s))) r := by
      show ringOf (regWrite (aRing r) (withBit v 31 true) s) r = _
      rw [hw]; rfl
    rw [hring, ringOf_onRing_same, ringOn, ringOf_onRing_same, ringOf_putFields]
    exact ⟨onlyChanges_rapWrote (by rw [hw]; exact (((hput.mono (by decide)).onRing _ _).onRing _ _).onSmp _),
      rfl, rfl, rfl, rfl, rfl⟩

theorem ring_refused {r : Nat} (hr : r < 64) {v : U32} {s : State} (ho : obsOpen s) (ha : ringAct s r = false)
    (hl : obsLock s = false) (hp : fld v 16 6 < 16)
    (h : fld v 0 5 < 6 ∨ 16 < fld v 0 5 ∨ fld v 8 5 < 6 ∨ 16 < fld v 8 5) :
    ∃ t, goesTo (.ringEnable r v) s t ∧ onlyChanges [.rap, .obsRegs] s t ∧
      bit (reg t (aRing r + 0x18)) 3 = true := by
  obtain ⟨hfld, hg, hw⟩ := ring_written hr ho ha hl hp
  have h0 := hfld 0 5 (by decide) (by decide) (by decide)
  have h8 := hfld 8 5 (by decide) (by decide) (by decide)
  have hput := onlyChanges_putFields_ring hr (withBit v 31 true) s
  rw [enableRing_refused (by
    rw [h0, h8]
    obtain h | h | h | h := h
    · exact .inl (outOf_eq_true (.inl h))
    · exact .inl (outOf_eq_true (.inr h))
    · exact .inr (outOf_eq_true (.inl h))
    · exact .inr (outOf_eq_true (.inr h)))] at hw
  refine ⟨_, hg, onlyChanges_rapWrote (by
    rw [hw]; exact onlyChanges_setReg_ring hr (hput.mono (by decide)) (by decide) _), ?_⟩
  rw [reg_rapWrote, hw, bit_reg_orReg, show bit (8 : U32) 3 = true from rfl, Bool.or_true]

theorem ring_disabled {r : Nat} (hr : r < 64) (v : U32) {s : State} (ho : obsOpen s) (he : (ringOf s r).en = true) :
    ∃ t, goesTo (.ringDisable r v) s t ∧ onlyChanges [.rap, .obsRegs, .cmd] s t ∧
      ringOf t r = { ringOf s r with en := false } ∧ (∀ q, q ≠ r → ringOf t q = ringOf s q) := by
  have hw : regWrite (aRing r) (withBit v 31 false) s =
      onRing r (fun g => { g with en := false }) (putFields (aRing r) (withBit v 31 false) s) := by
    rw [regWrite_ring hr, opRingCtl, ringOf_putFields, he, bit_withBit_same _ (by decide)]
    simp
  have hput := onlyChanges_putFields_ring hr (withBit v 31 false) s
  have hring (q : Nat) : ringOf (rapWrote (aRing r) (withBit v 31 false) s) q =
      ringOf (onRing r (fun g => { g with en := false }) (putFields (aRing r) (withBit v 31 false) s)) q := by
    show ringOf (regWrite (aRing r) (withBit v 31 false) s) q = _
    rw [hw]
  refine ⟨_, goesTo_ringDisable hr ho v, onlyChanges_rapWrote (by rw [hw]; exact (hput.mono (by decide)).onRing _ _),
    ?_, fun q hq => ?_⟩
  · rw [hring, ringOf_onRing_same, ringOf_putFields]
  · rw [hring, ringOf_onRing_other _ _ _ _ hq, ringOf_putFields]

/-! ## Version negotiation (R3, R237) -/

theorem ringAct_putFields (a : Nat) (v : U32) (s : State) : ringAct (putFields a v s) = ringAct s := by
  funext r
  simp [ringAct, heldCount, ringOf_putFields]

/-- The level range that a write of `WRN_VER` leaves in the register. -/
theorem fld_reg_version {v : U32} {s : State} {lo : Nat} (hlo : lo = 8 ∨ lo = 16) :
    fld (reg (putFields 0x1000 v s) 0x1000) lo 8 = fld v lo 8 := by
  refine fld_congr fun i hi => ?_
  have hm : ∀ j, j < 24 → 8 ≤ j → bit (0x00FFFF00#32) j = true ∧ bit (4#32) j = false := by decide
  obtain ⟨h1, h2⟩ := hm (lo + i) (by omega) (by omega)
  have hspec : regSpec s.build 0x1000 = ⟨0x00FFFF00#32, 0, 4#32, 0, 0⟩ := rfl
  have htake : takesBit s 0x1000 (lo + i) = true := by
    simp only [takesBit, hspec, h1]
    rfl
  have hfilter : filterVal s 0x1000 v = v := rfl
  rw [bit_reg_putFields _ _ _ (by omega), htake, hfilter, hspec, h2]
  simp

theorem agree_high {lo hi : Nat} (h1 : lo ≤ 0x11) (h2 : 0x11 ≤ hi) : agree lo hi = 0x11 := if_pos ⟨h1, h2⟩

theorem agree_low {lo : Nat} (h : lo ≤ 0x10) : agree lo 0x10 = 0x10 := by
  rw [agree, if_neg (by omega), if_pos (by omega)]

theorem agree_none {lo hi : Nat} (h : hi < 0x10 ∨ 0x11 < lo ∨ hi < lo) : agree lo hi = 0 := by
  rw [agree, if_neg (by omega), if_neg (by omega)]

/-- Settles O23: the outcomes of the writes of a ring's control word and of `WRN_VER`. -/
theorem ringsAndVersion : Obligations.RingsAndVersion := by
  unfold Obligations.RingsAndVersion
  refine ⟨?_, ?_, ?_⟩
  · intro r v s ho hr ha hl hp
    exact ⟨fun hn hm => (ring_enabled hr ho ha hl hp hn hm).1, fun hn hm => (ring_enabled hr ho ha hl hp hn hm).2,
      ring_refused hr ho ha hl hp⟩
  · exact fun r v s ho hr he => ring_disabled hr v ho he
  · intro v s ho
    have hg : goesTo (.versionRequest v) s (rapWrote 0x1000 (withBit v 0 true) s) := goesTo_write rfl ho (by decide)
    have hput := onlyChanges_putFields (.refl [.obsRegs] s) 0x1000 (withBit v 0 true)
    have hw : regWrite 0x1000 (withBit v 0 true) s = opVersion (withBit v 0 true) s := rfl
    have hbit := bit_withBit_same v (i := 0) (by decide) true
    have hact : ringAct (onCmd (fun c => { c with verDone := false }) (putFields 0x1000 (withBit v 0 true) s)) = ringAct s :=
      ringAct_putFields 0x1000 (withBit v 0 true) s
    have hlo : fld (reg (putFields 0x1000 (withBit v 0 true) s) 0x1000) 8 8 = fld v 8 8 := by
      rw [fld_reg_version (.inl rfl), fld_withBit _ (by decide) (by decide)]
    have hhi : fld (reg (putFields 0x1000 (withBit v 0 true) s) 0x1000) 16 8 = fld v 16 8 := by
      rw [fld_reg_version (.inr rfl), fld_withBit _ (by decide) (by decide)]
    refine ⟨fun hq => ⟨_, hg, ?_⟩, fun hq => ⟨_, hg, ?_⟩⟩
    · have he : opVersion (withBit v 0 true) s = onCmd (fun c => { c with verDone := true, agreed := agree (fld v 8 8) (fld v 16 8) })
          (onCmd (fun c => { c with verDone := false }) (putFields 0x1000 (withBit v 0 true) s)) := by
        simp only [opVersion, hbit, hact, hq, Bool.not_true, Bool.false_eq_true, if_false, reg_onCmd, hlo, hhi]
      rw [he] at hw
      have hcmd : (rapWrote 0x1000 (withBit v 0 true) s).obs.cmd =
          { s.obs.cmd with verDone := true, agreed := agree (fld v 8 8) (fld v 16 8) } := by
        rw [rapWrote_obs, hw, onCmd_ocmd, onCmd_ocmd, hput.cmd_eq]
      rw [hcmd]
      refine ⟨onlyChanges_rapWrote (by rw [hw]; exact ((hput.mono (by decide)).onCmd _).onCmd _), rfl, rfl,
        agree_high, fun h1 h2 => ?_, agree_none⟩
      rw [h2]
      exact agree_low h1
    · have he : opVersion (withBit v 0 true) s =
          orReg 0x1000 4 (onCmd (fun c => { c with verDone := false }) (putFields 0x1000 (withBit v 0 true) s)) := by
        simp only [opVersion, hbit, hact, hq, Bool.not_true, Bool.false_eq_true, if_false, if_true]
      rw [he] at hw
      refine ⟨onlyChanges_rapWrote (by rw [hw]; exact ((hput.mono (by decide)).onCmd _).orReg _ _), ?_, ?_⟩
      · rw [rapWrote_obs, hw, orReg_ocmd, onCmd_ocmd, hput.cmd_eq]
      · rw [reg_rapWrote, hw, bit_reg_orReg, show bit (4 : U32) 2 = true from rfl, Bool.or_true]

/-! ## Boxwood's registers -/

/-- The four allotments that a word holds. -/
def fieldSum (x : U32) : Nat := fld x 0 6 + fld x 8 6 + fld x 16 6 + fld x 24 6

theorem fieldSum_masked (v : U32) : fieldSum (v &&& 0x3F3F3F3F) = fieldSum v := by
  have hm : ∀ lo ∈ [0, 8, 16, 24], ∀ i, i < 6 → bit (0x3F3F3F3F#32) (lo + i) = true := by decide
  have hf (lo : Nat) (hlo : lo ∈ [0, 8, 16, 24]) : fld (v &&& 0x3F3F3F3F) lo 6 = fld v lo 6 :=
    fld_congr fun i hi => by
      have := hm lo hlo i hi
      simp [this]
  unfold fieldSum
  rw [hf 0 (by decide), hf 8 (by decide), hf 16 (by decide), hf 24 (by decide)]

/-- The eight allotments are the fields of two words (R176). -/
theorem allotments_eq (s : State) : (List.range 8).foldl (fun acc k => acc + allotment s k) 0 =
    fieldSum (reg s 0x7004) + fieldSum (reg s 0x7008) := by
  have hr : List.range 8 = [0, 1, 2, 3, 4, 5, 6, 7] := rfl
  rw [hr]
  simp only [List.foldl_cons, List.foldl_nil, allotment, fieldSum, aEvq]
  simp only [Nat.reduceAdd, Nat.reduceMul, Nat.reduceDiv, Nat.reduceMod]
  omega

/-- A write of four of the eight allotments, at a, where the other four stand at b. -/
theorem allotment_written {hi : Bool} {a b : Nat}
    (hab : hi = false ∧ a = 0x7004 ∧ b = 0x7008 ∨ hi = true ∧ a = 0x7008 ∧ b = 0x7004) (v : U32) {s : State}
    (ho : obsOpen s) (hl : obsLock s = false) :
    (fieldSum v + fieldSum (reg s b) ≤ 60 →
      ∃ t, goesTo (.creditAllotmentWrite hi v) s t ∧ onlyChanges [.rap, .obsRegs] s t ∧
        reg t a = v &&& 0x3F3F3F3F ∧ (∀ b, b ≠ a → reg t b = reg s b)) ∧
    (60 < fieldSum v + fieldSum (reg s b) →
      ∃ t, goesTo (.creditAllotmentWrite hi v) s t ∧ onlyChanges [.rap, .obsRegs] s t ∧ reg t a = reg s a ∧
        bit (reg t 0x7010) 3 = true) := by
  have hg : goesTo (.creditAllotmentWrite hi v) s (rapWrote a v s) := by
    refine goesTo_write ?_ ho ?_
    all_goals obtain ⟨rfl, rfl, rfl⟩ | ⟨rfl, rfl, rfl⟩ := hab <;> rfl
  have hpart : regPart a = .obsRegs ∧ (0x7010 : Nat) ≠ a := by
    obtain ⟨rfl, rfl, rfl⟩ | ⟨rfl, rfl, rfl⟩ := hab <;> decide
  have htotal : fieldSum (reg (setReg a (v &&& 0x3F3F3F3F) s) 0x7004) +
      fieldSum (reg (setReg a (v &&& 0x3F3F3F3F) s) 0x7008) = fieldSum v + fieldSum (reg s b) := by
    obtain ⟨rfl, rfl, rfl⟩ | ⟨rfl, rfl, rfl⟩ := hab
    · rw [reg_setReg_same, reg_setReg_other _ _ _ _ (by decide), fieldSum_masked]
    · rw [reg_setReg_same, reg_setReg_other _ _ _ _ (by decide), fieldSum_masked, Nat.add_comm]
  have hw : regWrite a v s = if fieldSum v + fieldSum (reg s b) ≤ 60
      then setReg a (v &&& 0x3F3F3F3F) s else orReg 0x7010 8 s := by
    have hop : regWrite a v s = opCredits hi v s ∧ a = aEvq + if hi then 8 else 4 := by
      obtain ⟨rfl, rfl, rfl⟩ | ⟨rfl, rfl, rfl⟩ := hab <;> exact ⟨rfl, rfl⟩
    rw [hop.1, ← htotal, ← allotments_eq, opCredits, if_neg (by simp [hl]), ← hop.2]
    rfl
  refine ⟨fun h => ⟨_, hg, ?_⟩, fun h => ⟨_, hg, ?_⟩⟩
  · rw [if_pos h] at hw
    refine ⟨onlyChanges_rapWrote (by rw [hw]; exact (onlyChanges.refl _ s).setReg _ _ (by rw [hpart.1]; decide)), ?_,
      fun c hc => ?_⟩
    · rw [reg_rapWrote, hw, reg_setReg_same]
    · rw [reg_rapWrote, hw, reg_setReg_other _ _ _ _ hc]
  · rw [if_neg (by omega)] at hw
    refine ⟨onlyChanges_rapWrote (by rw [hw]; exact (onlyChanges.refl _ s).orReg _ _), ?_, ?_⟩
    · rw [reg_rapWrote, hw, reg_orReg_other _ _ _ (Ne.symm hpart.2)]
    · rw [reg_rapWrote, hw, bit_reg_orReg, show bit (8 : U32) 3 = true from rfl, Bool.or_true]

theorem pinsNow_frame {ps : List Part} {s t : State} (h : onlyChanges ps s t) (hm : .evq ∈ ps := by decide) :
    onlyChanges ps s (pinsNow t) := h.onEvq _ hm

/-- Settles O24: each register's write by its operation. -/
theorem boxwoodRegisters : Obligations.BoxwoodRegisters := by
  unfold Obligations.BoxwoodRegisters
  refine ⟨?_, ?_, ?_, ?_, ?_⟩
  · intro v s ho hd
    refine ⟨_, goesTo_write rfl ho (by decide), ?_⟩
    have hw : regWrite 0x7000 v s = opConsumerSelect v s := by
      show opConsumer v s = _
      rw [opConsumer, if_neg]
      rw [opConsumerSelect, onEvq_aon, setReg_pwr, hd]
      decide
    refine ⟨onlyChanges_rapWrote (by rw [hw]; exact ((onlyChanges.refl _ s).setReg _ _).onEvq _), ?_, ?_⟩
    · rw [rapWrote_obs, hw, opConsumerSelect, onEvq_oevq, setReg_oevq]
    · rw [reg_rapWrote, hw, opConsumerSelect, reg_onEvq, reg_setReg_same, bit_and]
      simp [bit_eq_getLsbD]
  · intro hi v s ho hl
    cases hi
    · exact allotment_written (.inl ⟨rfl, rfl, rfl⟩) v ho hl
    · exact allotment_written (.inr ⟨rfl, rfl, rfl⟩) v ho hl
  · intro v s ho
    have hg : goesTo (.watermarkWrite v) s (rapWrote 0x700C v s) := goesTo_write rfl ho (by decide)
    have hw : regWrite 0x700C v s = opWatermark v s := rfl
    refine ⟨fun h => ⟨_, hg, ?_⟩, fun h => ⟨_, hg, ?_⟩⟩
    · have he : opWatermark v s = pinsNow (setReg 0x700C (v &&& 0x007F007F) s) := by
        simp only [opWatermark]
        rw [if_pos h]
        rfl
      rw [he] at hw
      have hreg : reg (setReg 0x700C (v &&& 0x007F007F) s) 0x700C = v &&& 0x007F007F := reg_setReg_same _ _ _
      have hm : ∀ lo ∈ [0, 16], ∀ i, i < 7 → bit (0x007F007F#32) (lo + i) = true := by decide
      have hf (lo : Nat) (hlo : lo ∈ [0, 16]) : fld (v &&& 0x007F007F) lo 7 = fld v lo 7 :=
        fld_congr fun i hi => by
          have := hm lo hlo i hi
          simp [this]
      have hpin : (rapWrote 0x700C v s).obs.evq.pinHi = if fld v 0 7 ≤ occ s then true
          else if occ s ≤ fld v 16 7 then false else s.obs.evq.pinHi := by
        rw [rapWrote_obs, hw, pinsNow, onEvq_oevq, setReg_oevq]
        simp only [aEvq, hreg, hf 0 (by decide), hf 16 (by decide)]
        rfl
      refine ⟨onlyChanges_rapWrote (by rw [hw]; exact pinsNow_frame ((onlyChanges.refl _ s).setReg _ _)), ?_,
        fun ho => ?_, fun ho => ?_⟩
      · rw [reg_rapWrote, hw, pinsNow, reg_onEvq, hreg]
      · rw [hpin, if_pos ho]
      · rw [hpin, if_neg (by omega), if_pos ho]
    · have he : opWatermark v s = s := by
        simp only [opWatermark]
        rw [if_neg (by omega)]
      rw [he] at hw
      exact onlyChanges_rapWrote (by rw [hw]; exact .refl _ s)
  · intro v s ho hc hv
    refine ⟨_, goesTo_write rfl ho (by decide), ?_⟩
    have hw : regWrite 0x7038 v s = onEvq (fun e => { e with
        hrTail := 0, hrHead := 0, hrBase := pair (reg s 0x7030) (reg s 0x7034) })
          (setReg 0x7038 (BitVec.ofNat 32 (fld v 0 5)) s) := by
      show opHrSize v s = _
      simp only [opHrSize]
      rw [if_neg (by simp [hc, hv])]
      rfl
    have hreg : reg (rapWrote 0x7038 v s) 0x7038 = BitVec.ofNat 32 (fld v 0 5) := by
      rw [reg_rapWrote, hw, reg_onEvq, reg_setReg_same]
    have hfld : fld (BitVec.ofNat 32 (fld v 0 5)) 0 5 = fld v 0 5 := by
      have := fld_lt v 0 5
      simp only [fld, nfld, BitVec.toNat_ofNat] at this ⊢
      omega
    refine ⟨onlyChanges_rapWrote (by rw [hw]; exact ((onlyChanges.refl _ s).setReg _ _).onEvq _), ?_, ?_, ?_, ?_, ?_⟩
    · simp only [hrN, aEvq, hreg, hfld]
    · rw [rapWrote_obs, hw, onEvq_oevq]
    · rw [rapWrote_obs, hw, onEvq_oevq]
    · rw [rapWrote_obs, hw, onEvq_oevq]
    · rw [rapWrote_obs, hw, onEvq_oevq, setReg_oevq]
  · intro v s ho hn
    have hg : goesTo (.hostRingHeadWrite v) s (rapWrote 0x7040 v s) := goesTo_write rfl ho (by decide)
    have hw : regWrite 0x7040 v s = opHrHead v s := rfl
    have hn0 : hrN s ≠ 0 := by omega
    refine ⟨fun h => ⟨_, hg, ?_⟩, fun h => ⟨_, hg, ?_⟩⟩
    · have he : opHrHead v s = onEvq (fun e => { e with hrHead := fld v 0 16 }) s := by
        simp only [opHrHead]
        rw [if_neg hn0, if_pos h]
      rw [he] at hw
      refine ⟨onlyChanges_rapWrote (by rw [hw]; exact (onlyChanges.refl _ s).onEvq _), ?_⟩
      rw [rapWrote_obs, hw, onEvq_oevq]
    · have he : opHrHead v s = orReg 0x7010 0x20 s := by
        simp only [opHrHead]
        rw [if_neg hn0, if_neg (by omega)]
        rfl
      rw [he] at hw
      refine ⟨onlyChanges_rapWrote (by rw [hw]; exact (onlyChanges.refl _ s).orReg _ _), ?_⟩
      rw [reg_rapWrote, hw, bit_reg_orReg, show bit (0x20 : U32) 5 = true from rfl, Bool.or_true]

end Sys2Proof.Machine
end

section
/-! SUPPORT. The debug window and the JTAG port (chapters 12, 17, 18 and 19): the statements about them. -/

namespace Sys2Proof.Machine

open Sys2Proof.Safety

set_option Elab.async false

/-! ## The debug window -/

/-- The debug window while a command of it is under way. -/
def dbgBusy : State → State := onDbg fun d => { d with done := false }

theorem opDbgCmd_read {v : U32} {s : State} (hd : dbgDisabled s = false) (h0 : bit v 0 = true) (h1 : bit v 1 = false) :
    opDbgCmd v s = dbgRead (dbgBusy s) := by simp [opDbgCmd, hd, h0, h1, dbgBusy]

theorem opDbgCmd_inject {v : U32} {s : State} (hd : dbgDisabled s = false) (h0 : bit v 0 = false) (h1 : bit v 1 = true) :
    opDbgCmd v s = dbgInject (dbgBusy s) := by simp [opDbgCmd, hd, h0, h1, dbgBusy]

theorem opDbgCmd_disabled {v : U32} {s : State} (hd : dbgDisabled s = true) : opDbgCmd v s = s := by simp [opDbgCmd, hd]

theorem onlyChanges_dbgBusy (s : State) : onlyChanges [.rap, .dbg] s (dbgBusy s) := (onlyChanges.refl _ s).onDbg _

/-- READ of a word of the attribution table with no injection pending. -/
theorem dbgRead_attr {s : State} (hs : dbgShut s = false) (ha : fld (reg s 0xC000) 24 4 = 0)
    (hi : fld (reg s 0xC000) 0 24 < s.build.attrEntries) (hn : s.obs.dbg.inject = []) :
    onlyChanges [.rap, .dbg, .draws] s (dbgRead s) ∧ (dbgRead s).obs.dbg.done = true ∧
      (dbgRead s).obs.dbg.denied = false ∧ (dbgRead s).obs.dbg.range = false ∧
      (dbgRead s).obs.dbg.data = smGet u64D s.obs.hed.attr (fld (reg s 0xC000) 0 24) := by
  have hin : ¬ arrayWords s.build 0 ≤ fld (reg s 0xC000) 0 24 := by show ¬ s.build.attrEntries ≤ _; omega
  have hx : corruption s 0 (fld (reg s 0xC000) 0 24) = 0 := by rw [corruption, hn]; rfl
  simp only [dbgRead, ha, hs, hx]
  rw [if_neg (by decide), if_neg hin]
  exact ⟨(((onlyChanges.refl _ s).onDbg _).onDbg _).draw, rfl, rfl, rfl, BitVec.xor_zero⟩

theorem dbgRead_beyond {s : State} (hs : dbgShut s = false) (ha : fld (reg s 0xC000) 24 4 = 0)
    (hi : s.build.attrEntries ≤ fld (reg s 0xC000) 0 24) :
    dbgRead s = onDbg (fun d => { d with data := 0 }) (dbgEnd false true s) := by
  have hin : arrayWords s.build 0 ≤ fld (reg s 0xC000) 0 24 := hi
  simp only [dbgRead, ha, hs]
  rw [if_neg (by decide), if_pos hin]

theorem dbgRead_shut {s : State} (hs : dbgShut s = true) :
    dbgRead s = onDbg (fun d => { d with data := 0 }) (dbgEnd true false s) := by
  simp [dbgRead, hs]

/-- An injected heartbeat loss reaches the collector named. -/
theorem dbgInject_heartbeat {s : State} (hk : fld (reg s 0xC018) 28 4 = 3) (hs : dbgShut s = false)
    (hp : physServes s (fld (reg s 0xC018) 0 9) = true) :
    dbgInject s = dbgEnd false false
      (onHed (fun h => { h with hbStop := h.hbStop ++ [fld (reg s 0xC018) 0 9] }) s) := by
  simp [dbgInject, hk, hs, hp, injectFault]

theorem dbgInject_shut {s : State} (hk : fld (reg s 0xC018) 28 4 = 3) (hs : dbgShut s = true) :
    dbgInject s = dbgEnd true false s := by
  simp [dbgInject, hk, hs]

theorem regWrite_dbgCmd (v : U32) (s : State) : regWrite 0xC004 v s = opDbgCmd v s := rfl

theorem bit_read_withBit {v : U32} (h : bit v 1 = false) : bit (withBit v 0 true) 1 = false := by
  rw [bit_withBit_other v (by decide) (by decide), h]

theorem bit_inject_withBit {v : U32} (h : bit v 0 = false) : bit (withBit v 1 true) 0 = false := by
  rw [bit_withBit_other v (by decide) (by decide), h]

/-- A READ that is a window write: what the command leads to. -/
theorem regWrite_read {v : U32} {s : State} (hd : dbgDisabled s = false) (h : bit v 1 = false) :
    regWrite 0xC004 (withBit v 0 true) s = dbgRead (dbgBusy s) := by
  rw [regWrite_dbgCmd, opDbgCmd_read hd (bit_withBit_same v (by decide) true) (bit_read_withBit h)]

theorem regWrite_inject {v : U32} {s : State} (hd : dbgDisabled s = false) (h : bit v 0 = false) :
    regWrite 0xC004 (withBit v 1 true) s = dbgInject (dbgBusy s) := by
  rw [regWrite_dbgCmd, opDbgCmd_inject hd (bit_inject_withBit h) (bit_withBit_same v (by decide) true)]

theorem rapWrote_dbg (a : Nat) (v : U32) (s : State) : (rapWrote a v s).obs.dbg = (regWrite a v s).obs.dbg := rfl

theorem rapWrote_hed (a : Nat) (v : U32) (s : State) : (rapWrote a v s).obs.hed = (regWrite a v s).obs.hed := rfl

/-! ## JTAG -/

theorem jtagOpen_disabled {s : State} (h : dbgDisabled s = true) : jtagOpen s = false := by simp [jtagOpen, h]

/-- A command that leads nowhere. -/
theorem exec_stays {c : Instr} {f : State → State} {s : State} (he : exec c s = run f s) (hs : s.scan = false)
    (hf : f s = s) : exec c s = .next s := by
  have hg := goesTo_run he hs
  rwa [goesTo, hf, settle_self] at hg

theorem aonRstN_of_jtagOpen {s : State} (h : jtagOpen s = true) : s.aon.pwr.aonRstN = true := by
  simp only [jtagOpen, Bool.and_eq_true] at h
  exact h.1.1

/-- Settles O26: READ and INJ by the cases of `dbgRead` and `dbgInject`, the refusals by `jtagOpen` and `opDbgCmd`. -/
theorem debugAccess : Obligations.DebugAccess := by
  unfold Obligations.DebugAccess
  refine ⟨?_, ?_, ?_, ?_, ?_⟩
  · intro v s ho hd hb hs ha
    have hg := goesTo_write (c := .debugRead v) rfl ho (by decide)
    have hw := regWrite_read hd hb
    refine ⟨fun hi hn => ⟨_, hg, ?_⟩, fun hi => ⟨_, hg, ?_⟩⟩
    · obtain ⟨hf, h1, h2, h3, h4⟩ := dbgRead_attr (s := dbgBusy s) hs ha hi hn
      rw [rapWrote_dbg, hw]
      exact ⟨onlyChanges_rapWrote (by rw [hw]; exact ((onlyChanges_dbgBusy s).mono (by decide)).trans hf), h1, h2, h3, h4⟩
    · rw [rapWrote_dbg, hw, dbgRead_beyond (s := dbgBusy s) hs ha hi]
      refine ⟨onlyChanges_rapWrote ?_, rfl, rfl, rfl⟩
      rw [hw, dbgRead_beyond (s := dbgBusy s) hs ha hi]
      exact ((onlyChanges_dbgBusy s).onDbg _).onDbg _
  · intro v s ho hd hb hs
    have hw := regWrite_read hd hb
    rw [dbgRead_shut (s := dbgBusy s) hs] at hw
    refine ⟨_, goesTo_write (c := .debugRead v) rfl ho (by decide), onlyChanges_rapWrote ?_, ?_⟩
    · rw [hw]
      exact ((onlyChanges_dbgBusy s).onDbg _).onDbg _
    · rw [rapWrote_dbg, hw]
      exact ⟨rfl, rfl, rfl⟩
  · intro v s ho hd hb hk
    have hg := goesTo_write (c := .debugInject v) rfl ho (by decide)
    have hw := regWrite_inject hd hb
    refine ⟨fun hs hp => ⟨_, hg, ?_⟩, fun hs => ⟨_, hg, ?_⟩⟩
    · rw [dbgInject_heartbeat (s := dbgBusy s) hk hs hp] at hw
      refine ⟨onlyChanges_rapWrote ?_, ?_⟩
      · rw [hw]
        exact ((((onlyChanges.refl _ s).onDbg _).onHed _).onDbg _)
      · rw [rapWrote_dbg, rapWrote_hed, hw]
        exact ⟨rfl, rfl, rfl⟩
    · rw [dbgInject_shut (s := dbgBusy s) hk hs] at hw
      refine ⟨onlyChanges_rapWrote ?_, ?_⟩
      · rw [hw]
        exact (onlyChanges_dbgBusy s).onDbg _
      · rw [rapWrote_dbg, hw]
        rfl
  · intro s v w b hs hd
    have hj := jtagOpen_disabled hd
    exact ⟨exec_stays rfl hs (by simp [opDbgAccess, hj]), exec_stays rfl hs (by simp [opScan, hj]),
      exec_stays rfl hs (by simp [opMbist, hj])⟩
  · intro s w ho hd
    have hw (x : U32) : onlyChanges [.rap] s (rapWrote 0xC004 x s) :=
      onlyChanges_rapWrote (by rw [regWrite_dbgCmd, opDbgCmd_disabled hd]; exact .refl _ s)
    exact ⟨⟨_, goesTo_write rfl ho (by decide), hw _⟩, ⟨_, goesTo_write rfl ho (by decide), hw _⟩⟩

/-- What an instruction of the JTAG port captures changes the window alone. -/
theorem onlyChanges_captureDr (n : Nat) (s : State) : onlyChanges [.rap] s (captureDr n s) := (onlyChanges.refl _ s).onRap _

theorem regRead_captureDr (n a : Nat) (s : State) : regRead (captureDr n s) a = regRead s a := rfl

theorem pairValue_captureDr (n a : Nat) (s : State) : pairValue (captureDr n s) a = pairValue s a := rfl

/-- `DBG_ACCESS` with no access waiting presents its access. -/
theorem opDbgAccess_presents {v : BitVec 51} {s : State} (hj : jtagOpen s = true) (hh : s.aon.rap.held = []) :
    ∃ n, opDbgAccess v s = present ⟨bit v 50, fld v 32 18 * 4, BitVec.ofNat 32 (fld v 0 32), true⟩ (captureDr n s) := by
  have hb : jtagBusy s = false := by simp [jtagBusy, hh]
  simp only [opDbgAccess, hj, hb]
  exact ⟨_, rfl⟩

/-- A read of an AON-domain register through `DBG_ACCESS`. -/
theorem dbgAccess_reads {v : BitVec 51} {s : State} (ho : aonOpen s) (hj : jtagOpen s = true) (hb : bit v 50 = false)
    (hx : regAon (fld v 32 18 * 4) = true) (hp : pairValue s (fld v 32 18 * 4) = none)
    (hc : (regSpec s.build (fld v 32 18 * 4)).rc = 0) :
    ∃ n, opDbgAccess v s = onRap (fun r => { r with dbgData := regRead s (fld v 32 18 * 4), dbgErr := false })
      (captureDr n s) := by
  obtain ⟨n, hn⟩ := opDbgAccess_presents (v := v) hj ho.2.2
  have ha : fld v 32 18 * 4 ≠ 0x7010 := fun h => by rw [h] at hx; exact absurd hx (by decide)
  have hd : regReadDone (fld v 32 18 * 4) (captureDr n s) = captureDr n s := by
    rw [regReadDone_plain (by rw [pairValue_captureDr, hp]) ha]
    exact if_pos hc
  refine ⟨n, ?_⟩
  rw [hn, hb, present_aon (s := captureDr n s) ho hx, perform_read (.inl hx), regRead_captureDr, hd]
  rfl

theorem opMbist_starts {v : U32} {s : State} (hj : jtagOpen s = true) (hv : bit v 31 = true)
    (hm : s.aon.rap.mbRun = none) (hr : s.aon.pwr.rstN = true) (hd : s.aon.pwr.sramDone = true)
    (hg : s.aon.pwr.goAt = none) (hb : bit (reg s 0x201C) 0 = false) :
    ∃ n, opMbist v s = onRap (fun r => { r with
      mbRun := some (fld v 0 4), mbDone := false, mbFail := false, mbDenied := false, mbArray := 0, mbRows := 0 })
        (captureDr n s) := by
  obtain ⟨n, hn⟩ : ∃ n, mbistWord s = n := ⟨_, rfl⟩
  have h1 : (captureDr n s).aon.rap.mbRun = none := hm
  have h2 : bit (reg (captureDr n s) 0x201C) 0 = false := hb
  exact ⟨n, by simp [opMbist, hn, hj, hv, h1, h2, hr, hd, hg]⟩

theorem opMbist_denied {v : U32} {s : State} (hj : jtagOpen s = true) (hv : bit v 31 = true)
    (hm : s.aon.rap.mbRun = none) (hg : s.aon.pwr.goAt.isSome = true ∨ bit (reg s 0x201C) 0 = true) :
    ∃ n, opMbist v s = onRap (fun r => { r with mbDenied := true }) (captureDr n s) := by
  obtain ⟨n, hn⟩ : ∃ n, mbistWord s = n := ⟨_, rfl⟩
  have h1 : (captureDr n s).aon.rap.mbRun = none := hm
  have h2 : bit (reg (captureDr n s) 0x201C) 0 = bit (reg s 0x201C) 0 := rfl
  have hno : (s.aon.pwr.rstN && s.aon.pwr.sramDone && s.aon.pwr.goAt.isNone && !bit (reg s 0x201C) 0) = false := by
    obtain hg | hg := hg
    · obtain ⟨g, hg⟩ := Option.isSome_iff_exists.mp hg
      simp [hg]
    · simp [hg]
  exact ⟨n, by simp [opMbist, hn, hj, hv, h1, h2, hno]⟩

theorem opMbistDone_attr {fail : Bool} {rows : Nat} {s : State} (h : s.aon.rap.mbRun = some 0) :
    opMbistDone fail 0 rows s = onRap (fun r => { r with
      mbRun := none, mbDone := true, mbFail := fail, mbArray := 0, mbRows := sat 0xFFFF rows }) (onHed (fun h => { h with attr := [] }) s) := by
  rw [opMbistDone, h]
  simp [zeroArray]

/-- Settles O27: one lemma for each instruction. -/
theorem jtagPort : Obligations.JtagPort := by
  unfold Obligations.JtagPort
  refine ⟨?_, ?_, ?_, ?_, ?_⟩
  · intro s hs hr
    have hg := goesTo_run (c := .idcode) rfl hs
    rw [if_pos hr] at hg
    exact ⟨_, hg, onlyChanges_captureDr _ s, rfl⟩
  · intro v s ho hj hb hx hp hc
    obtain ⟨n, hn⟩ := dbgAccess_reads ho hj hb hx hp hc
    have hg := goesTo_run (c := .dbgAccess v) rfl ho.1
    rw [hn] at hg
    exact ⟨_, hg, (onlyChanges_captureDr n s).onRap _, rfl, rfl, rfl⟩
  · intro s hs hj
    have hg := goesTo_run (c := .scanMode true) rfl hs
    have he : opScan true s = onKeys (fun _ => default) (inScan s) := by simp [opScan, hj]
    rw [he] at hg
    exact ⟨_, hg, rfl, rfl, rfl, rfl⟩
  · intro v s hs hj hv hm hr hd
    have hg := goesTo_run (c := .mbist v) rfl hs
    refine ⟨fun h1 h2 => ?_, fun h => ?_⟩
    · obtain ⟨n, hn⟩ := opMbist_starts hj hv hm hr hd h1 h2
      rw [hn] at hg
      exact ⟨_, hg, (onlyChanges_captureDr n s).onRap _, rfl, rfl, rfl⟩
    · obtain ⟨n, hn⟩ := opMbist_denied hj hv hm h
      rw [hn] at hg
      exact ⟨_, hg, (onlyChanges_captureDr n s).onRap _, hm, rfl⟩
  · intro fail rows s hr hm
    have hg := goesTo_inObs (c := .mbistComplete fail 0 rows) rfl hr
    rw [opMbistDone_attr hm] at hg
    exact ⟨_, hg, ((onlyChanges.refl _ s).onHed _).onRap _, rfl, rfl, rfl, rfl, rfl⟩

end Sys2Proof.Machine
end

section
/-! SUPPORT. Counters, stopped time, Bramble rings and loss runs: what each leaves of the state and of the units. -/

namespace Sys2Proof.Machine

open Sys2Proof.Safety

set_option Elab.async false

/-! ## Frames -/

section Frame

variable {ps : List Part} {s t : State} (h : onlyChanges ps s t)
include h

theorem onlyChanges_onBanks (f : Bank → Bank) (hm : .cut ∈ ps := by decide) : onlyChanges ps s (onBanks f t) := h.onCut _ hm

theorem onlyChanges_emptyRing (u : Nat) (hm : .hed ∈ ps := by decide) : onlyChanges ps s (emptyRing u t) := h.onUnit _ _ hm

theorem onlyChanges_appendRing (u : Nat) (w : U64) (g : Nat) (hm : .hed ∈ ps := by decide) :
    onlyChanges ps s (appendRing u w g t) := .ite _ h (.ite _ (h.onUnit _ _ hm) (h.onUnit _ _ hm))

theorem onlyChanges_snapUnit (u g : Nat) (hm : .hed ∈ ps := by decide) : onlyChanges ps s (snapUnit u g t) := by
  unfold snapUnit
  split
  · exact h
  · exact .ite _ h (h.onUnit _ _ hm)

theorem onlyChanges_addStopped (u a b : Nat) (hm : .cut ∈ ps := by decide) : onlyChanges ps s (addStopped u a b t) :=
  h.onCut _ hm

theorem onlyChanges_accrue (u g : Nat) (hm : .hed ∈ ps := by decide) (hc : .cut ∈ ps := by decide) :
    onlyChanges ps s (accrue u g t) := by
  unfold accrue
  split
  · exact .ite _ ((onlyChanges_addStopped h _ _ _ hc).onUnit _ _ hm) h
  · exact h

theorem onlyChanges_noteStop (u g : Nat) (r : Bool) (hm : .hed ∈ ps := by decide) : onlyChanges ps s (noteStop u g r t) :=
  h.onUnit _ _ hm

theorem onlyChanges_beginStop (u g : Nat) (w : Bool) (hm : .hed ∈ ps := by decide) (hx : .ctxs ∈ ps := by decide) :
    onlyChanges ps s (beginStop u g w t) :=
  onlyChanges_appendRing ((onlyChanges_noteStop ((onlyChanges_snapUnit h _ _ hm).onUnit _ _ hm) _ _ _ hm).offerUnit _ _ hx) _ _ _ hm

theorem onlyChanges_endStop (u g : Nat) (w : Bool) (hm : .hed ∈ ps := by decide) (hc : .cut ∈ ps := by decide)
    (hx : .ctxs ∈ ps := by decide) : onlyChanges ps s (endStop u g w t) := by
  unfold endStop
  split
  · exact h
  · exact onlyChanges_appendRing ((onlyChanges_noteStop
      ((onlyChanges_accrue (onlyChanges_snapUnit h _ _ hm) _ _ hm hc).onUnit _ _ hm) _ _ _ hm).offerUnit _ _ hx) _ _ _ hm

theorem onlyChanges_syncStop (u g : Nat) (hm : .hed ∈ ps := by decide) (hc : .cut ∈ ps := by decide)
    (hx : .ctxs ∈ ps := by decide) : onlyChanges ps s (syncStop u g t) := by
  unfold syncStop
  simp only
  split
  · exact onlyChanges_beginStop h _ _ _ hm hx
  · exact onlyChanges_endStop h _ _ _ hm hc hx
  · exact h

theorem onlyChanges_splitRun (p g : Nat) (hm : .hed ∈ ps := by decide) (hx : .ctxs ∈ ps := by decide) :
    onlyChanges ps s (splitRun p g t) := by
  unfold splitRun
  split
  · exact h
  · split
    · exact h
    · refine h.foldl (fun a c ha => ?_) _
      split
      · exact ha
      · exact .ite _ (.onPort (.ite _ (ha.offerUnit _ _ hx) ha) _ _ hm) ha

theorem onlyChanges_closeRun (p g : Nat) (hm : .hed ∈ ps := by decide) (hx : .ctxs ∈ ps := by decide) :
    onlyChanges ps s (closeRun p g t) := by
  unfold closeRun
  simp only
  have hr := onlyChanges_splitRun h p g hm hx
  split
  · exact hr
  · have hp := hr.onPort p (fun q => { q with run := none }) hm
    split
    · exact hp
    · exact onlyChanges_appendRing (.ite _ (hp.offerUnit _ _ hx) hp) _ _ _ hm

theorem onlyChanges_changeOwner (q u g : Nat) (hm : .hed ∈ ps := by decide) (hc : .cut ∈ ps := by decide)
    (hx : .ctxs ∈ ps := by decide) : onlyChanges ps s (changeOwner q u g t) := by
  have ha := onlyChanges_snapUnit (onlyChanges_accrue h u g hm hc) u g hm
  unfold changeOwner
  simp only
  split
  · exact onlyChanges_emptyRing ((onlyChanges_onBanks (onlyChanges_closeRun ha _ _ hm hx) _ hc).onUnit _ _ hm) _ hm
  · exact onlyChanges_emptyRing ((onlyChanges_onBanks ha _ hc).onUnit _ _ hm) _ hm

end Frame

/-! ## Units that an operation leaves -/

/-- A change of unit u alone, seen through any other unit. -/
theorem unitOf_onUnit (u : Nat) (f : UnitSt → UnitSt) (s : State) (v : Nat) :
    unitOf (onUnit u f s) v = if v = u then f (unitOf s v) else unitOf s v := by
  split
  · subst v
    exact unitOf_onUnit_same u f s
  · exact unitOf_onUnit_other u f s v ‹_›

@[simp] theorem unitOf_onPort (p : Nat) (f : PortSt → PortSt) (s : State) (v : Nat) : unitOf (onPort p f s) v = unitOf s v := rfl

@[simp] theorem unitOf_onBanks (f : Bank → Bank) (s : State) (v : Nat) : unitOf (onBanks f s) v = unitOf s v := rfl

@[simp] theorem unitOf_addStopped (u a b : Nat) (s : State) (v : Nat) : unitOf (addStopped u a b s) v = unitOf s v := rfl

@[simp] theorem unitOf_offerUnit (u : Nat) (r : Rec) (s : State) (v : Nat) : unitOf (offerUnit u r s) v = unitOf s v :=
  ((onlyChanges.refl [.ctxs] s).offerUnit u r).unitOf_eq v

theorem unitOf_splitRun (p g : Nat) (s : State) (v : Nat) : unitOf (splitRun p g s) v = unitOf s v := by
  unfold splitRun
  split
  · rfl
  · split
    · rfl
    · refine List.foldlRecOn _ _ (motive := fun a => unitOf a v = unitOf s v) rfl fun a ha c _ => ?_
      dsimp only
      split
      · exact ha
      · split
        · rw [unitOf_onPort]
          split
          · rw [unitOf_offerUnit, ha]
          · exact ha
        · exact ha

/-- A property of a unit that a change of its ring, its stopped time and the dump's view keeps: what it is of (R266). -/
abbrev holdings (x : UnitSt) : Nat × Nat := (x.owner, x.restart)

theorem holdings_onUnit {u : Nat} {f : UnitSt → UnitSt} (hf : ∀ x, holdings (f x) = holdings x) (s : State) (v : Nat) :
    holdings (unitOf (onUnit u f s) v) = holdings (unitOf s v) := by
  rw [unitOf_onUnit]
  split
  · exact hf _
  · rfl

theorem holdings_snapUnit (u g : Nat) (s : State) (v : Nat) :
    holdings (unitOf (snapUnit u g s) v) = holdings (unitOf s v) := by
  unfold snapUnit
  split
  · rfl
  · dsimp only
    split
    · rfl
    · refine holdings_onUnit ?_ s v
      exact fun _ => rfl

theorem holdings_accrue (u g : Nat) (s : State) (v : Nat) : holdings (unitOf (accrue u g s) v) = holdings (unitOf s v) := by
  unfold accrue
  split
  · split
    · refine (holdings_onUnit ?_ _ v).trans rfl
      exact fun _ => rfl
    · rfl
  · rfl

/-- An entry changes the unit's ring and what it says of it, or nothing. -/
theorem appendRing_eq (u : Nat) (w : U64) (g : Nat) (s : State) : appendRing u w g s = s ∨
    ∃ (r : UnitSt → List (U64 × Nat)) (k : UnitSt → Bool) (n : UnitSt → Nat),
      appendRing u w g s = onUnit u (fun x => { x with ring := r x, ringWrap := k x, held := n x }) s := by
  by_cases hd : bramDepth s (unitOf s u).owner = 0
  · exact .inl (if_pos hd)
  · by_cases hh : (match hangT s with | some h => decide (h ≤ g) | none => false) = true
    · refine .inr ⟨fun x => x.ring, fun x => x.ringWrap, fun x => x.held + b2n (fld w 60 4 != 0), ?_⟩
      exact (if_neg hd).trans (if_pos hh)
    · refine .inr ⟨fun x => if x.ring.length < bramDepth s (unitOf s u).owner then ringAdd w g x.ring
        else (ringAdd w g x.ring).drop 1, fun x => if x.ring.length < bramDepth s (unitOf s u).owner then x.ringWrap
        else true, fun x => x.held, ?_⟩
      refine ((if_neg hd).trans (if_neg hh)).trans ?_
      congr 1
      funext x
      by_cases hl : x.ring.length < bramDepth s (unitOf s u).owner <;> simp [hl]

theorem holdings_appendRing (u : Nat) (w : U64) (g : Nat) (s : State) (v : Nat) :
    holdings (unitOf (appendRing u w g s) v) = holdings (unitOf s v) := by
  obtain h | ⟨r, k, n, h⟩ := appendRing_eq u w g s
  · rw [h]
  · rw [h]
    refine holdings_onUnit ?_ s v
    exact fun _ => rfl

theorem holdings_closeRun (p g : Nat) (s : State) (v : Nat) :
    holdings (unitOf (closeRun p g s) v) = holdings (unitOf s v) := by
  unfold closeRun
  dsimp only
  split
  · rw [unitOf_splitRun]
  · split
    · rw [unitOf_onPort, unitOf_splitRun]
    · rw [holdings_appendRing]
      split
      · rw [unitOf_offerUnit, unitOf_onPort, unitOf_splitRun]
      · rw [unitOf_onPort, unitOf_splitRun]

theorem unitOf_emptyRing_other (u : Nat) (s : State) {v : Nat} (h : v ≠ u) : unitOf (emptyRing u s) v = unitOf s v :=
  unitOf_onUnit_other _ _ _ _ h

theorem unitOf_emptyRing_same (u : Nat) (s : State) :
    unitOf (emptyRing u s) u = { unitOf s u with ring := [], ringWrap := false, held := 0 } := unitOf_onUnit_same _ _ _

/-- What a change of owner does to the units (R266). -/
theorem unitOf_changeOwner (q u g : Nat) (s : State) :
    (unitOf (changeOwner q u g s) u).owner = q ∧
      (unitOf (changeOwner q u g s) u).restart = max (unitOf s u).restart g ∧
      (unitOf (changeOwner q u g s) u).ring = [] ∧
      ∀ v, v ≠ u → (unitOf (changeOwner q u g s) v).owner = (unitOf s v).owner := by
  have ha (v : Nat) : holdings (unitOf (snapUnit u g (accrue u g s)) v) = holdings (unitOf s v) := by
    rw [holdings_snapUnit, holdings_accrue]
  unfold changeOwner
  dsimp only
  rw [unitOf_emptyRing_same, unitOf_onUnit_same, unitOf_onBanks]
  split
  · rename_i p _
    have hc (v : Nat) := (holdings_closeRun p g (snapUnit u g (accrue u g s)) v).trans (ha v)
    refine ⟨rfl, congrArg (fun x => max x.2 g) (hc u), rfl, fun v hv => ?_⟩
    rw [unitOf_emptyRing_other u _ hv, unitOf_onUnit_other _ _ _ _ hv, unitOf_onBanks]
    exact congrArg Prod.fst (hc v)
  · refine ⟨rfl, congrArg (fun x => max x.2 g) (ha u), rfl, fun v hv => ?_⟩
    rw [unitOf_emptyRing_other u _ hv, unitOf_onUnit_other _ _ _ _ hv, unitOf_onBanks]
    exact congrArg Prod.fst (ha v)

end Sys2Proof.Machine
end

section
/-! SUPPORT. Set-up registers: a build whose sections' registers reach `WRN_FLT_BRAM`. -/

namespace Sys2Proof.Machine

open Sys2Proof.Safety

set_option Elab.async false

/-- A build of 100 sections: its sections' counts (Table 18.6) run over the address of `WRN_FLT_BRAM`. -/
def wideBuild : Build := { Build.wt1F with nColl := 1600 }

/-- Such a machine at work. -/
def wideAtWork : State := { atWork with build := wideBuild }

/-- The part of a write of the depths before any ring is emptied: the depths at T of a hang sequence are kept, and the
register is written. -/
def bramStored (v : U32) (s : State) : State :=
  putFields 0xB200 v
    (onSeq (fun q => if q.t ≤ now s ∧ q.bram = none then { q with bram := some (reg s 0xB200) } else q) s)

theorem reg_opBramble (v : U32) (s : State) : reg (opBramble v s) 0xB200 = reg (bramStored v s) 0xB200 := by
  have hf : onlyChanges [.hed] (bramStored v s) (opBramble v s) :=
    (onlyChanges.refl _ _).foldl (fun _ _ h => onlyChanges_emptyRing h _) _
  exact hf.reg_eq 0xB200

/-- Refutes O25: the statement takes any build, and in one of more than 96 sections the address of `WRN_FLT_BRAM`
(0xB200) lies among the sections' counts of events without a unit, which are read-clear: a write of the depths leaves
the register as it is. (No build of Table 0.4 has that many.) -/
theorem not_setUpAndSentinelRegisters : ¬ Obligations.SetUpAndSentinelRegisters := by
  unfold Obligations.SetUpAndSentinelRegisters
  rintro ⟨_, h, _⟩
  have ho : obsOpen wideAtWork := ⟨⟨rfl, rfl⟩, rfl, rfl⟩
  obtain ⟨t, hg, _, hreg, _⟩ := h 1 wideAtWork ho (by decide)
  have hw := goesTo_write (c := .brambleDepthWrite 1) rfl ho (a := 0xB200) (by decide)
  have hd : reg (settle wideAtWork t) 0xB200 = reg (settle wideAtWork (rapWrote 0xB200 1 wideAtWork)) 0xB200 :=
    congrArg (fun o => match o with | .next u => reg u 0xB200 | _ => 0) (hg.symm.trans hw)
  have hs (b u : State) : reg (settle b u) 0xB200 = reg u 0xB200 := by simp [reg]
  rw [hs, hs, hreg, reg_rapWrote] at hd
  exact absurd (hd.trans (reg_opBramble 1 wideAtWork)) (by decide)

end Sys2Proof.Machine
end

section
/-! SUPPORT. Grants and takeovers from states with more in them than the core ever holds. -/

namespace Sys2Proof.Machine

open Sys2Proof.Safety

set_option Elab.async false

/-- A machine that waits for its clock, with a tail held in the page of a ring that does not exist. -/
def strayDoorbell : State :=
  onDb 128 (fun d => { d with tailHeld := some (2 ^ 40) }) (onPwr (fun p => { p with clkAck := false }) atWork)

/-- Refutes O12: the statement takes any state, and in one whose doorbell pages run past ring 63 a held tail beyond N
sets DB_ERR (R223) in the word at ring 128's address, which is an alarm register of the AON domain; the frame of the
statement has no AON register. -/
theorem not_clockIsGranted : ¬ Obligations.ClockIsGranted := by
  unfold Obligations.ClockIsGranted
  rintro ⟨h, _⟩
  obtain ⟨t, hg, hf, _⟩ := h strayDoorbell rfl rfl rfl rfl rfl rfl
  have hr := goesTo_run (c := .obsClkGrant) rfl (s := strayDoorbell) rfl
  have hd : (settle strayDoorbell t).aon.regs = (settle strayDoorbell (opGrant strayDoorbell)).aon.regs :=
    congrArg (fun o => match o with | .next u => u.aon.regs | _ => []) (hg.symm.trans hr)
  rw [settle_regs, settle_regs, hf.aonRegs_eq] at hd
  exact absurd hd (by decide)

/-- A machine at work in which a takeover of collector 0 checks spare 16, which is among the idle spares too. -/
def spareTwice : State :=
  onColl 0 (fun k => { k with taking := some ⟨0, 0, some 16, true, false⟩ }) atWork

/-- Refutes O16: the statement takes any state, and in one where the spare under check is among the idle spares of its
section too, the takeover that the failed check leaves without a spare takes the same one again, so it is checked
still. -/
theorem not_takeoversAndFencing : ¬ Obligations.TakeoversAndFencing := by
  unfold Obligations.TakeoversAndFencing
  rintro ⟨_, h, _⟩
  obtain ⟨_, t, hg, _, hc⟩ := h 16 0 0 0 spareTwice ⟨rfl, rfl⟩ (by decide) (by decide) rfl
  have hr := goesTo_inObs (c := .collectorSelfTestDone 16 false) rfl (s := spareTwice) ⟨rfl, rfl⟩
  have hs (b u : State) : sectOf (settle b u) (16 / 32) = sectOf u (16 / 32) := by
    obtain ⟨_, _, _, _, _, h⟩ := settle_eq b u
    rw [h]
    rfl
  have hd : sectOf (settle spareTwice t) (16 / 32) =
      sectOf (settle spareTwice (opSelfTest 16 false spareTwice)) (16 / 32) :=
    congrArg (fun o => match o with | .next u => sectOf u (16 / 32) | _ => sectD default 0) (hg.symm.trans hr)
  rw [hs, hs] at hd
  rw [hd] at hc
  exact absurd hc (by decide)

end Sys2Proof.Machine
end

section
/-! SUPPORT. Events and transitions of a collector's ports (chapters 2 and 3): the statements about them. -/

namespace Sys2Proof.Machine

open Sys2Proof.Safety

set_option Elab.async false

/-! ## Units alone -/

/-- Of Hedgerow the units alone change. -/
def onlyUnits (s t : State) : Prop := t.build = s.build ∧ ∃ us, t.obs.hed = { s.obs.hed with units := us }

theorem onlyUnits.refl (s : State) : onlyUnits s s := ⟨rfl, _, rfl⟩

section Units

variable {s t : State} (h : onlyUnits s t)
include h

theorem onlyUnits.onUnit (u : Nat) (f : UnitSt → UnitSt) : onlyUnits s (onUnit u f t) := by
  obtain ⟨hb, us, he⟩ := h
  exact ⟨hb, smMod unitD us u f, by rw [Machine.onUnit, onHed_ohed, he]⟩

theorem onlyUnits.frame {ps : List Part} {r : State} (hf : onlyChanges ps t r) (hm : .hed ∉ ps := by decide) :
    onlyUnits s r := by
  obtain ⟨hb, us, he⟩ := h
  exact ⟨hf.build_eq.trans hb, us, by rw [hf.hed_eq hm, he]⟩

theorem onlyUnits.snapUnit (u g : Nat) : onlyUnits s (snapUnit u g t) := by
  unfold Machine.snapUnit
  split
  · exact h
  · dsimp only
    split
    · exact h
    · exact h.onUnit _ _

theorem onlyUnits.accrue (u g : Nat) : onlyUnits s (accrue u g t) := by
  unfold Machine.accrue
  split
  · split
    · exact (h.frame (onlyChanges_addStopped (.refl [.cut] t) _ _ _)).onUnit _ _
    · exact h
  · exact h

theorem onlyUnits.appendRing (u : Nat) (w : U64) (g : Nat) : onlyUnits s (appendRing u w g t) := by
  obtain he | ⟨r, k, n, he⟩ := appendRing_eq u w g t
  · rwa [he]
  · rw [he]
    exact h.onUnit _ _

theorem onlyUnits.offerUnit (u : Nat) (r : Rec) : onlyUnits s (offerUnit u r t) :=
  h.frame ((onlyChanges.refl [.ctxs] t).offerUnit u r)

theorem onlyUnits.beginStop (u g : Nat) (w : Bool) : onlyUnits s (beginStop u g w t) :=
  ((((h.snapUnit u g).onUnit _ _).onUnit _ _).offerUnit _ _).appendRing _ _ _

theorem onlyUnits.endStop (u g : Nat) (w : Bool) : onlyUnits s (endStop u g w t) := by
  unfold Machine.endStop
  split
  · exact h
  · exact (((((h.snapUnit u g).accrue u g).onUnit _ _).onUnit _ _).offerUnit _ _).appendRing _ _ _

theorem onlyUnits.sectOf_eq (i : Nat) : sectOf t i = sectOf s i := by
  obtain ⟨hb, us, he⟩ := h
  rw [sectOf, he, hb]
  rfl

theorem onlyUnits.collOf_eq (c : Nat) : collOf t c = collOf s c := by
  obtain ⟨_, us, he⟩ := h
  rw [collOf, he]
  rfl

theorem onlyUnits.portOf_eq (p : Nat) : portOf t p = portOf s p := by
  obtain ⟨_, us, he⟩ := h
  rw [portOf, he]
  rfl

theorem onlyUnits.unitAt_eq (p g : Nat) : unitAt t p g = unitAt s p g := by
  have hs := h.sectOf_eq (p / 256)
  obtain ⟨_, us, he⟩ := h
  rw [unitAt, unitAt, mapAt, mapAt, hs, he]

end Units

/-! ## One unit -/

section Other

variable {u v : Nat} (h : v ≠ u)
include h

theorem unitOf_snapUnit_other (g : Nat) (s : State) : unitOf (snapUnit u g s) v = unitOf s v := by
  unfold snapUnit
  split
  · rfl
  · dsimp only
    split
    · rfl
    · exact unitOf_onUnit_other _ _ _ _ h

theorem unitOf_accrue_other (g : Nat) (s : State) : unitOf (accrue u g s) v = unitOf s v := by
  unfold accrue
  split
  · split
    · exact unitOf_onUnit_other _ _ _ _ h
    · rfl
  · rfl

theorem unitOf_appendRing_other (w : U64) (g : Nat) (s : State) : unitOf (appendRing u w g s) v = unitOf s v := by
  obtain he | ⟨r, k, n, he⟩ := appendRing_eq u w g s
  · rw [he]
  · rw [he]
    exact unitOf_onUnit_other _ _ _ _ h

theorem unitOf_beginStop_other (g : Nat) (w : Bool) (s : State) : unitOf (beginStop u g w s) v = unitOf s v := by
  unfold beginStop noteStop
  rw [unitOf_appendRing_other h, unitOf_offerUnit, unitOf_onUnit_other _ _ _ _ h, unitOf_onUnit_other _ _ _ _ h,
    unitOf_snapUnit_other h]

theorem unitOf_endStop_other (g : Nat) (w : Bool) (s : State) : unitOf (endStop u g w s) v = unitOf s v := by
  unfold endStop noteStop
  split
  · rfl
  · dsimp only
    rw [unitOf_appendRing_other h, unitOf_offerUnit, unitOf_onUnit_other _ _ _ _ h, unitOf_onUnit_other _ _ _ _ h,
      unitOf_accrue_other h, unitOf_snapUnit_other h]

end Other

/-- A ring's entry leaves the unit's stop, watchdog, owner and last event. -/
theorem unit_appendRing (u : Nat) (w : U64) (g : Nat) (s : State) :
    (unitOf (appendRing u w g s) u).stop = (unitOf s u).stop ∧ (unitOf (appendRing u w g s) u).wdog = (unitOf s u).wdog ∧
      (unitOf (appendRing u w g s) u).owner = (unitOf s u).owner ∧
      (unitOf (appendRing u w g s) u).lastEvent = (unitOf s u).lastEvent := by
  obtain he | ⟨r, k, n, he⟩ := appendRing_eq u w g s
  · rw [he]
    exact ⟨rfl, rfl, rfl, rfl⟩
  · rw [he, unitOf_onUnit_same]
    exact ⟨rfl, rfl, rfl, rfl⟩

theorem wdog_snapUnit (u g : Nat) (s : State) : (unitOf (snapUnit u g s) u).wdog = (unitOf s u).wdog := by
  unfold snapUnit
  split
  · rfl
  · dsimp only
    split
    · rfl
    · rw [unitOf_onUnit_same]

/-- A stop begins at its stamp (R33). -/
theorem unit_beginStop (u g : Nat) (w : Bool) (s : State) :
    (unitOf (beginStop u g w s) u).stop = some (g, g) ∧ (unitOf (beginStop u g w s) u).wdog = (unitOf s u).wdog := by
  unfold beginStop noteStop
  obtain ⟨h1, h2, _⟩ := unit_appendRing u (synth 2 0) g (offerUnit u ⟨g, .clkstop w u⟩ (onUnit u (fun x =>
    { x with stops := x.stops ++ [(g, false)] }) (onUnit u (fun x => { x with stop := some (g, g) }) (snapUnit u g s))))
  rw [h1, h2, unitOf_offerUnit, unitOf_onUnit_same, unitOf_onUnit_same]
  exact ⟨rfl, wdog_snapUnit u g s⟩

theorem stop_wdogRun (a g : Nat) (x : UnitSt) : (wdogRun a g x).stop = x.stop := by
  unfold wdogRun
  split
  · split <;> rfl
  · rfl

/-- A stop ends (R34). -/
theorem stop_endStop (u g : Nat) (w : Bool) (s : State) : (unitOf (endStop u g w s) u).stop = none := by
  unfold endStop
  split
  · assumption
  · dsimp only
    rw [(unit_appendRing _ _ _ _).1, unitOf_offerUnit, noteStop, unitOf_onUnit_same, unitOf_onUnit_same]
    exact stop_wdogRun _ _ _

/-! ## Transitions (R30, R33) -/

@[simp] theorem portOf_onColl (c : Nat) (f : CollSt → CollSt) (s : State) (p : Nat) : portOf (onColl c f s) p = portOf s p := rfl

@[simp] theorem unitOf_onColl (c : Nat) (f : CollSt → CollSt) (s : State) (u : Nat) : unitOf (onColl c f s) u = unitOf s u := rfl

@[simp] theorem sectOf_onColl (c : Nat) (f : CollSt → CollSt) (s : State) (i : Nat) : sectOf (onColl c f s) i = sectOf s i := rfl

/-- A transition of a port whose collector observes it. -/
theorem opClk_taken {p : Nat} {level : Bool} {s : State} (hp : p < s.build.units) (hl : (portOf s p).clk = !level)
    (hr : obsRuns s = true) (ha : s.aon.pwr.stage = .awake) (hs : serving s (p / 16) = true) :
    opClk p level s = onColl (p / 16) (fun k => { k with buf := k.buf ++ [⟨p, portStamp s p, 0, some level, engGt s⟩] })
      (onPort p (fun t => { t with clk := level }) s) := by
  have hn : ¬ (s.build.units ≤ p ∨ (portOf s p).clk = level) := by
    rintro (h | h)
    · omega
    · rw [hl] at h
      cases level <;> cases h
  have ht : takesClk (onPort p (fun t => { t with clk := level }) s) = true := by
    show (obsRuns s && s.aon.pwr.stage != .zeroed && s.aon.pwr.stage != .dropped) = true
    rw [hr, ha]
    rfl
  have hc : serving (onPort p (fun t => { t with clk := level }) s) (p / 16) = true := hs
  simp only [opClk]
  rw [if_neg hn, ht, hc]
  rfl

/-- What a transition that is taken leaves. -/
theorem opClk_spec {p : Nat} {level : Bool} {s : State} (hp : p < s.build.units) (hl : (portOf s p).clk = !level)
    (hr : obsRuns s = true) (ha : s.aon.pwr.stage = .awake) (hs : serving s (p / 16) = true) :
    onlyChanges [.hed] s (opClk p level s) ∧ (portOf (opClk p level s) p).clk = level ∧
      (collOf (opClk p level s) (p / 16)).buf =
        (collOf s (p / 16)).buf ++ [⟨p, portStamp s p, 0, some level, engGt s⟩] ∧
      (opClk p level s).obs.hed.units = s.obs.hed.units := by
  rw [opClk_taken hp hl hr ha hs]
  refine ⟨((onlyChanges.refl _ s).onPort _ _).onColl _ _, ?_, ?_, rfl⟩
  · rw [portOf_onColl, portOf_onPort_same]
  · rw [collOf_onColl_same]
    rfl

/-- A collector whose only entry leaves its buffer. -/
def emptied (c : Nat) : State → State := onColl c fun k => { k with buf := [] }

theorem collOf_emptied (c : Nat) (s : State) : collOf (emptied c s) c = { collOf s c with buf := [] } :=
  collOf_onColl_same _ _ _

theorem onlyChanges_emptied (c : Nat) (s : State) : onlyChanges [.hed] s (emptied c s) := (onlyChanges.refl _ s).onColl _ _

theorem onColl_congr {c : Nat} {f g : CollSt → CollSt} {s : State} (h : f (collOf s c) = g (collOf s c)) :
    onColl c f s = onColl c g s := by
  unfold collOf at h
  simp only [onColl, onHed, onObs, smMod, h]

theorem emptied_eq {c : Nat} {e : BufEv} {s : State} (hb : (collOf s c).buf = [e]) :
    onColl c (fun k => { k with buf := delFirst (fun x => bufKey x == bufKey e) k.buf }) s = emptied c s :=
  onColl_congr (by simp [hb, delFirst])

theorem foldRemaps_of_nil {i : Nat} {s : State} (h : (sectOf s i).remaps = []) : foldRemaps i s = s := by
  simp [foldRemaps, h]

/-- A collector's only entry is a transition. -/
theorem opProcess_clk {c : Nat} {e : BufEv} {l : Bool} {s : State} (hc : c < s.build.nColl) (hb : (collOf s c).buf = [e])
    (he : e.clk = some l) :
    opProcess c s = foldRemaps (c / 16) (flitSent c (procClk e.port e.stamp l (emptied c s))) := by
  have hl : leastBy bufKey (collOf s c).buf = some e := by rw [hb]; rfl
  rw [opProcess, if_pos hc, procNext, hl]
  dsimp only
  rw [he, emptied_eq hb]

/-- A collector's only entry is an event. -/
theorem opProcess_event {c : Nat} {e : BufEv} {s : State} (hc : c < s.build.nColl) (hb : (collOf s c).buf = [e])
    (he : e.clk = none) : opProcess c s =
      foldRemaps (c / 16) (flitSent c (procEvent e.port e.stamp e.reached e.word (emptied c s))) := by
  have hl : leastBy bufKey (collOf s c).buf = some e := by rw [hb]; rfl
  rw [opProcess, if_pos hc, procNext, hl]
  dsimp only
  rw [he, emptied_eq hb]

theorem procClk_fall {p u g : Nat} {s : State} (hu : unitAt s p g = some u) (hs : (unitOf s u).stop = none)
    (hw : (unitOf s u).wdog = none) : procClk p g false s = beginStop u g false s := by
  have hw' : (unitOf (beginStop u g false s) u).wdog = none := (unit_beginStop u g false s).2.trans hw
  simp [procClk, hu, hs, hw']

theorem procClk_rise {p u g : Nat} {s : State} (hu : unitAt s p g = some u) : procClk p g true s = endStop u g false s := by
  simp [procClk, hu]

theorem unitAt_emptied (c : Nat) (s : State) (p g : Nat) : unitAt (emptied c s) p g = unitAt s p g := rfl

/-- The end of the processing of an entry after which the section has no REMAP event left: what leaves is the flit. -/
theorem foldRemaps_flitSent {c : Nat} {s t : State} (hu : onlyUnits (emptied c s) t) (hr : (sectOf s (c / 16)).remaps = []) :
    foldRemaps (c / 16) (flitSent c t) = flitSent c t := by
  refine foldRemaps_of_nil ?_
  show (sectOf t (c / 16)).remaps = []
  rw [hu.sectOf_eq]
  exact hr

theorem onlyChanges_flitSent {ps : List Part} {s t : State} (h : onlyChanges ps s t) (c : Nat) (hm : .dbg ∈ ps := by decide) :
    onlyChanges ps s (flitSent c t) := h.onDbg _ hm

/-- Settles O18: a transition is taken by `opClk_spec` and processed by `procClk_fall` and `procClk_rise`. -/
theorem clockStops : Obligations.ClockStops := by
  unfold Obligations.ClockStops
  refine ⟨?_, ?_⟩
  · intro p s hr hp ha hs
    refine ⟨fun hl => ⟨_, goesTo_run rfl hr.1, opClk_spec hp ?_ hr.2 ha hs⟩,
      fun hl => ⟨_, goesTo_run rfl hr.1, opClk_spec hp ?_ hr.2 ha hs⟩⟩
    · rw [hl]; rfl
    · rw [hl]; rfl
  · intro c u e s hr hc hb hu hrm
    have hg := goesTo_inObs (c := .collectorEventProcess c) rfl hr
    have hbuf {t : State} (h : onlyUnits (emptied c s) t) : (collOf (flitSent c t) c).buf = [] := by
      show (collOf t c).buf = []
      rw [h.collOf_eq, collOf_emptied]
    refine ⟨fun he hst hw => ⟨_, hg, ?_⟩, fun he hst => ⟨_, hg, ?_⟩⟩
    · have hu' := (onlyUnits.refl (emptied c s)).beginStop u e.stamp false
      rw [opProcess_clk hc hb he, procClk_fall (s := emptied c s) hu hst hw, foldRemaps_flitSent hu' hrm]
      refine ⟨onlyChanges_flitSent (onlyChanges_beginStop ((onlyChanges_emptied c s).mono (by decide)) _ _ _) _,
        hbuf hu', (unit_beginStop u e.stamp false (emptied c s)).1, fun v hv => ?_⟩
      exact unitOf_beginStop_other hv e.stamp false (emptied c s)
    · have hu' := (onlyUnits.refl (emptied c s)).endStop u e.stamp false
      rw [opProcess_clk hc hb he, procClk_rise (s := emptied c s) hu, foldRemaps_flitSent hu' hrm]
      refine ⟨onlyChanges_flitSent (onlyChanges_endStop ((onlyChanges_emptied c s).mono (by decide)) _ _ _) _,
        hbuf hu', stop_endStop u e.stamp false (emptied c s), fun v hv => ?_⟩
      exact unitOf_endStop_other hv e.stamp false (emptied c s)

end Sys2Proof.Machine
end

section
/-! SUPPORT. Probe events: how a valid is taken, and the processing of an event without an effect of its own. -/

namespace Sys2Proof.Machine

open Sys2Proof.Safety

set_option Elab.async false

/-! ## The mapping of ports (R51) -/

/-- Two port maps carry the same units. -/
abbrev sameUnits (m n : SMap PortSt) : Prop := ∀ q, (smGet portD m q).unit = (smGet portD n q).unit

theorem sameUnits_smMod {m n : SMap PortSt} (h : sameUnits m n) (p : Nat) (o : Option Nat) :
    sameUnits (smMod portD m p fun x => { x with unit := o }) (smMod portD n p fun x => { x with unit := o }) := by
  intro q
  by_cases hq : q = p
  · rw [hq, smGet_smMod_same, smGet_smMod_same]
  · rw [smGet_smMod_other _ _ _ hq, smGet_smMod_other _ _ _ hq, h q]

theorem sameUnits_applyRemap {m n : SMap PortSt} (h : sameUnits m n) (q : Nat) (w : U64) :
    sameUnits (applyRemap m q w) (applyRemap n q w) := by
  unfold applyRemap
  split
  · refine sameUnits_smMod ?_ _ _
    induction portsOfSection (q / 256) generalizing m n with
    | nil => exact h
    | cons p l ih =>
      rw [List.foldl_cons, List.foldl_cons]
      refine ih ?_
      rw [h p]
      split
      · exact sameUnits_smMod h _ _
      · exact h
  · exact sameUnits_smMod h _ _

/-- A change of a port that leaves its unit leaves the mapping. -/
theorem unitAt_onPort {f : PortSt → PortSt} (hf : ∀ x, (f x).unit = x.unit) (q : Nat) (s : State) (p g : Nat) :
    unitAt (onPort q f s) p g = unitAt s p g := by
  have h0 : sameUnits (onPort q f s).obs.hed.ports s.obs.hed.ports := by
    intro r
    show (portOf (onPort q f s) r).unit = (portOf s r).unit
    by_cases hr : r = q
    · rw [hr, portOf_onPort_same, hf]
    · rw [portOf_onPort_other _ _ _ _ hr]
  unfold unitAt mapAt
  show (smGet portD (List.foldl _ (onPort q f s).obs.hed.ports (List.filter _ (sectOf s (p / 256)).remaps)) p).unit = _
  generalize List.filter _ (sectOf s (p / 256)).remaps = l
  revert h0
  generalize (onPort q f s).obs.hed.ports = m
  generalize s.obs.hed.ports = n
  intro h0
  induction l generalizing m n with
  | nil => exact h0 p
  | cons r l ih => exact ih _ _ (sameUnits_applyRemap h0 r.2.1 r.2.2)

/-! ## A valid (R44, R45) -/

theorem splitRun_of_none {p g : Nat} {s : State} (h : (portOf s p).run = none) : splitRun p g s = s := by
  simp [splitRun, h]

theorem closeRun_of_none {p g : Nat} {s : State} (h : (portOf s p).run = none) : closeRun p g s = s := by
  simp [closeRun, splitRun_of_none h, h]

/-- The switch has seen a valid. -/
def seen (p : Nat) (s : State) : State := onPort p (fun x => { x with offered := x.offered ++ [portStamp s p] }) s

theorem portOf_seen (p : Nat) (s : State) :
    portOf (seen p s) p = { portOf s p with offered := (portOf s p).offered ++ [portStamp s p] } := portOf_onPort_same _ _ _

theorem unitAt_seen (p : Nat) (s : State) (q g : Nat) : unitAt (seen p s) q g = unitAt s q g := by
  refine unitAt_onPort ?_ p s q g
  exact fun _ => rfl

theorem opProbe_serving {p : Nat} {w : U64} {s : State} (hp : p < s.build.units) (hs : serving s (p / 16) = true)
    (hc : (curUnit s p).isSome = true) : opProbe p w s =
      if (portOf s p).mirror = 0 then lossAt p (portStamp s p) (seen p s) else acceptEvent p (portStamp s p) w (seen p s) := by
  have hk : ((collOf s (p / 16)).taking.isSome || (collOf s (p / 16)).lost.isSome) = false := by
    simp only [serving, Bool.and_eq_true, Option.isNone_iff_eq_none] at hs
    simp [hs]
  have hn : (curUnit (seen p s) p).isNone = false := by
    rw [curUnit, unitAt_seen]
    simpa [curUnit, Option.isSome_iff_ne_none] using hc
  have hm : (portOf (seen p s) p).mirror = (portOf s p).mirror := by rw [portOf_seen]
  have he : opProbe p w s =
      if ((collOf s (p / 16)).taking.isSome || (collOf s (p / 16)).lost.isSome) = true then
        lossDetached p (portStamp s p) (seen p s)
      else (fun x => if (portOf x p).mirror = 0 then lossAt p (portStamp s p) x else acceptEvent p (portStamp s p) w x)
        (if (curUnit (seen p s) p).isNone then bumpReg (aFlt + 0x80 + 4 * (p / 256)) 0 32 1 (seen p s) else seen p s) :=
    if_neg (by omega)
  rw [he, hk, hn]
  simp only [Bool.false_eq_true, if_false, hm]

/-- An event that is accepted. -/
theorem acceptEvent_spec {p : Nat} {w : U64} {s : State} (hr : (portOf s p).run = none) (hw : evClass w ≠ 9) :
    onlyChanges [.hed] s (acceptEvent p (portStamp s p) w (seen p s)) ∧
      portOf (acceptEvent p (portStamp s p) w (seen p s)) p =
        { portOf s p with offered := (portOf s p).offered ++ [portStamp s p], mirror := (portOf s p).mirror - 1 } ∧
      (collOf (acceptEvent p (portStamp s p) w (seen p s)) (p / 16)).buf =
        (collOf s (p / 16)).buf ++ [⟨p, portStamp s p, w, none, engGt s⟩] ∧
      (∀ q, q ≠ p → portOf (acceptEvent p (portStamp s p) w (seen p s)) q = portOf s q) := by
  have hrun : (portOf (seen p s) p).run = none := by rw [portOf_seen]; exact hr
  have he : acceptEvent p (portStamp s p) w (seen p s) =
      onColl (p / 16) (fun k => { k with buf := k.buf ++ [⟨p, portStamp s p, w, none, engGt s⟩] })
        (onPort p (fun x => { x with mirror := x.mirror - 1 }) (seen p s)) := by
    unfold acceptEvent
    rw [closeRun_of_none hrun]
    exact if_neg fun h => hw h.1
  rw [he]
  refine ⟨(((onlyChanges.refl _ s).onPort _ _).onPort _ _).onColl _ _, ?_, ?_, fun q hq => ?_⟩
  · rw [portOf_onColl, portOf_onPort_same, portOf_seen]
  · rw [collOf_onColl_same]
    rfl
  · rw [portOf_onColl, portOf_onPort_other _ _ _ _ hq]
    exact portOf_onPort_other _ _ _ _ hq

section Frame

variable {ps : List Part} {s t : State} (h : onlyChanges ps s t)
include h

theorem onlyChanges_ruleCount (src u g n : Nat) (hm : .sen ∈ ps := by decide) : onlyChanges ps s (ruleCount src u g n t) :=
  .ite _ h (h.onSen _ hm)

end Frame

theorem onPort_congr {p : Nat} {f g : PortSt → PortSt} {s : State} (h : f (portOf s p) = g (portOf s p)) :
    onPort p f s = onPort p g s := by
  unfold portOf at h
  simp only [onPort, onHed, onObs, smMod, h]

/-- The first loss of a run, stamped g. -/
def runOpened (p g : Nat) : State → State := onPort p fun q => { q with run := some ⟨g, 1, 1, g, false⟩ }

/-- A loss on a port without an open run. -/
theorem lossAt_spec {p u g : Nat} {s : State} (hr : (portOf s p).run = none) (hu : unitAt s p g = some u) :
    onlyChanges [.cut, .sen] (runOpened p g s) (lossAt p g s) := by
  obtain ⟨x, hx⟩ : ∃ x, runOpened p g s = x := ⟨_, rfl⟩
  unfold lossAt
  rw [hu, hx]
  dsimp only
  rw [splitRun_of_none hr, onPort_congr (g := fun q => { q with run := some ⟨g, 1, 1, g, false⟩ }) (by simp [hr]),
    ← runOpened, hx]
  exact .ite _ (.refl _ _) (onlyChanges_ruleCount ((onlyChanges.refl _ _).countTo _ _ _) _ _ _ _)

/-! ## An event that is processed (R47, R48) -/

section Five

variable {w : U64} (hw : evClass w = 5)
include hw

theorem evAttr_five (s : State) : evAttr s w = none := by simp [evAttr, hw, bySite]

theorem evPart_five (s : State) (u g : Nat) : evPart s u g w = ownerAt s u g := by simp [evPart, evAttr_five hw]

theorem malformed_five (b : Build) (p : Nat) : malformed b p w = false := by simp [malformed, hw]

theorem urgentItem_five (s : State) (u g : Nat) : urgentItem s u g w = none := by
  simp [urgentItem, hw, evAttr_five hw]

end Five

section Frame

variable {ps : List Part} {s t : State} (h : onlyChanges ps s t)
include h

theorem onlyChanges_countEvent (u g : Nat) (w : U64) (hc : .cut ∈ ps := by decide) (hm : .sen ∈ ps := by decide) :
    onlyChanges ps s (countEvent u g w t) := by
  have h1 (f : Nat → Bank → Bank) := h.countTo (unitOf t u).owner g f hc
  unfold countEvent
  dsimp only
  refine .ite _ h ?_
  have h2 (c : Prop) [Decidable c] (f : Nat → Bank → Bank) (k : Bank → Bank) :=
    onlyChanges.ite c ((h1 f).count (unitOf t u).owner g k hc) (h1 f)
  exact .ite _ (onlyChanges_ruleCount (onlyChanges_ruleCount (h2 _ _ _) _ _ _ _ hm) _ _ _ _ hm) (h2 _ _ _)

end Frame

/-- A progress event changes its unit's watchdog and last progress alone, if anything. -/
theorem progress_eq (u g : Nat) (w : U64) (s : State) : progress u g w s = s ∨
    ∃ d : UnitSt → Option Wdog, progress u g w s = onUnit u (fun x => { x with lastProg := g, wdog := d x }) s := by
  obtain ⟨b, hb⟩ : ∃ b : Bool, progress u g w s = if b = true then onUnit u (fun x => { x with
      lastProg := g, wdog := x.wdog.map fun d => { d with base := max d.base g, expired := false } }) s else s := ⟨_, rfl⟩
  rw [hb]
  cases b
  · exact .inl rfl
  · exact .inr ⟨_, rfl⟩

/-- What the rings and watchdogs leave of a unit of which an event is the last. -/
abbrev lastAndOwner (x : UnitSt) : Nat × Nat := (x.lastEvent, x.owner)

theorem lastAndOwner_progress (u g : Nat) (w : U64) (s : State) :
    lastAndOwner (unitOf (progress u g w s) u) = lastAndOwner (unitOf s u) := by
  obtain h | ⟨d, h⟩ := progress_eq u g w s
  · rw [h]
  · rw [h, unitOf_onUnit_same]

theorem lastAndOwner_appendRing (u g : Nat) (w : U64) (s : State) :
    lastAndOwner (unitOf (appendRing u w g s) u) = lastAndOwner (unitOf s u) := by
  obtain ⟨_, _, ho, hl⟩ := unit_appendRing u w g s
  exact Prod.ext hl ho

theorem ctxIds_eq {ps : List Part} {s t : State} (h : onlyChanges ps s t) (hm : .ctxs ∉ ps := by decide) :
    ctxIds t = ctxIds s := by
  simp [ctxIds, h.ctxs_eq hm]

/-- The frame of an event that has no effect of its own. -/
theorem onlyChanges_progress {ps : List Part} {s t : State} (h : onlyChanges ps s t) (u g : Nat) (w : U64)
    (hm : .hed ∈ ps := by decide) : onlyChanges ps s (progress u g w t) := by
  obtain he | ⟨d, he⟩ := progress_eq u g w t
  · rwa [he]
  · rw [he]
    exact h.onUnit _ _ hm

theorem onlyUnits_progress {s t : State} (h : onlyUnits s t) (u g : Nat) (w : U64) : onlyUnits s (progress u g w t) := by
  obtain he | ⟨d, he⟩ := progress_eq u g w t
  · rwa [he]
  · rw [he]
    exact h.onUnit _ _

/-- An event of class 5 with no context armed counts, and is placed in its unit's ring (R48). -/
theorem takeEvent_five {w : U64} (hw : evClass w = 5) (p u g r : Nat) {s : State} (hx : ctxIds s = []) :
    onlyChanges [.hed, .cut, .sen] s (takeEvent p u g r w s) ∧ onlyUnits s (takeEvent p u g r w s) ∧
      lastAndOwner (unitOf (takeEvent p u g r w s) u) = lastAndOwner (unitOf s u) := by
  have hc : onlyChanges [.cut, .sen] s (countEvent u g w s) := onlyChanges_countEvent (.refl _ s) u g w
  have hf := onlyChanges_progress (hc.mono (by decide) : onlyChanges [.hed, .cut, .sen] s _) u g w
  have hu := onlyUnits_progress ((onlyUnits.refl s).frame hc) u g w
  have hl : lastAndOwner (unitOf (progress u g w (countEvent u g w s)) u) = lastAndOwner (unitOf s u) := by
    rw [lastAndOwner_progress, hc.unitOf_eq]
  have he : takeEvent p u g r w s = if ownerAt s u g = (unitOf (progress u g w (countEvent u g w s)) u).owner then
      appendRing u w g (progress u g w (countEvent u g w s)) else progress u g w (countEvent u g w s) := by
    unfold takeEvent
    have hy (y : State) (hy : onlyChanges [.hed, .cut, .sen] s y) : ctxIds y = [] := (ctxIds_eq hy).trans hx
    simp only [hw, urgentItem_five hw, Nat.reduceEqDiff, reduceIte]
    rw [hy _ (.ite _ (onlyChanges_appendRing hf _ _ _) hf)]
    rfl
  rw [he]
  split
  · exact ⟨onlyChanges_appendRing hf _ _ _, hu.appendRing _ _ _, (lastAndOwner_appendRing _ _ _ _).trans hl⟩
  · exact ⟨hf, hu, hl⟩

theorem holdings_owner {s t : State} {u : Nat} (h : holdings (unitOf t u) = holdings (unitOf s u)) :
    (unitOf t u).owner = (unitOf s u).owner := congrArg Prod.fst h

/-- The state after an event's credit has returned and the links have counted it. -/
def creditBack (p g : Nat) (s : State) : State :=
  countLink g (fun b => { b with rsent := portCount (p / 256) 1 b.rsent, rrecv := portCount (p / 256) 1 b.rrecv })
    (onPort p (fun t => { t with mirror := sat 4 (t.mirror + 1), cret := (t.cret + 1) % 8 }) s)

theorem returnCredit_awake {p : Nat} {s : State} (hc : (collOf s (p / 16)).cal = true) (ha : s.aon.pwr.stage = .awake) :
    returnCredit p s = onPort p (fun t => { t with mirror := sat 4 (t.mirror + 1), cret := (t.cret + 1) % 8 }) s := by
  simp [returnCredit, hc, ha]

theorem unitAt_creditBack (p g : Nat) (s : State) (q r : Nat) : unitAt (creditBack p g s) q r = unitAt s q r := by
  show unitAt (onPort p (fun t => { t with mirror := sat 4 (t.mirror + 1), cret := (t.cret + 1) % 8 }) s) q r = _
  refine unitAt_onPort ?_ p s q r
  exact fun _ => rfl

/-- An event of class 5 of the unit that its port carries (R47, R48). -/
theorem procEvent_five {w : U64} (hw : evClass w = 5) {p u g r : Nat} {s : State} (hc : (collOf s (p / 16)).cal = true)
    (ha : s.aon.pwr.stage = .awake) (hu : unitAt s p g = some u) : procEvent p g r w s =
      takeEvent p u g r w (onUnit u (fun x => { x with lastEvent := g }) (snapUnit u g (creditBack p g s))) := by
  have hn9 (q : Prop) : ¬ (evClass w = 9 ∧ q) := by simp [hw]
  have hev : evUnit (creditBack p g s) p g w = some u := by
    rw [evUnit, if_neg (hn9 _), unitAt_creditBack, hu]
  unfold procEvent
  rw [returnCredit_awake hc ha]
  dsimp only
  rw [if_neg (hn9 _)]
  show (match evUnit (creditBack p g s) p g w with | none => _ | some u => _) = _
  rw [hev]
  dsimp only
  rw [malformed_five hw, evPart_five hw]
  simp [creditBack]

/-- The state before an event of class 5 takes effect: it has left its buffer and is its unit's last. -/
def eventOut (e : BufEv) (s : State) : State :=
  onUnit e.port (fun x => { x with lastEvent := e.stamp })
    (snapUnit e.port e.stamp (creditBack e.port e.stamp (emptied (e.port / 16) s)))

theorem onlyUnits_eventOut (e : BufEv) (s : State) :
    onlyUnits (creditBack e.port e.stamp (emptied (e.port / 16) s)) (eventOut e s) :=
  ((onlyUnits.refl _).snapUnit _ _).onUnit _ _

theorem onlyChanges_eventOut (e : BufEv) (s : State) : onlyChanges [.hed, .cut] s (eventOut e s) :=
  (onlyChanges_snapUnit ((((onlyChanges_emptied _ s).mono (by decide)).onPort _ _).countLink _ _) _ _).onUnit _ _

theorem lastAndOwner_eventOut (e : BufEv) (s : State) :
    lastAndOwner (unitOf (eventOut e s) e.port) = (e.stamp, (unitOf s e.port).owner) := by
  unfold eventOut
  rw [unitOf_onUnit_same]
  have h := holdings_owner (holdings_snapUnit e.port e.stamp (creditBack e.port e.stamp (emptied (e.port / 16) s)) e.port)
  exact Prod.ext rfl h

/-- A collector's only entry is an event of class 5 of the unit that its port carries. -/
theorem opProcess_five {e : BufEv} {s : State} (hc : e.port / 16 < s.build.nColl) (hb : (collOf s (e.port / 16)).buf = [e])
    (hclk : e.clk = none) (hw : evClass e.word = 5) (hcal : (collOf s (e.port / 16)).cal = true)
    (ha : s.aon.pwr.stage = .awake) (hu : unitAt s e.port e.stamp = some e.port)
    (hrm : (sectOf s (e.port / 16 / 16)).remaps = []) (hx : ctxIds s = []) :
    opProcess (e.port / 16) s =
      flitSent (e.port / 16) (takeEvent e.port e.port e.stamp e.reached e.word (eventOut e s)) := by
  have hcal' : (collOf (emptied (e.port / 16) s) (e.port / 16)).cal = true := by rw [collOf_emptied]; exact hcal
  have hpe := procEvent_five hw (p := e.port) (g := e.stamp) (r := e.reached) (s := emptied (e.port / 16) s) hcal' ha
    ((unitAt_emptied _ s _ _).trans hu)
  obtain ⟨_, hT, _⟩ := takeEvent_five hw e.port e.port e.stamp e.reached
    ((ctxIds_eq (onlyChanges_eventOut e s)).trans hx)
  rw [opProcess_event hc hb hclk, hpe, ← eventOut]
  refine foldRemaps_of_nil ?_
  have hsect : sectOf (flitSent (e.port / 16) (takeEvent e.port e.port e.stamp e.reached e.word (eventOut e s)))
      (e.port / 16 / 16) = sectOf s (e.port / 16 / 16) :=
    (hT.frame (onlyChanges_flitSent (.refl [.dbg] _) _)).sectOf_eq _ |>.trans ((onlyUnits_eventOut e s).sectOf_eq _)
  rw [hsect, hrm]

/-- Settles O17: `opProbe_serving` with `acceptEvent_spec` or `lossAt_spec`, and `procEvent_five`. -/
theorem probeEvents : Obligations.ProbeEvents := by
  unfold Obligations.ProbeEvents
  refine ⟨?_, ?_⟩
  · intro p w s hr hp hs hcu hrun
    have hg := goesTo_inObs (c := .probeValid p w) rfl hr
    rw [opProbe_serving hp hs hcu] at hg
    refine ⟨fun n hm hw => ?_, fun hm hu => ?_⟩
    · obtain ⟨hf, hpo, hbuf, hoth⟩ := acceptEvent_spec hrun hw
      rw [if_neg (by omega)] at hg
      exact ⟨_, hg, hf, by rw [hpo, hm]; rfl, by rw [hpo]; exact hrun, hbuf, hoth⟩
    · rw [if_pos hm] at hg
      have hrun' : (portOf (seen p s) p).run = none := by rw [portOf_seen]; exact hrun
      have hl := lossAt_spec hrun' ((unitAt_seen p s _ _).trans hu)
      have hport : portOf (lossAt p (portStamp s p) (seen p s)) p = _ := hl.portOf_eq p
      rw [runOpened, portOf_onPort_same, portOf_seen] at hport
      refine ⟨_, hg, ?_, ?_, ?_, ?_⟩
      · exact (((onlyChanges.refl _ s).onPort _ _).onPort _ _).trans (hl.mono (by decide))
      · rw [hport]; exact hm
      · rw [hport]
      · rw [hl.hed_eq]; rfl
  · intro c e s hr hc hcal ha hb hclk hpc hu hw hrm hx
    have hg := goesTo_inObs (c := .collectorEventProcess c) rfl hr
    subst hpc
    rw [opProcess_five hc hb hclk hw hcal ha hu hrm hx] at hg
    obtain ⟨hf, hunits, hl⟩ := takeEvent_five hw e.port e.port e.stamp e.reached
      ((ctxIds_eq (onlyChanges_eventOut e s)).trans hx)
    have hl' := hl.trans (lastAndOwner_eventOut e s)
    have hcoll := (hunits.collOf_eq (e.port / 16)).trans ((onlyUnits_eventOut e s).collOf_eq _)
    have hport := (hunits.portOf_eq e.port).trans ((onlyUnits_eventOut e s).portOf_eq _)
    refine ⟨_, hg, onlyChanges_flitSent (((onlyChanges_eventOut e s).mono (by decide)).trans (hf.mono (by decide))) _, ?_, ?_,
      congrArg Prod.fst hl', congrArg Prod.snd hl'⟩
    · exact (congrArg CollSt.buf hcoll).trans (congrArg CollSt.buf (collOf_emptied _ s))
    · exact (congrArg PortSt.mirror hport).trans
        (congrArg PortSt.mirror (portOf_onPort_same e.port _ (emptied (e.port / 16) s)))

end Sys2Proof.Machine
end

section
/-! SUPPORT. Heartbeats, failures and takeovers (chapter 3): the statement about them. -/

namespace Sys2Proof.Machine

open Sys2Proof.Safety

set_option Elab.async false

/-! ## Items leave the registers outside Boxwood's block -/

theorem reg_countOvf_other {a c : Nat} (h : blockOf a ≠ 7) (hc : c < 8) (s : State) : reg (countOvf c s) a = reg s a := by
  have h1 : a ≠ aEvq + 0x18 + 4 * (c / 4) := by
    rintro rfl
    unfold blockOf aEvq at h
    omega
  have h2 : a ≠ aEvq + 0x24 := by rintro rfl; exact h rfl
  unfold countOvf
  split
  · rw [reg_orReg_other _ _ _ h2, reg_bumpReg_other _ _ _ _ _ h1]
  · rfl

theorem reg_push_other {a src : Nat} {i : Item} (h : blockOf a ≠ 7) (hi : i.pclass < 8) (s : State) :
    reg (push src i s) a = reg s a := by
  unfold push
  split
  · split
    · rfl
    · exact reg_countOvf_other h (by omega) _
  · split
    · split
      · rfl
      · exact reg_countOvf_other h (by omega) _
    · split
      · rfl
      · exact reg_countOvf_other h hi _

/-! ## Mirrors (R46) -/

theorem portOf_zeroMirrors (l : List Nat) (s : State) (p : Nat) :
    portOf (l.foldl (fun acc p => onPort p (fun t => { t with mirror := 0 }) acc) s) p =
      if p ∈ l then { portOf s p with mirror := 0 } else portOf s p := by
  induction l generalizing s with
  | nil => simp
  | cons q l ih =>
    rw [List.foldl_cons, ih]
    by_cases hq : p = q
    · subst hq
      simp
    · rw [portOf_onPort_other _ _ _ _ hq]
      simp [hq]

theorem mem_portsOf (c p : Nat) : p ∈ portsOf c ↔ p / 16 = c := by
  simp only [portsOf, List.mem_map, List.mem_range]
  constructor
  · rintro ⟨k, hk, rfl⟩
    omega
  · rintro rfl
    exact ⟨p % 16, by omega, by omega⟩

theorem portOf_dropMirrors (c : Nat) (s : State) (p : Nat) :
    portOf (dropMirrors c s) p = if p / 16 = c then { portOf s p with mirror := 0 } else portOf s p := by
  rw [dropMirrors, portOf_zeroMirrors]
  simp only [mem_portsOf, portOf_onColl]

theorem foldl_onPort_colls (l : List Nat) (f : PortSt → PortSt) (s : State) :
    (l.foldl (fun acc p => onPort p f acc) s).obs.hed.colls = s.obs.hed.colls := by
  induction l generalizing s with
  | nil => rfl
  | cons p l ih => rw [List.foldl_cons, ih]; rfl

theorem collOf_dropMirrors (c : Nat) (s : State) (d : Nat) :
    collOf (dropMirrors c s) d = collOf (onColl c (fun k => { k with withheld := [] }) s) d := by
  rw [dropMirrors, collOf, foldl_onPort_colls]
  rfl

section Frame

variable {ps : List Part} {s t : State} (h : onlyChanges ps s t)
include h

theorem onlyChanges_ports (l : List Nat) (f : PortSt → PortSt) (hm : .hed ∈ ps := by decide) :
    onlyChanges ps s (l.foldl (fun acc p => onPort p f acc) t) := h.foldl (fun _ _ ha => ha.onPort _ _ hm) l

theorem onlyChanges_dropMirrors (c : Nat) (hm : .hed ∈ ps := by decide) : onlyChanges ps s (dropMirrors c t) :=
  onlyChanges_ports (h.onColl _ _ hm) _ _ hm

end Frame

/-! ## Heartbeats (R27, R68) -/

theorem opHeartbeat_eq {c copy : Nat} {s : State} (hc : c < s.build.nColl) (hs : serving s c = true)
    (hh : s.obs.hed.hbStop.contains (collOf s c).phys = false) : opHeartbeat c copy s =
      if copy ≤ now s + 1 ∧ now s ≤ copy + 1 then
        onColl c (fun k => { k with th := copy }) (onColl c (fun k => { k with misses := 0 }) s)
      else dropMirrors c (onTb (fun t => { t with calDone := false })
        (onColl c (fun k => { k with cal := false, driftGap := some (now s) })
          (orReg (aFlt + 0x110) 2 (orReg aTbStat 4 (onColl c (fun k => { k with misses := 0 }) s))))) := by
  have hn : ¬ (s.build.nColl ≤ c ∨ (!serving s c) = true ∨ s.obs.hed.hbStop.contains (collOf s c).phys = true) := by
    rw [hs, hh]
    simp
    omega
  unfold opHeartbeat
  exact if_neg hn

/-! ## Takeovers: what they leave of the collectors -/

/-- What no takeover changes of a collector. -/
abbrev bufCal (k : CollSt) : List BufEv × Bool := (k.buf, k.cal)

theorem collOf_onColl (c : Nat) (f : CollSt → CollSt) (s : State) (d : Nat) :
    collOf (onColl c f s) d = if d = c then f (collOf s d) else collOf s d := by
  split
  · subst d
    exact collOf_onColl_same _ _ _
  · exact collOf_onColl_other _ _ _ _ ‹_›

section Frame

variable {ps : List Part} {s t : State} (h : onlyChanges ps s t)
include h

theorem onlyChanges_restoreUnits (tc : Nat) (us : List Nat) (hm : .cut ∈ ps := by decide) :
    onlyChanges ps s (us.foldl (fun acc u => restoreUnit tc u acc) t) := h.foldl (fun a u ha => show onlyChanges ps s (restoreUnit tc u a) from ha.onCut _ hm) us

theorem onlyChanges_offerUnits (f : Nat → Rec) (us : List Nat) (hm : .ctxs ∈ ps := by decide) :
    onlyChanges ps s (us.foldl (fun acc u => offerUnit u (f u) acc) t) := h.foldl (fun _ _ ha => ha.offerUnit _ _ hm) us

theorem onlyChanges_settleCal (hm : .tb ∈ ps := by decide) : onlyChanges ps s (settleCal t) := .ite _ (h.onTb _ hm) h

end Frame

/-- Units are marked LOST: of Hedgerow the collector alone changes (R73). -/
theorem loseColl_frame (c td tc : Nat) (s : State) :
    onlyChanges [.cut, .ctxs, .tb] (onColl c (fun k => { k with taking := none, lost := some tc }) s) (loseColl c td tc s) :=
  onlyChanges_settleCal (onlyChanges_offerUnits (onlyChanges_restoreUnits (.refl _ _) _ _) _ _)

theorem collOf_loseColl (c td tc : Nat) (s : State) (d : Nat) :
    collOf (loseColl c td tc s) d = if d = c then { collOf s d with taking := none, lost := some tc } else collOf s d := by
  rw [(loseColl_frame c td tc s).collOf_eq, collOf_onColl]

theorem reg_loseColl (c td tc : Nat) (s : State) : reg (loseColl c td tc s) (aFlt + 0x110) = reg s (aFlt + 0x110) :=
  (loseColl_frame c td tc s).reg_eq (aFlt + 0x110)

theorem bufCal_loseColl (c td tc : Nat) (s : State) (d : Nat) :
    bufCal (collOf (loseColl c td tc s) d) = bufCal (collOf s d) := by
  rw [collOf_loseColl]
  split <;> rfl

/-- Collector c's takeover takes spare j of its section, whose calibration begins (R69). -/
def spareTaken (sec c : Nat) (k : Takeover) (j : Nat) (s : State) : State :=
  onTb (fun t => { t with calDone := false })
    (onColl c (fun q => { q with taking := some { k with spare := some (32 * sec + j) } })
      (onSect sec (fun x => { x with idle := x.idle.filter (· != j), checking := x.checking ++ [j] }) s))

theorem collOf_spareTaken (sec c : Nat) (k : Takeover) (j : Nat) (s : State) (d : Nat) :
    collOf (spareTaken sec c k j s) d =
      if d = c then { collOf s d with taking := some { k with spare := some (32 * sec + j) } } else collOf s d :=
  collOf_onColl _ _ _ _

theorem startTakeover_takes {sec c j : Nat} {k : Takeover} {s : State}
    (hl : leastBy (fun e => e.2.td) (takings s sec) = some (c, k))
    (ha : ((takings s sec).any fun e => e.2.spare.isSome) = false) (hj : idleSpare s sec = some j) :
    startTakeover sec s = if (sectOf (spareTaken sec c k j s) sec).idle.isEmpty then
      orReg (aFlt + 0x110) 8 (spareTaken sec c k j s) else spareTaken sec c k j s := by
  unfold startTakeover
  dsimp only
  rw [hl, ha, hj]
  rfl

theorem startTakeover_waits {sec : Nat} {s : State} (ha : ((takings s sec).any fun e => e.2.spare.isSome) = true) :
    startTakeover sec s = s := by
  unfold startTakeover
  dsimp only
  split
  · rfl
  · rw [if_pos ha]

/-- What a takeover's start leaves: buffers, copies, and a bit of the fault register that is set. -/
theorem startTakeover_leaves (sec : Nat) (s : State) :
    (∀ d, bufCal (collOf (startTakeover sec s) d) = bufCal (collOf s d)) ∧
      (bit (reg s (aFlt + 0x110)) 2 = true → bit (reg (startTakeover sec s) (aFlt + 0x110)) 2 = true) := by
  cases hl : leastBy (fun e => e.2.td) (takings s sec) with
  | none =>
    have : startTakeover sec s = s := by simp [startTakeover, hl]
    rw [this]
    exact ⟨fun _ => rfl, id⟩
  | some e =>
    obtain ⟨c, k⟩ := e
    cases ha : (takings s sec).any fun e => e.2.spare.isSome with
    | true =>
      rw [startTakeover_waits ha]
      exact ⟨fun _ => rfl, id⟩
    | false =>
      cases hj : idleSpare s sec with
      | none =>
        have : startTakeover sec s = (takings s sec).foldl (fun acc e => loseColl e.1 e.2.td e.2.tc acc) s := by
          simp [startTakeover, hl, ha, hj]
        rw [this]
        refine List.foldlRecOn _ _ (motive := fun a => (∀ d, bufCal (collOf a d) = bufCal (collOf s d)) ∧
          (bit (reg s (aFlt + 0x110)) 2 = true → bit (reg a (aFlt + 0x110)) 2 = true)) ⟨fun _ => rfl, id⟩ ?_
        rintro a ⟨hb, hr⟩ e _
        exact ⟨fun d => (bufCal_loseColl _ _ _ _ d).trans (hb d), fun h => by rw [reg_loseColl]; exact hr h⟩
      | some j =>
        have hcoll (d : Nat) : bufCal (collOf (spareTaken sec c k j s) d) = bufCal (collOf s d) := by
          rw [collOf_spareTaken]
          split <;> rfl
        rw [startTakeover_takes hl ha hj]
        split
        · exact ⟨hcoll, fun h => by rw [bit_reg_orReg]; exact Bool.or_eq_true_iff.mpr (.inl h)⟩
        · exact ⟨hcoll, id⟩

theorem beginTakeover_eq (c td tc : Nat) (s : State) : beginTakeover c td tc s =
    if (sectOf s (c / 16)).idle.length ≤ ((takings s (c / 16)).filter fun e => e.2.spare.isNone).length then
      loseColl c td tc s
    else startTakeover (c / 16) (onColl c (fun k => { k with taking := some ⟨td, tc, none, false, false⟩, lost := none }) s) :=
  rfl

theorem beginTakeover_leaves (c td tc : Nat) (s : State) :
    (∀ d, bufCal (collOf (beginTakeover c td tc s) d) = bufCal (collOf s d)) ∧
      (bit (reg s (aFlt + 0x110)) 2 = true → bit (reg (beginTakeover c td tc s) (aFlt + 0x110)) 2 = true) := by
  rw [beginTakeover_eq]
  split
  · exact ⟨bufCal_loseColl _ _ _ _, fun h => by rw [reg_loseColl]; exact h⟩
  · obtain ⟨hb, hr⟩ := startTakeover_leaves (c / 16)
      (onColl c (fun k => { k with taking := some ⟨td, tc, none, false, false⟩, lost := none }) s)
    refine ⟨fun d => (hb d).trans ?_, hr⟩
    rw [collOf_onColl]
    split <;> rfl

/-! ## A takeover that begins (R69, R340) -/

theorem mem_takings {s : State} {sec : Nat} {e : Nat × Takeover} :
    e ∈ takings s sec ↔ ∃ k, k < 16 ∧ e.1 = 16 * sec + k ∧ (collOf s (16 * sec + k)).taking = some e.2 := by
  simp only [takings, List.mem_filterMap, List.mem_range, Option.map_eq_some_iff]
  constructor
  · rintro ⟨k, hk, x, hx, rfl⟩
    exact ⟨k, hk, rfl, hx⟩
  · rintro ⟨k, hk, h1, h2⟩
    exact ⟨k, hk, e.2, h2, by rw [← h1]⟩

theorem takings_congr {s t : State} (sec : Nat) (h : ∀ d, (collOf t d).taking = (collOf s d).taking) :
    takings t sec = takings s sec := by
  unfold takings
  simp only [h]

theorem leastBy_mem {α : Type} {key : α → Nat} {l : List α} {x : α} (h : leastBy key l = some x) : x ∈ l := by
  induction l generalizing x with
  | nil => cases h
  | cons y l ih =>
    unfold leastBy at h
    split at h
    · cases h
      exact List.mem_cons_self
    · rename_i z hz
      split at h
      · cases h
        exact List.mem_cons_self
      · cases h
        exact List.mem_cons_of_mem _ (ih hz)

theorem leastBy_isSome {α : Type} {key : α → Nat} {l : List α} {x : α} (h : x ∈ l) : ∃ y, leastBy key l = some y := by
  cases l with
  | nil => cases h
  | cons y l =>
    unfold leastBy
    split
    · exact ⟨_, rfl⟩
    · split <;> exact ⟨_, rfl⟩

/-- A collector declared failed, before its takeover begins (R68). -/
def declared (c td : Nat) (s : State) : State :=
  orReg (aFlt + 0x110) 4 (onSect (c / 16) (fun x => { x with out := x.out ++ [(collOf s c).phys % 32] })
    (setReg 0xB00C (lo32 td) (setReg 0xB010 (hi32 td)
      (setReg (aFlt + 8) (BitVec.ofNat 32 (2 ^ 31 + (collOf s c).phys * 2 ^ 16 + c))
        (loseCuts (cutBefore s c (collOf s c).th) (unitsOf s c) (detach c s))))))

theorem declareFailed_eq (c td : Nat) (s : State) : ∃ arg, declareFailed c td s =
    push c (mkItem 0x01 0 c arg td) (beginTakeover c td (cutBefore s c (collOf s c).th) (declared c td s)) := by
  unfold declareFailed declared
  exact ⟨_, rfl⟩

theorem onlyUnits_loseCuts (tc : Nat) (us : List Nat) (s : State) : onlyUnits s (loseCuts tc us s) := by
  refine List.foldlRecOn _ _ (motive := fun a => onlyUnits s a) (.refl s) fun a ha u _ => ?_
  have hstep (b : Bool) (f : UnitSt → UnitSt) : onlyUnits s (if b = true then onUnit u f a else a) := by
    cases b
    · exact ha
    · exact ha.onUnit _ _
  exact hstep _ _

@[simp] theorem collOf_onSect (i : Nat) (f : SectSt → SectSt) (s : State) (d : Nat) :
    collOf (onSect i f s) d = collOf s d := rfl

theorem collOf_ports (l : List Nat) (f : PortSt → PortSt) (s : State) (d : Nat) :
    collOf (l.foldl (fun acc p => onPort p f acc) s) d = collOf s d := by
  rw [collOf, foldl_onPort_colls]
  rfl

theorem collOf_detach (c : Nat) (s : State) (d : Nat) : collOf (detach c s) d =
    if d = c then { collOf s d with buf := [], cal := false, withheld := [] } else collOf s d := by
  unfold detach
  dsimp only
  rw [collOf_dropMirrors, collOf_onColl, collOf_ports, collOf_onSect, collOf_onColl]
  split <;> rfl

theorem foldl_onPort_sects (l : List Nat) (f : PortSt → PortSt) (s : State) (i : Nat) :
    sectOf (l.foldl (fun acc p => onPort p f acc) s) i = sectOf s i := by
  induction l generalizing s with
  | nil => rfl
  | cons p l ih => rw [List.foldl_cons, ih]; rfl

theorem idle_detach (c : Nat) (s : State) (i : Nat) : (sectOf (detach c s) i).idle = (sectOf s i).idle := by
  unfold detach dropMirrors
  dsimp only
  rw [foldl_onPort_sects, sectOf_onColl, foldl_onPort_sects]
  by_cases hi : i = c / 16
  · subst hi
    rw [sectOf_onSect_same, sectOf_onColl]
  · rw [sectOf_onSect_other _ _ _ _ hi, sectOf_onColl]

section Declared

variable (c td : Nat) (s : State)

theorem collOf_declared (d : Nat) : collOf (declared c td s) d =
    if d = c then { collOf s d with buf := [], cal := false, withheld := [] } else collOf s d := by
  rw [← collOf_detach]
  have hreg (a : Nat) (v : U32) (t : State) : collOf (setReg a v t) d = collOf t d := by
    unfold setReg
    split <;> rfl
  unfold declared orReg
  rw [hreg, collOf_onSect, hreg, hreg, hreg, (onlyUnits_loseCuts _ _ _).collOf_eq]

theorem idle_declared (i : Nat) : (sectOf (declared c td s) i).idle = (sectOf s i).idle := by
  rw [← idle_detach c s i]
  have hreg (a : Nat) (v : U32) (t : State) : sectOf (setReg a v t) i = sectOf t i := by
    unfold setReg
    split <;> rfl
  unfold declared orReg
  rw [hreg]
  have hin : sectOf (setReg 0xB00C (lo32 td) (setReg 0xB010 (hi32 td)
      (setReg (aFlt + 8) (BitVec.ofNat 32 (2 ^ 31 + (collOf s c).phys * 2 ^ 16 + c))
        (loseCuts (cutBefore s c (collOf s c).th) (unitsOf s c) (detach c s))))) i = sectOf (detach c s) i := by
    rw [hreg, hreg, hreg, (onlyUnits_loseCuts _ _ _).sectOf_eq]
  by_cases hi : i = c / 16
  · subst hi
    rw [sectOf_onSect_same, hin]
  · rw [sectOf_onSect_other _ _ _ _ hi, hin]

theorem takings_declared (sec : Nat) : takings (declared c td s) sec = takings s sec :=
  takings_congr sec fun d => by
    rw [collOf_declared]
    split <;> rfl

theorem bit_declared : bit (reg (declared c td s) (aFlt + 0x110)) 2 = true := by
  rw [declared, bit_reg_orReg]
  exact Bool.or_eq_true_iff.mpr (.inr rfl)

/-- What a declared failure leaves: the fault, an empty buffer, a copy that is not calibrated, and the takeover that
begins. -/
theorem declareFailed_spec : bit (reg (declareFailed c td s) (aFlt + 0x110)) 2 = true ∧
    (collOf (declareFailed c td s) c).buf = [] ∧ (collOf (declareFailed c td s) c).cal = false ∧
    ∃ tc, (collOf (declareFailed c td s) c).taking = (collOf (beginTakeover c td tc (declared c td s)) c).taking ∧
      (collOf (declareFailed c td s) c).lost = (collOf (beginTakeover c td tc (declared c td s)) c).lost := by
  obtain ⟨arg, he⟩ := declareFailed_eq c td s
  generalize cutBefore s c (collOf s c).th = tc at he
  obtain ⟨hb, hr⟩ := beginTakeover_leaves c td tc (declared c td s)
  have hbc := (hb c).trans (congrArg bufCal (collOf_declared c td s c))
  rw [if_pos rfl] at hbc
  have hbit := hr (bit_declared c td s)
  generalize hx : beginTakeover c td tc (declared c td s) = x at *
  have hf := (onlyChanges.refl [.sen, .alm, .evq, .obsRegs] x).push c 0x01 0 c arg td
    (h2 := .inl (by decide)) (h3 := .inl (by decide))
  have hc := hf.collOf_eq c
  rw [he]
  refine ⟨?_, ?_, ?_, tc, ?_, ?_⟩
  · rw [reg_push_other (by decide) (by show (kindCls 0x01).1 < 8; decide)]
    exact hbit
  · rw [hc]
    exact congrArg Prod.fst hbc
  · rw [hc]
    exact congrArg Prod.snd hbc
  · rw [hc, hx]
  · rw [hc, hx]

end Declared

/-- Collector c waits for a spare. -/
def waiting (c td tc : Nat) : State → State :=
  onColl c fun k => { k with taking := some ⟨td, tc, none, false, false⟩, lost := none }

theorem taking_waiting (c td tc : Nat) (s : State) (d : Nat) : (collOf (waiting c td tc s) d).taking =
    if d = c then some ⟨td, tc, none, false, false⟩ else (collOf s d).taking := by
  rw [waiting, collOf_onColl]
  split <;> rfl

/-- The takeovers of a section once collector c waits: its own, and those of before. -/
theorem mem_takings_waiting {c td tc : Nat} {s : State} {e : Nat × Takeover} (h : e ∈ takings (waiting c td tc s) (c / 16)) :
    e = (c, ⟨td, tc, none, false, false⟩) ∨ e ∈ takings s (c / 16) := by
  obtain ⟨k, hk, h1, h2⟩ := mem_takings.mp h
  rw [taking_waiting] at h2
  split at h2
  · rename_i hc
    exact .inl (Prod.ext (h1.trans hc) (Option.some.inj h2).symm)
  · exact .inr (mem_takings.mpr ⟨k, hk, h1, h2⟩)

theorem self_mem_takings (c td tc : Nat) (s : State) :
    (c, ⟨td, tc, none, false, false⟩) ∈ takings (waiting c td tc s) (c / 16) := by
  refine mem_takings.mpr ⟨c % 16, Nat.mod_lt _ (by decide), by show c = _; omega, ?_⟩
  rw [taking_waiting, if_pos (by omega)]

/-- A takeover that finds an idle spare and no other takeover in its section takes the lowest one. -/
theorem beginTakeover_takes {c td tc j : Nat} {s : State} (hj : idleSpare s (c / 16) = some j)
    (ht : takings s (c / 16) = []) :
    (collOf (beginTakeover c td tc s) c).taking = some ⟨td, tc, some (32 * (c / 16) + j), false, false⟩ := by
  have hlen : 0 < (sectOf s (c / 16)).idle.length := List.length_pos_of_mem (leastBy_mem hj)
  have hmem {e} (h : e ∈ takings (waiting c td tc s) (c / 16)) : e = (c, ⟨td, tc, none, false, false⟩) :=
    (mem_takings_waiting h).resolve_right (by rw [ht]; exact List.not_mem_nil)
  have hany : ((takings (waiting c td tc s) (c / 16)).any fun e => e.2.spare.isSome) = false := by
    rw [List.any_eq_false]
    intro e he
    rw [hmem he]
    exact Bool.false_ne_true
  obtain ⟨e, he⟩ := leastBy_isSome (key := fun e : Nat × Takeover => e.2.td) (self_mem_takings c td tc s)
  rw [hmem (leastBy_mem he)] at he
  rw [beginTakeover_eq, ht, List.filter_nil, List.length_nil, if_neg (Nat.not_le.mpr hlen), ← waiting, startTakeover_takes he hany hj]
  have hc (t : State) : (collOf (orReg (aFlt + 0x110) 8 t) c) = collOf t c :=
    ((onlyChanges.refl [.obsRegs] t).orReg _ _).collOf_eq c
  split
  · rw [hc, collOf_spareTaken, if_pos rfl]
  · rw [collOf_spareTaken, if_pos rfl]

/-- A takeover waits while another of its section runs and a spare is left for it (R340). -/
theorem beginTakeover_waits {c td tc : Nat} {s : State} (hc : (collOf s c).taking = none)
    (ha : ((takings s (c / 16)).any fun e => e.2.spare.isSome) = true)
    (hl : ((takings s (c / 16)).filter fun e => e.2.spare.isNone).length < (sectOf s (c / 16)).idle.length) :
    (collOf (beginTakeover c td tc s) c).taking = some ⟨td, tc, none, false, false⟩ := by
  have hany : ((takings (waiting c td tc s) (c / 16)).any fun e => e.2.spare.isSome) = true := by
    obtain ⟨e, he, hs⟩ := List.any_eq_true.mp ha
    obtain ⟨k, hk, h1, h2⟩ := mem_takings.mp he
    have hne : 16 * (c / 16) + k ≠ c := by
      intro h
      rw [h, hc] at h2
      cases h2
    exact List.any_eq_true.mpr ⟨e, mem_takings.mpr ⟨k, hk, h1, by rw [taking_waiting, if_neg hne, h2]⟩, hs⟩
  rw [beginTakeover_eq, if_neg (by omega), ← waiting, startTakeover_waits hany, taking_waiting, if_pos rfl]

/-- With no idle spare the collector's units are LOST (R73). -/
theorem beginTakeover_lost {c td tc : Nat} {s : State} (hj : idleSpare s (c / 16) = none) :
    (collOf (beginTakeover c td tc s) c).taking = none ∧ (collOf (beginTakeover c td tc s) c).lost = some tc := by
  have hnil : (sectOf s (c / 16)).idle = [] := by
    rw [List.eq_nil_iff_forall_not_mem]
    intro x hx
    obtain ⟨y, hy⟩ := leastBy_isSome (key := id) hx
    rw [idleSpare, hy] at hj
    cases hj
  rw [beginTakeover_eq, hnil, List.length_nil, if_pos (Nat.zero_le _), collOf_loseColl, if_pos rfl]
  exact ⟨rfl, rfl⟩

@[simp] theorem collOf_onTb (f : Tb → Tb) (s : State) (d : Nat) : collOf (onTb f s) d = collOf s d := rfl

/-- A fault that is set drives `IRQ[7]` while `RST_N` is high. -/
theorem irq7_of_fault {t : State} {i : Nat} (hr : t.aon.pwr.rstN = true) (hi : i < 6)
    (hb : bit (reg t (aFlt + 0x110)) i = true) : irqLine t 7 = true := by
  have hm : bit (0x3F#32) i = true := by
    have : ∀ i < 6, bit (0x3F#32) i = true := by decide
    exact this i hi
  have hne : (reg t (aFlt + 0x110) &&& 0x3F != 0) = true := and_ne_zero_of_bit hb hm
  simp only [irqLine, hr, if_true, hne, Bool.true_or]

/-- A heartbeat is missed when the next is due; the third in succession declares the collector failed (R68). -/
theorem opHeartbeatMiss_eq {c : Nat} {s : State} (hc : c < s.build.nColl) (hs : serving s c = true)
    (hd : (collOf s c).th + 16384 * ((collOf s c).misses + 2) ≤ now s) : opHeartbeatMiss c s =
      if (collOf s c).misses ≥ 2 then declareFailed c (now s) s
      else onColl c (fun k => { k with misses := k.misses + 1 }) s := by
  have hn : ¬ (s.build.nColl ≤ c ∨ (!serving s c) = true ∨ now s < (collOf s c).th + 16384 * ((collOf s c).misses + 2)) := by
    rw [hs]
    simp
    omega
  unfold opHeartbeatMiss
  exact if_neg hn

/-- Settles O15: a heartbeat by `opHeartbeat_eq`, a failure by `declareFailed_spec` and the cases of a takeover's
beginning. -/
theorem heartbeatsAndMisses : Obligations.HeartbeatsAndMisses := by
  unfold Obligations.HeartbeatsAndMisses
  refine ⟨?_, ?_⟩
  · intro c copy s hr hc hs hh
    have hg := goesTo_inObs (c := .heartbeatArrival c copy) rfl hr
    rw [opHeartbeat_eq hc hs hh] at hg
    refine ⟨fun h1 h2 => ?_, fun hne => ?_⟩
    · rw [if_pos ⟨h1, h2⟩] at hg
      refine ⟨_, hg, ((onlyChanges.refl _ s).onColl _ _).onColl _ _, ?_, fun d hd => ?_, rfl⟩
      · rw [collOf_onColl_same, collOf_onColl_same]
      · rw [collOf_onColl_other _ _ _ _ hd, collOf_onColl_other _ _ _ _ hd]
    · rw [if_neg (by omega)] at hg
      have hf0 := (((onlyChanges.refl [.aonRegs, .obsRegs, .tb, .hed] s).onColl c (fun k => { k with misses := 0 })).orReg
        aTbStat 4).orReg (aFlt + 0x110) 2
      have hcoll (d : Nat) : collOf (orReg (aFlt + 0x110) 2 (orReg aTbStat 4
          (onColl c (fun k => { k with misses := 0 }) s))) d = collOf (onColl c (fun k => { k with misses := 0 }) s) d := rfl
      have hreg (a : Nat) (t : State) : reg (dropMirrors c (onTb (fun t => { t with calDone := false })
          (onColl c (fun k => { k with cal := false, driftGap := some (now s) }) t))) a = reg t a := by
        have := onlyChanges_dropMirrors (((onlyChanges.refl [.tb, .hed] t).onColl c
          (fun k => { k with cal := false, driftGap := some (now s) })).onTb (fun t => { t with calDone := false })) c
        exact this.reg_eq a (by unfold regPart; split <;> decide)
      have hdrift (d : Nat) : collOf (dropMirrors c (onTb (fun t => { t with calDone := false })
          (onColl c (fun k => { k with cal := false, driftGap := some (now s) })
            (orReg (aFlt + 0x110) 2 (orReg aTbStat 4 (onColl c (fun k => { k with misses := 0 }) s)))))) d =
          if d = c then { collOf s d with misses := 0, cal := false, driftGap := some (now s), withheld := [] }
          else collOf s d := by
        rw [collOf_dropMirrors, collOf_onColl, collOf_onTb, collOf_onColl, hcoll, collOf_onColl]
        split <;> rfl
      refine ⟨_, hg, onlyChanges_dropMirrors ((hf0.onColl _ _).onTb _) _, ?_, ?_, ?_, ?_, fun d hd => ?_, fun p hp => ?_⟩
      · rw [hreg, reg_orReg_other _ _ _ (by decide), bit_reg_orReg]
        exact Bool.or_eq_true_iff.mpr (.inr rfl)
      · refine irq7_of_fault (i := 1) ?_ (by decide) ?_
        · rw [(onlyChanges_dropMirrors ((hf0.onColl _ _).onTb _) _).pwr_eq]
          exact ((obsRuns_iff s).mp hr.2).2.1
        · rw [hreg, bit_reg_orReg]
          exact Bool.or_eq_true_iff.mpr (.inr rfl)
      · rw [hdrift, if_pos rfl]
      · rw [hdrift, if_pos rfl]
      · rw [hdrift, if_neg hd]
      · rw [portOf_dropMirrors, if_pos hp]
  · intro c s hr hc hs hd
    have hg := goesTo_inObs (c := .heartbeatMiss c) rfl hr
    rw [opHeartbeatMiss_eq hc hs hd] at hg
    refine ⟨fun hm => ?_, fun hm => ?_⟩
    · rw [if_neg (by omega)] at hg
      exact ⟨_, hg, (onlyChanges.refl _ s).onColl _ _, collOf_onColl_same _ _ _,
        fun d hd => collOf_onColl_other _ _ _ _ hd⟩
    · rw [if_pos hm] at hg
      obtain ⟨hbit, hbuf, hcal, tc, htk, hlo⟩ := declareFailed_spec c (now s) s
      have hidle : idleSpare (declared c (now s) s) (c / 16) = idleSpare s (c / 16) := by
        rw [idleSpare, idle_declared]
        rfl
      have hnone : (collOf (declared c (now s) s) c).taking = none := by
        rw [collOf_declared, if_pos rfl]
        simp only [serving, Bool.and_eq_true, Option.isNone_iff_eq_none] at hs
        exact hs.1.2
      refine ⟨_, hg, hbit, hbuf, by simp [serving, hcal], fun j hj ht => ?_, fun ha hl => ?_, fun hj => ?_⟩
      · rw [htk, beginTakeover_takes (hidle.trans hj) ((takings_declared _ _ _ _).trans ht)]
        rfl
      · rw [← takings_declared c (now s)] at ha hl
        rw [← idle_declared c (now s)] at hl
        rw [htk, beginTakeover_waits hnone ha hl]
        rfl
      · obtain ⟨h1, h2⟩ := beginTakeover_lost (td := now s) (tc := tc) (hidle.trans hj)
        rw [htk, hlo, h1, h2]
        exact ⟨rfl, rfl⟩

end Sys2Proof.Machine
end

section
/-! SUPPORT. Calibration, the lock monitor, and the entry to sleep (chapters 2 and 14): the statements about them. -/

namespace Sys2Proof.Machine

open Sys2Proof.Safety

set_option Elab.async false

/-! ## Frames -/

section Frame

variable {ps : List Part} {s t : State} (h : onlyChanges ps s t)
include h

theorem onlyChanges_setCopy (c : Nat) (hm : .hed ∈ ps := by decide) (hd : .draws ∈ ps := by decide) :
    onlyChanges ps s (setCopy c t) := (h.onColl _ _ hm).draw hd

theorem onlyChanges_driftRecords (c : Nat) (hm : .hed ∈ ps := by decide) (hx : .ctxs ∈ ps := by decide) :
    onlyChanges ps s (driftRecords c t) := by
  unfold driftRecords
  split
  · exact h
  · exact (onlyChanges_offerUnits h _ _ hx).onColl _ _ hm

theorem onlyChanges_wakeStop (w : Bool) (c p : Nat) (hm : .hed ∈ ps := by decide) (hc : .cut ∈ ps := by decide)
    (hx : .ctxs ∈ ps := by decide) : onlyChanges ps s (wakeStop w c p t) := by
  unfold wakeStop
  split
  · exact h
  · exact .ite _ (onlyChanges_beginStop h _ _ _ hm hx) (onlyChanges_syncStop h _ _ hm hc hx)

theorem onlyChanges_fourCredits (l : List Nat) (hm : .hed ∈ ps := by decide) :
    onlyChanges ps s (l.foldl (fun acc p => fourCredits p acc) t) := onlyChanges_ports h l _ hm

theorem onlyChanges_finishCopy (w : Bool) (c : Nat) (hm : .hed ∈ ps := by decide) (hd : .draws ∈ ps := by decide)
    (hc : .cut ∈ ps := by decide) (hx : .ctxs ∈ ps := by decide) : onlyChanges ps s (finishCopy w c t) := by
  unfold finishCopy
  have hs := onlyChanges_setCopy h c hm hd
  exact .ite _ hs (onlyChanges_fourCredits ((onlyChanges_driftRecords hs c hm hx).foldl
    (fun _ p ha => onlyChanges_wakeStop ha w c p hm hc hx) _) _ hm)

theorem onlyChanges_skipBounds (a b : Nat) (hc : .cut ∈ ps := by decide) : onlyChanges ps s (skipBounds a b t) :=
  h.foldl (fun _ _ ha => ha.onEpoch _ _ hc) _

theorem onlyChanges_endStops (hm : .hed ∈ ps := by decide) (hc : .cut ∈ ps := by decide) (hx : .ctxs ∈ ps := by decide) :
    onlyChanges ps s (endStops t) := h.foldl (fun _ _ ha => onlyChanges_endStop ha _ _ _ hm hc hx) _

theorem onlyChanges_loseCopies (hm : .hed ∈ ps := by decide) : onlyChanges ps s (loseCopies t) :=
  h.foldl (fun _ _ ha => onlyChanges_dropMirrors (ha.onColl _ _ hm) _ hm) _

end Frame

/-! ## The copies of the engines (R26) -/

/-- How far the copies of the command engine and of the Lens stand from the root-derived GT. -/
def skews (s : State) : Int × Int := (s.obs.hed.engSkew, s.obs.hed.lensSkew)

theorem skews_of_frame {ps : List Part} {s t : State} (h : onlyChanges ps s t) (hm : .hed ∉ ps := by decide) :
    skews t = skews s := by rw [skews, h.hed_eq hm]; rfl

theorem skews_of_onlyUnits {s t : State} (h : onlyUnits s t) : skews t = skews s := by
  obtain ⟨_, us, he⟩ := h
  rw [skews, he]
  rfl

theorem onlyUnits_syncStop {s t : State} (h : onlyUnits s t) (u g : Nat) : onlyUnits s (syncStop u g t) := by
  unfold syncStop
  dsimp only
  split
  · exact h.beginStop _ _ _
  · exact h.endStop _ _ _
  · exact h

theorem onlyUnits_wakeStop {s t : State} (h : onlyUnits s t) (w : Bool) (c p : Nat) : onlyUnits s (wakeStop w c p t) := by
  unfold wakeStop
  split
  · exact h
  · split
    · exact h.beginStop _ _ _
    · exact onlyUnits_syncStop h _ _

theorem skews_ports (l : List Nat) (f : PortSt → PortSt) (s : State) :
    skews (l.foldl (fun acc p => onPort p f acc) s) = skews s := by
  induction l generalizing s with
  | nil => rfl
  | cons p l ih => rw [List.foldl_cons, ih]; rfl

theorem skews_driftRecords (c : Nat) (s : State) : skews (driftRecords c s) = skews s := by
  unfold driftRecords
  split
  · rfl
  · rename_i g _
    exact skews_of_frame (ps := [.ctxs]) (t := (unitsOf s c).foldl (fun acc u =>
      offerUnit u ⟨now s, .gap false false u 4 g 0⟩ acc) s) (onlyChanges_offerUnits (.refl _ s) _ _)

theorem skews_finishCopy (w : Bool) (c : Nat) (s : State) : skews (finishCopy w c s) = skews s := by
  unfold finishCopy
  split
  · rfl
  · have hw : onlyUnits (driftRecords c (setCopy c s))
        ((portsOf c).foldl (fun acc p => wakeStop w c p acc) (driftRecords c (setCopy c s))) :=
      List.foldlRecOn _ _ (motive := onlyUnits (driftRecords c (setCopy c s))) (.refl _)
        fun a ha p _ => onlyUnits_wakeStop ha w c p
    exact (skews_ports _ _ _).trans ((skews_of_onlyUnits hw).trans (skews_driftRecords _ _))

theorem skews_setEngines (s : State) : (-1 ≤ (skews (setEngines s)).1 ∧ (skews (setEngines s)).1 ≤ 1) ∧
    (-1 ≤ (skews (setEngines s)).2 ∧ (skews (setEngines s)).2 ≤ 1) := by
  have h (i : Fin 3) : -1 ≤ ((i.val : Int) - 1) ∧ ((i.val : Int) - 1) ≤ 1 := by
    have := i.isLt
    omega
  exact ⟨h _, h _⟩

/-! ## Calibration (R25) -/

/-- The copies that are due are set, and end their gaps, in a full calibration. -/
def copiesSet (rtt : Nat) (s : State) : State :=
  (toCalibrate s).foldl (fun acc c => finishCopy (s.aon.pwr.sleepFrom.isSome || (s.aon.tb.full && s.aon.tb.lockGap.isNone)) c acc)
    (setEngines (onTb (fun b => { b with maxRtt := max 4 (min 96 rtt) }) s))

theorem copiesSet_frame (rtt : Nat) (s : State) : onlyChanges [.hed, .draws, .cut, .ctxs]
    (onTb (fun b => { b with maxRtt := max 4 (min 96 rtt) }) s) (copiesSet rtt s) :=
  (((onlyChanges.refl _ _).onHed _).draw).foldl (fun _ _ ha => onlyChanges_finishCopy ha _ _) _

theorem skews_copiesSet (rtt : Nat) (s : State) :
    skews (copiesSet rtt s) = skews (setEngines (onTb (fun b => { b with maxRtt := max 4 (min 96 rtt) }) s)) :=
  List.foldlRecOn (toCalibrate s) _ (motive := fun a => skews a = skews (setEngines (onTb (fun b =>
    { b with maxRtt := max 4 (min 96 rtt) }) s))) rfl fun _ ha _ _ => (skews_finishCopy _ _ _).trans ha

/-- The end of a calibration, after the copies: the gap of a lock error, the boundaries skipped, and the timebase. -/
def calibrated (s t : State) : State :=
  let u := match (lockRecords t).aon.pwr.sleepFrom with
    | some a => onPwr (fun p => { p with sleepFrom := none }) (skipBounds a (now (lockRecords t)) (lockRecords t))
    | none => lockRecords t
  onPwr (fun p => { p with idleSince := if p.waking then u.aon.tb.rootGt else p.idleSince, waking := false })
    (onTb (fun b => { b with
      calDone := true, full := false, recalCnt := sat 255 (b.recalCnt + if s.aon.tb.full then 1 else (toCalibrate s).length)
      lockStart := if s.aon.tb.full then b.rootGt else b.lockStart }) u)

theorem calibrate_full {rtt : Nat} {s : State} (hf : s.aon.tb.full = true) :
    calibrate rtt s = calibrated s (copiesSet rtt s) := by
  unfold calibrate noteRtt copiesSet calibrated
  simp only [hf, if_true] <;> rfl

theorem lockRecords_tb (s : State) : ∃ g, (lockRecords s).aon.tb = { s.aon.tb with lockGap := g } := by
  unfold lockRecords
  split
  · exact ⟨s.aon.tb.lockGap, rfl⟩
  · exact ⟨none, congrArg (fun b : Tb => { b with lockGap := none })
      ((onlyChanges.refl [.ctxs] s).offerAll _).tb_eq⟩

theorem onlyChanges_lockRecords (s : State) : onlyChanges [.tb, .ctxs] s (lockRecords s) := by
  unfold lockRecords
  split
  · exact .refl _ s
  · exact ((onlyChanges.refl _ s).offerAll _).onTb _

/-- What the end of a calibration does to the timebase, the power state and the copies. -/
theorem calibrated_spec {s t : State} (hf : s.aon.tb.full = true) :
    (∃ g, (calibrated s t).aon.tb = { t.aon.tb with
      lockGap := g, calDone := true, full := false, recalCnt := sat 255 (t.aon.tb.recalCnt + 1)
      lockStart := t.aon.tb.rootGt }) ∧
    onlyChanges [.tb, .ctxs, .pwr, .cut] t (calibrated s t) ∧
    (calibrated s t).aon.pwr = { t.aon.pwr with
      sleepFrom := none, waking := false
      idleSince := if t.aon.pwr.waking then t.aon.tb.rootGt else t.aon.pwr.idleSince } := by
  obtain ⟨g, hg⟩ := lockRecords_tb t
  have hl := onlyChanges_lockRecords t
  have hl' : onlyChanges [.tb, .ctxs, .pwr, .cut] t (lockRecords t) := hl.mono (by decide)
  unfold calibrated
  dsimp only
  rw [hf]
  cases hsl : (lockRecords t).aon.pwr.sleepFrom with
  | some a =>
    have hk := onlyChanges_skipBounds (.refl [.cut] (lockRecords t)) a (now (lockRecords t))
    dsimp only
    refine ⟨⟨g, ?_⟩, (((onlyChanges_skipBounds hl' _ _).onPwr _).onTb _).onPwr _, ?_⟩
    · rw [onPwr_tb, onTb_tb, onPwr_tb, hk.tb_eq, hg]
      rfl
    · rw [onPwr_pwr, onTb_pwr, onPwr_pwr, onPwr_tb, hk.pwr_eq, hk.tb_eq, hl.pwr_eq, hg]
  | none =>
    rw [hl.pwr_eq] at hsl
    dsimp only
    refine ⟨⟨g, ?_⟩, (hl'.onTb _).onPwr _, ?_⟩
    · rw [onPwr_tb, onTb_tb, hg]
      rfl
    · rw [onPwr_pwr, onTb_pwr, hl.pwr_eq, hg]
      rw [← hsl]

theorem maybeSwitch_stands {s : State} (h : wantRatio s = s.aon.pwr.ratio) : maybeSwitch s = s := by
  simp [maybeSwitch, h]

theorem wantRatio_of_no_hang {s : State} (h : s.obs.hang.seq = none) : wantRatio s = fld (reg s aTbClk) 0 2 := by
  rw [wantRatio, h]

/-- A full calibration. -/
theorem opCalibration_full {rtt : Nat} {s : State} (hf : s.aon.tb.full = true) (hd : s.aon.pwr.sramDone = true)
    (ha : s.aon.pwr.stage = .awake ∨ s.aon.pwr.stage = .draining) (hs : s.obs.hang.seq = none)
    (hw : wantRatio s = s.aon.pwr.ratio) : opCalibration rtt s = calibrated s (copiesSet rtt s) := by
  have hdue : calDue s = true := by obtain ha | ha := ha <;> simp [calDue, ha, hf, hd]
  obtain ⟨_, hfr, hp⟩ := calibrated_spec (s := s) (t := copiesSet rtt s) hf
  have hc := copiesSet_frame rtt s
  have hseq : (calibrated s (copiesSet rtt s)).obs.hang.seq = none := by
    rw [hfr.hang_eq, hc.hang_eq]
    exact hs
  have hratio : (calibrated s (copiesSet rtt s)).aon.pwr.ratio = s.aon.pwr.ratio := by
    rw [hp, hc.pwr_eq]
    rfl
  have hstand : maybeSwitch (calibrated s (copiesSet rtt s)) = calibrated s (copiesSet rtt s) := by
    refine maybeSwitch_stands ?_
    rw [wantRatio_of_no_hang hseq, hfr.reg_eq aTbClk, hc.reg_eq aTbClk, hratio, ← hw, wantRatio_of_no_hang hs]
    rfl
  unfold opCalibration
  rw [hdue, calibrate_full hf]
  simp only [Bool.not_true, Bool.false_eq_true, if_false, hseq]
  exact hstand

/-! ## The lock monitor (R24) -/

theorem opLockWindow_eq {n : Nat} {s : State} (hr : obsRuns s = true) (hf : s.aon.tb.full = false)
    (hl : s.aon.tb.lockStart + 32768 ≤ s.aon.tb.rootGt) : opLockWindow n s =
      let want := 1024 * (if s.aon.pwr.ratio = 2 then 32 else if s.aon.pwr.ratio = 1 then 16 else 8)
      if n ≤ want + 1 ∧ want ≤ n + 1 then onTb (fun b => { b with lockStart := b.rootGt }) s
      else onTb (fun b => { b with calDone := false, full := true, lockGap := some b.lockStart })
        (loseCopies (orReg (aFlt + 0x110) 2 (orReg aTbStat 2 s))) := by
  have hn : (!obsRuns s || s.aon.tb.full || decide (s.aon.tb.rootGt < s.aon.tb.lockStart + 32768)) = false := by
    simp [hr, hf]
    omega
  unfold opLockWindow
  dsimp only
  rw [hn]
  rfl

/-- Settles O13: a calibration by `opCalibration_full` and `calibrated_spec`, a window by `opLockWindow_eq`. -/
theorem calibrationAndLock : Obligations.CalibrationAndLock := by
  unfold Obligations.CalibrationAndLock
  refine ⟨?_, ?_⟩
  · intro rtt s hr hf hd ha hs hw
    have hg := goesTo_inObs (c := .calibrationDone rtt) rfl hr
    rw [opCalibration_full hf hd ha hs hw] at hg
    obtain ⟨⟨g, htb⟩, hfr, hp⟩ := calibrated_spec (s := s) (t := copiesSet rtt s) hf
    have hc := copiesSet_frame rtt s
    have hsk : skews (calibrated s (copiesSet rtt s)) = _ := (skews_of_frame hfr).trans (skews_copiesSet rtt s)
    obtain ⟨h1, h2⟩ := skews_setEngines (onTb (fun b => { b with maxRtt := max 4 (min 96 rtt) }) s)
    rw [← hsk] at h1 h2
    rw [hc.tb_eq, onTb_tb] at htb
    refine ⟨_, hg, ?_, ?_, ?_, ?_, ?_, ?_, ?_, h1, h2⟩
    · rw [htb]
    · rw [htb]
    · rw [htb]
    · rw [htb]
    · rw [now, htb]
      rfl
    · rw [hp]
    · rw [hp]
  · intro n s hr hf hl
    have hg := goesTo_run (c := .lockWindowEnd n) rfl hr.1
    rw [opLockWindow_eq hr.2 hf hl] at hg
    refine ⟨fun h1 h2 => ?_, fun h => ?_⟩
    · dsimp only at hg
      rw [if_pos ⟨h1, h2⟩] at hg
      exact ⟨_, hg, (onlyChanges.refl _ s).onTb _, rfl⟩
    · dsimp only at hg
      rw [if_neg (by omega)] at hg
      have hregs := ((onlyChanges.refl [.aonRegs, .obsRegs] s).orReg aTbStat 2).orReg (aFlt + 0x110) 2
      have hlose := (onlyChanges_loseCopies (.refl [.hed] (orReg (aFlt + 0x110) 2 (orReg aTbStat 2 s))))
      have hreg (a : Nat) (h : regPart a ∉ [Part.hed]) : reg (onTb (fun b =>
          { b with calDone := false, full := true, lockGap := some b.lockStart })
            (loseCopies (orReg (aFlt + 0x110) 2 (orReg aTbStat 2 s)))) a = reg (orReg (aFlt + 0x110) 2 (orReg aTbStat 2 s)) a :=
        hlose.reg_eq a h
      refine ⟨_, hg, ((hregs.mono (by decide)).trans (hlose.mono (by decide))).onTb _, ?_, ?_, rfl, rfl, ?_⟩
      · rw [hreg _ (by decide), reg_orReg_other _ _ _ (by decide), bit_reg_orReg]
        exact Bool.or_eq_true_iff.mpr (.inr rfl)
      · refine irq7_of_fault (i := 1) ?_ (by decide) ?_
        · rw [onTb_pwr, hlose.pwr_eq]
          exact ((obsRuns_iff s).mp hr.2).2.1
        · rw [hreg _ (by decide), bit_reg_orReg]
          exact Bool.or_eq_true_iff.mpr (.inr rfl)
      · rw [onTb_tb, hlose.tb_eq, hregs.tb_eq]

/-! ## Entry to sleep (R324) -/

theorem opIdleExpiry_begins {s : State} (hr : obsRuns s = true) (h1 : s.aon.pwr.ready = true) (h2 : s.aon.pwr.waking = false)
    (h3 : s.aon.pwr.stage = .awake) (h4 : s.aon.pwr.switching = false) (h5 : anyHold s = false)
    (h6 : s.aon.pwr.idleSince + 2 ^ fld (reg s aPwrCtl) 0 5 ≤ s.aon.tb.rootGt) :
    opIdleExpiry s = onPwr (fun p => { p with stage := .draining }) s := by
  simp [opIdleExpiry, hr, h1, h2, h3, h4, h5, h6]

theorem opDrained_step3 {s : State} (hr : obsRuns s = true) (h1 : s.aon.pwr.stage = .draining)
    (h2 : s.aon.pwr.switching = false) (h3 : anyHold s = false) (h4 : buffersEmpty s = true) :
    opDrained s = sleepStep3 s := by
  simp [opDrained, hr, h1, h2, h3, h4]

/-- Step 3 of a sleep entry before the request falls: stops end, and every mirror reads 0. -/
def mirrorsOut (s : State) : State := (List.range s.build.nColl).foldl (fun acc c => dropMirrors c acc) (endStops s)

theorem mirrorsOut_frame (s : State) : onlyChanges [.hed, .cut, .ctxs] s (mirrorsOut s) :=
  (onlyChanges_endStops (.refl _ s)).foldl (fun _ _ ha => onlyChanges_dropMirrors ha _) _

/-- Mirrors of 0 stay 0, and those of a list of collectors become 0. -/
theorem mirror_dropAll (l : List Nat) (g : State → Nat → State) (hg : ∀ a c p, portOf (g a c) p = portOf a p) (s : State)
    {p : Nat} (hp : p / 16 ∈ l ∨ (portOf s p).mirror = 0) :
    (portOf (l.foldl (fun acc c => dropMirrors c (g acc c)) s) p).mirror = 0 := by
  induction l generalizing s with
  | nil => exact hp.resolve_left List.not_mem_nil
  | cons c l ih =>
    rw [List.foldl_cons]
    refine ih _ ?_
    rw [portOf_dropMirrors]
    split
    · exact .inr rfl
    · rw [hg]
      exact hp.imp_left fun h => (List.mem_cons.mp h).resolve_left ‹_›

theorem mirror_mirrorsOut (s : State) {p : Nat} (hp : p < 16 * s.build.nColl) : (portOf (mirrorsOut s) p).mirror = 0 :=
  mirror_dropAll _ (fun a _ => a) (fun _ _ _ => rfl) _ (.inl (List.mem_range.mpr (by omega)))

theorem mirror_loseCopies (s : State) {p : Nat} (hp : (portOf s p).mirror = 0) : (portOf (loseCopies s) p).mirror = 0 :=
  mirror_dropAll _ (fun a c => onColl c (fun k => { k with
    cal := false, misses := 0, taking := k.taking.map fun x => { x with cal := false } }) a) (fun _ _ _ => rfl) _ (.inr hp)

/-- The boundaries of the epochs. -/
def epochsOf (s : State) : SMap EpochSt := s.obs.cut.epochs

theorem epochsOf_accrue (u g : Nat) (s : State) : epochsOf (accrue u g s) = epochsOf s := by
  unfold accrue
  split
  · split <;> rfl
  · rfl

theorem epochsOf_of_frame {ps : List Part} {s t : State} (h : onlyChanges ps s t) (hm : .cut ∉ ps := by decide) :
    epochsOf t = epochsOf s := by rw [epochsOf, h.cut_eq hm]; rfl

theorem epochsOf_endStop (u g : Nat) (w : Bool) (s : State) : epochsOf (endStop u g w s) = epochsOf s := by
  unfold endStop
  split
  · rfl
  · rename_i st _ _
    dsimp only
    have h1 := onlyChanges_snapUnit (.refl [.hed] s) u g
    have h2 := onlyChanges_appendRing (((onlyChanges.refl [.hed, .ctxs] (accrue u g (snapUnit u g s))).onUnit u
      (fun x => wdogRun st g { x with stop := none })).onUnit u (fun x => { x with stops := x.stops ++ [(g, true)] })
        |>.offerUnit u ⟨g, .clkrun w u⟩) u (synth 3 0) g
    exact (epochsOf_of_frame h2).trans ((epochsOf_accrue _ _ _).trans (epochsOf_of_frame h1))

theorem epochsOf_mirrorsOut (s : State) : epochsOf (mirrorsOut s) = epochsOf s := by
  have hstops : epochsOf (endStops s) = epochsOf s :=
    List.foldlRecOn _ _ (motive := fun a => epochsOf a = epochsOf s) rfl
      fun _ ha _ _ => (epochsOf_endStop _ _ _ _).trans ha
  have hdrop := (onlyChanges.refl [.hed] (endStops s)).foldl (fun _ c ha => onlyChanges_dropMirrors ha c)
    (List.range s.build.nColl)
  exact (epochsOf_of_frame hdrop).trans hstops

theorem boundsBefore_congr {s t : State} (hb : t.build = s.build) (he : epochsOf t = epochsOf s) (g : Nat) :
    boundsBefore t g = boundsBefore s g := by
  unfold epochsOf at he
  simp only [boundsBefore, boundsOf, epochOf, hb, he]

theorem sleepStep3_eq (s : State) : sleepStep3 s =
    if boundsBefore s (now s) then onPwr (fun p => { p with stage := .zeroed }) (mirrorsOut s)
    else onPwr (fun p => { p with clkReq := false, stage := .dropped, sleepFrom := some (now s) })
      (loseCopies (onPwr (fun p => { p with stage := .zeroed }) (mirrorsOut s))) := by
  have hf := mirrorsOut_frame s
  have hn : now (onPwr (fun p => { p with stage := .zeroed }) (mirrorsOut s)) = now s := hf.now_eq
  have hb : boundsBefore (onPwr (fun p => { p with stage := .zeroed }) (mirrorsOut s)) (now s) = boundsBefore s (now s) :=
    boundsBefore_congr hf.build_eq (epochsOf_mirrorsOut s) _
  show dropRequest (onPwr (fun p => { p with stage := .zeroed }) (mirrorsOut s)) = _
  unfold dropRequest
  rw [hn, hb]
  rfl

/-! ## The clock's release and request (R324, R361) -/

theorem nextSel_congr {s t : State} (h1 : t.obs.hang.seq.isSome = s.obs.hang.seq.isSome) (h2 : reg t aTbClk = reg s aTbClk) :
    nextSel t = nextSel s := by
  unfold nextSel
  rw [h2]
  cases ht : t.obs.hang.seq <;> cases hs : s.obs.hang.seq <;> simp_all

theorem nextSel_trigger (g c o : Nat) (s : State) : nextSel (trigger g c o s) = nextSel s := by
  unfold trigger
  split
  · rename_i q hq
    split
    · exact nextSel_congr (by rw [hq]; rfl) rfl
    · obtain ⟨k, hk⟩ := hwFreeze_eq g c o s
      rw [hk]
      rfl
  · obtain ⟨k, hk⟩ := hwFreeze_eq g c o s
    rw [hk]
    rfl

theorem nextSel_driveDue (s : State) : nextSel (driveDue s) = nextSel s := by
  refine List.foldlRecOn _ _ (motive := fun a => nextSel a = nextSel s) rfl fun a ha d _ => ?_
  dsimp only
  split
  · exact (nextSel_trigger _ _ _ _).trans ha
  · exact ha

theorem driveDue_frame (s : State) : onlyChanges [.sen, .cut, .hang] s (driveDue s) := by
  have h0 : onlyChanges [.sen, .cut, .hang] s (onSen (fun n => { n with due := [], acked := 0 }) s) :=
    (onlyChanges.refl _ s).onSen _
  refine h0.foldl (fun a d ha => ?_) _
  have hl : onlyChanges [.sen, .cut, .hang] s (driveLines d.lines a) := ha.onSen _
  exact .ite _ (hl.trigger _ _ _) hl

/-- What is requested at an AON edge, seen by `edgeRequest`. -/
abbrev clkAsk (p : Pwr) : Bool × Bool × Nat × Bool := (p.clkReq, p.clkAck, p.clkSel, p.reqDue)

/-- Before the request of an AON edge: the root has counted, misses have driven their lines, windows have ended. -/
def edgeBegun (s : State) : State := edgeIdle (sleepWindows (driveDue (tokenEdge (rootCounts s))))

theorem clkAsk_edgeBegun (s : State) : clkAsk (edgeBegun s).aon.pwr = clkAsk s.aon.pwr ∧ nextSel (edgeBegun s) = nextSel s := by
  have htok : clkAsk (tokenEdge (rootCounts s)).aon.pwr = clkAsk s.aon.pwr ∧ nextSel (tokenEdge (rootCounts s)) = nextSel s := by
    unfold tokenEdge
    split <;> exact ⟨rfl, rfl⟩
  have hd := driveDue_frame (tokenEdge (rootCounts s))
  obtain ⟨r, hr⟩ := sleepWindows_eq (driveDue (tokenEdge (rootCounts s)))
  have hin : clkAsk (sleepWindows (driveDue (tokenEdge (rootCounts s)))).aon.pwr = clkAsk s.aon.pwr ∧
      nextSel (sleepWindows (driveDue (tokenEdge (rootCounts s)))) = nextSel s := by
    rw [hr, onSen_pwr, hd.pwr_eq]
    exact ⟨htok.1, (nextSel_driveDue _).trans htok.2⟩
  unfold edgeBegun edgeIdle
  split <;> exact hin

theorem aonEdge_eq (s : State) : aonEdge s = discEdge (beacon (edgeRequest (edgeBegun s))) := by
  unfold aonEdge edgeBegun rootCounts
  rfl

theorem clkAsk_fields {p q : Pwr} (h : clkAsk p = clkAsk q) :
    p.clkReq = q.clkReq ∧ p.clkAck = q.clkAck ∧ p.clkSel = q.clkSel ∧ p.reqDue = q.reqDue := by
  simpa only [clkAsk, Prod.mk.injEq] using h

theorem clkAck_edgeRequest (s : State) : (edgeRequest s).aon.pwr.clkAck = s.aon.pwr.clkAck := by
  unfold edgeRequest
  dsimp only
  repeat' split
  all_goals rfl

theorem discEdge_of_asleep {s : State} (h : obsRuns s = false) : discEdge s = s := by
  unfold discEdge
  split
  · rfl
  · rw [h]
    rfl

/-- An AON edge without `OBS_CLK_ACK`: after the request comes the beacon, which does not run. -/
theorem aonEdge_asleep {s : State} (h : s.aon.pwr.clkAck = false) : onlyChanges [.fab] (edgeRequest (edgeBegun s)) (aonEdge s) := by
  obtain ⟨-, hack, -, -⟩ := clkAsk_fields (clkAsk_edgeBegun s).1
  rw [aonEdge_eq]
  generalize edgeBegun s = u at hack ⊢
  have hb := onlyChanges_beacon (edgeRequest u)
  have hrun : obsRuns (beacon (edgeRequest u)) = false := by
    rw [hb.obsRuns_eq, obsRuns, clkAck_edgeRequest, hack, h, Bool.and_false]
  rw [discEdge_of_asleep hrun]
  exact hb

/-- Settles O14: the steps of the entry by `sleepStep3_eq`, the request at an AON edge by `aonEdge_asleep`. -/
theorem sleepAndRelease : Obligations.SleepAndRelease := by
  unfold Obligations.SleepAndRelease
  refine ⟨?_, ?_, ?_, ?_, ?_, ?_⟩
  · intro s hr h1 h2 h3 h4 h5 h6
    have hg := goesTo_run (c := .idleDelayExpiry) rfl hr.1
    rw [opIdleExpiry_begins hr.2 h1 h2 h3 h4 h5 h6] at hg
    exact ⟨_, hg, (onlyChanges.refl _ s).onPwr _, rfl⟩
  · intro s hr h1 h2 h3 h4 h5
    have hg := goesTo_run (c := .sleepBuffersDrained) rfl hr.1
    rw [opDrained_step3 hr.2 h1 h2 h3 h4, sleepStep3_eq, if_neg (by simp [h5])] at hg
    have hl := onlyChanges_loseCopies (onlyChanges.refl [.hed] (onPwr (fun p => { p with stage := .zeroed }) (mirrorsOut s)))
    refine ⟨_, hg, rfl, rfl, rfl, ?_, fun p hp => ?_⟩
    · show now (loseCopies (onPwr (fun p => { p with stage := .zeroed }) (mirrorsOut s))) = now s
      rw [hl.now_eq]
      exact (mirrorsOut_frame s).now_eq
    · exact mirror_loseCopies (onPwr (fun p => { p with stage := .zeroed }) (mirrorsOut s)) (mirror_mirrorsOut s hp)
  · intro s hr h1 h2 h3 h4 h5
    have hg := goesTo_run (c := .sleepBuffersDrained) rfl hr.1
    rw [opDrained_step3 hr.2 h1 h2 h3 h4, sleepStep3_eq, if_pos h5] at hg
    refine ⟨_, hg, ?_, fun p hp => mirror_mirrorsOut s hp⟩
    rw [onPwr_pwr, (mirrorsOut_frame s).pwr_eq]
  · intro s hs hn hk hq
    have hg := goesTo_run (c := .obsClkRelease) rfl hs
    have he : opClkRelease s = onPwr (fun p => { p with
        clkAck := false, stage := .awake, relWait := true
        reqDue := p.reqDue || p.switching || p.wake.isSome || anyHold s
        wake := if p.wake.isNone && !p.switching && anyHold s && p.ready then some (7, now s) else p.wake }) s := by
      simp [opClkRelease, hn, hk, hq]
    rw [he] at hg
    refine ⟨_, hg, (onlyChanges.refl _ s).onPwr _, rfl, hq, rfl, rfl, ?_⟩
    simp only [onPwr_pwr, Bool.or_eq_true, or_assoc]
  · intro s hp hs hn hk hq
    have ht : tick s = aonEdge s := by simp [tick, hs, hn, obsRuns, hk]
    have hstep : step s = .next (aonEdge s) := by rw [step, hp, ht]
    obtain ⟨hask, hsel⟩ := clkAsk_edgeBegun s
    obtain ⟨h1, h2, h3, h4⟩ := clkAsk_fields hask
    have hpwr := (aonEdge_asleep hk).pwr_eq
    have hidle : ((edgeBegun s).aon.pwr.clkReq || (edgeBegun s).aon.pwr.clkAck) = false := by rw [h1, h2, hq, hk]; rfl
    unfold edgeRequest at hpwr
    simp only [hidle, h3, hsel, h4] at hpwr
    refine ⟨fun hne => ⟨_, hstep, ?_⟩, fun he hd => ⟨_, hstep, ?_⟩⟩
    · rw [if_neg (by decide), if_pos hne] at hpwr
      rw [hpwr]
      exact ⟨rfl, h1.trans hq, h4⟩
    · rw [if_neg (by decide), if_neg (by simp [he]), if_pos hd] at hpwr
      rw [hpwr]
      exact ⟨rfl, h3, rfl⟩
  · intro s hs hn hr hk hq
    have hg := goesTo_run (c := .obsClkAckDropEarly) rfl hs
    have he : opAckDrop s = draw { onPwr (fun p => { p with clkAck := false }) s with obs := Config.freeObs s.draws } := by
      simp [opAckDrop, hn, hr, hk, hq]
    rw [he] at hg
    exact ⟨_, hg, rfl, rfl, rfl, rfl, rfl⟩

end Sys2Proof.Machine
end

section
/-! SUPPORT. SRAM errors (chapter 15) and Boxwood's change of consumer (chapter 8): the statements about them. -/

namespace Sys2Proof.Machine

open Sys2Proof.Safety

set_option Elab.async false

/-! ## SRAM errors (Table 15.2) -/

theorem fld_reg_bumpReg_other (a : Nat) {lo n lo' n' : Nat} (k : Nat) (s : State) (h : lo' + n' ≤ 32)
    (hd : lo' + n' ≤ lo ∨ lo + n ≤ lo') : fld (reg (bumpReg a lo n k s) a) lo' n' = fld (reg s a) lo' n' := by
  rw [bumpReg_eq, reg_setReg_same, fld_setFld_other _ _ h hd]

theorem reg_spendInject (a idx b : Nat) (s : State) : reg (spendInject a idx s) b = reg s b := rfl

/-- An error word adds one to its count, which holds 16 bits. -/
theorem fld_counted {lo : Nat} (h : lo + 16 ≤ 32) (a idx : Nat) (s : State) :
    fld (reg (bumpReg (aFlt + 0x10C) lo 16 1 (spendInject a idx s)) (aFlt + 0x10C)) lo 16 =
      sat 0xFFFF (fld (reg s (aFlt + 0x10C)) lo 16 + 1) := fld_reg_bumpReg (aFlt + 0x10C) 1 (spendInject a idx s) h

theorem opCorrectable_eq {a idx : Nat} {s : State} (h : wordExists s.build a idx = true) :
    opCorrectable a idx s = bumpReg (aFlt + 0x10C) 16 16 1 (spendInject a idx s) := if_pos h

/-- An uncorrectable word, counted and reported. -/
def uncorrectableNoted (a idx : Nat) (s : State) : State :=
  orReg (aFlt + 0x110) 0x20 (bumpReg (aFlt + 0x10C) 0 16 1 (spendInject a idx s))

theorem onlyChanges_uncorrectableNoted (a idx : Nat) (s : State) :
    onlyChanges [.obsRegs, .dbg] s (uncorrectableNoted a idx s) :=
  (((onlyChanges.refl _ s).onDbg _).bumpReg _ _ _ _).orReg _ _

theorem opUncorrectable_attr {idx : Nat} {s : State} (hr : running s) (hi : idx < s.build.attrEntries) :
    opUncorrectable 0 idx s =
      onHed (fun h => { h with attr := smPut u64D h.attr idx 0 }) (uncorrectableNoted 0 idx s) := by
  have hx : wordExists s.build 0 idx = true := decide_eq_true hi
  have hn : (!obsRuns s || !wordExists s.build 0 idx) = false := by rw [hr.2, hx]; rfl
  have hrst : s.aon.pwr.rstN = true := ((obsRuns_iff s).mp hr.2).2.1
  have h13 : (if (0 : Nat) = 13 then s.aon.pwr.aonRstN else obsRuns s) = obsRuns s := if_neg (by decide)
  unfold opUncorrectable
  dsimp only
  rw [h13, hn, if_neg (by decide), if_pos hrst]
  rfl

/-- Settles O37: the count and the report are register writes, and the entry's word is cleared. -/
theorem sramErrors : Obligations.SramErrors := by
  unfold Obligations.SramErrors
  refine ⟨fun a idx s hr hx => ?_, fun idx s hr hi => ?_⟩
  · refine ⟨opCorrectable a idx s, goesTo_inObs rfl hr, ?_, ?_, ?_⟩ <;> rw [opCorrectable_eq hx]
    · exact ((onlyChanges.refl _ s).onDbg _).bumpReg _ _ _ _
    · exact fld_counted (by decide) a idx s
    · rw [fld_reg_bumpReg_other _ _ _ (by decide) (.inl (by decide)), reg_spendInject]
  · have hf := onlyChanges_uncorrectableNoted 0 idx s
    have hh : onlyChanges [.hed] (uncorrectableNoted 0 idx s) (opUncorrectable 0 idx s) := by
      rw [opUncorrectable_attr hr hi]
      exact (onlyChanges.refl _ _).onHed _
    have ha : (opUncorrectable 0 idx s).obs.hed.attr = smPut u64D s.obs.hed.attr idx 0 := by
      rw [opUncorrectable_attr hr hi, onHed_ohed, hf.hed_eq]
    have hb : bit (reg (opUncorrectable 0 idx s) (aFlt + 0x110)) 5 = true := by
      rw [hh.reg_eq (aFlt + 0x110), uncorrectableNoted, bit_reg_orReg]
      exact Bool.or_eq_true_iff.mpr (.inr rfl)
    have hrst : (opUncorrectable 0 idx s).aon.pwr.rstN = true := by
      rw [hh.pwr_eq, hf.pwr_eq]
      exact ((obsRuns_iff s).mp hr.2).2.1
    refine ⟨opUncorrectable 0 idx s, goesTo_inWriter_of_ctxs rfl hr (hh.ctxs_eq.trans hf.ctxs_eq),
      (hf.mono (by decide)).trans (hh.mono (by decide)), ?_, fun j hj => ?_, ?_, hb, irq7_of_fault (i := 5) hrst (by decide) hb⟩
    · rw [ha]
      exact smGet_smPut_same (α := U64) u64D _ idx 0
    · rw [ha]
      exact smGet_smPut_other (α := U64) u64D _ 0 hj
    · rw [hh.reg_eq (aFlt + 0x10C), uncorrectableNoted, reg_orReg_other _ _ _ (by decide),
        fld_counted (by decide)]

end Sys2Proof.Machine
end

section
/-! SUPPORT. Pulses, rules, power requests and deadline watches (chapter 11): the statements about them. -/

namespace Sys2Proof.Machine

open Sys2Proof.Safety

set_option Elab.async false

/-! ## Sets of bits -/

theorem testBit_maskOf (xs : List Nat) (i : Nat) : (maskOf xs).testBit i = decide (i ∈ xs) := by
  have hfold (acc : Nat) : (xs.foldl (fun acc i => acc ||| 2 ^ i) acc).testBit i = (acc.testBit i || decide (i ∈ xs)) := by
    induction xs generalizing acc with
    | nil => simp
    | cons x xs ih =>
      rw [List.foldl_cons, ih, Nat.testBit_or, Nat.testBit_two_pow]
      simp only [List.mem_cons, Bool.or_assoc, Bool.decide_or, eq_comm]
  rw [maskOf, hfold]
  simp

theorem mem_maskBits (n mask i : Nat) : i ∈ maskBits n mask ↔ i < n ∧ mask.testBit i = true := by
  simp [maskBits]

/-- The bits of a mask, one of them taken out. -/
theorem testBit_maskOf_without {n mask k i : Nat} (hi : i < n) :
    (maskOf ((maskBits n mask).filter fun j => j != k)).testBit i = (mask.testBit i && i != k) := by
  rw [testBit_maskOf, Bool.eq_iff_iff]
  simp [mem_maskBits, hi]

/-! ## The edge of the AON clock -/

theorem onlyChanges_edgeBegun (s : State) : onlyChanges [.tb, .pwr, .sen, .cut, .hang] s (edgeBegun s) := by
  obtain ⟨r, hr⟩ := sleepWindows_eq (driveDue (tokenEdge (rootCounts s)))
  have ht := onlyChanges_tokenEdge (rootCounts s)
  have hd := driveDue_frame (tokenEdge (rootCounts s))
  have hi := onlyChanges_edgeIdle (sleepWindows (driveDue (tokenEdge (rootCounts s))))
  rw [hr] at hi
  have h0 : onlyChanges [.tb, .pwr, .sen, .cut, .hang] s (rootCounts s) := (onlyChanges.refl _ s).onTb _
  unfold edgeBegun
  rw [hr]
  exact ((((h0.trans (ht.mono (by decide))).trans (hd.mono (by decide))).onSen _).trans (hi.mono (by decide)))

/-- An AON edge while no discovery runs. -/
theorem aonEdge_of_no_disc {s : State} (hf : s.obs.fab.disc = none) : aonEdge s = beacon (edgeRequest (edgeBegun s)) := by
  have hq := (onlyChanges.refl [Part.pwr] (edgeBegun s)).edgeRequest
  rw [aonEdge_eq]
  refine discEdge_of_none ((beacon_disc _).trans ?_)
  rw [hq.fab_eq, (onlyChanges_edgeBegun s).fab_eq, hf]

/-- The overflow count of any number: a register of the AON or of the OBS domain. -/
theorem onlyChanges_countOvf_any {ps : List Part} {s t : State} (h : onlyChanges ps s t) (c : Nat)
    (ha : .aonRegs ∈ ps := by decide) (ho : .obsRegs ∈ ps := by decide) : onlyChanges ps s (countOvf c t) := by
  have hm (a : Nat) : regPart a ∈ ps := by
    unfold regPart
    split
    · exact ha
    · exact ho
  unfold countOvf
  split
  · exact (h.bumpReg _ _ _ _ (hm _)).orReg _ _ (hm _)
  · exact h

/-- An item of any class changes a holding register, or a count. -/
theorem onlyChanges_push_any {ps : List Part} {s t : State} (h : onlyChanges ps s t) (src : Nat) (i : Item)
    (hs : .sen ∈ ps := by decide) (hl : .alm ∈ ps := by decide) (he : .evq ∈ ps := by decide)
    (ha : .aonRegs ∈ ps := by decide) (ho : .obsRegs ∈ ps := by decide) : onlyChanges ps s (push src i t) := by
  unfold push
  split
  · split
    · exact h.onSen _ hs
    · exact onlyChanges_countOvf_any (h.onSen _ hs) _ ha ho
  · split
    · split
      · exact h.onAlm _ hl
      · exact onlyChanges_countOvf_any (h.onAlm _ hl) _ ha ho
    · split
      · exact h.onEvq _ he
      · exact onlyChanges_countOvf_any (h.onEvq _ he) _ ha ho

theorem onlyChanges_dueRowItems (s : State) : onlyChanges [.aonRegs, .obsRegs, .sen, .alm, .evq, .lens] s (dueRowItems s) :=
  ((onlyChanges.refl _ s).onLens _).foldl (fun _ _ ha => onlyChanges_push_any ha _ _) _

/-- The machine as an OBS cycle leaves it before the root counts: the governor's credit has grown and the row items
that are due are in their register. -/
def cycleBegun (s : State) : State := dueRowItems (creditGrow (incOf s.aon.pwr.ratio) s)

theorem onlyChanges_cycleBegun (s : State) : onlyChanges [.aonRegs, .obsRegs, .sen, .alm, .evq, .lens, .smp] s (cycleBegun s) :=
  ((onlyChanges_creditGrow _ s).mono (by decide)).trans ((onlyChanges_dueRowItems _).mono (by decide))

theorem tick_edge {s : State} (hs : s.scan = false) (hn : s.aon.pwr.aonRstN = true)
    (he : obsRuns s = false ∨ 32 ≤ s.aon.tb.sub + incOf s.aon.pwr.ratio) :
    tick s = aonEdge (if obsRuns s then cycleBegun s else s) := by
  unfold tick
  rw [if_neg (by simp [hs]), if_neg (by simp [hn])]
  by_cases hr : obsRuns s = true
  · rw [if_pos hr, if_pos hr]
    exact if_pos (he.resolve_left (by simp [hr]))
  · rw [if_neg hr, if_neg hr]

/-! ## Pulses (R254) -/

theorem opPulseExpiry_falls {line : Nat} {s : State} (hn : s.aon.pwr.aonRstN = true)
    (ht : s.aon.sen.lines.testBit line = true) (hl : latched s line = false)
    (he : smGet natD s.aon.sen.pulseEnd line ≤ s.aon.tb.rootGt) :
    opPulseExpiry line s = onSen (fun n => { n with
      lines := maskOf ((maskBits 4 n.lines).filter fun i => i != line)
      pulseEnd := smPut natD n.pulseEnd line 0 }) s :=
  if_pos ⟨hn, ht, by simp [hl], he⟩

/-! ## Rules (R259) -/

/-- A rule whose window has been evaluated, or skipped, waits for the end of the next. -/
def windowMoved (e l : Nat) (x : GRule) : GRule :=
  { x with wEnd := x.wEnd + 2 ^ l, asleep := x.asleep.filter fun a => decide (e < a) }

section Window

variable {k : Nat} {s : State} (hr : running s) (he : ruleEn s k = true) (hw : (gruleOf s k).wEnd ≤ now s)
include hr he hw

theorem opWindowEnd_asleep (ha : (gruleOf s k).asleep.contains (gruleOf s k).wEnd = true) :
    opWindowEnd k s = onGRule k (fun x => windowMoved (gruleOf s k).wEnd (ruleLog2w s k) { x with run := 0 }) s := by
  have hn := ((obsRuns_iff s).mp hr.2).1
  have h0 : (!s.aon.pwr.aonRstN || !ruleEn s k || decide (now s < (gruleOf s k).wEnd)) = false := by simp [hn, he, hw]
  unfold opWindowEnd
  dsimp only
  rw [h0, ha]
  rfl

/-- Below the windows that a change needs, an evaluation is a step of the run alone. -/
theorem opWindowEnd_runs (ha : (gruleOf s k).asleep.contains (gruleOf s k).wEnd = false) (h0 : (gruleOf s k).run = 0)
    (hh : 1 < fld (reg s (aRule k)) 13 4) (hd : bit (reg s (aRule k)) 30 = false) :
    opWindowEnd k s = onGRule k (fun _ => windowMoved (gruleOf s k).wEnd (ruleLog2w s k)
      (ruleRun (gruleOf s k) (decide ((reg s (aRule k + 8)).toNat ≤ windowSum s k))
        (decide (windowSum s k ≤ (reg s (aRule k + 12)).toNat)) ((gruleOf s k).wEnd - 2 ^ ruleLog2w s k))) s := by
  have hn := ((obsRuns_iff s).mp hr.2).1
  have hc : (!s.aon.pwr.aonRstN || !ruleEn s k || decide (now s < (gruleOf s k).wEnd)) = false := by simp [hn, he, hw]
  have hrun (h l : Bool) (a : Nat) : (ruleRun (gruleOf s k) h l a).run ≤ 1 ∧
      (ruleRun (gruleOf s k) h l a).active = (gruleOf s k).active := by
    unfold ruleRun
    rw [h0]
    cases h <;> cases l <;> simp
  unfold opWindowEnd
  dsimp only
  rw [hc, ha, hd]
  simp only [Bool.false_eq_true, if_false]
  have hflip : (decide (fld (reg s (aRule k)) 13 4 ≤ (ruleRun (gruleOf s k)
      (decide ((reg s (aRule k + 8)).toNat ≤ windowSum s k)) (decide (windowSum s k ≤ (reg s (aRule k + 12)).toNat))
      ((gruleOf s k).wEnd - 2 ^ ruleLog2w s k)).run)) = false := by
    rw [decide_eq_false_iff_not]
    have := (hrun (decide ((reg s (aRule k + 8)).toNat ≤ windowSum s k))
      (decide (windowSum s k ≤ (reg s (aRule k + 12)).toNat)) ((gruleOf s k).wEnd - 2 ^ ruleLog2w s k)).1
    omega
  rw [hflip]
  simp only [Bool.false_and, Bool.false_eq_true, if_false]
  rw [← (hrun _ _ _).2]
  rfl

end Window

/-! ## Requests (R261, R362) -/

/-- The request's handshake: `PWR_REQ`, the change that is due, `PWR_ACK`. -/
def token (p : Pwr) : Bool × Bool × Bool := (p.pwrReq, p.pwrDue, p.pwrAck)

theorem token_edgeIdle (s : State) : token (edgeIdle s).aon.pwr = token s.aon.pwr := by
  unfold edgeIdle
  split <;> rfl

theorem token_edgeRequest (s : State) : token (edgeRequest s).aon.pwr = token s.aon.pwr := by
  unfold edgeRequest
  dsimp only
  repeat' split
  all_goals rfl

theorem token_tokenEdge (s : State) :
    token (tokenEdge s).aon.pwr = (s.aon.pwr.pwrReq != s.aon.pwr.pwrDue, false, s.aon.pwr.pwrAck) := by
  unfold tokenEdge
  cases hd : s.aon.pwr.pwrDue <;> simp [token, hd]

/-- `PWR_REQ` inverts at the AON edge after a change of the word (R362). -/
theorem token_aonEdge {s : State} (hf : s.obs.fab.disc = none) :
    token (aonEdge s).aon.pwr = (s.aon.pwr.pwrReq != s.aon.pwr.pwrDue, false, s.aon.pwr.pwrAck) := by
  obtain ⟨r, hr⟩ := sleepWindows_eq (driveDue (tokenEdge (rootCounts s)))
  rw [aonEdge_of_no_disc hf, (onlyChanges_beacon _).pwr_eq, token_edgeRequest, edgeBegun, token_edgeIdle, hr, onSen_pwr,
    (driveDue_frame _).pwr_eq, token_tokenEdge]
  rfl

/-- The word that is offered once nothing is unacknowledged. -/
theorem offerReq_acked {s : State} (h : s.aon.pwr.pwrReq = s.aon.pwr.pwrAck) :
    ∃ r, offerReq s = onPwr (fun q => { q with
      pwrCode := (requestWord s).1, pwrLevel := (requestWord s).2.1, pwrRule := r
      pwrDue := q.pwrDue || !(s.aon.pwr.pwrCode == (requestWord s).1 && s.aon.pwr.pwrLevel == (requestWord s).2.1) }) s := by
  refine ⟨(requestWord s).2.2, ?_⟩
  unfold offerReq
  dsimp only
  have hne : (s.aon.pwr.pwrReq != s.aon.pwr.pwrAck) = false := by simp [h]
  rw [hne, Bool.false_or]
  cases hw : (s.aon.pwr.pwrCode == (requestWord s).1 && s.aon.pwr.pwrLevel == (requestWord s).2.1)
  · rw [if_neg (by decide)]
    simp
  · obtain ⟨hc, hl⟩ := Bool.and_eq_true_iff.mp hw
    rw [if_pos rfl, if_pos (by simp [h])]
    simp only [Bool.not_true, Bool.or_false, ← eq_of_beq hc, ← eq_of_beq hl]
    rfl

/-- Settles O35: a pulse by its bit, a window by `opWindowEnd_runs`, a request by `offerReq_acked` and `token_aonEdge`. -/
theorem pulsesRulesAndRequests : Obligations.PulsesRulesAndRequests := by
  unfold Obligations.PulsesRulesAndRequests
  refine ⟨?_, ?_, ?_, ?_, ?_⟩
  · intro line s hs hn _ _ ht hl he
    refine ⟨_, goesTo_run rfl hs, ?_⟩
    rw [opPulseExpiry_falls hn ht hl he]
    exact ⟨(onlyChanges.refl _ s).onSen _, rfl, fun k hk => testBit_maskOf_without hk⟩
  · intro k s hr he hw ha
    refine ⟨_, goesTo_run rfl hr.1, ?_⟩
    rw [opWindowEnd_asleep hr he hw ha, gruleOf_onGRule_same]
    exact ⟨(onlyChanges.refl _ s).onGRule _ _, rfl, rfl, rfl⟩
  · intro k s hr he hw ha h0 hh hd
    refine ⟨_, goesTo_run rfl hr.1, ?_⟩
    rw [opWindowEnd_runs hr he hw ha h0 hh hd, gruleOf_onGRule_same]
    refine ⟨(onlyChanges.refl _ s).onGRule _ _, ?_, ?_, fun h1 => ?_, fun h1 h2 => ?_, fun h1 h2 => ?_,
      fun j hj => gruleOf_onGRule_other _ _ _ _ hj⟩
    · unfold ruleRun
      split
      · rfl
      · split <;> rfl
    · unfold ruleRun
      split
      · rfl
      · split <;> rfl
    · simp [windowMoved, ruleRun, h0, h1]
    · simp [windowMoved, ruleRun, h0, Nat.not_le.mpr h1, h2]
    · simp [windowMoved, ruleRun, Nat.not_le.mpr h1, Nat.not_le.mpr h2]
  · intro s hs hn hne
    refine ⟨_, goesTo_run rfl hs, ?_⟩
    have he : opPwrAck s = offerReq (onPwr (fun q => { q with pwrAck := q.pwrReq }) s) := if_pos (by simp [hn, hne])
    obtain ⟨r, ho⟩ := offerReq_acked (s := onPwr (fun q => { q with pwrAck := q.pwrReq }) s) rfl
    have hw : requestWord (onPwr (fun q => { q with pwrAck := q.pwrReq }) s) = requestWord s := rfl
    rw [he, ho, hw]
    refine ⟨((onlyChanges.refl _ s).onPwr _).onPwr _, rfl, rfl, rfl, rfl, ?_⟩
    simp only [onPwr_pwr, Bool.or_eq_true, Bool.not_eq_true', Bool.and_eq_false_iff, beq_eq_false_iff_ne]
  · intro s hp hs hn he hf
    refine ⟨tick s, by rw [step, hp], ?_⟩
    have hu : (if obsRuns s then cycleBegun s else s).obs.fab.disc = none ∧
        (if obsRuns s then cycleBegun s else s).aon.pwr = s.aon.pwr := by
      split
      · rw [(onlyChanges_cycleBegun s).fab_eq, (onlyChanges_cycleBegun s).pwr_eq]
        exact ⟨hf, rfl⟩
      · exact ⟨hf, rfl⟩
    have ht := token_aonEdge hu.1
    rw [← tick_edge hs hn he, hu.2] at ht
    simpa only [token, Prod.mk.injEq] using ht

end Sys2Proof.Machine
end

section
/-! SUPPORT. Deadline watches (chapter 11): their instances, misses, and the edge after a miss. -/

namespace Sys2Proof.Machine

open Sys2Proof.Safety

set_option Elab.async false

/-! ## Instances in the order of their starts (R250) -/

/-- An insertion splits the list where the first element that comes after stands. -/
theorem insertBy_splits {α : Type} (after : α → α → Bool) (x : α) (l : List α) :
    ∃ a b, l = a ++ b ∧ insertBy after x l = a ++ [x] ++ b ∧ (∀ y ∈ a, after y x = false) ∧
      ∀ y ∈ b.head?, after y x = true := by
  induction l with
  | nil => exact ⟨[], [], rfl, rfl, by simp, by simp⟩
  | cons y l ih =>
    cases hy : after y x with
    | true => exact ⟨[], y :: l, rfl, if_pos hy, by simp, by simp [hy]⟩
    | false =>
      obtain ⟨a, b, hl, hi, ha, hb⟩ := ih
      refine ⟨y :: a, b, by rw [hl]; rfl, ?_, ?_, hb⟩
      · rw [insertBy, if_neg (by simp [hy]), hi]
        rfl
      · intro z hz
        rcases List.mem_cons.mp hz with rfl | hz
        · exact hy
        · exact ha z hz

theorem addInst_splits (i : SInst) (l : List SInst) : ∃ a b, l = a ++ b ∧ addInst i l = a ++ [i] ++ b ∧
    (∀ j ∈ a, j.s ≤ i.s) ∧ ∀ j ∈ b.head?, i.s < j.s := by
  obtain ⟨a, b, hl, hi, ha, hb⟩ := insertBy_splits (fun a b : SInst => decide (b.s < a.s)) i l
  exact ⟨a, b, hl, hi, fun j hj => by simpa using ha j hj, fun j hj => by simpa using hb j hj⟩

theorem onSen_congr {f g : Sen → Sen} {s : State} (h : f s.aon.sen = g s.aon.sen) : onSen f s = onSen g s :=
  congrArg (fun n => onSen (fun _ => n) s) h

theorem opMarkerApply_start {m : Marker} {w : Nat} {s : State} (hn : s.aon.pwr.aonRstN = true) (hq : s.aon.sen.queue = [m])
    (ha : senArmed s (fun x => x.part == m.owner) = [w])
    (h1 : senMatch (swatchOf s w).startKind (swatchOf s w).sLayer (swatchOf s w).sOper m = true)
    (h2 : senMatch (swatchOf s w).endKind (swatchOf s w).eLayer (swatchOf s w).eOper m = false)
    (hl : (swatchOf s w).insts.length < 4) :
    opMarkerApply s = onSWatch w
      (fun x => { x with insts := addInst ⟨m.stamp, gtMod (m.stamp + x.offset), false⟩ x.insts })
      (onSen (fun n => { n with queue := [] }) s) := by
  have hs : onSen (fun n => { n with queue := n.queue.drop 8 }) s = onSen (fun n => { n with queue := [] }) s := by
    refine onSen_congr ?_
    rw [hq]
    rfl
  have ha' : senArmed (onSen (fun n => { n with queue := [] }) s) (fun x => x.part == m.owner) = [w] := ha
  unfold opMarkerApply
  rw [if_neg (by simp [hn]), hs, hq]
  show senApply m (onSen (fun n => { n with queue := [] }) s) = _
  unfold senApply
  rw [ha']
  show (if senMatch (swatchOf s w).startKind (swatchOf s w).sLayer (swatchOf s w).sOper m then
      senStart w m.stamp (if senMatch (swatchOf s w).endKind (swatchOf s w).eLayer (swatchOf s w).eOper m then _ else _)
    else _) = _
  rw [h1, h2]
  exact if_pos hl

/-! ## Misses (R252) -/

/-- An item that reaches Boxwood changes of the Sentinel the holding register alone. -/
theorem push_sen (src : Nat) (i : Item) (s : State) : ∃ h, (push src i s).aon.sen = { s.aon.sen with hold := h } := by
  have hcount (c : Nat) (t : State) : (countOvf c t).aon.sen = t.aon.sen :=
    (onlyChanges_countOvf_any (.refl [.aonRegs, .obsRegs] t) c).sen_eq
  unfold push
  split
  · split
    · exact ⟨_, rfl⟩
    · exact ⟨_, hcount _ _⟩
  · refine ⟨s.aon.sen.hold, ?_⟩
    split
    · split
      · rfl
      · exact hcount _ _
    · split
      · rfl
      · exact hcount _ _

theorem wake_of_awake {src : Nat} {s : State} (hk : s.aon.pwr.clkAck = true) (hs : s.aon.pwr.stage = .awake) :
    wake src s = s := by
  unfold wake
  dsimp only
  rw [if_pos hk, hs]
  split <;> rfl

theorem sen_ruleCount (src u g n : Nat) (s : State) :
    ∃ x, (ruleCount src u g n s).aon.sen = { s.aon.sen with incs := x } := by
  unfold ruleCount
  split
  · exact ⟨s.aon.sen.incs, rfl⟩
  · exact ⟨_, rfl⟩

/-- A miss that is noted: counted, its lines and its freeze due at the following AON edge, and reported. -/
def missNoted (w d : Nat) (s : State) : State :=
  orReg (aSen + 8) 1 (onSen (fun n => { n with
    lines := n.lines ||| ((swatchOf s w).lines &&& n.acked)
    due := n.due ++ [⟨(swatchOf s w).lines, (swatchOf s w).freeze, d, (swatchOf s w).part⟩] })
    (onSWatch w (fun x => { x with misses := sat (2 ^ 24 - 1) (x.misses + 1) }) s))

theorem onlyChanges_missNoted (w d : Nat) (s : State) : onlyChanges [.aonRegs, .sen] s (missNoted w d s) :=
  (((onlyChanges.refl _ s).onSWatch _ _).onSen _).orReg _ _

theorem swatchOf_missNoted (w d : Nat) (s : State) : swatchOf (missNoted w d s) w =
    { swatchOf s w with misses := sat (2 ^ 24 - 1) ((swatchOf s w).misses + 1) } :=
  swatchOf_onSWatch_same w (fun x => { x with misses := sat (2 ^ 24 - 1) (x.misses + 1) }) s

theorem bit_missNoted (w d : Nat) (s : State) : bit (reg (missNoted w d s) (aSen + 8)) 0 = true := by
  rw [missNoted, bit_reg_orReg]
  exact Bool.or_eq_true_iff.mpr (.inr rfl)

theorem senMiss_eq {w d start : Nat} {o : Bool} {s : State} (hk : s.aon.pwr.clkAck = true) (hs : s.aon.pwr.stage = .awake) :
    ∃ p f g r, senMiss w d start o s = ruleCount 3 w d 1 (offerPart p r (push 0 (mkItem 0x10 f w g d) (missNoted w d s))) := by
  have hsame (t : State) : swatchOf (onSWatch w (fun x => { x with misses := sat (2 ^ 24 - 1) (x.misses + 1) }) t) w =
      { swatchOf t w with misses := sat (2 ^ 24 - 1) ((swatchOf t w).misses + 1) } := swatchOf_onSWatch_same _ _ _
  refine ⟨(swatchOf s w).part, (swatchOf s w).part, lo32 d, ⟨d, .sent w 0 (swatchOf s w).lines (BitVec.ofNat 32
    (sat (2 ^ 24 - 1) ((swatchOf s w).misses + 1) + (swatchOf s w).insts.length * 2 ^ 24 + b2n o * 2 ^ 31)) start 0⟩, ?_⟩
  unfold senMiss
  dsimp only
  rw [hsame]
  refine wake_of_awake ?_ ?_
  all_goals
    rw [(onlyChanges_ruleCount (((onlyChanges.refl [.aonRegs, .obsRegs, .sen, .alm, .evq, .ctxs] _).push _ _ _ _ _ _).offerPart _ _)
      _ _ _ _).pwr_eq]
    assumption

/-- What a miss does (R252): nothing of the timebase or of the cut, MISS with `IRQ[3]`, and no line yet. -/
theorem senMiss_spec (w d start : Nat) (o : Bool) {s : State} (hk : s.aon.pwr.clkAck = true)
    (hs : s.aon.pwr.stage = .awake) (ha : s.aon.sen.acked = 0) :
    onlyChanges [.aonRegs, .obsRegs, .sen, .alm, .evq, .ctxs] s (senMiss w d start o s) ∧
      swatchOf (senMiss w d start o s) w =
        { swatchOf s w with misses := sat (2 ^ 24 - 1) ((swatchOf s w).misses + 1) } ∧
      (senMiss w d start o s).aon.sen.lines = s.aon.sen.lines ∧
      (senMiss w d start o s).aon.sen.due =
        s.aon.sen.due ++ [⟨(swatchOf s w).lines, (swatchOf s w).freeze, d, (swatchOf s w).part⟩] ∧
      bit (reg (senMiss w d start o s) (aSen + 8)) 0 = true := by
  obtain ⟨p, f, g, r, he⟩ := senMiss_eq (w := w) (d := d) (start := start) (o := o) hk hs
  have hp : onlyChanges [.aonRegs, .obsRegs, .sen, .alm, .evq, .ctxs] (missNoted w d s)
      (push 0 (mkItem 0x10 f w g d) (missNoted w d s)) := (onlyChanges.refl _ _).push _ _ _ _ _ _
  have hr := onlyChanges_ruleCount ((onlyChanges.refl [.sen, .ctxs] (push 0 (mkItem 0x10 f w g d) (missNoted w d s))).offerPart p r)
    3 w d 1
  obtain ⟨x, hx⟩ := sen_ruleCount 3 w d 1 (offerPart p r (push 0 (mkItem 0x10 f w g d) (missNoted w d s)))
  obtain ⟨h, hh⟩ := push_sen 0 (mkItem 0x10 f w g d) (missNoted w d s)
  rw [((onlyChanges.refl [.ctxs] (push 0 (mkItem 0x10 f w g d) (missNoted w d s))).offerPart p r).sen_eq, hh] at hx
  have hreg : reg (senMiss w d start o s) (aSen + 8) = reg (missNoted w d s) (aSen + 8) := by
    rw [he, hr.reg_eq (aSen + 8)]
    exact reg_push_other (by decide) (by decide : (kindCls 0x10).1 < 8) _
  rw [hreg, swatchOf, he, hx]
  refine ⟨((onlyChanges_missNoted w d s).mono (by decide)).trans (hp.trans (hr.mono (by decide))), swatchOf_missNoted w d s,
    ?_, rfl, bit_missNoted w d s⟩
  show s.aon.sen.lines ||| ((swatchOf s w).lines &&& s.aon.sen.acked) = _
  rw [ha, Nat.and_zero, Nat.or_zero]

/-- MISS drives `IRQ[3]`. -/
theorem irq3_of_miss {s : State} (h : bit (reg s (aSen + 8)) 0 = true) : irqLine s 3 = true :=
  and_ne_zero_of_bit (i := 0) h (by decide)

/-! ## The edge after a miss (R252, R254) -/

theorem driveDue_one {x : SDue} {s : State} (hd : s.aon.sen.due = [x]) : driveDue s =
    if x.freeze && s.aon.pwr.rstN then
      trigger x.g 8 x.part (driveLines x.lines (onSen (fun n => { n with due := [], acked := 0 }) s))
    else driveLines x.lines (onSen (fun n => { n with due := [], acked := 0 }) s) := by
  rw [driveDue, hd]
  rfl

/-- Where no hang sequence runs and no hardware freeze is pending, a trigger at G schedules one at G + 1,024. -/
theorem hw_trigger {g c o : Nat} {s : State} (hh : s.obs.hang.seq = none) (hw : s.obs.cut.hw = none)
    (hr : s.aon.pwr.rstN = true) :
    (trigger g c o s).obs.cut.hw.map (fun f => (f.t, f.own)) = some (gtMod (g + 1024), [o]) := by
  have ht : trigger g c o s = hwFreeze g c o s := by rw [trigger, hh]
  have hf : hwFreeze g c o s = onCut (fun k => addIssued (newFreeze (gtMod (g + 1024)) c false 0 [o] true s)
      { k with hw := some (newFreeze (gtMod (g + 1024)) c false 0 [o] true s) }) s := by
    rw [hwFreeze, hw, hr]
    rfl
  rw [ht, hf]
  rfl

theorem sen_trigger (g c o : Nat) (s : State) : (trigger g c o s).aon.sen = s.aon.sen :=
  ((onlyChanges.refl [.cut, .hang] s).trigger g c o).sen_eq

/-- What the edge after a miss does to the Sentinel and to the hardware freeze. -/
theorem driveDue_spec {x : SDue} {s : State} (hd : s.aon.sen.due = [x]) (hh : s.obs.hang.seq = none)
    (hw : s.obs.cut.hw = none) (hr : s.aon.pwr.rstN = true) :
    (driveDue s).aon.sen.due = [] ∧ (driveDue s).aon.sen.lines = s.aon.sen.lines ||| x.lines ∧
      (driveDue s).obs.cut.hw.map (fun f => (f.t, f.own)) =
        (if x.freeze then some (gtMod (x.g + 1024), [x.part]) else none) := by
  rw [driveDue_one hd]
  cases hx : x.freeze with
  | true =>
    rw [hr, if_pos (by decide), sen_trigger]
    exact ⟨rfl, rfl, hw_trigger hh hw hr⟩
  | false =>
    rw [if_neg (by simp)]
    refine ⟨rfl, rfl, ?_⟩
    show s.obs.cut.hw.map _ = _
    rw [hw]
    rfl

theorem sen_dueRowItems (s : State) : ∃ h, (dueRowItems s).aon.sen = { s.aon.sen with hold := h } := by
  have hfold (l : List (Nat × Item)) (t : State) (h : ∃ h, t.aon.sen = { s.aon.sen with hold := h }) :
      ∃ h, (l.foldl (fun acc e => push rowSrc e.2 acc) t).aon.sen = { s.aon.sen with hold := h } := by
    induction l generalizing t with
    | nil => exact h
    | cons e l ih =>
      refine ih _ ?_
      obtain ⟨a, ha⟩ := h
      obtain ⟨b, hb⟩ := push_sen rowSrc e.2 t
      exact ⟨b, by rw [hb, ha]⟩
  exact hfold _ _ ⟨s.aon.sen.hold, rfl⟩

theorem sen_cycleBegun (s : State) : ∃ h, (cycleBegun s).aon.sen = { s.aon.sen with hold := h } := by
  obtain ⟨h, hh⟩ := sen_dueRowItems (creditGrow (incOf s.aon.pwr.ratio) s)
  exact ⟨h, by rw [cycleBegun, hh, (onlyChanges_creditGrow _ s).sen_eq]⟩

theorem obsRuns_tokenEdge (s : State) : obsRuns (tokenEdge s) = obsRuns s := by
  unfold tokenEdge
  split <;> rfl

theorem rstN_tokenEdge (s : State) : (tokenEdge s).aon.pwr.rstN = s.aon.pwr.rstN := by
  unfold tokenEdge
  split <;> rfl

/-- At an AON edge while the OBS domain runs, the Sentinel and the cut are as the misses' lines leave them. -/
theorem aonEdge_driven {s : State} (hf : s.obs.fab.disc = none) (hr : obsRuns s = true) :
    (aonEdge s).aon.sen = (driveDue (tokenEdge (rootCounts s))).aon.sen ∧
      (aonEdge s).obs.cut = (driveDue (tokenEdge (rootCounts s))).obs.cut := by
  have hrun : obsRuns (driveDue (tokenEdge (rootCounts s))) = true := by
    rw [(driveDue_frame _).obsRuns_eq, obsRuns_tokenEdge]
    exact hr
  have hs : sleepWindows (driveDue (tokenEdge (rootCounts s))) = driveDue (tokenEdge (rootCounts s)) := by
    unfold sleepWindows
    rw [if_pos hrun]
  have hq : onlyChanges [.pwr, .fab] (driveDue (tokenEdge (rootCounts s))) (aonEdge s) := by
    have hi := onlyChanges_edgeIdle (driveDue (tokenEdge (rootCounts s)))
    have hb := onlyChanges_beacon (edgeRequest (edgeBegun s))
    have he : edgeBegun s = edgeIdle (driveDue (tokenEdge (rootCounts s))) := by rw [edgeBegun, hs]
    rw [aonEdge_of_no_disc hf]
    refine onlyChanges.trans ?_ (hb.mono (by decide))
    rw [he]
    exact ((hi.mono (by decide) : onlyChanges [.pwr, .fab] _ _)).edgeRequest
  exact ⟨hq.sen_eq, hq.cut_eq⟩

/-- Settles O34: a start by the split of its instances, a miss by `senMiss_eq`, the edge after it by `driveDue_spec`. -/
theorem deadlineInstances : Obligations.DeadlineInstances := by
  unfold Obligations.DeadlineInstances
  refine ⟨?_, ?_, ?_⟩
  · intro m w s hs hn hq ha h1 h2 hl
    obtain ⟨a, b, hab, hi, hla, hlb⟩ := addInst_splits ⟨m.stamp, gtMod (m.stamp + (swatchOf s w).offset), false⟩ (swatchOf s w).insts
    have hg := goesTo_run (c := .sentinelMarkerApply) rfl hs
    rw [opMarkerApply_start hn hq ha h1 h2 hl] at hg
    refine ⟨_, a, b, hg, ((onlyChanges.refl _ s).onSen _).onSWatch _ _, rfl, hab, ?_, hla, hlb,
      fun v hv => swatchOf_onSWatch_other _ _ _ _ hv⟩
    rw [swatchOf_onSWatch_same]
    exact congrArg (fun l => { swatchOf s w with insts := l }) hi
  · intro w i s hs hn harm hi hm hd hak hk hst
    have hfind : (swatchOf s w).insts.find? (fun i => !i.missed) = some i := by simp [hi, hm]
    have he : opDeadlineMiss w s = senMiss w i.d i.s false (onSWatch w (fun x => { x with
        insts := modFirst (fun i => !i.missed) (fun i => { i with missed := true }) x.insts }) s) := by
      rw [opDeadlineMiss, hfind]
      exact if_pos ⟨hn, harm, hd⟩
    have hx : swatchOf (onSWatch w (fun x => { x with
        insts := modFirst (fun i => !i.missed) (fun i => { i with missed := true }) x.insts }) s) w =
        { swatchOf s w with insts := [{ i with missed := true }] } := by
      rw [swatchOf_onSWatch_same, hi]
      simp [modFirst, hm]
    have hg := goesTo_run (c := .deadlineMiss w) rfl hs
    rw [he] at hg
    obtain ⟨u, hu⟩ : ∃ u, onSWatch w (fun x => { x with
        insts := modFirst (fun i => !i.missed) (fun i => { i with missed := true }) x.insts }) s = u := ⟨_, rfl⟩
    have hsu : onlyChanges [.sen] s u := hu ▸ (onlyChanges.refl _ s).onSWatch _ _
    have hsen : u.aon.sen.lines = s.aon.sen.lines ∧ u.aon.sen.due = s.aon.sen.due ∧ u.aon.sen.acked = s.aon.sen.acked := by
      rw [← hu]
      exact ⟨rfl, rfl, rfl⟩
    rw [hu] at hg hx
    obtain ⟨hf, h1, h2, h3, h4⟩ := senMiss_spec w i.d i.s false (s := u) (by rw [hsu.pwr_eq]; exact hk)
      (by rw [hsu.pwr_eq]; exact hst) (hsen.2.2.trans hak)
    rw [hx] at h1 h3
    refine ⟨_, hg, by rw [h1], by rw [h1], h2.trans hsen.1, ?_, h4, irq3_of_miss h4, hf.cut_eq.trans hsu.cut_eq,
      hf.tb_eq.trans hsu.tb_eq⟩
    rw [h3, hsen.2.1]
  · intro l g p fr s hr hp he hd hh hw hf
    obtain ⟨hn, hrst, -⟩ := (obsRuns_iff s).mp hr.2
    obtain ⟨h, hsen⟩ := sen_cycleBegun s
    have hc := onlyChanges_cycleBegun s
    have hstep : step s = .next (aonEdge (cycleBegun s)) := by rw [step, hp, tick_edge hr.1 hn (.inr he), if_pos hr.2]
    have hv := onlyChanges_tokenEdge (rootCounts (cycleBegun s))
    obtain ⟨hes, hec⟩ := aonEdge_driven (s := cycleBegun s) (by rw [hc.fab_eq]; exact hf) (by rw [hc.obsRuns_eq]; exact hr.2)
    have hvs : (tokenEdge (rootCounts (cycleBegun s))).aon.sen = { s.aon.sen with hold := h } := by
      rw [hv.sen_eq]
      exact hsen
    obtain ⟨h1, h2, h3⟩ := driveDue_spec (x := ⟨l, fr, g, p⟩) (s := tokenEdge (rootCounts (cycleBegun s)))
      (by rw [hvs]; exact hd) (by rw [hv.hang_eq]; exact (congrArg (fun x => x.seq) hc.hang_eq).trans hh)
      (by rw [hv.cut_eq]; exact (congrArg (fun x => x.hw) hc.cut_eq).trans hw)
      (by rw [rstN_tokenEdge]; exact (congrArg (fun x => x.rstN) hc.pwr_eq).trans hrst)
    refine ⟨_, hstep, by rw [hes]; exact h1, fun k => ?_, by rw [hec]; exact h3⟩
    rw [hes, h2, hvs, Nat.testBit_or, Bool.or_eq_true]

end Sys2Proof.Machine
end

section
/-! SUPPORT. Boxwood accepts items, READ presents the first of them, and the drain engine (chapter 8): the statements. -/

namespace Sys2Proof.Machine

open Sys2Proof.Safety

set_option Elab.async false

/-! ## Lists -/

theorem length_delFirst {α : Type} {p : α → Bool} {l : List α} {x : α} (hx : x ∈ l) (hp : p x = true) :
    (delFirst p l).length + 1 = l.length := by
  induction l with
  | nil => cases hx
  | cons y l ih =>
    rw [delFirst]
    split
    · rfl
    · rcases List.mem_cons.mp hx with rfl | hm
      · contradiction
      · rw [List.length_cons, List.length_cons, ih hm]

/-- One element that a filter kept and that a change takes out of it. -/
theorem length_filter_modFirst {α : Type} [BEq α] [LawfulBEq α] {p : α → Bool} {f : α → α} {l : List α} {x : α}
    (hx : x ∈ l) (hp : p x = true) (hf : p (f x) = false) :
    ((modFirst (fun y => y == x) f l).filter p).length + 1 = (l.filter p).length := by
  induction l with
  | nil => cases hx
  | cons y l ih =>
    rw [modFirst]
    split
    · rename_i hy
      rw [eq_of_beq hy, List.filter_cons_of_neg (by simp [hf]), List.filter_cons_of_pos hp, List.length_cons]
    · rename_i hy
      have hm := (List.mem_cons.mp hx).resolve_left fun h => hy (by simp [h])
      have := ih hm
      rw [List.filter_cons, List.filter_cons]
      split
      · rw [List.length_cons, List.length_cons, this]
      · exact this

/-! ## The selector (R178) -/

theorem presented_mem {q : QItem} {s : State} (h : presented s = some q) : q ∈ s.obs.evq.q ∧ q.read = none := by
  have := leastBy_mem h
  simpa using this

theorem presented_of_avail {s : State} (h : 0 < avail s) : ∃ q, presented s = some q := by
  obtain ⟨i, hi⟩ := List.exists_mem_of_length_pos h
  exact leastBy_isSome hi

theorem presented_none {s : State} (h : avail s = 0) : presented s = none := by
  rw [presented, List.length_eq_zero_iff.mp h]
  rfl

theorem avail_readItem {q : QItem} {s : State} (h : presented s = some q) : avail (readItem q s) + 1 = avail s := by
  obtain ⟨hm, hr⟩ := presented_mem h
  exact length_filter_modFirst (p := fun i : QItem => i.read.isNone) (f := fun i => { i with read := some s.obs.evq.rseq })
    hm (by simp [hr]) rfl

theorem occ_readItem (q : QItem) (s : State) : occ (readItem q s) = occ s := by
  have := congrArg List.length (stages_readItem q s)
  simpa [stages, occ] using this

/-! ## Acceptance (R175, R176) -/

theorem acceptRank_prio {s : State} {g h : HoldReg} (hle : acceptRank s h ≤ acceptRank s g) : h.item.prio ≤ g.item.prio := by
  simp only [acceptRank] at hle
  omega

theorem nextHold_spec {h : HoldReg} {s : State} (hn : nextHold s = some h) : h ∈ holdRegs s ∧ 0 < evqCredits s h.cls ∧
    ∀ g ∈ holdRegs s, 0 < evqCredits s g.cls → h.item.prio ≤ g.item.prio := by
  obtain ⟨hm, hc⟩ := List.mem_filter.mp (leastBy_mem hn)
  exact ⟨hm, by simpa using hc, fun g hg hp => acceptRank_prio (leastBy_le hn g (List.mem_filter.mpr ⟨hg, by simpa using hp⟩))⟩

/-- The machine as an item has left its register, before the row check's next item. -/
def holdTaken (h : HoldReg) (s : State) : State :=
  onEvq (fun e => { e with rrCls := (h.cls + 1) % 8, rrSrc := smPut natD e.rrSrc h.cls ((h.src + 1) % 4096) }) (dropHoldReg h s)

theorem onlyChanges_dropHoldReg (h : HoldReg) (s : State) : onlyChanges [.sen, .alm, .evq] s (dropHoldReg h s) :=
  .ite _ ((onlyChanges.refl _ s).onSen _) (.ite _ ((onlyChanges.refl _ s).onAlm _) ((onlyChanges.refl _ s).onEvq _))

theorem onlyChanges_holdTaken (h : HoldReg) (s : State) : onlyChanges [.sen, .alm, .evq] s (holdTaken h s) :=
  (onlyChanges_dropHoldReg h s).onEvq _

theorem stages_holdTaken (h : HoldReg) (s : State) :
    (holdTaken h s).obs.evq.q = s.obs.evq.q ∧ (holdTaken h s).obs.evq.nextAge = s.obs.evq.nextAge := by
  unfold holdTaken dropHoldReg
  split
  · exact ⟨rfl, rfl⟩
  · split <;> exact ⟨rfl, rfl⟩

theorem nextRowItem_of_nil {s : State} (h : s.obs.lens.rowDue = []) : nextRowItem s = s := by
  unfold nextRowItem
  rw [h]
  split <;> rfl

theorem opAccept_eq {h : HoldReg} {s : State} (hn : nextHold s = some h) (ho : occ s < 64) :
    opAccept s = addStage h.item (nextRowItem (holdTaken h s)) := by
  unfold opAccept
  rw [hn]
  exact if_neg (by omega)

theorem evq_addStage (i : Item) (s : State) : (addStage i s).obs.evq = { s.obs.evq with
    q := s.obs.evq.q ++ [⟨i, s.obs.evq.nextAge, none⟩], nextAge := s.obs.evq.nextAge + 1
    pinHi := (addStage i s).obs.evq.pinHi } := by
  obtain ⟨p, hp⟩ := occMoved_evq (occ s)
    (onEvq (fun e => { e with q := e.q ++ [⟨i, e.nextAge, none⟩], nextAge := e.nextAge + 1 }) s)
  unfold addStage
  rw [hp]
  rfl

theorem pinHi_occMoved {old : Nat} {s : State} (h : fld (reg s (aEvq + 0xC)) 0 7 ≤ occ s) :
    (occMoved old s).obs.evq.pinHi = true := by
  unfold occMoved
  extract_lets n hwm lwm s1 s2 s3
  have h1 : s1.obs.evq.pinHi = true := if_pos h
  have h2 : s2.obs.evq = s1.obs.evq := by unfold s2; split <;> simp
  have h3 : s3.obs.evq = s2.obs.evq := by unfold s3; split <;> simp
  have h4 : ∀ t : State, t.obs.evq = s3.obs.evq → t.obs.evq.pinHi = true := fun t ht => by rw [ht, h3, h2, h1]
  split
  · exact h4 _ (by simp)
  · exact h4 _ rfl

theorem onlyChanges_addStage (i : Item) (s : State) : onlyChanges [.obsRegs, .evq] s (addStage i s) :=
  (((onlyChanges.refl _ s).onEvq _)).trans (onlyChanges_occMoved _ _)

theorem occ_addStage (i : Item) (s : State) : occ (addStage i s) = occ s + 1 := by
  rw [occ, evq_addStage]
  simp [occ]

theorem pinHi_addStage {i : Item} {s : State} (h : fld (reg s (aEvq + 0xC)) 0 7 ≤ occ s + 1) :
    (addStage i s).obs.evq.pinHi = true := by
  refine pinHi_occMoved (Nat.le_trans (Nat.le_of_eq ?_) (Nat.le_trans h (Nat.le_of_eq ?_)))
  · rw [((onlyChanges.refl [.evq] s).onEvq _).reg_eq (aEvq + 0xC)]
  · simp [occ]

theorem holds_holdTaken {h : HoldReg} {s : State} (h1 : h.cls ≠ 1) (h2 : ¬ (h.cls = 2 ∧ h.src = 0)) :
    (holdTaken h s).obs.evq.holds = delFirst (fun x => x.cls == h.cls && x.src == h.src) s.obs.evq.holds := by
  unfold holdTaken dropHoldReg
  rw [if_neg h1, if_neg h2]
  rfl

/-- The row check's next item takes its register, where that is empty (R142). -/
theorem nextRowItem_takes {g : Nat} {i : Item} {rest : List (Nat × Item)} {s : State} (hd : s.obs.lens.rowDue = (g, i) :: rest)
    (hh : s.obs.evq.holds = []) (hi : i.pclass = 3) : nextRowItem s =
      onEvq (fun e => { e with holds := [⟨3, rowSrc, i⟩] }) (onLens (fun l => { l with rowDue := rest }) s) := by
  unfold nextRowItem
  rw [hh, hd]
  show push rowSrc i (onLens (fun l => { l with rowDue := rest }) s) = _
  have hl : (onLens (fun l => { l with rowDue := rest }) s).obs.evq.holds = [] := hh
  unfold push
  rw [if_neg (by omega), if_neg (by omega), hl, hi]
  dsimp only [List.find?_nil]
  simp only [onEvq, onObs, hl, List.nil_append]

/-! ## Hedger's operations (R180, R186) -/

theorem byHedger_stays {f : State → State} {s : State} (h : s.obs.evq.consAct = true) : byHedger f s = s := if_pos h

theorem goesTo_boxwoodReadStallEnd {s : State} (hr : running s) (hc : s.obs.evq.consAct = false) :
    goesTo .boxwoodReadStallEnd s (opStallEnd s) := run_byHedger hr hc opStallEnd

theorem opRead_of_none {s : State} (hch : s.obs.evq.changing = false) (ha : avail s = 0) : opRead s =
    if 64 ≤ occ s then onEvq (fun e => { e with out := none, none_ := true }) s
    else onEvq (fun e => { e with stalled := true }) s := by
  unfold opRead
  rw [if_neg (by simp [hch]), presented_none ha]

/-- Settles O29: acceptance by `nextHold_spec` and `evq_addStage`, READ by the selector's lemmas. -/
theorem boxwoodAcceptsAndReads : Obligations.BoxwoodAcceptsAndReads := by
  unfold Obligations.BoxwoodAcceptsAndReads
  refine ⟨?_, ?_, ?_, ?_, ?_, ?_, ?_⟩
  · intro h s hr hn ho hd
    refine ⟨nextHold_spec hn, ?_⟩
    have hg := goesTo_inObs (c := .boxwoodAccept) rfl hr
    have hf := onlyChanges_holdTaken h s
    obtain ⟨hq, hage⟩ := stages_holdTaken h s
    rw [opAccept_eq hn ho, nextRowItem_of_nil (by rw [hf.lens_eq]; exact hd)] at hg
    have ha := onlyChanges_addStage h.item (holdTaken h s)
    have he := evq_addStage h.item (holdTaken h s)
    have hocc : occ (holdTaken h s) = occ s := congrArg List.length hq
    refine ⟨_, hg, (hf.mono (by decide)).trans (ha.mono (by decide)), ?_, ?_, ?_, fun h1 => ?_, fun h1 h2 => ?_,
      fun h1 h2 hm => ?_, ?_, fun hp => ?_⟩
    · rw [he, hq, hage]
    · rw [he, hage]
    · rw [occ_addStage, hocc]
    · rw [ha.sen_eq, holdTaken, dropHoldReg, if_pos h1]
      rfl
    · rw [ha.alm_eq, holdTaken, dropHoldReg, if_neg (by omega), if_pos ⟨h1, h2⟩]
      rfl
    · rw [he]
      dsimp only
      rw [holds_holdTaken h1 h2]
      exact length_delFirst hm (by simp)
    · rw [ha.sen_eq, holdTaken, dropHoldReg]
      split
      · rfl
      · split <;> rfl
    · refine pinHi_addStage ?_
      rw [hf.reg_eq (aEvq + 0xC), hocc]
      rwa [occ_addStage, hocc] at hp
  · intro h g i rest s hr hn ho hd hh h3 hs hi
    have hg := goesTo_inObs (c := .boxwoodAccept) rfl hr
    have he : holdTaken h s = onEvq (fun e => { e with
        rrCls := (h.cls + 1) % 8, rrSrc := smPut natD e.rrSrc h.cls ((h.src + 1) % 4096), holds := [] }) s := by
      unfold holdTaken dropHoldReg
      rw [if_neg (by omega), if_neg (by omega)]
      simp [onEvq, onObs, hh, delFirst]
    have hlens : (holdTaken h s).obs.lens.rowDue = (g, i) :: rest := by rw [he]; exact hd
    rw [opAccept_eq hn ho, nextRowItem_takes hlens (by rw [he]; rfl) hi] at hg
    obtain ⟨hq, hage⟩ := stages_holdTaken h s
    have hv := evq_addStage h.item (onEvq (fun e => { e with holds := [⟨3, rowSrc, i⟩] })
      (onLens (fun l => { l with rowDue := rest }) (holdTaken h s)))
    have ha := onlyChanges_addStage h.item (onEvq (fun e => { e with holds := [⟨3, rowSrc, i⟩] })
      (onLens (fun l => { l with rowDue := rest }) (holdTaken h s)))
    refine ⟨_, hg, ?_, ?_, ?_, ?_⟩
    · refine onlyChanges.trans ?_ (ha.mono (by decide))
      rw [he]
      exact (((onlyChanges.refl _ s).onEvq _).onLens _).onEvq _
    · rw [ha.lens_eq]
      rfl
    · rw [hv]
      rfl
    · rw [hv]
      exact congr (congrArg (fun q a => q ++ [⟨h.item, a, none⟩]) hq) hage
  · intro s n hr hc c hm
    simp only [List.mem_cons, List.not_mem_nil, or_false] at hm
    rcases hm with rfl | rfl | rfl | rfl | rfl <;> exact exec_stays rfl hr.1 (byHedger_stays hc)
  · intro q s hr hc hch hp
    refine ⟨⟨(presented_mem hp).1, (presented_mem hp).2, presented_prio_le hp⟩, ?_⟩
    refine ⟨_, goesTo_boxwoodRead hr hc, ?_⟩
    rw [opRead_of_presented hch hp]
    exact ⟨(onlyChanges.refl _ s).onEvq _, rfl, occ_readItem q s, avail_readItem hp, rfl, rfl⟩
  · intro s hr hc hch ha ho
    refine ⟨_, goesTo_boxwoodRead hr hc, ?_⟩
    rw [opRead_of_none hch ha, if_neg (by omega)]
    exact ⟨(onlyChanges.refl _ s).onEvq _, rfl⟩
  · intro s hr hc hch ha ho
    refine ⟨_, goesTo_boxwoodRead hr hc, ?_⟩
    rw [opRead_of_none hch ha, if_pos ho]
    exact ⟨(onlyChanges.refl _ s).onEvq _, rfl⟩
  · intro q s hr hc hst hp
    refine ⟨_, goesTo_boxwoodReadStallEnd hr hc, ?_⟩
    have he : opStallEnd s = readItem q s := by simp [opStallEnd, hst, hp]
    rw [he]
    exact ⟨(onlyChanges.refl _ s).onEvq _, rfl, rfl, avail_readItem hp⟩

/-! ## The drain engine (R187) -/

/-- What READs of the drain engine change: the stages, RSEQ and the output registers. -/
def readsOnly (s t : State) : Prop := onlyChanges [.evq] s t ∧ t.obs.evq.mark = s.obs.evq.mark ∧
  t.obs.evq.hrTail = s.obs.evq.hrTail ∧ t.obs.evq.hrBase = s.obs.evq.hrBase ∧ t.obs.evq.hrHead = s.obs.evq.hrHead

theorem readsOnly_readItem {s t : State} (h : readsOnly s t) (q : QItem) : readsOnly s (readItem q t) := by
  obtain ⟨hf, hm, ht, hb, hh⟩ := h
  exact ⟨hf.onEvq _, hm, ht, hb, hh⟩

/-- While that many items are unread, each READ returns one. -/
theorem drainReads_spec (k : Nat) (acc : List Item) (s t : State) (hk : k ≤ avail t) (h : readsOnly s t) :
    (drainReads k acc t).1.length = acc.length + k ∧ readsOnly s (drainReads k acc t).2 := by
  induction k generalizing acc t with
  | zero => exact ⟨rfl, h⟩
  | succ k ih =>
    obtain ⟨q, hq⟩ := presented_of_avail (s := t) (by omega)
    have ha := avail_readItem hq
    obtain ⟨hl, hr⟩ := ih (acc ++ [shown t q.item]) (readItem q t) (by omega) (readsOnly_readItem h q)
    have he : drainReads (k + 1) acc t = drainReads k (acc ++ [shown t q.item]) (readItem q t) := by rw [drainReads, hq]
    rw [he]
    exact ⟨by rw [hl, List.length_append, List.length_singleton]; omega, hr⟩

/-- The items of one batch: what one block, the ring and the stages allow. -/
def batchLen (s : State) : Nat :=
  min (4 - s.obs.evq.hrTail % 4) (min ((s.obs.evq.hrHead + hrN s - s.obs.evq.hrTail - 1) % hrN s) (avail s))

/-- The batch as its write is handed over. -/
def batchPut (s : State) (r : List Item × State) : State :=
  addPiece ⟨2, 1, 0, .drain r.1.length ((r.2.obs.evq.rseq + 2 ^ 16 - 1) % 2 ^ 16) r.1,
    s.obs.evq.hrBase + 16 * s.obs.evq.hrTail, r.1.flatMap itemWords⟩ (onEvq (fun e => { e with batch := true, redo := false }) r.2)

theorem opDrain_eq {s : State} (hc : s.obs.evq.consAct = true) (hch : s.obs.evq.changing = false)
    (hb : s.obs.evq.batch = false) (hr : s.obs.evq.redo = false) (hh : hangHolds s = false) (hn : 0 < hrN s)
    (ha : 0 < avail s) (hk : 0 < batchLen s) : opDrain s = batchPut s (drainReads (batchLen s) [] (opMark s)) := by
  unfold opDrain
  dsimp only
  rw [if_neg (by simp [hc, hch, hb, hh]; omega)]
  rw [if_neg (Nat.ne_of_gt hk : ¬ min (4 - s.obs.evq.hrTail % 4)
    (min ((s.obs.evq.hrHead + hrN s - s.obs.evq.hrTail - 1) % hrN s) (avail s)) = 0), if_neg (by simp [hr])]
  rfl

/-- Settles O33: the change by its definition, a batch by `drainReads_spec`. -/
theorem consumerAndDrain : Obligations.ConsumerAndDrain := by
  unfold Obligations.ConsumerAndDrain
  refine ⟨?_, ?_⟩
  · intro s hr hch hq
    refine ⟨_, goesTo_inObs rfl hr, ?_⟩
    have hall : (s.obs.evq.changing && s.obs.evq.q.all (fun i => i.read.isNone)) = true := by simpa [hch] using hq
    have he : opConsumerEffect s = onEvq (fun e => { e with
      consAct := bit (reg s aEvq) 0, changing := false, mark := e.rseq, stalled := false, batch := false, redo := false }) s :=
      if_pos hall
    rw [he]
    exact ⟨(onlyChanges.refl _ s).onEvq _, rfl, rfl, rfl, rfl, rfl⟩
  · intro s hr hc hch hb hre hh hn ha hroom
    have hk : 0 < batchLen s := by
      unfold batchLen
      omega
    have hg := goesTo_inObs (c := .drainBatch) rfl hr
    rw [opDrain_eq hc hch hb hre hh hn ha hk] at hg
    have hle : batchLen s ≤ avail (opMark s) := Nat.le_trans (Nat.min_le_right _ _) (Nat.min_le_right _ _)
    obtain ⟨hl, hf, hm, -, -, -⟩ := drainReads_spec (batchLen s) [] (opMark s) (opMark s) hle
      ⟨.refl _ _, rfl, rfl, rfl, rfl⟩
    generalize hd : drainReads (batchLen s) [] (opMark s) = r at hg hl hf hm
    have h0 : onlyChanges [.evq, .smp] s r.2 := ((onlyChanges.refl _ s).onEvq _).trans (hf.mono (by decide))
    refine ⟨_, r.1, hg, (h0.onEvq _).onSmp _, rfl, hm, hl.trans (Nat.zero_add _), ?_⟩
    show r.2.obs.smp.pieces ++ _ = _
    rw [hf.smp_eq]
    rfl

end Sys2Proof.Machine
end

section
/-! SUPPORT. Blackthorn's detections and ZEROIZE (chapter 12): the statement about them. -/

namespace Sys2Proof.Machine

open Sys2Proof.Safety

set_option Elab.async false

/-! ## Frames -/

section Frame

variable {ps : List Part} {s t : State} (h : onlyChanges ps s t)
include h

theorem onlyChanges_finishDump (d : Dump) (stamp : Nat) (hx : .ctxs ∈ ps := by decide) (hw : .wat ∈ ps := by decide)
    (he : .evq ∈ ps := by decide) (ho : .obsRegs ∈ ps := by decide) : onlyChanges ps s (finishDump d stamp t) := by
  unfold finishDump
  have hp := (((h.giveRec d.ctx ⟨stamp, .watchEnd d.watch d.seq d.status d.irreg (d.source == 0) d.faults d.bytesOut⟩ hx).onWat
    (fun w => { w with
      dumps := delFirst (fun x => x.id == d.id) w.dumps
      xlt := w.xlt.map fun x => if x.dump = d.id then { x with dead := true } else x }) hw).push 0 0x42 d.part d.watch
      (BitVec.ofNat 32 d.status) stamp (by decide) (.inr (by decide)) (.inr (by decide)) (.inl he) ho)
  dsimp only
  split
  · exact hp
  · exact .ite _ hp (.ite _ (hp.setWatch _ _ hw) (hp.setWatch _ _ hw))

theorem onlyChanges_endDump (id status stamp : Nat) (hx : .ctxs ∈ ps := by decide) (hw : .wat ∈ ps := by decide)
    (he : .evq ∈ ps := by decide) (ho : .obsRegs ∈ ps := by decide) : onlyChanges ps s (endDump id status stamp t) := by
  unfold endDump
  split
  · exact onlyChanges_finishDump h _ _ hx hw he ho
  · exact h

theorem onlyChanges_endDumps (p : Dump → Bool) (status stamp : Nat) (hx : .ctxs ∈ ps := by decide) (hw : .wat ∈ ps := by decide)
    (he : .evq ∈ ps := by decide) (ho : .obsRegs ∈ ps := by decide) : onlyChanges ps s (endDumps p status stamp t) :=
  h.foldl (fun _ _ ha => onlyChanges_endDump ha _ _ _ hx hw he ho) _

theorem onlyChanges_loseTiming (p : Nat) (hx : .ctxs ∈ ps := by decide) : onlyChanges ps s (loseTiming p t) :=
  h.foldl (fun _ _ ha => ha.onCtx _ _ hx) _

theorem onlyChanges_egrSend (m : Nat) (b : List Byte) (he : .egr ∈ ps := by decide) : onlyChanges ps s (egrSend m b t) :=
  (h.onEgr _ he).onEgr _ he

theorem onlyChanges_egrSkipped (ho : .obsRegs ∈ ps := by decide) : onlyChanges ps s (egrSkipped t) :=
  .ite _ (h.bumpReg _ _ _ _ ho) h

/-- The slots that meet `p` are given up and counted, and their instances told. -/
def slotsGone (p : ESlot → Bool) (c : Nat) (s : State) : State :=
  (s.obs.egr.slots.filter p).foldl (fun a x => if x.origin = a.aon.instId then a else sendOutcome x.origin x.frame 2 c a)
    (bumpReg (aEgr + 0x10) 0 32 (s.obs.egr.slots.filter p).length
      (onEgr (fun e => { e with slots := e.slots.filter fun x => !p x }) s))

theorem onlyChanges_slotsGone (p : ESlot → Bool) (c : Nat) (he : .egr ∈ ps := by decide) (hf : .fab ∈ ps := by decide)
    (ho : .obsRegs ∈ ps := by decide) : onlyChanges ps s (slotsGone p c t) := by
  have hr : regPart (aEgr + 0x10) = .obsRegs := by decide
  exact ((h.onEgr _ he).bumpReg _ _ _ _ (hr ▸ ho)).foldl (fun _ x ha => .ite _ ha (ha.fabSend _ _ _ _ hf)) _

theorem onlyChanges_loseSlots (p : ESlot → Bool) (c : Nat) (he : .egr ∈ ps := by decide) (hf : .fab ∈ ps := by decide)
    (ho : .obsRegs ∈ ps := by decide) : onlyChanges ps s (loseSlots p c t) := by
  have hg := onlyChanges_slotsGone h p c he hf ho
  exact .ite _ h (.ite _ (hg.foldl (fun _ _ ha => onlyChanges_egrSend ha _ _ he) _) hg)

theorem onlyChanges_withholdEgress (he : .egr ∈ ps := by decide) (hf : .fab ∈ ps := by decide)
    (ho : .obsRegs ∈ ps := by decide) : onlyChanges ps s (withholdEgress t) :=
  (h.onEgr _ he).foldl (fun _ _ ha => .ite _ (onlyChanges_egrSkipped ha ho) (ha.fabSend _ _ _ _ hf)) _

end Frame

/-! ## What the work of an alarm leaves -/

/-- The cause bits, the actions of the first four causes, and the detectors' state. -/
def almView (s : State) : (Fin 8 → Bool) × Nat × Bool × Nat × Bool :=
  (fun i => bit (reg s aAlm) i, fld (reg s (aAlm + 4)) 0 8, s.aon.alm.frozen, s.aon.alm.tamperHeld, s.aon.alm.glitchHeld)

theorem almView_of_frame {ps : List Part} {s t : State} (h : onlyChanges ps s t) (hr : .aonRegs ∉ ps := by decide)
    (ha : .alm ∉ ps := by decide) : almView t = almView s := by
  have hreg : ∀ a, regAon a = true → reg t a = reg s a := fun a ht => h.reg_eq a (by simpa [regPart, ht] using hr)
  rw [almView, hreg _ (by decide), hreg _ (by decide), h.alm_eq ha]
  rfl

/-- The count of a host buffer, whatever its address, lies above the cause bits. -/
theorem almView_hbSkip (p : Nat) (s : State) : almView (hbSkip p s) = almView s := by
  have hlow (a : Nat) {lo n : Nat} (h : lo + n ≤ 8) :
      fld (reg (hbSkip p s) a) lo n = fld (reg s a) lo n := by
    by_cases ha : a = aPrv + 0x40 + 4 * p
    · rw [ha]
      exact fld_reg_bumpReg_other _ _ _ (by omega) (.inl (by omega))
    · rw [hbSkip, reg_bumpReg_other _ _ _ _ _ ha]
  have hbits : (fun i : Fin 8 => bit (reg (hbSkip p s) aAlm) i) = fun i : Fin 8 => bit (reg s aAlm) i := by
    funext i
    have := congrArg (fun n => n.testBit 0) (hlow aAlm (lo := i) (n := 1) (by omega))
    rw [testBit_fld, testBit_fld] at this
    simpa using this
  have halm : (hbSkip p s).aon.alm = s.aon.alm := by
    unfold hbSkip bumpReg setReg
    split <;> rfl
  rw [almView, hbits, hlow (aAlm + 4) (by decide), halm]
  rfl

/-- The parts that the work of an alarm can change beside its own. -/
abbrev alarmParts : List Part :=
  [.aonRegs, .obsRegs, .alm, .evq, .ctxs, .smp, .wat, .prv, .egr, .fab, .cut, .hang]

/-- From s to t only the work that follows an alarm's registration. -/
def afterAlarm (s t : State) : Prop := onlyChanges alarmParts s t ∧ almView t = almView s

theorem afterAlarm.refl (s : State) : afterAlarm s s := ⟨.refl _ s, rfl⟩

theorem afterAlarm.trans {s t u : State} (h : afterAlarm s t) (k : afterAlarm t u) : afterAlarm s u :=
  ⟨h.1.trans k.1, k.2.trans h.2⟩

theorem afterAlarm_of_frame {ps : List Part} {s t : State} (h : onlyChanges ps s t) (hs : ps ⊆ alarmParts := by decide)
    (hr : .aonRegs ∉ ps := by decide) (ha : .alm ∉ ps := by decide) : afterAlarm s t :=
  ⟨h.mono hs, almView_of_frame h hr ha⟩

theorem afterAlarm_hbSkip (p : Nat) (s : State) : afterAlarm s (hbSkip p s) := by
  refine ⟨(onlyChanges.refl _ s).bumpReg _ _ _ _ ?_, almView_hbSkip p s⟩
  unfold regPart
  split <;> decide

theorem afterAlarm.foldl {α : Type} {f : State → α → State} (hf : ∀ u x, afterAlarm u (f u x)) (l : List α) (s : State) :
    afterAlarm s (l.foldl f s) :=
  List.foldlRecOn l f (motive := fun a => afterAlarm s a) (.refl s) fun _ ha x _ => ha.trans (hf _ x)

theorem afterAlarm_stopHost (p : Frame → Bool) (s : State) : afterAlarm s (stopHost p s) :=
  (afterAlarm.foldl (fun u (f : Frame) => afterAlarm_hbSkip f.part u) _ s).trans
    (afterAlarm_of_frame (ps := [.smp]) ((onlyChanges.refl _ _).onSmp _))

/-! ## Consent (R274, R288) -/

/-- The part of a change of consent that is not in the partition's own state: times, host pieces, dumps. -/
def consentTail (p bits : Nat) (s t : State) : State :=
  let u := if bits.testBit 7 then t else loseTiming p t
  let v := if (partOf s p).consent.testBit 6 && !bits.testBit 6 then stopHost (fun f => f.part == p) u else u
  if (partOf s p).consent.testBit 3 && !bits.testBit 3 then watchConsentLost p v else v

theorem setConsent_eq (p bits : Nat) (s : State) : setConsent p bits s = consentTail p bits s (onPart p (fun q => { q with
    consent := bits, consentLog := q.consentLog ++ [(engGt s, (partOf s p).consent)] }) s) := rfl

theorem onlyChanges_hbSkip {ps : List Part} {s t : State} (h : onlyChanges ps s t) (p : Nat) (ha : .aonRegs ∈ ps := by decide)
    (ho : .obsRegs ∈ ps := by decide) : onlyChanges ps s (hbSkip p t) := by
  refine h.bumpReg _ _ _ _ ?_
  unfold regPart
  split
  · exact ha
  · exact ho

theorem onlyChanges_stopHost {ps : List Part} {s t : State} (h : onlyChanges ps s t) (p : Frame → Bool)
    (ha : .aonRegs ∈ ps := by decide) (ho : .obsRegs ∈ ps := by decide) (hm : .smp ∈ ps := by decide) :
    onlyChanges ps s (stopHost p t) :=
  (h.foldl (fun _ (f : Frame) hf => onlyChanges_hbSkip hf f.part ha ho) _).onSmp _ hm

theorem consentTail_frame (p bits : Nat) (s t : State) :
    onlyChanges [.aonRegs, .obsRegs, .ctxs, .smp, .wat, .evq] t (consentTail p bits s t) := by
  have h1 : onlyChanges [.aonRegs, .obsRegs, .ctxs, .smp, .wat, .evq] t (if bits.testBit 7 then t else loseTiming p t) :=
    .ite _ (.refl _ t) (onlyChanges_loseTiming (.refl _ t) p)
  have h2 := onlyChanges.ite ((partOf s p).consent.testBit 6 && !bits.testBit 6)
    (onlyChanges_stopHost h1 (fun f => f.part == p)) h1
  exact .ite _ (onlyChanges_endDumps h2 _ _ _) h2

theorem afterAlarm.ite {s t u : State} (c : Bool) (h : afterAlarm s t) (k : afterAlarm s u) :
    afterAlarm s (if c then t else u) := by
  cases c
  · exact k
  · exact h

theorem afterAlarm_consentTail (p bits : Nat) (s t : State) : afterAlarm t (consentTail p bits s t) := by
  have h1 : afterAlarm t (if bits.testBit 7 then t else loseTiming p t) :=
    .ite _ (.refl t) (afterAlarm_of_frame (ps := [.ctxs]) (onlyChanges_loseTiming (.refl _ t) p))
  have h2 := afterAlarm.ite ((partOf s p).consent.testBit 6 && !bits.testBit 6)
    (h1.trans (afterAlarm_stopHost (fun f => f.part == p) _)) h1
  exact .ite _ (h2.trans (afterAlarm_of_frame (ps := [.ctxs, .wat, .evq, .obsRegs]) (onlyChanges_endDumps (.refl _ _) _ _ _))) h2

theorem afterAlarm_setConsent (p bits : Nat) (s : State) : afterAlarm s (setConsent p bits s) := by
  rw [setConsent_eq]
  exact (afterAlarm_of_frame (ps := [.prv]) ((onlyChanges.refl _ s).onPart _ _)).trans (afterAlarm_consentTail _ _ _ _)

theorem partOf_setConsent (p bits : Nat) (s : State) (q : Nat) : partOf (setConsent p bits s) q =
    if q = p then { partOf s p with
      consent := bits, consentLog := (partOf s p).consentLog ++ [(engGt s, (partOf s p).consent)] } else partOf s q := by
  rw [setConsent_eq, (consentTail_frame _ _ _ _).partOf_eq]
  split
  · rename_i h
    rw [h, partOf_onPart_same]
  · rename_i h
    exact partOf_onPart_other _ _ _ _ h

theorem consent_clearConsent_list (l : List Nat) (s : State) (q : Nat) :
    (q ∈ l → (partOf (l.foldl (fun acc p => setConsent p 0 acc) s) q).consent = 0) ∧
      ((partOf s q).consent = 0 → (partOf (l.foldl (fun acc p => setConsent p 0 acc) s) q).consent = 0) ∧
      (partOf (l.foldl (fun acc p => setConsent p 0 acc) s) q).state = (partOf s q).state := by
  induction l generalizing s with
  | nil => exact ⟨fun h => absurd h List.not_mem_nil, id, rfl⟩
  | cons p l ih =>
    obtain ⟨h1, h2, h3⟩ := ih (setConsent p 0 s)
    rw [List.foldl_cons]
    refine ⟨fun h => ?_, fun h => h2 ?_, h3.trans ?_⟩
    · rcases List.mem_cons.mp h with rfl | h
      · exact h2 (by rw [partOf_setConsent, if_pos rfl])
      · exact h1 h
    · rw [partOf_setConsent]
      split
      · rfl
      · exact h
    · rw [partOf_setConsent]
      split
      · rename_i hq
        rw [hq]
      · rfl

/-- Every partition's consent is cleared, and no partition's state changes (R288). -/
theorem clearConsent_spec {s : State} (hc : s.build.crypto = true) {q : Nat} (hq : q < 16) :
    (partOf (clearConsent s) q).consent = 0 ∧ (partOf (clearConsent s) q).state = (partOf s q).state := by
  obtain ⟨h1, -, h3⟩ := consent_clearConsent_list (List.range (npart s.build)) s q
  exact ⟨h1 (List.mem_range.mpr (by rw [npart, hc]; exact hq)), h3⟩

theorem afterAlarm_clearConsent (s : State) : afterAlarm s (clearConsent s) :=
  .foldl (fun u p => afterAlarm_setConsent p 0 u) _ s

/-! ## Egress closes (R288, R305) -/

theorem egrState_fold (l : List ESlot) (c : Nat) (s : State) :
    (l.foldl (fun a x => if x.origin = a.aon.instId then a else sendOutcome x.origin x.frame 2 c a) s).obs.egr.state =
      s.obs.egr.state := by
  induction l generalizing s with
  | nil => rfl
  | cons x l ih =>
    rw [List.foldl_cons, ih]
    have h : onlyChanges [.fab] s (if x.origin = s.aon.instId then s else sendOutcome x.origin x.frame 2 c s) :=
      .ite _ (.refl _ s) ((onlyChanges.refl _ s).fabSend _ _ _ _)
    rw [h.egr_eq]

theorem egrState_slotsGone (p : ESlot → Bool) (c : Nat) (s : State) :
    (slotsGone p c s).obs.egr.state = s.obs.egr.state := by
  have hb := (onlyChanges.refl [.obsRegs] (onEgr (fun e => { e with slots := e.slots.filter fun x => !p x }) s)).bumpReg
    (aEgr + 0x10) 0 32 (s.obs.egr.slots.filter p).length
  rw [slotsGone, egrState_fold, hb.egr_eq]
  rfl

/-- The link that has gone down, as its loss is reported. -/
def linkCleared (reason : Nat) (s : State) : State :=
  onEgr (fun e => { e with
    lanes := 0, retraining := none, lastDown := reason, link := default, credits := 0, inbox := [], outKey := []
    inKey := [], ephemeral := [], stationKey := [], coreNonce := [], hello := [], outCtr := 0, inCtr := none
    lastMsg := none, loopback := false }) s

theorem egrDown_eq {reason : Nat} {s : State} (h : s.obs.egr.state ≠ 0) : egrDown reason s =
    orReg (aEgr + 0x1C) 2 (push 0 (mkItem 0x60 0 0 (BitVec.ofNat 32 reason)
      (engGt (linkCleared reason (loseSlots (fun _ => true) 5 (onEgr (fun e => { e with state := 0 }) s)))))
      (linkCleared reason (loseSlots (fun _ => true) 5 (onEgr (fun e => { e with state := 0 }) s)))) := if_neg h

/-- What the fall of the link changes. -/
theorem onlyChanges_egrDown {ps : List Part} {s t : State} (h : onlyChanges ps s t) (reason : Nat) (he : .egr ∈ ps := by decide)
    (hf : .fab ∈ ps := by decide) (ho : .obsRegs ∈ ps := by decide) (hv : .evq ∈ ps := by decide) :
    onlyChanges ps s (egrDown reason t) := by
  by_cases hs : t.obs.egr.state = 0
  · rw [egrDown, if_pos hs]
    exact h
  · have hr : regPart (aEgr + 0x1C) = .obsRegs := by decide
    rw [egrDown_eq hs]
    exact (((onlyChanges_loseSlots (h.onEgr _ he) _ _ he hf ho).onEgr _ he).push 0 0x60 _ _ _ _ (by decide) (.inr (by decide))
      (.inr (by decide)) (.inl hv) ho).orReg _ _ (hr ▸ ho)

theorem loseSlots_of_closed (p : ESlot → Bool) (c : Nat) {s : State} (h : s.obs.egr.state = 0) :
    (loseSlots p c s).obs.egr.state = 0 := by
  have hg : (slotsGone p c s).obs.egr.state = 0 := (egrState_slotsGone p c s).trans h
  have he : loseSlots p c s = if (s.obs.egr.slots.filter p).isEmpty then s else slotsGone p c s := by
    have : (if (slotsGone p c s).obs.egr.state = 3 ∨ (slotsGone p c s).obs.egr.state = 4 then
        (lossRanges (s.obs.egr.slots.filter p)).foldl (fun a r => egrSend 5 (le 1 r.1.origin ++ le 1 r.1.frame.part
          ++ le 1 r.1.frame.job ++ le 1 c ++ le 4 r.1.frame.ctx ++ le 4 r.1.frame.seq ++ le 4 r.2 ++ zeros 4) a) (slotsGone p c s)
        else slotsGone p c s) = slotsGone p c s := if_neg (by omega)
    rw [← this]
    rfl
  rw [he]
  split
  · exact h
  · exact hg

theorem egrState_egrDown (reason : Nat) (s : State) : (egrDown reason s).obs.egr.state = 0 := by
  by_cases hs : s.obs.egr.state = 0
  · rw [egrDown, if_pos hs, hs]
  · have hl := loseSlots_of_closed (fun _ => true) 5 (s := onEgr (fun e => { e with state := 0 }) s) rfl
    rw [egrDown_eq hs]
    generalize loseSlots (fun _ => true) 5 (onEgr (fun e => { e with state := 0 }) s) = u at hl
    have hf := ((onlyChanges.refl [.obsRegs, .evq] (linkCleared reason u)).push 0 0x60 0 0 (BitVec.ofNat 32 reason)
      (engGt (linkCleared reason u))).orReg (aEgr + 0x1C) 2
    rw [hf.egr_eq]
    exact hl

/-! ## An alarm whose action is ZEROIZE (R288) -/

/-- What follows the registration of an alarm of action a. -/
def alarmActs (a g : Nat) (s : State) : State :=
  if a = 0 then s
  else
    let s := trigger g 4 0 s
    let s := if s.aon.pwr.rstN then onAlm (fun m => { m with frozen := true }) s else s
    let s := if s.aon.pwr.rstN then withholdEgress (stopHost (fun _ => true) s) else s
    let s := wake 5 s
    if a = 2 then zeroize s else s

theorem alarm_eq (c : Nat) (arg : U32) (g : Nat) (s : State) :
    alarm c arg g s = alarmActs (almAct s c) g (alarmLogged c arg g s) := rfl

/-- FROZEN, with the frames that wait withheld. -/
def frozenAt (g : Nat) (s : State) : State :=
  withholdEgress (stopHost (fun _ => true) (onAlm (fun m => { m with frozen := true }) (trigger g 4 0 s)))

theorem afterAlarm_frozenAt (g : Nat) (s : State) :
    afterAlarm (onAlm (fun m => { m with frozen := true }) (trigger g 4 0 s)) (frozenAt g s) :=
  (afterAlarm_stopHost _ _).trans
    (afterAlarm_of_frame (ps := [.egr, .fab, .obsRegs]) (onlyChanges_withholdEgress (.refl _ _)))

theorem onlyChanges_frozenAt (g : Nat) (s : State) :
    onlyChanges [.aonRegs, .obsRegs, .alm, .smp, .egr, .fab, .cut, .hang] s (frozenAt g s) :=
  onlyChanges_withholdEgress (onlyChanges_stopHost (((onlyChanges.refl _ s).trigger _ _ _).onAlm _) _)

theorem alarmActs_zeroize {g : Nat} {s : State} (hr : s.aon.pwr.rstN = true) (hk : s.aon.pwr.clkAck = true)
    (hs : s.aon.pwr.stage = .awake) : alarmActs 2 g s = zeroize (frozenAt g s) := by
  have ht := (onlyChanges.refl [.cut, .hang] s).trigger g 4 0
  have h1 : (trigger g 4 0 s).aon.pwr.rstN = true := by rw [ht.pwr_eq, hr]
  have h2 : (onAlm (fun m => { m with frozen := true }) (trigger g 4 0 s)).aon.pwr.rstN = true := h1
  have hw : wake 5 (frozenAt g s) = frozenAt g s := by
    refine wake_of_awake ?_ ?_ <;> rw [(onlyChanges_frozenAt g s).pwr_eq] <;> assumption
  unfold alarmActs
  dsimp only
  rw [if_neg (by decide), if_pos h1, if_pos h2, if_pos rfl]
  exact congrArg zeroize hw

theorem zeroize_eq {s : State} (hc : s.build.crypto = true) (hr : s.aon.pwr.rstN = true) : zeroize s =
    egrDown 8 (clearConsent (onKeys (fun _ => default) (onAlm (fun m => { m with zeroizing := !m.zeroized }) s))) := by
  unfold zeroize
  dsimp only
  have h1 : (onAlm (fun m => { m with zeroizing := !m.zeroized }) s).build.crypto = true := hc
  have h2 : (onKeys (fun _ => default) (onAlm (fun m => { m with zeroizing := !m.zeroized }) s)).aon.pwr.rstN = true := hr
  rw [if_pos h1, if_pos h2]

/-- What ZEROIZE leaves (R288). -/
theorem zeroize_spec {s : State} (hc : s.build.crypto = true) (hr : s.aon.pwr.rstN = true) :
    (zeroize s).aon.keys = default ∧ almView (zeroize s) = almView s ∧ (zeroize s).obs.egr.state = 0 ∧
      ∀ q, q < 16 → (partOf (zeroize s) q).consent = 0 ∧ (partOf (zeroize s) q).state = (partOf s q).state := by
  obtain ⟨u, hu⟩ : ∃ u, onKeys (fun _ => default) (onAlm (fun m => { m with zeroizing := !m.zeroized }) s) = u := ⟨_, rfl⟩
  have hk : u.aon.keys = default := by rw [← hu]; rfl
  have hv : almView u = almView s := by rw [← hu]; rfl
  have hp : ∀ q, partOf u q = partOf s q := fun q => by rw [← hu]; rfl
  have hb : u.build.crypto = true := by rw [← hu]; exact hc
  have hcl := afterAlarm_clearConsent u
  have hd := onlyChanges_egrDown (.refl [.egr, .fab, .obsRegs, .evq] (clearConsent u)) 8
  rw [zeroize_eq hc hr, hu]
  refine ⟨?_, ?_, egrState_egrDown _ _, fun q hq => ?_⟩
  · rw [hd.keys_eq, hcl.1.keys_eq, hk]
  · rw [almView_of_frame hd, hcl.2, hv]
  · obtain ⟨h1, h2⟩ := clearConsent_spec hb hq
    rw [hd.partOf_eq, h1, h2, hp]
    exact ⟨rfl, rfl⟩

/-- An item that reaches Boxwood leaves the detectors. -/
theorem detectors_push (src : Nat) (i : Item) (s : State) :
    (push src i s).aon.alm.tamperHeld = s.aon.alm.tamperHeld ∧ (push src i s).aon.alm.glitchHeld = s.aon.alm.glitchHeld := by
  have hcount (c : Nat) (t : State) : (countOvf c t).aon.alm = t.aon.alm :=
    (onlyChanges_countOvf_any (.refl [.aonRegs, .obsRegs] t) c).alm_eq
  unfold push
  split
  · split
    · exact ⟨rfl, rfl⟩
    · rw [hcount]
      exact ⟨rfl, rfl⟩
  · split
    · split
      · exact ⟨rfl, rfl⟩
      · rw [hcount]
        exact ⟨rfl, rfl⟩
    · split
      · exact ⟨rfl, rfl⟩
      · rw [hcount]
        exact ⟨rfl, rfl⟩

theorem detectors_alarmLogged (c : Nat) (arg : U32) (g : Nat) (s : State) :
    (alarmLogged c arg g s).aon.alm.tamperHeld = s.aon.alm.tamperHeld ∧
      (alarmLogged c arg g s).aon.alm.glitchHeld = s.aon.alm.glitchHeld := by
  have hr := onlyChanges_alarmRecord (.refl [.ctxs] (push 0 (mkItem 0x20 0 c (BitVec.ofNat 32 (almAct s c)) g)
    (orReg aAlm (BitVec.ofNat 32 (2 ^ c)) (onAlm (fun m => { m with alarms := sat 255 (m.alarms + 1) }) s))))
    c (almAct s c) arg g
  obtain ⟨h1, h2⟩ := detectors_push 0 (mkItem 0x20 0 c (BitVec.ofNat 32 (almAct s c)) g)
    (orReg aAlm (BitVec.ofNat 32 (2 ^ c)) (onAlm (fun m => { m with alarms := sat 255 (m.alarms + 1) }) s))
  rw [alarmLogged, hr.alm_eq, h1, h2]
  exact ⟨rfl, rfl⟩

/-- The low byte of the actions holds those of the first four causes. -/
theorem almAct_of_view {s t : State} {c : Nat} (h : almView t = almView s) (hc : c < 4) : almAct t c = almAct s c := by
  have hf : fld (reg t (aAlm + 4)) 0 8 = fld (reg s (aAlm + 4)) 0 8 := congrArg (fun v => v.2.1) h
  refine fld_congr fun i hi => ?_
  have hb := congrArg (fun n => n.testBit (2 * c + i)) hf
  simpa [testBit_fld, show 2 * c + i < 8 by omega] using hb

/-- What an alarm of action ZEROIZE does while the OBS domain runs awake (R288). -/
theorem alarm_zeroizes {c : Nat} (arg : U32) (g : Nat) {s : State} (hr : running s) (hb : s.build.crypto = true)
    (hc : c < 8) (ha : almAct s c = 2) (hs : s.aon.pwr.stage = .awake) (hl : c < 4) :
    bit (reg (alarm c arg g s) aAlm) c = true ∧ alarmOut (alarm c arg g s) = true ∧ irqLine (alarm c arg g s) 2 = true ∧
      (alarm c arg g s).aon.alm.frozen = true ∧
      (alarm c arg g s).aon.alm.tamperHeld = s.aon.alm.tamperHeld ∧
      (alarm c arg g s).aon.alm.glitchHeld = s.aon.alm.glitchHeld ∧ (alarm c arg g s).aon.keys = default ∧
      (∀ p, p < 16 → (partOf (alarm c arg g s) p).consent = 0 ∧ (partOf (alarm c arg g s) p).state = (partOf s p).state) ∧
      (alarm c arg g s).obs.egr.state = 0 := by
  obtain ⟨-, hrst, hk⟩ := (obsRuns_iff s).mp hr.2
  have hf := onlyChanges_alarmLogged c arg g s
  have hz := onlyChanges_frozenAt g (alarmLogged c arg g s)
  have he : alarm c arg g s = zeroize (frozenAt g (alarmLogged c arg g s)) := by
    rw [alarm_eq, ha]
    exact alarmActs_zeroize (by rw [hf.pwr_eq, hrst]) (by rw [hf.pwr_eq, hk]) (by rw [hf.pwr_eq, hs])
  obtain ⟨h1, h2, h3, h4⟩ := zeroize_spec (s := frozenAt g (alarmLogged c arg g s))
    (by rw [hz.build_eq, hf.build_eq, hb]) (by rw [hz.pwr_eq, hf.pwr_eq, hrst])
  have ht := (onlyChanges.refl [.cut, .hang] (alarmLogged c arg g s)).trigger g 4 0
  have hv : almView (alarm c arg g s) =
      almView (onAlm (fun m => { m with frozen := true }) (trigger g 4 0 (alarmLogged c arg g s))) := by
    rw [he, h2, (afterAlarm_frozenAt _ _).2]
  have hbit : bit (reg (alarm c arg g s) aAlm) c = true := by
    have h := congrFun (congrArg Prod.fst hv) ⟨c, hc⟩
    refine h.trans ?_
    show bit (reg (trigger g 4 0 (alarmLogged c arg g s)) aAlm) c = true
    rw [ht.reg_eq aAlm]
    exact bit_alarmLogged c (by omega) _ _ _
  have hact : almAct (alarm c arg g s) c = 2 := by
    rw [almAct_of_view hv hl]
    show fld (reg (trigger g 4 0 (alarmLogged c arg g s)) (aAlm + 4)) (2 * c) 2 = 2
    rw [ht.reg_eq (aAlm + 4), reg_alarmLogged _ _ _ _ (by decide), reg_orReg_other _ _ _ (by decide)]
    exact ha
  have halm : (trigger g 4 0 (alarmLogged c arg g s)).aon.alm.tamperHeld = s.aon.alm.tamperHeld ∧
      (trigger g 4 0 (alarmLogged c arg g s)).aon.alm.glitchHeld = s.aon.alm.glitchHeld := by
    rw [ht.alm_eq]
    exact detectors_alarmLogged c arg g s
  refine ⟨hbit, ?_, ?_, congrArg (fun v => v.2.2.1) hv, (congrArg (fun v => v.2.2.2.1) hv).trans halm.1,
    (congrArg (fun v => v.2.2.2.2) hv).trans halm.2, by rw [he, h1], fun p hp => ?_, by rw [he, h3]⟩
  · rw [alarmOut, List.any_eq_true]
    exact ⟨c, List.mem_range.mpr hc, by rw [hbit, hact]; rfl⟩
  · refine and_ne_zero_of_bit (i := c) hbit ?_
    have : ∀ i < 8, bit (0xFF#32) i = true := by decide
    exact this c hc
  · obtain ⟨h5, h6⟩ := h4 p hp
    rw [he, h5, h6, hz.partOf_eq, hf.partOf_eq]
    exact ⟨rfl, rfl⟩

/-! ## The detectors (R287) -/

/-- With no line held, the lines that are new are those that are high. -/
theorem newLines_of_none (lines : Nat) :
    maskOf ((maskBits 4 lines).filter fun i => !(0 : Nat).testBit i) = lines % 16 := by
  refine Nat.eq_of_testBit_eq fun i => ?_
  rw [testBit_maskOf, show 16 = 2 ^ 4 from rfl, Nat.testBit_mod_two_pow, Bool.eq_iff_iff]
  simp [mem_maskBits]

/-- With every line of a level held, none is new. -/
theorem newLines_of_held (lines : Nat) : maskOf ((maskBits 4 lines).filter fun i => !lines.testBit i) = 0 := by
  refine Nat.eq_of_testBit_eq fun i => ?_
  rw [testBit_maskOf, Nat.zero_testBit, decide_eq_false_iff_not]
  simp [mem_maskBits]

theorem opTamper_registers {lines : Nat} {s : State} (hn : s.aon.pwr.aonRstN = true) (hl : lines % 16 ≠ 0)
    (hh : s.aon.alm.tamperHeld = 0) : ∃ seen, opTamper lines s =
      alarm 0 (BitVec.ofNat 32 (lines % 16)) s.aon.tb.rootGt
        (onAlm (fun m => { m with tamperHeld := lines % 16, tamperSeen := seen }) s) := by
  refine ⟨s.aon.alm.tamperSeen ||| lines % 16, ?_⟩
  unfold opTamper
  rw [if_neg (by simp [hn]), hh]
  dsimp only
  rw [newLines_of_none, if_neg hl]
  simp only [onAlm, onAon, hh, Nat.zero_or]

/-- Settles O36: a registration by `alarm_zeroizes`, the ends of detections by their definitions. -/
theorem detections : Obligations.Detections := by
  unfold Obligations.Detections
  refine ⟨?_, ?_, ?_, ?_, ?_, ?_, ?_⟩
  · intro lines s hr hb hl hh ha hs
    obtain ⟨seen, he⟩ := opTamper_registers ((obsRuns_iff s).mp hr.2).1 hl hh
    have hg := goesTo_run (c := .tamperRegister lines) rfl hr.1
    rw [he] at hg
    have hu : onlyChanges [.alm] s (onAlm (fun m => { m with tamperHeld := lines % 16, tamperSeen := seen }) s) :=
      (onlyChanges.refl _ s).onAlm _
    obtain ⟨h1, h2, h3, h4, h5, -, h7, h8, h9⟩ := alarm_zeroizes (c := 0) (BitVec.ofNat 32 (lines % 16)) s.aon.tb.rootGt
      (s := onAlm (fun m => { m with tamperHeld := lines % 16, tamperSeen := seen }) s) hr hb (by decide) ha hs (by decide)
    exact ⟨_, hg, h1, h2, h3, h4, h5, h7, fun p hp => ⟨(h8 p hp).1, (h8 p hp).2.trans (by rw [hu.partOf_eq])⟩, h9⟩
  · intro lines s hr hh hl
    refine exec_stays rfl hr.1 ?_
    unfold opTamper
    rw [if_neg (by simp [((obsRuns_iff s).mp hr.2).1]), hh]
    dsimp only
    rw [newLines_of_held, if_pos rfl]
  · intro v s hr hb hh ha hs
    have he : opGlitch v true s = alarm 1 (BitVec.ofNat 32 (b2n v + 2 * b2n true)) s.aon.tb.rootGt
        (onAlm (fun m => { m with glitchHeld := true }) s) :=
      if_neg (by simp [((obsRuns_iff s).mp hr.2).1, hh])
    have hg := goesTo_run (c := .glitchDetect v true) rfl hr.1
    rw [he] at hg
    obtain ⟨h1, h2, h3, h4, -, h6, h7, h8, h9⟩ := alarm_zeroizes (c := 1) (BitVec.ofNat 32 (b2n v + 2 * b2n true))
      s.aon.tb.rootGt (s := onAlm (fun m => { m with glitchHeld := true }) s) hr hb (by decide) ha hs (by decide)
    exact ⟨_, hg, h1, h2, h3, h4, h6, h7, fun p hp => (h8 p hp).1, h9⟩
  · intro v c s hr hh
    exact exec_stays rfl hr.1 (if_pos (by simp [hh]))
  · intro line s hs hn _ _
    refine ⟨_, goesTo_run rfl hs, ?_⟩
    have he : opTamperRelease line s = onAlm (fun m => { m with
      tamperHeld := maskOf ((maskBits 4 m.tamperHeld).filter fun i => i != line) }) s := if_neg (by simp [hn])
    rw [he]
    exact ⟨(onlyChanges.refl _ s).onAlm _, fun k hk => testBit_maskOf_without hk, rfl⟩
  · intro s hs hn
    refine ⟨_, goesTo_run rfl hs, ?_⟩
    have he : opGlitchClear s = onAlm (fun m => { m with glitchHeld := false }) s := if_neg (by simp [hn])
    rw [he]
    exact ⟨(onlyChanges.refl _ s).onAlm _, rfl⟩
  · intro s hs hz
    refine ⟨_, goesTo_run rfl hs, ?_⟩
    have he : opZeroizeComplete s = onAlm (fun m => { m with zeroizing := false, zeroized := true }) s := if_pos hz
    rw [he]
    exact ⟨(onlyChanges.refl _ s).onAlm _, rfl⟩

end Sys2Proof.Machine
end

section
/-! SUPPORT. The walk of a dump through the translation port (chapter 7): the statement about it. -/

namespace Sys2Proof.Machine

open Sys2Proof.Safety

set_option Elab.async false

/-! ## The walk of one dump -/

theorem dumpOf_single {s : State} {d : Dump} (h : s.obs.wat.dumps = [d]) : dumpOf s d.id = some d := by
  simp [dumpOf, h]

theorem onDump_single {s : State} {d : Dump} (f : Dump → Dump) (h : s.obs.wat.dumps = [d]) :
    onDump d.id f s = onWat (fun w => { w with dumps := [f d] }) s := by
  simp [onDump, onWat, onObs, h, modFirst]

section Walk

variable {s : State} {d : Dump} {id : Nat} (hd : dumpOf s id = some d)
include hd

theorem walkXlt_rests (n : Nat) (hm : d.more = [])
    (h : ¬ (d.next < d.expect ∧ (d.pageBytes ≠ 0 ∨ (!xltBusy s id ∧ d.todo.isEmpty)))) : walkXlt (n + 1) id s = s := by
  unfold walkXlt
  rw [hd]
  dsimp only
  rw [hm]
  exact if_neg h

theorem walkXlt_asks {t : State} (n : Nat) (hm : d.more = []) (hn : d.next < d.expect) (hb : xltBusy s id = false)
    (ht : d.todo = []) (ha : askXlt d d.next (nextPoint d d.next) s = some t) :
    walkXlt (n + 1) id s = walkXlt n id (onDump id (fun e => { e with next := nextPoint d d.next }) t) := by
  have hc : d.next < d.expect ∧ (d.pageBytes ≠ 0 ∨ (!xltBusy s id ∧ d.todo.isEmpty)) :=
    ⟨hn, .inr ⟨by simp [hb], by simp [ht]⟩⟩
  conv => lhs; unfold walkXlt
  rw [hd]
  dsimp only
  rw [hm]
  dsimp only
  rw [if_pos hc, ha]

theorem walkReads_rests (n : Nat) (h : d.todo = []) : walkReads (n + 1) id s = s := by
  unfold walkReads
  rw [hd]
  dsimp only
  rw [h]

theorem walkReads_asks {t : State} (n off io len : Nat) (h : d.todo = [(off, io, len)])
    (hk : readRoom s d (min len (4096 - io % 4096)) = len) (h0 : 0 < len) (hb : len ≤ bufRoom s)
    (hi : issueRead (.watch id off len) d.part io (ceilDiv len 64) s = some t) :
    walkReads (n + 1) id s = walkReads n id (onDump id (fun e => { e with todo := [] }) t) := by
  conv => lhs; unfold walkReads
  rw [hd]
  dsimp only
  rw [h]
  dsimp only
  rw [hk, if_neg (by omega), hi]
  dsimp only
  rw [if_pos rfl]

end Walk

/-- The end of a walk's turn: the walk may be over. -/
def walkEnd (id : Nat) (s : State) : State :=
  match dumpOf s id with
  | some d =>
    if d.source = 0 ∨ d.ended then s
    else if d.limit ≠ 0 ∧ d.limit ≤ d.got0 then walkStop d s
    else if walkDone s d then onDump id (fun d => { d with ended := true }) s else s
  | none => s

theorem walk_eq (id : Nat) (s : State) : walk id s = walkEnd id (walkReads 64 id (walkXlt 64 id s)) := rfl

theorem walkEnd_rests {s : State} {d : Dump} {id : Nat} (hd : dumpOf s id = some d) (hl : d.limit = 0)
    (hw : walkDone s d = false) : walkEnd id s = s := by
  rw [walkEnd, hd]
  dsimp only
  rw [if_neg (by omega : ¬ (d.limit ≠ 0 ∧ d.limit ≤ d.got0)), hw]
  split <;> rfl

/-- The end of a walk's turn changes the watch state alone, and no count of faults. -/
theorem walkEnd_spec {s : State} {d : Dump} (hd : s.obs.wat.dumps = [d]) (hx : ∀ x ∈ s.obs.wat.xlt, x.dead = true) :
    onlyChanges [.wat] s (walkEnd d.id s) ∧ (walkEnd d.id s).obs.wat.dumps.map (·.faults) = [d.faults] ∧
      (walkEnd d.id s).obs.wat.xlt = s.obs.wat.xlt := by
  have hxlt : (s.obs.wat.xlt.map fun x => if x.dump = d.id then { x with dead := true } else x) = s.obs.wat.xlt := by
    refine (List.map_congr_left fun x hm => ?_).trans (List.map_id _)
    split
    · rw [← hx x hm]
      rfl
    · rfl
  rw [walkEnd, dumpOf_single hd]
  dsimp only
  split
  · exact ⟨.refl _ s, by rw [hd]; rfl, rfl⟩
  · split
    · refine ⟨(onlyChanges.refl _ s).onWat _, ?_, hxlt⟩
      simp [walkStop, hd, modFirst]
    · split
      · rw [onDump_single _ hd]
        exact ⟨(onlyChanges.refl _ s).onWat _, rfl, rfl⟩
      · exact ⟨.refl _ s, by rw [hd]; rfl, rfl⟩

theorem walkAll_single {s : State} {d : Dump} (hd : s.obs.wat.dumps = [d]) :
    walkAll s = if d.source != 0 && !d.ended then walk d.id s else s := by
  unfold walkAll
  rw [hd]
  cases hc : (d.source != 0 && !d.ended) <;> simp [hc]

/-- One dump, and the translations that are asked for. -/
def walking (d : Dump) (xs : List Xlt) (s : State) : State := onWat (fun w => { w with dumps := [d], xlt := xs }) s

theorem onDump_onSmp (id : Nat) (f : Dump → Dump) (g : Smp → Smp) (s : State) :
    onDump id f (onSmp g s) = onSmp g (onDump id f s) := rfl

theorem onDump_walking (d : Dump) (xs : List Xlt) (s : State) (f : Dump → Dump) :
    onDump d.id f (walking d xs s) = walking (f d) xs s := onDump_single f rfl

theorem dumpOf_walking (d : Dump) (xs : List Xlt) (s : State) : dumpOf (walking d xs s) d.id = some d := dumpOf_single rfl

theorem onlyChanges_walking (d : Dump) (xs : List Xlt) (s : State) : onlyChanges [.wat] s (walking d xs s) :=
  (onlyChanges.refl _ s).onWat _

/-- A walk with nothing to ask and nothing to read ends its turn. -/
theorem walk_rests {d : Dump} (hm : d.more = []) (ht : d.todo = []) (hn : d.expect ≤ d.next) (xs : List Xlt) (s : State) :
    walk d.id (walking d xs s) = walkEnd d.id (walking d xs s) := by
  rw [walk_eq, walkXlt_rests (dumpOf_walking d xs s) 63 hm (fun h => by omega),
    walkReads_rests (dumpOf_walking d xs s) 63 ht]

/-- A walk with no translation outstanding asks for one, and waits. -/
theorem walk_asks {d : Dump} (hm : d.more = []) (ht : d.todo = []) (hp : d.pageBytes = 0) (hl : d.limit = 0)
    (hn : d.next < d.expect) (s : State) : walk d.id (walking d [] s) =
      walking { d with next := nextPoint d d.next }
        [⟨0, d.id, d.next, nextPoint d d.next, d.va + d.next, d.asid, now s, false⟩] s := by
  have hask : askXlt d d.next (nextPoint d d.next) (walking d [] s) = some (walking d
      [⟨0, d.id, d.next, nextPoint d d.next, d.va + d.next, d.asid, now s, false⟩] s) := rfl
  have hbusy : xltBusy (walking { d with next := nextPoint d d.next }
      [⟨0, d.id, d.next, nextPoint d d.next, d.va + d.next, d.asid, now s, false⟩] s) d.id = true := by
    show ((d.id == d.id && !false) || false) = true
    simp
  have hd := dumpOf_walking { d with next := nextPoint d d.next }
    [⟨0, d.id, d.next, nextPoint d d.next, d.va + d.next, d.asid, now s, false⟩] s
  have hno : ¬ (nextPoint d d.next < d.expect ∧ (d.pageBytes ≠ 0 ∨ (!xltBusy (walking { d with next := nextPoint d d.next }
      [⟨0, d.id, d.next, nextPoint d d.next, d.va + d.next, d.asid, now s, false⟩] s) d.id ∧ d.todo.isEmpty))) := by
    rintro ⟨-, h | ⟨h, -⟩⟩
    · exact h hp
    · rw [hbusy] at h
      cases h
  rw [walk_eq, walkXlt_asks (dumpOf_walking d [] s) 63 hm hn rfl ht hask, onDump_walking]
  rw [walkXlt_rests hd 62 hm hno, walkReads_rests hd 63 ht]
  refine walkEnd_rests hd hl ?_
  simp [walkDone, hbusy]

/-! ## Ranges that are left unread (R153) -/

theorem xltFault_walking {x : Xlt} {d : Dump} (hi : d.id = x.dump) (xs : List Xlt) (s : State) :
    xltFault x (walking d xs s) = walkAll (walking { d with faults := d.faults + 1 } xs s) := by
  unfold xltFault
  rw [← hi, onDump_walking]

theorem xltFault_rests {x : Xlt} {d : Dump} (hi : d.id = x.dump) (hm : d.more = []) (ht : d.todo = [])
    (hn : d.expect ≤ d.next) {xs : List Xlt} (hx : ∀ y ∈ xs, y.dead = true) (s : State) :
    onlyChanges [.wat] s (xltFault x (walking d xs s)) ∧
      (xltFault x (walking d xs s)).obs.wat.dumps.map (·.faults) = [d.faults + 1] ∧
      (xltFault x (walking d xs s)).obs.wat.xlt = xs := by
  have h0 := onlyChanges_walking { d with faults := d.faults + 1 } xs s
  rw [xltFault_walking hi, walkAll_single (d := { d with faults := d.faults + 1 }) rfl]
  split
  · have hw := walk_rests (d := { d with faults := d.faults + 1 }) hm ht hn xs s
    obtain ⟨h1, h2, h3⟩ := walkEnd_spec (s := walking { d with faults := d.faults + 1 } xs s)
      (d := { d with faults := d.faults + 1 }) rfl hx
    rw [hw]
    exact ⟨h0.trans h1, h2, h3⟩
  · exact ⟨h0, rfl, rfl⟩

theorem xltFault_asks {x : Xlt} {d : Dump} (hi : d.id = x.dump) (hs : d.source ≠ 0) (he : d.ended = false)
    (hm : d.more = []) (ht : d.todo = []) (hp : d.pageBytes = 0) (hl : d.limit = 0) (hn : d.next < d.expect) (s : State) :
    xltFault x (walking d [] s) = walking { d with faults := d.faults + 1, next := nextPoint d d.next }
      [⟨0, d.id, d.next, nextPoint d d.next, d.va + d.next, d.asid, now s, false⟩] s := by
  have hc : (d.source != 0 && !d.ended) = true := by simp [hs, he]
  rw [xltFault_walking hi, walkAll_single (d := { d with faults := d.faults + 1 }) rfl, if_pos hc]
  exact walk_asks (d := { d with faults := d.faults + 1 }) hm ht hp hl hn s

/-! ## A range that is read -/

/-- A range within one read, with the watch buffer free, is read at once and the walk waits for it. -/
theorem walk_reads {d : Dump} {ioa : Nat} (hm : d.more = []) (ht : d.todo = [(0, ioa, d.expect)]) (hn : d.expect ≤ d.next)
    (hl : d.limit = 0) (hr : d.runs = []) (h0 : 0 < d.expect) (h4 : d.expect ≤ 4096) (ha : ioa % 4096 = 0) {s : State}
    (hw : d.expect ≤ s.build.watchBuf) (ho : s.obs.smp.rdOut = []) : walk d.id (walking d [] s) =
      onSmp (fun m => { m with rdOut := [⟨0, sidOf s d.part, .watch d.id 0 d.expect, ioa, ceilDiv d.expect 64⟩] })
        (walking { d with todo := [] } [] s) := by
  have hroom : readRoom (walking d [] s) d (min d.expect (4096 - ioa % 4096)) = d.expect := by
    rw [readRoom, if_pos hl]
    omega
  have hbuf : bufRoom (walking d [] s) = s.build.watchBuf := by
    simp [bufRoom, bufUsed, walking, hr, ho]
  have hread : issueRead (.watch d.id 0 d.expect) d.part ioa (ceilDiv d.expect 64) (walking d [] s) =
      some (onSmp (fun m => { m with rdOut := [⟨0, sidOf s d.part, .watch d.id 0 d.expect, ioa, ceilDiv d.expect 64⟩] })
        (walking d [] s)) := by
    unfold issueRead
    have hrd : (walking d [] s).obs.smp.rdOut = [] := ho
    rw [hrd]
    show some (onSmp _ (walking d [] s)) = _
    simp only [onSmp, onObs, hrd]
    rfl
  rw [walk_eq, walkXlt_rests (dumpOf_walking d [] s) 63 hm (fun h => by omega),
    walkReads_asks (dumpOf_walking d [] s) 63 0 ioa d.expect ht hroom h0 (by rw [hbuf]; exact hw) hread]
  have hd : dumpOf (onSmp (fun m => { m with rdOut := [⟨0, sidOf s d.part, .watch d.id 0 d.expect, ioa, ceilDiv d.expect 64⟩] })
      (walking { d with todo := [] } [] s)) d.id = some { d with todo := [] } := dumpOf_walking { d with todo := [] } [] s
  have ho : onDump d.id (fun e => { e with todo := [] }) (onSmp (fun m => { m with
      rdOut := [⟨0, sidOf s d.part, .watch d.id 0 d.expect, ioa, ceilDiv d.expect 64⟩] }) (walking d [] s)) =
      onSmp (fun m => { m with rdOut := [⟨0, sidOf s d.part, .watch d.id 0 d.expect, ioa, ceilDiv d.expect 64⟩] })
        (walking { d with todo := [] } [] s) := by rw [onDump_onSmp, onDump_walking]
  rw [ho, walkReads_rests hd 62 rfl]
  refine walkEnd_rests hd hl ?_
  simp [walkDone]

/-- The machine as an answer has taken its translation. -/
theorem answered_eq {x : Xlt} {d : Dump} {s : State} (hd : s.obs.wat.dumps = [d]) (hx : s.obs.wat.xlt = [x]) :
    onWat (fun w => { w with xlt := delFirst (fun y => y.tag == x.tag) w.xlt }) s = walking d [] s := by
  simp [walking, onWat, onObs, hx, hd, delFirst]

/-- Where the range that a translation answers ends. -/
def xltStop (x : Xlt) (l : Nat) (d : Dump) : Nat :=
  min d.expect (if d.pageBytes = 0 then x.offset + (2 ^ l - x.va % 2 ^ l) else min (x.offset + (2 ^ l - x.va % 2 ^ l)) x.stop)

/-- The dump as a range of it, up to a stop, has its I/O address. -/
def rangeTaken (x : Xlt) (ioa stop : Nat) (d : Dump) : Dump :=
  { d with
    todo := d.todo ++ [(x.offset, ioa, stop - x.offset)]
    next := if d.pageBytes = 0 then max d.next stop else d.next
    more := if d.pageBytes ≠ 0 ∧ stop < x.stop then d.more ++ [(stop, x.stop)] else d.more }

section Answer

variable {x : Xlt} {d : Dump} {s : State} (hd : s.obs.wat.dumps = [d]) (hx : s.obs.wat.xlt = [x]) (hdead : x.dead = false)
include hd hx hdead

theorem opXltResponse_fault (ioa l : Nat) : opXltResponse x.tag ioa l true s = xltFault x (walking d [] s) := by
  have hf : s.obs.wat.xlt.find? (fun y => y.tag == x.tag) = some x := by simp [hx]
  rw [opXltResponse, hf]
  dsimp only
  rw [hdead, if_neg (by decide), answered_eq hd hx]
  exact if_pos rfl

theorem opXltResponse_good (ioa : Nat) {l : Nat} (hi : d.id = x.dump) (h12 : 12 ≤ l) (h30 : l ≤ 30) :
    opXltResponse x.tag ioa l false s = walkAll (walking (rangeTaken x ioa (xltStop x l d) d) [] s) := by
  have hf : s.obs.wat.xlt.find? (fun y => y.tag == x.tag) = some x := by simp [hx]
  rw [opXltResponse, hf]
  dsimp only
  rw [hdead, if_neg (by decide), answered_eq hd hx, if_neg (by simp; omega), ← hi, dumpOf_walking]
  exact congrArg walkAll (onDump_walking d [] s (rangeTaken x ioa (xltStop x l d)))

end Answer

/-- Settles O43: each answer is one turn of the walk, `walk_reads`, `xltFault_rests` or `xltFault_asks`. -/
theorem translations : Obligations.Translations := by
  unfold Obligations.Translations
  refine ⟨?_, ?_, ?_, ?_, ?_⟩
  · intro x d ioa l s hr hx hdead hd hi hs he ht hm hp hruns ho h12 h30 ha hoff hva hlim h0 hle h4 hbuf
    have hg := goesTo_inObs (c := .xltResponse x.tag ioa l false) rfl hr
    have hstop : xltStop x l d = d.expect := by
      rw [xltStop, if_pos hp, hoff, hva]
      omega
    have hc : (d.source != 0 && !d.ended) = true := by simp [hs, he]
    have htake : rangeTaken x ioa (xltStop x l d) d =
        { d with todo := [(0, ioa, d.expect)], next := max d.next d.expect } := by
      simp [rangeTaken, hstop, ht, hp, hm, hoff]
    have ht' : opXltResponse x.tag ioa l false s =
        walk d.id (walking { d with todo := [(0, ioa, d.expect)], next := max d.next d.expect } [] s) := by
      rw [opXltResponse_good hd hx hdead ioa hi h12 h30, htake,
        walkAll_single (d := { d with todo := [(0, ioa, d.expect)], next := max d.next d.expect }) rfl, if_pos hc]
    rw [ht', walk_reads (d := { d with todo := [(0, ioa, d.expect)], next := max d.next d.expect }) hm rfl
      (Nat.le_max_right _ _) hlim hruns h0 h4 ha hbuf ho] at hg
    exact ⟨_, hg, (onlyChanges_walking _ _ s |>.mono (by decide)).onSmp _, rfl, rfl⟩
  · intro x d ioa l s hr hx hdead hd hi ht hm hn
    have hg := goesTo_inObs (c := .xltResponse x.tag ioa l true) rfl hr
    rw [opXltResponse_fault hd hx hdead] at hg
    obtain ⟨h1, h2, h3⟩ := xltFault_rests (x := x) hi hm ht hn (xs := []) (by simp) s
    exact ⟨_, hg, h1, h3, h2⟩
  · intro x d ioa l s hr hx hdead hd hi hs he ht hm hp hl hn
    have hg := goesTo_inObs (c := .xltResponse x.tag ioa l true) rfl hr
    rw [opXltResponse_fault hd hx hdead, xltFault_asks hi hs he hm ht hp hl hn] at hg
    exact ⟨_, hg, onlyChanges_walking _ _ s, rfl, rfl⟩
  · intro x d s hr hx hdead hd hi ht hm hn hq
    have hg := goesTo_inObs (c := .xltTimeout x.tag) rfl hr
    have he : opXltTimeout x.tag s = xltFault x (walking d [{ x with dead := true }] s) := by
      have hf : s.obs.wat.xlt.find? (fun y => y.tag == x.tag) = some x := by simp [hx]
      rw [opXltTimeout, hf]
      dsimp only
      rw [if_neg (by simp [hdead]; omega)]
      simp [walking, onWat, onObs, hx, hd, modFirst]
    rw [he] at hg
    obtain ⟨h1, h2, h3⟩ := xltFault_rests (x := x) hi hm ht hn (xs := [{ x with dead := true }]) (by simp) s
    exact ⟨_, hg, h1, h3, h2⟩
  · intro tag ioa l fault s hr hx
    have hf : s.obs.wat.xlt.find? (fun x => x.tag == tag) = none := by simpa using hx
    exact ⟨exec_stays rfl hr.1 (by simp [inObs, opXltResponse, hf]), exec_stays rfl hr.1 (by simp [inObs, opXltTimeout, hf])⟩

end Sys2Proof.Machine
end

section
/-! SUPPORT. The command engine (chapter 10): the flow of a command at the front, completing, parking, asking for a
buffer; the statement about `NOP` and `FENCE`. -/

namespace Sys2Proof.Machine

open Sys2Proof.Safety

set_option Elab.async false

/-! ## The front of a ring -/

theorem frontOf_spec {s : State} {r : Nat} {h : Held} (hf : frontOf s r = some h) :
    (ringOf s r).cur = none ∧ (ringOf s r).fetched.head? = some h := by
  unfold frontOf at hf
  dsimp only at hf
  split at hf
  · cases hf
  · rename_i hn
    simp only [Bool.or_eq_true, decide_eq_true_eq, not_or, Bool.not_eq_true, Option.isSome_eq_false_iff,
      Option.isNone_iff_eq_none] at hn
    exact ⟨hn.1.2, hf⟩

/-- What leaves the ring at its front. -/
theorem fetched_dropHeld {s : State} {r : Nat} {h : Held} (hf : frontOf s r = some h) (g : Ring)
    (hg : g.fetched = (ringOf s r).fetched) : (dropHeld h.seq g).fetched = (ringOf s r).fetched.tail := by
  obtain ⟨_, hh⟩ := frontOf_spec hf
  rw [dropHeld, hg]
  cases hl : (ringOf s r).fetched with
  | nil => rfl
  | cons x xs =>
    rw [hl] at hh
    cases hh
    simp [delFirst]

/-- A command at the front takes its effect. -/
theorem atFront_acts {c r : Nat} {h : Held} {s : State} (ha : atFrontOf c r h s) {p : Held → Bool} (hp : p h = true)
    (f : Nat → Held → State → State) : atFront p f r s = f r h s := by
  obtain ⟨_, hf, ho, hc, hm⟩ := ha
  unfold atFront
  rw [hf]
  dsimp only
  rw [if_pos hp]
  unfold command
  rw [hm]
  dsimp only
  rw [hc]

theorem checked_passes {r : Nat} {h : Held} {s : State} (hr : reservedBad h = false) (f : Nat → Held → State → State) :
    checked f r h s = f r h s := by
  unfold checked
  rw [if_neg (by simp [hr])]

/-- What a command at the front leads to where no key advances. -/
theorem goesTo_front {i : Instr} {c r : Nat} {h : Held} {s : State} {p : Held → Bool} {f : Nat → Held → State → State}
    (he : exec i s = run (inWriter (atFront p f r)) s) (ha : atFrontOf c r h s) (hp : p h = true)
    (hw : seqWrapped s (f r h s) = f r h s) : goesTo i s (f r h s) := by
  have e := atFront_acts ha hp f
  have g := goesTo_inWriter he ha.1 (by rwa [e])
  rwa [e] at g

theorem goesTo_execOp {i : Instr} {c r : Nat} {h : Held} {s : State} {f : Nat → Held → State → State}
    (he : exec i s = execOp c f r s) (ha : atFrontOf c r h s) (hw : seqWrapped s (f r h s) = f r h s) :
    goesTo i s (f r h s) :=
  goesTo_front (p := fun h => opOf h == c) he ha (by simp [ha.2.2.1]) hw

theorem goesTo_checked {i : Instr} {c r : Nat} {h : Held} {s : State} {f : Nat → Held → State → State}
    (he : exec i s = execOp c (checked f) r s) (ha : atFrontOf c r h s) (hb : reservedBad h = false)
    (hw : seqWrapped s (f r h s) = f r h s) : goesTo i s (f r h s) := by
  have e := checked_passes (r := r) (s := s) hb f
  have g := goesTo_execOp he ha (by rwa [e])
  rwa [e] at g

/-! ## Completing -/

theorem finish_ok (r : Nat) (h : Held) {st : Nat} (hst : st ≠ stNoConsent) (res : U32) (s : State) :
    finish r h st res false s = complete r h st res s := by
  simp [finish, hst]

theorem fail_ok (r : Nat) (h : Held) {st : Nat} (hst : st ≠ stNoConsent) (s : State) :
    fail r h st s = complete r h st 0 s := finish_ok r h hst 0 s

/-- Two states in which the ring, its registers and the engine's GT agree. -/
def ringAgrees (r : Nat) (s t : State) : Prop :=
  t.obs.cmd.rings = s.obs.cmd.rings ∧ reg t (aRing r) = reg s (aRing r) ∧ engGt t = engGt s

theorem ringAgrees_of_frame {ps : List Part} {s t : State} (h : onlyChanges ps s t) (r : Nat)
    (hc : t.obs.cmd.rings = s.obs.cmd.rings) (ht : .tb ∉ ps := by decide) (hh : .hed ∉ ps := by decide)
    (ho : .obsRegs ∉ ps := by decide) (ha : .aonRegs ∉ ps := by decide) : ringAgrees r s t :=
  ⟨hc, h.reg_eq (aRing r) (by unfold regPart; split <;> assumption), by simp [engGt, copyAt, h.now_eq ht, h.hed_eq hh]⟩

/-- Registers of a ring stand where no register of its block changes. -/
theorem ringAgrees_of_regs {ps : List Part} {s t : State} (h : onlyChanges ps s t) (r : Nat)
    (hr : reg t (aRing r) = reg s (aRing r)) (hc : .cmd ∉ ps := by decide) (ht : .tb ∉ ps := by decide)
    (hh : .hed ∉ ps := by decide) : ringAgrees r s t :=
  ⟨by rw [h.cmd_eq hc], hr, by simp [engGt, copyAt, h.now_eq ht, h.hed_eq hh]⟩

theorem ringAgrees_refl (r : Nat) (s : State) : ringAgrees r s s := ⟨rfl, rfl, rfl⟩

section Agree

variable {r : Nat} {s t : State} (ha : ringAgrees r s t)
include ha

theorem ringAgrees.ringOf_eq (q : Nat) : ringOf t q = ringOf s q := by simp [ringOf, ha.1]

theorem ringAgrees.ringM_eq : ringM t r = ringM s r := by simp [ringM, ha.2.1]

theorem ringAgrees.ringPart_eq : ringPart t r = ringPart s r := by simp [ringPart, ha.2.1]

theorem ringAgrees.entryPiece_eq (h : Held) (st : Nat) (res : U32) (n : Bool) :
    entryPiece t r h.seq (ringOf t r).cqTail (entryOf t r h.d st res) n =
      entryPiece s r h.seq (ringOf s r).cqTail (entryOf s r h.d st res) n := by
  simp [entryPiece, entryOf, ha.ringOf_eq, ha.ringPart_eq, ha.2.2]

end Agree

/-- What completing does to its ring. -/
theorem ringOf_complete (r : Nat) (h : Held) (st : Nat) (res : U32) (s : State) :
    ringOf (complete r h st res s) r = dropHeld h.seq { ringOf s r with
      cqTail := if (ringOf s r).cqTail + 1 = ringM s r then 0 else (ringOf s r).cqTail + 1
      phase := if (ringOf s r).cqTail + 1 = ringM s r then !(ringOf s r).phase else (ringOf s r).phase
      noirq := (ringOf s r).noirq ++ [((ringOf s r).cqTail, bit (h.d.w.getD 0 0) 12, false)]
      unacked := (ringOf s r).unacked ++ [h.seq] } := by
  unfold complete
  dsimp only
  rw [ringOf_onRing_same]
  rfl

theorem ringOf_complete_other (r : Nat) (h : Held) (st : Nat) (res : U32) (s : State) (q : Nat) (hq : q ≠ r) :
    ringOf (complete r h st res s) q = ringOf s q := by
  unfold complete
  dsimp only
  rw [ringOf_onRing_other _ _ _ _ hq]
  rfl

theorem pieces_complete (r : Nat) (h : Held) (st : Nat) (res : U32) (s : State) :
    (complete r h st res s).obs.smp.pieces = s.obs.smp.pieces ++
      [entryPiece s r h.seq (ringOf s r).cqTail (entryOf s r h.d st res) (bit (h.d.w.getD 0 0) 12)] := rfl

theorem ctxs_complete (r : Nat) (h : Held) (st : Nat) (res : U32) (s : State) :
    (complete r h st res s).obs.ctxs = s.obs.ctxs := rfl

theorem onlyChanges_complete (r : Nat) (h : Held) (st : Nat) (res : U32) (s : State) :
    onlyChanges [.smp, .cmd] s (complete r h st res s) := (onlyChanges.refl _ s).complete _ _ _ _

section Seen

variable (r : Nat) (h : Held) (st : Nat) (res : U32) (s : State)

theorem hang_complete : (complete r h st res s).obs.hang = s.obs.hang := rfl

theorem wat_complete : (complete r h st res s).obs.wat = s.obs.wat := rfl

theorem areaOf_complete (p : Nat) : areaOf (complete r h st res s) p = areaOf s p := rfl

theorem watchOf_complete (k : Nat) : watchOf (complete r h st res s) k = watchOf s k := rfl

theorem unitOf_complete (u : Nat) : unitOf (complete r h st res s) u = unitOf s u := rfl

theorem partOf_complete (p : Nat) : partOf (complete r h st res s) p = partOf s p := rfl

theorem ctxOf_complete (x : Nat) : ctxOf (complete r h st res s) x = ctxOf s x := rfl

theorem slotOf_complete (k : Nat) : slotOf (complete r h st res s) k = slotOf s k := rfl

end Seen

theorem queues_complete {r : Nat} {s t : State} (ha : ringAgrees r s t) (h : Held) (st : Nat) (res : U32) :
    queues r h st res s (complete r h st res t) := by
  refine ⟨?_, ?_, ?_⟩
  · rw [pieces_complete, ha.entryPiece_eq]
    simp
  · rw [ringOf_complete, ha.ringOf_eq, ha.ringM_eq]
    rfl
  · rw [ringOf_complete, ha.ringOf_eq, ha.ringM_eq]
    rfl

/-- A command at the front completes after an effect that leaves its ring. -/
theorem completes_complete {r : Nat} {h : Held} {s t : State} (hf : frontOf s r = some h) (ha : ringAgrees r s t)
    (st : Nat) (res : U32) : completes r h st res s (complete r h st res t) := by
  refine ⟨queues_complete ha h st res, ?_, fun q hq => ?_⟩
  · rw [ringOf_complete]
    exact fetched_dropHeld hf _ (by rw [ha.ringOf_eq])
  · rw [ringOf_complete_other _ _ _ _ _ _ hq, ha.ringOf_eq]

/-- A parked command completes after an effect that leaves its ring. -/
theorem ends_complete {r : Nat} {s t : State} (ha : ringAgrees r s t) (h : Held) (st : Nat) (res : U32) :
    ends r h st res s (complete r h st res t) := by
  refine ⟨queues_complete ha h st res, ?_, fun q hq => ?_⟩
  · rw [ringOf_complete, ha.ringOf_eq]
    rfl
  · rw [ringOf_complete_other _ _ _ _ _ _ hq, ha.ringOf_eq]

/-- A command at the front completes after an effect that leaves its ring and lets no key advance. -/
theorem goesTo_front_completes {i : Instr} {c r st : Nat} {res : U32} {h : Held} {s t : State} {p : Held → Bool}
    {f : Nat → Held → State → State} (he : exec i s = run (inWriter (atFront p f r)) s) (ha : atFrontOf c r h s)
    (hp : p h = true) (e : f r h s = complete r h st res t) (hg : ringAgrees r s t)
    (hw : seqWrapped s (complete r h st res t) = complete r h st res t) :
    goesTo i s (complete r h st res t) ∧ completes r h st res s (complete r h st res t) := by
  have g := goesTo_front he ha hp (by rwa [e])
  rw [e] at g
  exact ⟨g, completes_complete ha.2.1 hg _ _⟩

/-- An opcode whose effect, before it completes, leaves the contexts, the ring, its registers and the time. -/
theorem goesTo_completes {ps : List Part} {i : Instr} {c r st : Nat} {res : U32} {h : Held} {s t : State}
    {f : Nat → Held → State → State} (he : exec i s = execOp c f r s) (ha : atFrontOf c r h s)
    (e : f r h s = complete r h st res t) (hf : onlyChanges ps s t) (hx : .ctxs ∉ ps := by decide)
    (hc : .cmd ∉ ps := by decide) (ht : .tb ∉ ps := by decide) (hh : .hed ∉ ps := by decide)
    (ho : .obsRegs ∉ ps := by decide) (hr : .aonRegs ∉ ps := by decide) :
    goesTo i s (complete r h st res t) ∧ completes r h st res s (complete r h st res t) :=
  goesTo_front_completes (p := fun h => opOf h == c) he ha (by simp [ha.2.2.1]) e
    (ringAgrees_of_frame hf r (by rw [hf.cmd_eq hc]) ht hh ho hr)
    (seqWrapped_of_ctxs (by rw [ctxs_complete, hf.ctxs_eq hx]))

/-! ## Parking and asking -/

theorem mem_insertBy {α : Type} (after : α → α → Bool) (x : α) (l : List α) : x ∈ insertBy after x l := by
  obtain ⟨a, b, -, hi, -, -⟩ := insertBy_splits after x l
  simp [hi]

theorem ctxs_park (r : Nat) (h : Held) (st : Stage) (s : State) : (park r h st s).obs.ctxs = s.obs.ctxs := rfl

theorem onlyChanges_park {ps : List Part} {s t : State} (h : onlyChanges ps s t) (r : Nat) (x : Held) (st : Stage)
    (hc : .cmd ∈ ps := by decide) : onlyChanges ps s (park r x st t) := h.onRing r _ hc

theorem parks_park {r : Nat} {h : Held} {s t : State} (hf : frontOf s r = some h)
    (hr : t.obs.cmd.rings = s.obs.cmd.rings) (st : Stage) : parks r h st s (park r h st t) := by
  have hg : ringOf t r = ringOf s r := by simp [ringOf, hr]
  unfold park
  refine ⟨?_, ?_, ?_⟩
  · rw [ringOf_onRing_same]
    exact mem_insertBy _ _ _
  · rw [ringOf_onRing_same]
    exact fetched_dropHeld hf (ringOf t r) (by rw [hg])
  · rw [ringOf_onRing_same, hg]
    rfl

/-- The read of the first part of a buffer. -/
theorem askBuf_first {r g : Nat} {h : Held} {s : State} (addr units : Nat) (ht : readTag s g) :
    askBuf r h 0 addr units [] s = some (onSmp (fun m => { m with rdOut := m.rdOut ++
      [⟨g, sidOf s (bufPart s r h), .cmd r h.seq 0, addr, min units ((4096 - addr % 4096) / 64)⟩] }) s) := by
  simp only [askBuf, issueRead]
  rw [ht]
  simp [gotOf, chunkUnits]

/-- The state in which the first part of a buffer has been asked for. -/
def asked (r : Nat) (h : Held) (addr units g : Nat) (s : State) : State :=
  onSmp (fun m => { m with rdOut := m.rdOut ++
    [⟨g, sidOf s (bufPart s r h), .cmd r h.seq 0, addr, min units ((4096 - addr % 4096) / 64)⟩] }) s

theorem asks_asked (r : Nat) (h : Held) (addr units g : Nat) (s : State) : asks r h addr units g s (asked r h addr units g s) :=
  rfl

/-- A command that parks begins to read a buffer. -/
theorem beginRead_parks {r g : Nat} {h : Held} {s : State} (addr units : Nat) (hp : canPark s r h = true)
    (ht : readTag s g) :
    beginRead false r h 0 addr units [] s = park r h (.read 0 []) (asked r h addr units g s) := by
  unfold beginRead
  rw [if_neg (by simp [hp]), askBuf_first addr units ht]
  rfl

/-- A command that holds its ring begins to read a buffer. -/
theorem beginRead_holds {r g : Nat} {h : Held} {s : State} (addr units : Nat) (ht : readTag s g) :
    beginRead true r h 0 addr units [] s = hold r h (.read 0 []) (asked r h addr units g s) := by
  unfold beginRead
  rw [if_neg (by simp), askBuf_first addr units ht]
  rfl

theorem onlyChanges_asked (r : Nat) (h : Held) (addr units g : Nat) (s : State) :
    onlyChanges [.smp, .cmd] s (asked r h addr units g s) := (onlyChanges.refl _ s).onSmp _

end Sys2Proof.Machine
end
section
/-! CERTIFICATE. The statement about `NOP` and `FENCE`. -/

namespace Sys2Proof.Machine

open Sys2Proof.Safety

set_option Elab.async false

/-- The fence's record is admitted whatever the consent. -/
theorem offerRec_fence {s : State} {x r n : Nat} {c : CtxSt} {d : U32} (hc : ctxOf s x = some c)
    (ho : offeredAt c n = true) :
    ctxOf (offerRec x ⟨n, .fence r d⟩ s) x = some { c with hold := holdRec ⟨n, .fence r d⟩ c.hold } := by
  have hg : offerRec x ⟨n, .fence r d⟩ s = giveRec x ⟨n, .fence r d⟩ s := by
    unfold offerRec
    rw [hc]
    dsimp only
    exact if_pos (by simp [ho, admitted, recConsent, recCode])
  rw [hg]
  unfold giveRec onCtx
  rw [hc]
  exact ctxOf_setCtx_same _ _ _

/-- The state in which the fence's record has been offered. -/
def fenceMarked (r : Nat) (h : Held) (s : State) : State :=
  if bit (dw h 3) 0 then offerRec (dCtx h) ⟨engGt s, .fence r (dw h 1)⟩ s else s

theorem onlyChanges_fenceMarked (r : Nat) (h : Held) (s : State) : onlyChanges [.ctxs] s (fenceMarked r h s) := by
  unfold fenceMarked
  split
  · exact (onlyChanges.refl _ s).offerRec _ _
  · exact .refl _ s

/-- A record that a context holds leaves the contexts' sequence numbers. -/
theorem seq_offerRec {s : State} {x y : Nat} {r : Rec} {c d : CtxSt} (hc : ctxOf s y = some c)
    (hd : ctxOf (offerRec x r s) y = some d) : d.seq = c.seq := by
  unfold offerRec at hd
  split at hd
  · rename_i e he
    split at hd
    · unfold giveRec onCtx at hd
      rw [he] at hd
      dsimp only at hd
      by_cases hy : y = x
      · subst hy
        rw [ctxOf_setCtx_same] at hd
        rw [he] at hc
        cases hc
        cases hd
        rfl
      · rw [ctxOf_setCtx_other _ _ _ _ hy, hc] at hd
        cases hd
        rfl
    · rw [hc] at hd
      cases hd
      rfl
  · rw [hc] at hd
    cases hd
    rfl

theorem seq_fenceMarked {s : State} {r y : Nat} {h : Held} {c d : CtxSt} (hc : ctxOf s y = some c)
    (hd : ctxOf (fenceMarked r h s) y = some d) : d.seq = c.seq := by
  unfold fenceMarked at hd
  split at hd
  · exact seq_offerRec hc hd
  · rw [hc] at hd
    cases hd
    rfl

theorem endFence_eq (r : Nat) (h : Held) (s : State) : endFence r h s = complete r h stOk 0 (fenceMarked r h s) := by
  unfold endFence
  exact finish_ok _ _ (by decide) _ _

/-- Settles O45: an opcode that passes the common checks takes its effect, and completing or parking is all that
`NOP` and `FENCE` do to their ring. -/
theorem nopAndFence : Obligations.NopAndFence := by
  refine ⟨fun r h s ha hb => ?_, fun r h s ha hb hm => ?_, fun r h s ha hb hm hp => ?_⟩
  · have hn : doNop r h s = complete r h stOk 0 s := finish_ok _ _ (by decide) _ _
    obtain ⟨hg, hk⟩ := goesTo_completes (i := .nop r) rfl ha ((checked_passes hb _).trans hn) (.refl [] s)
    exact ⟨_, hg, (onlyChanges.refl _ s).complete _ _ _ _, hk⟩
  · have hd : doFence r h s = complete r h stOk 0 (fenceMarked r h s) := by
      unfold doFence
      rw [if_pos hm, endFence_eq]
    have hc := onlyChanges_fenceMarked r h s
    have hg : goesTo (.fence r) s (doFence r h s) := by
      refine goesTo_checked rfl ha hb (seqWrapped_of fun x c d hc hd' hn => ?_)
      rw [hd] at hd'
      have := seq_fenceMarked hc hd'
      omega
    rw [hd] at hg
    refine ⟨_, hg, (hc.mono (by decide)).complete _ _ _ _, completes_complete ha.2.1 ?_ _ _, fun hk => ?_,
      fun c hk hx ho => ?_⟩
    · exact ringAgrees_of_frame hc r (by rw [hc.cmd_eq])
    · rw [ctxs_complete, fenceMarked, if_neg (by simp [hk])]
    · have : ctxOf (complete r h stOk 0 (fenceMarked r h s)) (dCtx h) = ctxOf (fenceMarked r h s) (dCtx h) := rfl
      rw [this, fenceMarked, if_pos hk]
      exact offerRec_fence hx ho
  · have hd : doFence r h s = park r h .fence s := by
      unfold doFence
      rw [if_neg (by simp [hm]), if_pos hp]
    have hg : goesTo (.fence r) s (doFence r h s) :=
      goesTo_checked rfl ha hb (seqWrapped_of_ctxs (by rw [hd, ctxs_park]))
    rw [hd] at hg
    exact ⟨_, hg, onlyChanges_park (.refl _ s) _ _ _, parks_park ha.2.1 rfl _⟩

end Sys2Proof.Machine
end

section
/-! CERTIFICATE. The Sentinel's watches and the governor's settings (R248, R256, R355). -/

namespace Sys2Proof.Machine

open Sys2Proof.Safety

set_option Elab.async false

/-- The governor as `GOV_SET` leaves it. -/
def govSettled (h : Held) (s : State) : State :=
  onSmp (fun m => { m with
    share := fld (dw h 3) 0 7
    fixed := bit (dw h 3) 16
    govreq := bit (dw h 3) 17 && s.build.sentinel
    pad := padAddr s
    credit := 0 }) s

theorem doSentArm_acts {r : Nat} {h : Held} {s : State} (hb : reservedBad h = false)
    (h1 : kindBad false (fld (dw h 6) 0 4) (fld (dw h 4) 16 16) (fld (dw h 4) 0 16) = false)
    (h2 : kindBad true (fld (dw h 6) 4 4) (fld (dw h 5) 16 16) (fld (dw h 5) 0 16) = false)
    (ho : 2048 ≤ pair (dw h 7) (dw h 8)) (hf : (swatchOf s (fld (dw h 3) 0 8)).armed = false)
    (hl : fld (dw h 3) 8 4 &&& granted s (ringPart s r) = fld (dw h 3) 8 4) :
    doSentArm r h s =
      complete r h stOk 0 (onSWatch (fld (dw h 3) 0 8) (fun _ => sentOfDesc (ringPart s r) h) s) := by
  have hr : ¬ (reservedBad h || kindBad false (sentOfDesc (ringPart s r) h).startKind
      (sentOfDesc (ringPart s r) h).sLayer (sentOfDesc (ringPart s r) h).sOper ||
      kindBad true (sentOfDesc (ringPart s r) h).endKind (sentOfDesc (ringPart s r) h).eLayer
      (sentOfDesc (ringPart s r) h).eOper) = true := by
    simp [hb, sentOfDesc, h1, h2]
  unfold doSentArm
  dsimp only
  rw [if_neg hr, if_neg (c := (sentOfDesc (ringPart s r) h).offset < 2048) (Nat.not_lt.mpr ho), if_neg (by simp [hf]), if_neg (fun hn => hn hl), if_neg (by simp [hf]),
    finish_ok _ _ (by decide)]

/-- The effect on a watch that `SENT_DISARM` of its own partition has: an unarmed one stands. -/
theorem doSentDisarm_acts {r : Nat} {h : Held} {s : State}
    (hp : (swatchOf s (fld (dw h 3) 0 8)).part = ringPart s r) :
    doSentDisarm r h s = complete r h stOk 0
      (if (swatchOf s (fld (dw h 3) 0 8)).armed then sentOff (fld (dw h 3) 0 8) s else s) := by
  unfold doSentDisarm
  dsimp only
  cases ha : (swatchOf s (fld (dw h 3) 0 8)).armed with
  | false => exact (if_pos rfl).trans (finish_ok _ _ (by decide) _ _)
  | true => exact (if_neg (by simp)).trans ((if_pos (.inl hp)).trans (finish_ok _ _ (by decide) _ _))

theorem doGovSet_acts {r : Nat} {h : Held} {s : State} (hb : reservedBad h = false) (h5 : 5 ≤ fld (dw h 3) 0 7)
    (h100 : fld (dw h 3) 0 7 ≤ 100)
    (hp : bit (dw h 3) 16 = true → padAddr s ≠ 0 ∧ inWin s 0 (padAddr s) 64 = true) :
    doGovSet r h s = complete r h stOk 0 (offerReq (govSettled h s)) := by
  have hpad : ¬ (bit (dw h 3) 16 && (padAddr s == 0 || !inWin s 0 (padAddr s) 64)) = true := by
    cases hx : bit (dw h 3) 16 with
    | false => simp
    | true =>
      obtain ⟨h0, hw⟩ := hp hx
      simp [h0, hw]
  unfold doGovSet
  dsimp only
  rw [if_neg (by simp [hb]), if_neg (by omega), if_neg hpad]
  exact finish_ok _ _ (by decide) _ _

theorem onlyChanges_offerReq {ps : List Part} {s t : State} (h : onlyChanges ps s t) (hm : .pwr ∈ ps := by decide) :
    onlyChanges ps s (offerReq t) := by
  obtain ⟨c, l, r, d, he⟩ := offerReq_eq t
  rw [he]
  exact h.onPwr _ hm

theorem smp_offerReq (s : State) : (offerReq s).obs.smp = s.obs.smp := by
  obtain ⟨c, l, r, d, he⟩ := offerReq_eq s
  rw [he]
  rfl

/-- Settles O52: each command leads to its own change of one watch or of the governor, and completes. -/
theorem sentinelAndGovernorAreSet : Obligations.SentinelAndGovernorAreSet := by
  refine ⟨fun r h s ha hb h1 h2 ho hf hl => ?_, fun r h s ha hb hp => ?_, fun r h s ha hb h5 h100 hp => ?_⟩
  · have e := doSentArm_acts (r := r) hb h1 h2 ho hf hl
    have hc : onlyChanges [.sen] s (onSWatch (fld (dw h 3) 0 8) (fun _ => sentOfDesc (ringPart s r) h) s) :=
      (onlyChanges.refl _ s).onSWatch _ _
    obtain ⟨hg, hk⟩ := goesTo_completes (i := .sentArm r) rfl ha e hc
    refine ⟨_, hg, (hc.mono (by decide)).complete _ _ _ _, hk, ?_, rfl, fun w hw => ?_⟩
    · exact swatchOf_onSWatch_same _ _ s
    · exact swatchOf_onSWatch_other _ _ s w hw
  · have e := doSentDisarm_acts hp
    have hc : onlyChanges [.sen] s
        (if (swatchOf s (fld (dw h 3) 0 8)).armed then sentOff (fld (dw h 3) 0 8) s else s) := by
      split
      · exact (onlyChanges.refl _ s).onSWatch _ _
      · exact .refl _ s
    obtain ⟨hg, hk⟩ := goesTo_completes (i := .sentDisarm r) rfl ha ((checked_passes hb _).trans e) hc
    refine ⟨_, hg, (hc.mono (by decide)).complete _ _ _ _, hk, ?_⟩
    cases hx : (swatchOf s (fld (dw h 3) 0 8)).armed with
    | false => exact ⟨hx, rfl, fun _ _ => rfl⟩
    | true =>
      refine ⟨?_, rfl, fun w hw => swatchOf_onSWatch_other _ _ s w hw⟩
      exact congrArg SWatch.armed (swatchOf_onSWatch_same _ _ s)
  · have e := doGovSet_acts (r := r) hb h5 h100 hp
    have hc : onlyChanges [.smp, .pwr] s (offerReq (govSettled h s)) :=
      onlyChanges_offerReq ((onlyChanges.refl _ s).onSmp _)
    obtain ⟨hg, hk⟩ := goesTo_completes (i := .govSet r) rfl ha e hc
    have hs : (offerReq (govSettled h s)).obs.smp = (govSettled h s).obs.smp := smp_offerReq _
    refine ⟨_, hg, (hc.mono (by decide)).complete _ _ _ _, hk, ?_⟩
    exact ⟨congrArg Smp.share hs, congrArg Smp.fixed hs, congrArg Smp.govreq hs, congrArg Smp.pad hs,
      congrArg Smp.credit hs⟩

end Sys2Proof.Machine
end

section
/-! SUPPORT. The walk of a dump keeps the watches and the number of dumps; a match starts a dump. -/

namespace Sys2Proof.Machine

open Sys2Proof.Safety

set_option Elab.async false

/-- A walk asks for translations and reads: no watch changes and no dump begins or ends. -/
def walksOn (s t : State) : Prop :=
  onlyChanges [.smp, .wat] s t ∧ t.obs.wat.watches = s.obs.wat.watches ∧
    t.obs.wat.dumps.length = s.obs.wat.dumps.length

theorem length_modFirst {α : Type} (p : α → Bool) (f : α → α) (l : List α) : (modFirst p f l).length = l.length := by
  induction l with
  | nil => rfl
  | cons x xs ih =>
    unfold modFirst
    split
    · rfl
    · simp [ih]

section Walks

variable {s t : State} (h : walksOn s t)
include h

theorem walksOn.onDump (id : Nat) (f : Dump → Dump) : walksOn s (onDump id f t) := by
  obtain ⟨hc, hw, hl⟩ := h
  exact ⟨hc.onWat _, hw, (length_modFirst _ _ _).trans hl⟩

theorem walksOn.askXlt {d : Dump} {off stop : Nat} {u : State} (hu : askXlt d off stop t = some u) : walksOn s u := by
  obtain ⟨hc, hw, hl⟩ := h
  unfold Machine.askXlt at hu
  split at hu
  · cases hu
  · cases hu
    exact ⟨hc.onWat _, hw, hl⟩

theorem walksOn.issueRead {what : RdWhat} {p a n : Nat} {u : State} (hu : issueRead what p a n t = some u) :
    walksOn s u := by
  obtain ⟨hc, hw, hl⟩ := h
  unfold Machine.issueRead at hu
  split at hu
  · cases hu
  · cases hu
    exact ⟨hc.onSmp _, hw, hl⟩

theorem walksOn.walkXlt (n id : Nat) : walksOn s (walkXlt n id t) := by
  induction n generalizing t with
  | zero => exact h
  | succ n ih =>
    conv => rhs; unfold Machine.walkXlt
    cases hd : dumpOf t id with
    | none => exact h
    | some d =>
      dsimp only
      split
      · split
        · exact ih ((h.askXlt ‹_›).onDump id _)
        · exact h
      · split
        · split
          · exact ih ((h.askXlt ‹_›).onDump id _)
          · exact h
        · exact h

theorem walksOn.walkReads (n id : Nat) : walksOn s (walkReads n id t) := by
  induction n generalizing t with
  | zero => exact h
  | succ n ih =>
    conv => rhs; unfold Machine.walkReads
    cases hd : dumpOf t id with
    | none => exact h
    | some d =>
      dsimp only
      split
      · exact h
      · split
        · exact h
        · split
          · exact h
          · exact ih ((h.issueRead ‹_›).onDump id _)

theorem walksOn.walkStop (d : Dump) : walksOn s (walkStop d t) := by
  obtain ⟨hc, hw, hl⟩ := h
  exact ⟨hc.onWat _, hw, (length_modFirst _ _ _).trans hl⟩

theorem walksOn.walkEnd (id : Nat) : walksOn s (walkEnd id t) := by
  unfold Machine.walkEnd
  split
  · split
    · exact h
    · split
      · exact h.walkStop _
      · split
        · exact h.onDump _ _
        · exact h
  · exact h

theorem walksOn.walk (id : Nat) : walksOn s (walk id t) := by
  rw [walk_eq]
  exact ((h.walkXlt 64 id).walkReads 64 id).walkEnd id

end Walks

theorem walksOn.refl (s : State) : walksOn s s := ⟨.refl _ s, rfl, rfl⟩

theorem walksOn_ite (c : Prop) [Decidable c] (id : Nat) (s : State) : walksOn s (if c then s else walk id s) := by
  split
  · exact .refl s
  · exact (walksOn.refl s).walk id

/-- What offering a record to a context leaves. -/
theorem onlyChanges_offerRec (x : Nat) (r : Rec) (s : State) : onlyChanges [.ctxs] s (offerRec x r s) :=
  (onlyChanges.refl _ s).offerRec _ _

/-- A match of a watch whose context is armed starts one dump. -/
theorem startDump_starts {id stamp site role layer oper step fmt scale tap : Nat} {w : Watch} {c : CtxSt} {s : State}
    (hw : watchOf s id = some w) (hc : ctxOf s w.ctx = some c) (ha : ctxArmed c = true) (hn : c.closing = none)
    (hl : s.obs.wat.dumps.length < 16) (hp : hasConsent s w.part 3 = true) :
    ∃ (d : Dump) (r : Rec) (t u : State),
      startDump id stamp site role layer oper step fmt scale tap s = u ∧
      t = onWat (fun x => { x with dumps := x.dumps ++ [d], nextDump := x.nextDump + 1 })
        (setWatch id (some { w with started := w.started + 1 }) s) ∧
      walksOn (offerRec w.ctx r t) u := by
  unfold startDump
  rw [hw]
  dsimp only
  rw [hc]
  dsimp only
  rw [if_neg (by simp [ha, hn, hp]; omega)]
  exact ⟨_, _, _, _, rfl, rfl, walksOn_ite _ _ _⟩

theorem watchOf_of_watches {s t : State} (h : t.obs.wat.watches = s.obs.wat.watches) (k : Nat) :
    watchOf t k = watchOf s k := by simp [watchOf, h]

/-- Its effect: the watch has one more match, the dumps one more, and the contexts' sequence numbers stand. -/
theorem startDump_spec {id stamp site role layer oper step fmt scale tap : Nat} {w : Watch} {c : CtxSt} {s : State}
    (hw : watchOf s id = some w) (hc : ctxOf s w.ctx = some c) (ha : ctxArmed c = true) (hn : c.closing = none)
    (hl : s.obs.wat.dumps.length < 16) (hp : hasConsent s w.part 3 = true) :
    onlyChanges [.smp, .wat, .ctxs] s (startDump id stamp site role layer oper step fmt scale tap s) ∧
    (watchOf (startDump id stamp site role layer oper step fmt scale tap s) id =
      some { w with started := w.started + 1 }) ∧
    (startDump id stamp site role layer oper step fmt scale tap s).obs.wat.dumps.length =
      s.obs.wat.dumps.length + 1 ∧
    (∀ k, k ≠ id → watchOf (startDump id stamp site role layer oper step fmt scale tap s) k = watchOf s k) ∧
    ∀ x a b, ctxOf s x = some a → ctxOf (startDump id stamp site role layer oper step fmt scale tap s) x = some b →
      b.seq = a.seq := by
  obtain ⟨d, r, t, u, e, ht, hu⟩ := startDump_starts (stamp := stamp) (site := site) (role := role) (layer := layer)
    (oper := oper) (step := step) (fmt := fmt) (scale := scale) (tap := tap) hw hc ha hn hl hp
  rw [e]
  obtain ⟨hf, hww, hd⟩ := hu
  have ho := onlyChanges_offerRec w.ctx r t
  have hs : onlyChanges [.wat] s t := by
    rw [ht]
    exact ((onlyChanges.refl _ s).setWatch _ _).onWat _
  have hwat : (offerRec w.ctx r t).obs.wat = t.obs.wat := ho.wat_eq
  rw [hwat] at hww hd
  have hwk (k : Nat) : watchOf u k = watchOf (setWatch id (some { w with started := w.started + 1 }) s) k :=
    watchOf_of_watches (hww.trans (by rw [ht]; rfl)) k
  refine ⟨((hs.mono (by decide)).trans (ho.mono (by decide))).trans (hf.mono (by decide)), ?_, ?_, fun k hk => ?_,
    fun x a b hxa hxb => ?_⟩
  · rw [hwk id]
    exact watchOf_setWatch_same id _ s
  · rw [hd, ht]
    exact List.length_append
  · rw [hwk k]
    exact watchOf_setWatch_other id _ s k hk
  · rw [hf.ctxOf_eq x] at hxb
    exact seq_offerRec (by rw [hs.ctxOf_eq x]; exact hxa) hxb

end Sys2Proof.Machine
end

section
/-! SUPPORT. The start of a hang sequence (R163, R166): what its trigger leads to. -/

namespace Sys2Proof.Machine

open Sys2Proof.Safety

set_option Elab.async false

/-- The item and the latched bit of a sequence leave every part of the machine but Boxwood and registers. -/
def hangTold (g cause firstUnit id : Nat) (s : State) : State :=
  orReg (aFlt + 0x208) 1 (push 1 (mkItem 0x40 0 firstUnit (BitVec.ofNat 32 (id + cause * 2 ^ 16)) g) s)

theorem onlyChanges_hangTold (g cause firstUnit id : Nat) (s : State) :
    onlyChanges [.evq, .obsRegs] s (hangTold g cause firstUnit id s) :=
  ((onlyChanges.refl _ s).push _ _ _ _ _ _).orReg _ _

theorem reg_hangTold {a : Nat} (g cause firstUnit id : Nat) (s : State) (h7 : blockOf a ≠ 7) (ha : a ≠ aFlt + 0x208) :
    reg (hangTold g cause firstUnit id s) a = reg s a := by
  rw [hangTold, reg_orReg_other _ _ _ ha]
  exact reg_push_other h7 (by decide : (kindCls 0x40).1 < 8) s

theorem irq4_of_bit {s : State} {i : Nat} (h : bit (reg s (aFlt + 0x208)) i = true) : irqLine s 4 = true := by
  have hn : reg s (aFlt + 0x208) ≠ 0 := by
    intro h0
    rw [h0] at h
    simp [bit] at h
  exact bne_iff_ne.mpr hn

theorem irqLine_hangTold (g cause firstUnit id : Nat) (s : State) : irqLine (hangTold g cause firstUnit id s) 4 = true := by
  refine irq4_of_bit (i := 0) ?_
  rw [hangTold, bit_reg_orReg]
  exact Bool.or_true _

/-- The sequence that starts at a trigger, once its freeze has an ID and a T. -/
def hangSeqOf (g cause firstUnit id t cancelled ratio : Nat) : HangSeq :=
  ⟨1, cause, g, t, id, firstUnit, 0, cancelled, ratio, [], [], none⟩

/-- The cut and the sequence once the trigger has been taken, before its item. -/
def hangBegun (cause firstUnit g id t : Nat) (s : State) : State :=
  onHang (fun h => { h with
    seq := some (hangSeqOf g cause firstUnit id t (cancelSw t s).1 (cancelSw t s).2.aon.pwr.ratio)
    count := sat 255 (h.count + 1)
    lastCause := cause }) (cancelSw t s).2

theorem onlyChanges_hangBegun (cause firstUnit g id t : Nat) (s : State) :
    onlyChanges [.cut, .hang] s (hangBegun cause firstUnit g id t s) :=
  ((onlyChanges.refl _ s).onCut _).onHang _

/-- Where no sequence runs, the trigger's freeze is scheduled, later ones are cancelled and the sequence is told. -/
theorem hangStart_eq {g cause firstUnit own : Nat} {s : State} (hh : s.obs.hang.seq = none) :
    hangStart g cause firstUnit own s =
      hangTold g cause firstUnit (hwIdT (hwFreeze g 2 own s)).1
        (hangBegun cause firstUnit g (hwIdT (hwFreeze g 2 own s)).1 (hwIdT (hwFreeze g 2 own s)).2 (hwFreeze g 2 own s)) := by
  have ht : trigger g 2 own s = hwFreeze g 2 own s := by rw [trigger, hh]
  have hs : (hwFreeze g 2 own s).obs.hang.seq = none := by
    rw [((onlyChanges.refl [.cut] s).hwFreeze g 2 own).hang_eq, hh]
  unfold hangStart
  dsimp only
  rw [ht, hs]
  rfl

/-- The freeze of a trigger where none is scheduled. -/
def hwFreezeOf (g own : Nat) (s : State) : Freeze := newFreeze (gtMod (g + 1024)) 2 false 0 [own] true s

theorem hwFreeze_first {g own : Nat} {s : State} (hw : s.obs.cut.hw = none) (hr : s.aon.pwr.rstN = true) :
    hwFreeze g 2 own s = onCut (fun k => addIssued (hwFreezeOf g own s) { k with hw := some (hwFreezeOf g own s) }) s := by
  rw [hwFreeze, hw, hr]
  rfl

/-- What the trigger of a sequence leads to where no sequence runs and no hardware freeze is pending. -/
theorem hangStart_spec {g cause firstUnit own : Nat} {s : State} (hh : s.obs.hang.seq = none) (hw : s.obs.cut.hw = none)
    (hr : s.aon.pwr.rstN = true) :
    onlyChanges [.cut, .hang, .evq, .obsRegs] s (hangStart g cause firstUnit own s) ∧
    (∃ id n r, (hangStart g cause firstUnit own s).obs.hang.seq =
      some (hangSeqOf g cause firstUnit id (gtMod (g + 1024)) n r)) ∧
    (hangStart g cause firstUnit own s).obs.cut.hw.map (·.t) = some (gtMod (g + 1024)) ∧
    irqLine (hangStart g cause firstUnit own s) 4 = true ∧
    (hangStart g cause firstUnit own s).obs.hang.count = sat 255 (s.obs.hang.count + 1) ∧
    (∀ f ∈ (hangStart g cause firstUnit own s).obs.cut.sw, f.t < gtMod (g + 1024)) ∧
    ∀ a, blockOf a ≠ 7 → a ≠ aFlt + 0x208 → reg (hangStart g cause firstUnit own s) a = reg s a := by
  have hf := hwFreeze_first (g := g) (own := own) hw hr
  have hid : (hwIdT (hwFreeze g 2 own s)).2 = gtMod (g + 1024) := by
    rw [hf]
    rfl
  rw [hangStart_eq hh, hid]
  generalize hi : (hwIdT (hwFreeze g 2 own s)).1 = id
  have h1 : onlyChanges [.cut] s (hwFreeze g 2 own s) := (onlyChanges.refl _ s).hwFreeze _ _ _
  have h2 := onlyChanges_hangBegun cause firstUnit g id (gtMod (g + 1024)) (hwFreeze g 2 own s)
  have h3 := onlyChanges_hangTold g cause firstUnit id
    (hangBegun cause firstUnit g id (gtMod (g + 1024)) (hwFreeze g 2 own s))
  refine ⟨((h1.mono (by decide)).trans (h2.mono (by decide))).trans (h3.mono (by decide)), ⟨id, (cancelSw (gtMod (g + 1024)) (hwFreeze g 2 own s)).1,
    (cancelSw (gtMod (g + 1024)) (hwFreeze g 2 own s)).2.aon.pwr.ratio, congrArg Hang.seq h3.hang_eq⟩, ?_,
    irqLine_hangTold _ _ _ _ _, ?_, fun f hm => ?_, fun a h7 ha => ?_⟩
  · rw [h3.cut_eq, hf]
    rfl
  · rw [h3.hang_eq, ← h1.hang_eq]
    rfl
  · rw [h3.cut_eq] at hm
    have hm' : f ∈ ((hwFreeze g 2 own s).obs.cut.sw.filter fun f => !decide (gtMod (g + 1024) ≤ f.t)) := hm
    have := (List.mem_filter.mp hm').2
    simpa using this
  · rw [reg_hangTold _ _ _ _ _ h7 ha]
    have e2 : reg (hangBegun cause firstUnit g id (gtMod (g + 1024)) (hwFreeze g 2 own s)) a = reg (hwFreeze g 2 own s) a := rfl
    rw [e2, hf, reg_onCut]

end Sys2Proof.Machine
end

section
/-! CERTIFICATE. `WATCH_ARM`, `WATCH_DISARM` and `HANG_DUMP` (R148, R158, R161, R162). -/

namespace Sys2Proof.Machine

open Sys2Proof.Safety

set_option Elab.async false

/-! ## Watches -/

theorem watchStatus_consent {s : State} {p : Nat} {w : Watch} {h : Held} (hs : watchStatus s p w h = none) :
    hasConsent s p 3 = true := by
  refine Decidable.byContradiction fun hn => ?_
  unfold watchStatus at hs
  split at hs
  · cases hs
  · split at hs
    · cases hs
    · split at hs
      · cases hs
      · rw [if_pos (by simpa using hn)] at hs
        cases hs

/-- The watch is armed, and no dump has begun. -/
def watchArmed (r id : Nat) (h : Held) (s : State) : State :=
  onWat (fun x => { x with arms := x.arms + 1 }) (setWatch id (some (watchOfDesc s (ringPart s r) h)) s)

theorem onlyChanges_watchArmed (r id : Nat) (h : Held) (s : State) : onlyChanges [.wat] s (watchArmed r id h s) :=
  ((onlyChanges.refl _ s).setWatch _ _).onWat _

theorem watchOf_watchArmed (r id : Nat) (h : Held) (s : State) :
    watchOf (watchArmed r id h s) id = some (watchOfDesc s (ringPart s r) h) :=
  (watchOf_of_watches (s := setWatch id (some (watchOfDesc s (ringPart s r) h)) s) rfl id).trans
    (watchOf_setWatch_same _ _ _)

theorem watchOf_watchArmed_other (r : Nat) {id k : Nat} (h : Held) (s : State) (hk : k ≠ id) :
    watchOf (watchArmed r id h s) k = watchOf s k :=
  (watchOf_of_watches (s := setWatch id (some (watchOfDesc s (ringPart s r) h)) s) rfl k).trans
    (watchOf_setWatch_other _ _ _ _ hk)

theorem dumps_watchArmed (r id : Nat) (h : Held) (s : State) :
    (watchArmed r id h s).obs.wat.dumps = s.obs.wat.dumps := rfl

theorem doWatchArm_acts {r id : Nat} {h : Held} {s : State}
    (hs : watchStatus s (ringPart s r) (watchOfDesc s (ringPart s r) h) h = none)
    (hi : lowestFree 64 (s.obs.wat.watches.map (·.1)) = some id) :
    ∃ g site role layer oper step fmt, doWatchArm r h s = complete r h stOk (lo32 id)
      (if fld (dw h 4) 28 2 = 2 then startDump id g site role layer oper step fmt 0 0 (watchArmed r id h s)
       else watchArmed r id h s) := by
  unfold doWatchArm
  dsimp only
  rw [hs, hi]
  dsimp only
  refine ⟨_, _, _, _, _, _, _, finish_ok _ _ (by decide) _ _⟩

theorem endDisarm_none {r : Nat} {h : Held} {s : State} (hw : watchOf s (fld (dw h 3) 0 6) = none) :
    doWatchDisarm r h s = complete r h stOk 0 s := by
  unfold doWatchDisarm
  dsimp only
  rw [hw]
  exact finish_ok _ _ (by decide) _ _

theorem doWatchDisarm_acts {r : Nat} {h : Held} {w : Watch} {s : State} (hw : watchOf s (fld (dw h 3) 0 6) = some w)
    (hp : w.part = ringPart s r) (hd : dumping s (fld (dw h 3) 0 6) = false) (hb : bit (dw h 3) 8 = false) :
    doWatchDisarm r h s = complete r h stOk (lo32 (sat 0xFFFF w.completed + w.missed * 2 ^ 16))
      (setWatch (fld (dw h 3) 0 6) none s) := by
  unfold doWatchDisarm
  dsimp only
  rw [hw]
  dsimp only
  rw [if_neg (fun hn => hn hp), if_neg (by simp [hb]), if_pos (by simp [hd])]
  unfold endDisarm
  dsimp only
  rw [hw]
  exact finish_ok _ _ (by decide) _ _

/-! ## `HANG_DUMP` -/

/-- An operation of `HANG_DUMP` at the front completes after its effect. -/
theorem goesTo_hangOp {i : Instr} {r st : Nat} {res : U32} {h : Held} {s t : State} {p : Nat → Bool} {m : List U32}
    {f : Nat → Held → State → State} (he : exec i s = execHangOp p m f r s) (ha : atFrontOf 0x52 r h s)
    (hp : p (fld (dw h 3) 0 4) = true) (hm : outside m h = false) (e : f r h s = complete r h st res t)
    (hg : ringAgrees r s t) (hx : t.obs.ctxs = s.obs.ctxs) :
    goesTo i s (complete r h st res t) ∧ completes r h st res s (complete r h st res t) :=
  goesTo_front_completes (p := fun h => opOf h == 0x52 && p (fld (dw h 3) 0 4)) he ha (by simp [ha.2.2.1, hp])
    ((if_neg (by simp [hm])).trans e) hg (seqWrapped_of_ctxs (by rw [ctxs_complete, hx]))

theorem onlyChanges_foldl_onUnit (us : List Nat) (f : UnitSt → UnitSt) (s : State) :
    onlyChanges [.hed] s (us.foldl (fun acc u => onUnit u f acc) s) :=
  (onlyChanges.refl _ s).foldl (fun _ u h => h.onUnit u f) us

theorem engSkew_foldl_onUnit (us : List Nat) (f : UnitSt → UnitSt) (s : State) :
    (us.foldl (fun acc u => onUnit u f acc) s).obs.hed.engSkew = s.obs.hed.engSkew := by
  induction us generalizing s with
  | nil => rfl
  | cons u us ih => exact ih (onUnit u f s)

/-- Units named once each take the change once, and the others stand. -/
theorem unitOf_foldl_onUnit (f : UnitSt → UnitSt) (v : Nat) (us : List Nat) (hn : us.Nodup) (s : State) :
    unitOf (us.foldl (fun acc u => onUnit u f acc) s) v = if v ∈ us then f (unitOf s v) else unitOf s v := by
  induction us generalizing s with
  | nil => rfl
  | cons u us ih =>
    obtain ⟨hu, hn⟩ := List.nodup_cons.mp hn
    rw [List.foldl_cons, ih hn, unitOf_onUnit]
    by_cases hv : v = u
    · subst hv
      simp [hu]
    · simp [hv]

theorem mem_span {a b v : Nat} (h : a ≤ b) : v ∈ (List.range (b + 1 - a)).map (a + ·) ↔ a ≤ v ∧ v ≤ b := by
  simp only [List.mem_map, List.mem_range]
  constructor
  · rintro ⟨i, hi, rfl⟩
    omega
  · intro ⟨h1, h2⟩
    exact ⟨v - a, by omega, by omega⟩

theorem nodup_span (a b : Nat) : ((List.range (b + 1 - a)).map (a + ·)).Nodup :=
  List.Pairwise.map _ (fun _ _ hne he => hne (Nat.add_left_cancel he)) List.nodup_range

/-- The units of SET_WDOG. -/
def wdogSpan (h : Held) : List Nat :=
  (List.range (fld (dw h 5) 0 12 + 1 - fld (dw h 4) 0 12)).map (fld (dw h 4) 0 12 + ·)

/-- The units of SET_WDOG with their new watchdogs. -/
def wdogsSet (h : Held) (s : State) : State :=
  (wdogSpan h).foldl (fun acc u => onUnit u (fun x => { x with wdog := newWdog h (engGt s) }) acc) s

theorem onlyChanges_wdogsSet (h : Held) (s : State) : onlyChanges [.hed] s (wdogsSet h s) :=
  onlyChanges_foldl_onUnit _ _ s

theorem unitOf_wdogsSet {h : Held} (hab : fld (dw h 4) 0 12 ≤ fld (dw h 5) 0 12) (s : State) (u : Nat) :
    unitOf (wdogsSet h s) u = if fld (dw h 4) 0 12 ≤ u ∧ u ≤ fld (dw h 5) 0 12 then
      { unitOf s u with wdog := newWdog h (engGt s) } else unitOf s u := by
  rw [wdogsSet, wdogSpan, unitOf_foldl_onUnit _ _ _ (nodup_span _ _)]
  simp only [mem_span hab]

theorem ringAgrees_wdogsSet (r : Nat) (h : Held) (s : State) : ringAgrees r s (wdogsSet h s) := by
  have hc := onlyChanges_wdogsSet h s
  have he : (wdogsSet h s).obs.hed.engSkew = s.obs.hed.engSkew := engSkew_foldl_onUnit _ _ _
  exact ⟨congrArg Cmd.rings hc.cmd_eq, hc.reg_eq (aRing r) (by unfold regPart; split <;> decide),
    by unfold engGt copyAt; rw [hc.now_eq, he]⟩

theorem doSetWdog_acts {r : Nat} {h : Held} {s : State}
    (hn : fld (dw h 6) 0 6 = 0 ∨ (10 ≤ fld (dw h 6) 0 6 ∧ fld (dw h 6) 0 6 ≤ 40))
    (hab : fld (dw h 4) 0 12 ≤ fld (dw h 5) 0 12) (hb : fld (dw h 5) 0 12 < s.build.units)
    (ho : ∀ u, fld (dw h 4) 0 12 ≤ u → u ≤ fld (dw h 5) 0 12 → (unitOf s u).owner = ringPart s r) :
    doSetWdog r h s = complete r h stOk 0 (wdogsSet h s) := by
  have hany : ((List.range (fld (dw h 5) 0 12 + 1 - fld (dw h 4) 0 12)).map (fld (dw h 4) 0 12 + ·)).any
      (fun u => (unitOf s u).owner != ringPart s r) = false := by
    rw [List.any_eq_false]
    intro u hu
    obtain ⟨h1, h2⟩ := (mem_span hab).mp hu
    simp [ho u h1 h2]
  unfold doSetWdog
  dsimp only
  rw [if_neg (by omega), if_neg (by omega), hany]
  exact finish_ok _ _ (by decide) _ _

theorem doSetArea_acts {r : Nat} {h : Held} {s : State} (h0 : fld (dw h 3) 0 4 = 0)
    (hb : areaBusy s (ringPart s r) = false) :
    doSetArea r h s = complete r h stOk 0
      (setArea (ringPart s r) (if dAddr h 4 = 0 then none else some ⟨dAddr h 4, dLen h 6, false⟩) s) := by
  unfold doSetArea
  dsimp only
  rw [if_neg (fun hn => hn h0), if_neg (by simp [hb])]
  exact finish_ok _ _ (by decide) _ _

theorem seq_setArea (p : Nat) (a : Option Area) (s : State) : (setArea p a s).obs.hang.seq = s.obs.hang.seq := rfl

/-- The partition's area, no longer held. -/
def areaFreed (p : Nat) (s : State) : State :=
  match areaOf s p with
  | some a => setArea p (some { a with held := false }) s
  | none => s

theorem onlyChanges_areaFreed (p : Nat) (s : State) : onlyChanges [.hang] s (areaFreed p s) := by
  unfold areaFreed
  split
  · exact (onlyChanges.refl _ s).setArea _ _
  · exact .refl _ s

theorem areaOf_areaFreed (p : Nat) (s : State) :
    areaOf (areaFreed p s) p = (areaOf s p).map (fun a => { a with held := false }) := by
  unfold areaFreed
  cases ha : areaOf s p with
  | none => exact ha
  | some a => exact areaOf_setArea_same _ _ _

theorem areaOf_areaFreed_other {p q : Nat} (hq : q ≠ p) (s : State) : areaOf (areaFreed p s) q = areaOf s q := by
  unfold areaFreed
  split
  · exact areaOf_setArea_other _ _ _ _ hq
  · rfl

theorem doHangRelease_acts (r : Nat) (h : Held) (s : State) :
    doHangRelease r h s = complete r h stOk 0 (areaFreed (ringPart s r) s) := finish_ok _ _ (by decide) _ _

/-! ## The settlement -/

theorem ringPart_of_frontOf {s : State} {r : Nat} {h : Held} (hf : frontOf s r = some h) : r < 64 := by
  unfold frontOf at hf
  dsimp only at hf
  split at hf
  · cases hf
  · rename_i hn
    simp only [Bool.or_eq_true, decide_eq_true_eq, not_or, Nat.not_le] at hn
    exact hn.1.1

theorem blockOf_aRing {r : Nat} (h : r < 64) : blockOf (aRing r) = 4 := by
  unfold blockOf aRing
  omega

theorem doHangRequest_acts {r : Nat} {h : Held} {s : State} (hp : ringPart s r = 0) :
    doHangRequest r h s = complete r h stOk 0 (hangStart (engGt s) 2 0xFFF 0 s) := by
  unfold doHangRequest
  rw [if_neg (fun hn => hn hp)]
  exact finish_ok _ _ (by decide) _ _

theorem watchArm_completes :
    ∀ (r id : Nat) (h : Held) (s : State), atFrontOf 0x50 r h s →
    watchStatus s (ringPart s r) (watchOfDesc s (ringPart s r) h) h = none →
    lowestFree 64 (s.obs.wat.watches.map (·.1)) = some id → fld (dw h 4) 28 2 ≠ 2 →
    ∃ t, goesTo (.watchArm r) s t ∧ onlyChanges [.smp, .cmd, .wat] s t ∧ completes r h stOk (lo32 id) s t ∧
      watchOf t id = some (watchOfDesc s (ringPart s r) h) ∧ t.obs.wat.dumps = s.obs.wat.dumps ∧
      ∀ k, k ≠ id → watchOf t k = watchOf s k := by
  intro r id h s ha hs hi h2
  obtain ⟨g, site, role, layer, oper, step, fmt, e⟩ := doWatchArm_acts hs hi
  rw [if_neg h2] at e
  have hc := onlyChanges_watchArmed r id h s
  obtain ⟨hg, hk⟩ := goesTo_completes (i := .watchArm r) rfl ha e hc
  refine ⟨_, hg, (hc.mono (by decide)).complete _ _ _ _, hk, ?_, ?_, fun k hk => ?_⟩
  · rw [watchOf_complete, watchOf_watchArmed]
  · rw [wat_complete, dumps_watchArmed]
  · rw [watchOf_complete, watchOf_watchArmed_other r h s hk]

theorem watchArm_startsDump :
    ∀ (r id : Nat) (h : Held) (c : CtxSt) (s : State), atFrontOf 0x50 r h s →
    watchStatus s (ringPart s r) (watchOfDesc s (ringPart s r) h) h = none →
    lowestFree 64 (s.obs.wat.watches.map (·.1)) = some id → fld (dw h 4) 28 2 = 2 → ctxOf s (dCtx h) = some c →
    ctxArmed c = true → c.closing = none → s.obs.wat.dumps.length < 16 →
    ∃ t, goesTo (.watchArm r) s t ∧ onlyChanges [.smp, .cmd, .wat, .ctxs] s t ∧ completes r h stOk (lo32 id) s t ∧
      (watchOf t id).map (·.started) = some 1 ∧ t.obs.wat.dumps.length = s.obs.wat.dumps.length + 1 ∧
      ∀ k, k ≠ id → watchOf t k = watchOf s k := by
  intro r id h c s ha hs hi h2 hc hca hcc hl
  obtain ⟨g, site, role, layer, oper, step, fmt, e⟩ := doWatchArm_acts hs hi
  rw [if_pos h2] at e
  have hf := onlyChanges_watchArmed r id h s
  obtain ⟨hd, hw, hn, ho, hq⟩ := startDump_spec (stamp := g) (site := site) (role := role) (layer := layer)
    (oper := oper) (step := step) (fmt := fmt) (scale := 0) (tap := 0) (watchOf_watchArmed r id h s)
    (c := c) ((hf.ctxOf_eq _).trans hc) hca hcc hl (watchStatus_consent hs)
  have hx := (hf.mono (by decide : _ ⊆ [.smp, .wat, .ctxs])).trans hd
  obtain ⟨hg, hk⟩ := goesTo_front_completes (i := .watchArm r) (p := fun h => opOf h == 0x50) rfl ha
    (by simp [ha.2.2.1]) e (ringAgrees_of_frame hx r (by rw [hx.cmd_eq])) (seqWrapped_of fun x a b hxa hxb hlt => by
      have := hq x a b ((hf.ctxOf_eq x).trans hxa) hxb
      omega)
  refine ⟨_, hg, (hx.mono (by decide)).complete _ _ _ _, hk, ?_, ?_, fun k hk => ?_⟩
  · rw [watchOf_complete, hw]
    rfl
  · rw [wat_complete, hn, dumps_watchArmed]
  · rw [watchOf_complete, ho k hk, watchOf_watchArmed_other r h s hk]

theorem watchDisarm_unarmed :
    ∀ (r : Nat) (h : Held) (s : State), atFrontOf 0x51 r h s → reservedBad h = false →
    watchOf s (fld (dw h 3) 0 6) = none →
    ∃ t, goesTo (.watchDisarm r) s t ∧ onlyChanges [.smp, .cmd] s t ∧ completes r h stOk 0 s t := by
  intro r h s ha hb hw
  obtain ⟨hg, hk⟩ := goesTo_completes (i := .watchDisarm r) rfl ha ((checked_passes hb _).trans (endDisarm_none hw))
    (.refl [] s)
  exact ⟨_, hg, (onlyChanges.refl _ s).complete _ _ _ _, hk⟩

theorem watchDisarm_ends :
    ∀ (r : Nat) (h : Held) (w : Watch) (s : State), atFrontOf 0x51 r h s → reservedBad h = false →
    watchOf s (fld (dw h 3) 0 6) = some w → w.part = ringPart s r → dumping s (fld (dw h 3) 0 6) = false →
    bit (dw h 3) 8 = false →
    ∃ t, goesTo (.watchDisarm r) s t ∧ onlyChanges [.smp, .cmd, .wat] s t ∧
      completes r h stOk (lo32 (sat 0xFFFF w.completed + w.missed * 2 ^ 16)) s t ∧
      watchOf t (fld (dw h 3) 0 6) = none ∧ ∀ k, k ≠ fld (dw h 3) 0 6 → watchOf t k = watchOf s k := by
  intro r h w s ha hb hw hp hd h8
  have hc : onlyChanges [.wat] s (setWatch (fld (dw h 3) 0 6) none s) := (onlyChanges.refl _ s).setWatch _ _
  obtain ⟨hg, hk⟩ := goesTo_completes (i := .watchDisarm r) rfl ha
    ((checked_passes hb _).trans (doWatchDisarm_acts hw hp hd h8)) hc
  refine ⟨_, hg, (hc.mono (by decide)).complete _ _ _ _, hk, ?_, fun k hk => ?_⟩
  · rw [watchOf_complete, watchOf_setWatch_same]
  · rw [watchOf_complete, watchOf_setWatch_other _ _ _ _ hk]

theorem hangDumpSetArea_completes :
    ∀ (r : Nat) (h : Held) (s : State), atFrontOf 0x52 r h s → fld (dw h 3) 0 4 = 0 →
    outside [0xF, 0xFFFFFFFF, 0xFFFF, 0xFFFFFF] h = false → areaBusy s (ringPart s r) = false →
    ∃ t, goesTo (.hangDumpSetArea r) s t ∧ onlyChanges [.smp, .cmd, .hang] s t ∧ completes r h stOk 0 s t ∧
      areaOf t (ringPart s r) = (if dAddr h 4 = 0 then none else some ⟨dAddr h 4, dLen h 6, false⟩) ∧
      t.obs.hang.seq = s.obs.hang.seq ∧ ∀ q, q ≠ ringPart s r → areaOf t q = areaOf s q := by
  intro r h s ha h0 hm hb
  have e := doSetArea_acts h0 hb
  have hc : onlyChanges [.hang] s
      (setArea (ringPart s r) (if dAddr h 4 = 0 then none else some ⟨dAddr h 4, dLen h 6, false⟩) s) :=
    (onlyChanges.refl _ s).setArea _ _
  have he : exec (.hangDumpSetArea r) s = execHangOp (fun o => o == 0 || decide (4 ≤ o))
      [0xF, 0xFFFFFFFF, 0xFFFF, 0xFFFFFF] doSetArea r s := rfl
  obtain ⟨hg, hk⟩ := goesTo_hangOp he ha (by simp [h0]) hm e (ringAgrees_of_frame hc r (by rw [hc.cmd_eq])) hc.ctxs_eq
  refine ⟨_, hg, (hc.mono (by decide)).complete _ _ _ _, hk, ?_, ?_, fun q hq => ?_⟩
  · rw [areaOf_complete, areaOf_setArea_same]
  · rw [hang_complete, seq_setArea]
  · rw [areaOf_complete, areaOf_setArea_other _ _ _ _ hq]

theorem hangDumpSetWdog_completes :
    ∀ (r : Nat) (h : Held) (s : State), atFrontOf 0x52 r h s → fld (dw h 3) 0 4 = 1 →
    outside [0xF, 0xFFF, 0xFFF, 0x33F] h = false →
    (fld (dw h 6) 0 6 = 0 ∨ (10 ≤ fld (dw h 6) 0 6 ∧ fld (dw h 6) 0 6 ≤ 40)) →
    fld (dw h 4) 0 12 ≤ fld (dw h 5) 0 12 → fld (dw h 5) 0 12 < s.build.units →
    (∀ u, fld (dw h 4) 0 12 ≤ u → u ≤ fld (dw h 5) 0 12 → (unitOf s u).owner = ringPart s r) →
    ∃ t, goesTo (.hangDumpSetWdog r) s t ∧ onlyChanges [.smp, .cmd, .hed] s t ∧ completes r h stOk 0 s t ∧
      (∀ u, fld (dw h 4) 0 12 ≤ u → u ≤ fld (dw h 5) 0 12 →
        unitOf t u = { unitOf s u with wdog := newWdog h (engGt s) }) ∧
      ∀ u, u < fld (dw h 4) 0 12 ∨ fld (dw h 5) 0 12 < u → unitOf t u = unitOf s u := by
  intro r h s ha h1 hm hn hab hb ho
  have hc := onlyChanges_wdogsSet h s
  have he : exec (.hangDumpSetWdog r) s = execHangOp (fun o => o == 1) [0xF, 0xFFF, 0xFFF, 0x33F] doSetWdog r s := rfl
  obtain ⟨hg, hk⟩ := goesTo_hangOp he ha (by simp [h1]) hm
    (doSetWdog_acts (r := r) hn hab hb ho) (ringAgrees_wdogsSet r h s) hc.ctxs_eq
  refine ⟨_, hg, (hc.mono (by decide)).complete _ _ _ _, hk, fun u h1 h2 => ?_, fun u h1 => ?_⟩
  · rw [unitOf_complete, unitOf_wdogsSet hab, if_pos ⟨h1, h2⟩]
  · rw [unitOf_complete, unitOf_wdogsSet hab, if_neg (by omega)]

theorem hangDumpRequest_starts :
    ∀ (r : Nat) (h : Held) (s : State), atFrontOf 0x52 r h s → fld (dw h 3) 0 4 = 2 → outside [0xF] h = false →
    ringPart s r = 0 → s.obs.hang.seq = none → s.obs.cut.hw = none →
    ∃ t q, goesTo (.hangDumpRequest r) s t ∧ completes r h stOk 0 s t ∧ t.obs.hang.seq = some q ∧ q.cause = 2 ∧
      q.g = engGt s ∧ q.t = gtMod (engGt s + 1024) ∧ q.firstUnit = 0xFFF ∧ irqLine t 4 = true := by
  intro r h s ha h2 hm hp hh hw
  obtain ⟨hc, ⟨id, n, ra, hq⟩, -, hi, -, -, hreg⟩ :=
    hangStart_spec (g := engGt s) (cause := 2) (firstUnit := 0xFFF) (own := 0) hh hw ((obsRuns_iff s).mp ha.1.2).2.1
  have h4 := blockOf_aRing (ringPart_of_frontOf ha.2.1)
  have hr : reg (hangStart (engGt s) 2 0xFFF 0 s) (aRing r) = reg s (aRing r) :=
    hreg _ (by omega) (by intro h; rw [h] at h4; exact absurd h4 (by decide))
  have he : exec (.hangDumpRequest r) s = execHangOp (fun o => o == 2) [0xF] doHangRequest r s := rfl
  obtain ⟨hg, hk⟩ := goesTo_hangOp he ha (by simp [h2]) hm
    (doHangRequest_acts (h := h) hp) (ringAgrees_of_regs hc r hr) hc.ctxs_eq
  exact ⟨_, _, hg, hk, hq, rfl, rfl, rfl, rfl, hi⟩

theorem hangDumpRelease_completes :
    ∀ (r : Nat) (h : Held) (s : State), atFrontOf 0x52 r h s → fld (dw h 3) 0 4 = 3 → outside [0xF] h = false →
    ∃ t, goesTo (.hangDumpRelease r) s t ∧ onlyChanges [.smp, .cmd, .hang] s t ∧ completes r h stOk 0 s t ∧
      areaOf t (ringPart s r) = (areaOf s (ringPart s r)).map (fun a => { a with held := false }) ∧
      ∀ q, q ≠ ringPart s r → areaOf t q = areaOf s q := by
  intro r h s ha h3 hm
  have hc := onlyChanges_areaFreed (ringPart s r) s
  have he : exec (.hangDumpRelease r) s = execHangOp (fun o => o == 3) [0xF] doHangRelease r s := rfl
  obtain ⟨hg, hk⟩ := goesTo_hangOp he ha (by simp [h3]) hm (doHangRelease_acts r h s)
    (ringAgrees_of_frame hc r (by rw [hc.cmd_eq])) hc.ctxs_eq
  refine ⟨_, hg, (hc.mono (by decide)).complete _ _ _ _, hk, ?_, fun q hq => ?_⟩
  · rw [areaOf_complete, areaOf_areaFreed]
  · rw [areaOf_complete, areaOf_areaFreed_other hq]

/-- Settles O51: each command leads to its own change of one watch, area or unit, and completes; the start of a dump
and of a hang sequence are those of a match and of a trigger. -/
theorem watchAndHangCommands : Obligations.WatchAndHangCommands :=
  ⟨watchArm_completes, watchArm_startsDump, watchDisarm_unarmed, watchDisarm_ends, hangDumpSetArea_completes, hangDumpSetWdog_completes, hangDumpRequest_starts, hangDumpRelease_completes⟩

end Sys2Proof.Machine
end

section
/-! CERTIFICATE. Hang sequences begin and end (R162 to R166). -/

namespace Sys2Proof.Machine

open Sys2Proof.Safety

set_option Elab.async false

/-! ## The end of a sequence -/

/-- The unit's ring has resumed: nothing is held, and nothing kept for the dump. -/
def resumed (u : Nat) (s : State) : Prop := (unitOf s u).held = 0 ∧ (unitOf s u).snap = none

/-- Where no sequence runs, what joins a ring is not held. -/
theorem resumed_appendRing {u v : Nat} {w : U64} {g : Nat} {s : State} (hh : s.obs.hang.seq = none) (hr : resumed v s) :
    resumed v (appendRing u w g s) := by
  by_cases hv : v = u
  · subst hv
    obtain ⟨h0, hs⟩ := hr
    have ht : hangT s = none := by rw [hangT, hh, Option.map_none]
    unfold appendRing
    dsimp only
    rw [ht]
    split
    · exact ⟨h0, hs⟩
    · rw [if_neg (by simp), resumed, unitOf_onUnit_same]
      split
      · exact ⟨h0, hs⟩
      · exact ⟨h0, hs⟩
  · rw [resumed, unitOf_appendRing_other hv]
    exact hr

/-- One unit's ring resumes. -/
def ringResumes (t u : Nat) (s : State) : State :=
  appendRing u (synth 4 (unitOf s u).held) t (onUnit u (fun x => { x with snap := none, held := 0 }) s)

theorem onlyChanges_ringResumes (t u : Nat) (s : State) : onlyChanges [.hed] s (ringResumes t u s) :=
  onlyChanges_appendRing ((onlyChanges.refl _ s).onUnit _ _) _ _ _

theorem resumed_ringResumes {t u v : Nat} {s : State} (hh : s.obs.hang.seq = none) (hv : v = u ∨ resumed v s) :
    resumed v (ringResumes t u s) := by
  refine resumed_appendRing hh ?_
  by_cases h : v = u
  · subst h
    rw [resumed, unitOf_onUnit_same]
    exact ⟨rfl, rfl⟩
  · rw [resumed, unitOf_onUnit_other _ _ _ _ h]
    exact hv.resolve_left h

theorem onlyChanges_ringsResume (t : Nat) (s : State) : onlyChanges [.hed] s (ringsResume t s) :=
  (onlyChanges.refl _ s).foldl (fun a u h => h.trans (onlyChanges_ringResumes t u a)) _

theorem resumed_ringsResume {t u : Nat} {s : State} (hh : s.obs.hang.seq = none) (hu : u < s.build.units) :
    resumed u (ringsResume t s) := by
  have fold (l : List Nat) : ∀ s : State, s.obs.hang.seq = none → (u ∈ l ∨ resumed u s) →
      resumed u (l.foldl (fun acc v => ringResumes t v acc) s) := by
    induction l with
    | nil => exact fun s _ h => h.resolve_left (by simp)
    | cons v l ih =>
      intro s hs h
      refine ih _ (by rw [(onlyChanges_ringResumes t v s).hang_eq, hs]) ?_
      obtain h | h := h
      · obtain rfl | h := List.mem_cons.mp h
        · exact .inr (resumed_ringResumes hs (.inl rfl))
        · exact .inl h
      · exact .inr (resumed_ringResumes hs (.inr h))
  exact fold _ s hh (.inl (List.mem_range.mpr hu))

theorem onlyChanges_hangRecords (q : HangSeq) (s : State) : onlyChanges [.ctxs] s (hangRecords q s) := by
  refine (onlyChanges.refl _ s).foldl (fun a d h => h.foldl (fun b x h => ?_) _) _
  split
  · exact .ite _ (h.giveRec _ _) h
  · exact h

theorem onlyChanges_maybeSwitch (s : State) : onlyChanges [.pwr] s (maybeSwitch s) :=
  .ite _ ((onlyChanges.refl _ s).onPwr _) (.refl _ s)

/-- The machine once the records are given and the rings resume. -/
def hangEnded (q : HangSeq) (s : State) : State :=
  ringsResume (now (hangRecords q s)) (onHang (fun h => { h with seq := none }) (hangRecords q s))

/-- What ending a sequence leads to. -/
def hangDone (q : HangSeq) (s : State) : State :=
  maybeSwitch (orReg (aFlt + 0x208) 2
    (push 1 (mkItem 0x41 0 0 (BitVec.ofNat 32 q.freezeId) (engGt (hangEnded q s))) (hangEnded q s)))

theorem opHangComplete_ends {q : HangSeq} {s : State} (hq : s.obs.hang.seq = some q) (h5 : q.step = 5)
    (hw : s.obs.smp.wrOut = []) (hp : s.obs.smp.pieces = []) (hn : npart s.build ≤ q.done.length) :
    opHangComplete s = hangDone q s := by
  unfold opHangComplete
  rw [hq]
  dsimp only
  rw [if_neg (by simp [h5, hw, hp]; omega)]
  rfl

/-! ## The start by a watchdog -/

/-- The watchdog of a unit has run out. -/
def wdogOut (u : Nat) (s : State) : State :=
  onUnit u (fun x => { x with wdog := x.wdog.map fun w => { w with expired := true } }) s

theorem opWatchdog_starts {u g : Nat} {s : State} (hu : u < s.build.units) (hd : wdogDue (unitOf s u) = some g)
    (hs : serving s (collOfUnit s u) = true) (hg : g ≤ horizonOf s (collOfUnit s u))
    (hb : ((collOf s (collOfUnit s u)).buf.all fun e => decide (g ≤ e.stamp)) = true) :
    ∃ o, opWatchdog u s = wake 6 (hangStart g 0 u o (wdogOut u s)) := by
  unfold opWatchdog
  dsimp only
  rw [hd]
  dsimp only
  rw [if_pos ⟨hu, hs, hg, hb⟩]
  exact ⟨_, rfl⟩

theorem wdog_of_due {x : UnitSt} {g : Nat} (h : wdogDue x = some g) : x.wdog.isSome = true := by
  unfold wdogDue at h
  split at h
  · cases h
  · rename_i w hw
    rw [hw]
    rfl

/-- The wake that follows a trigger leaves an awake machine as it is. -/
theorem wake_hangStart {src g c f o : Nat} {s : State} (hr : obsRuns s = true) (ha : s.aon.pwr.stage = .awake)
    (hh : s.obs.hang.seq = none) (hw : s.obs.cut.hw = none) :
    wake src (hangStart g c f o s) = hangStart g c f o s := by
  obtain ⟨_, hr1, hk⟩ := (obsRuns_iff s).mp hr
  obtain ⟨hc, -⟩ := hangStart_spec (g := g) (cause := c) (firstUnit := f) (own := o) hh hw hr1
  have hp := hc.pwr_eq
  exact wake_of_awake (by rw [hp, hk]) (by rw [hp, ha])

/-- Settles O44: the trigger starts the sequence, and its end clears it. -/
theorem hangSequences : Obligations.HangSequences := by
  refine ⟨fun u g s hr hu hd hs hg hb hh hw ha => ?_, fun s hr hh hw ha => ?_, fun q s hr hq h5 hwr hp hn => ?_⟩
  · obtain ⟨_, hr1, hk⟩ := (obsRuns_iff s).mp hr.2
    obtain ⟨o, e⟩ := opWatchdog_starts hu hd hs hg hb
    have h1 : onlyChanges [.hed] s (wdogOut u s) := (onlyChanges.refl _ s).onUnit _ _
    have hh1 : (wdogOut u s).obs.hang.seq = none := hh
    have hw1 : (wdogOut u s).obs.cut.hw = none := hw
    rw [wake_hangStart (by rw [h1.obsRuns_eq, hr.2]) (by rw [h1.pwr_eq, ha]) hh1 hw1] at e
    have hgo : goesTo (.watchdogExpiry u) s (opWatchdog u s) := goesTo_inObs rfl hr
    rw [e] at hgo
    obtain ⟨hc, ⟨id, n, ra, hq⟩, ht, hi, hct, hsw, -⟩ :=
      hangStart_spec (g := g) (cause := 0) (firstUnit := u) (own := o) hh1 hw1 (by rw [h1.pwr_eq, hr1])
    refine ⟨_, _, hgo, hq, rfl, rfl, rfl, rfl, rfl, ht, ?_, hi, hct, hsw⟩
    rw [hc.unitOf_eq u, wdogOut, unitOf_onUnit_same]
    obtain ⟨w, hwd⟩ := Option.isSome_iff_exists.mp (wdog_of_due hd)
    rw [hwd]
    rfl
  · obtain ⟨hr0, hr1, hk⟩ := (obsRuns_iff s).mp hr.2
    have e : opHangIn s = hangStart (s.aon.tb.rootGt - 64) 1 0xFFF 0 s := by
      unfold opHangIn
      rw [if_neg (by simp [hr0]), if_neg (by simp [hr1]), wake_hangStart hr.2 ha hh hw]
    have hgo : goesTo .hangInRise s (opHangIn s) := goesTo_run rfl hr.1
    rw [e] at hgo
    obtain ⟨-, ⟨id, n, ra, hq⟩, ht, hi, -, hsw, -⟩ :=
      hangStart_spec (g := s.aon.tb.rootGt - 64) (cause := 1) (firstUnit := 0xFFF) (own := 0) hh hw hr1
    exact ⟨_, _, hgo, hq, rfl, rfl, rfl, rfl, rfl, ht, hi, hsw⟩
  · have e := opHangComplete_ends hq h5 hwr hp hn
    have hgo : goesTo .hangDumpComplete s (opHangComplete s) := goesTo_inObs rfl hr
    rw [e] at hgo
    have h1 := onlyChanges_hangRecords q s
    have h2 : onlyChanges [.hed] (onHang (fun h => { h with seq := none }) (hangRecords q s)) (hangEnded q s) :=
      onlyChanges_ringsResume _ _
    have h3 : onlyChanges [.evq, .obsRegs, .pwr] (hangEnded q s) (hangDone q s) :=
      ((((onlyChanges.refl _ _).push _ _ _ _ _ _).orReg _ _).trans
        ((onlyChanges_maybeSwitch _).mono (by decide)))
    have hang : (hangDone q s).obs.hang = { s.obs.hang with seq := none } := by
      rw [h3.hang_eq, h2.hang_eq, ← h1.hang_eq]
      rfl
    have hbit : bit (reg (hangDone q s) (aFlt + 0x208)) 1 = true := by
      rw [hangDone, (onlyChanges_maybeSwitch _).reg_eq (aFlt + 0x208), bit_reg_orReg]
      exact Bool.or_true _
    refine ⟨_, hgo, ?_, ?_, ?_, hbit, irq4_of_bit hbit, fun u hu => ?_⟩
    · rw [hang]
    · rw [hang]
    · rw [hang]
    · rw [h3.unitOf_eq u]
      exact resumed_ringsResume rfl (h1.build_eq ▸ hu)

end Sys2Proof.Machine
end

section
/-! SUPPORT. Contexts that keep all but their held records and their epoch number; the frames of the Lens. -/

namespace Sys2Proof.Machine

open Sys2Proof.Safety

set_option Elab.async false

/-! ## Contexts to which records are offered -/

/-- A context without what it holds and its epoch number. -/
def ctxKey (c : CtxSt) : CtxSt := { c with hold := [], epochNum := 0 }

/-- From s to t contexts change in their held records and epoch numbers alone. -/
def sameCtxs (s t : State) : Prop := ∀ x, (ctxOf t x).map ctxKey = (ctxOf s x).map ctxKey

theorem sameCtxs.refl (s : State) : sameCtxs s s := fun _ => rfl

theorem sameCtxs.trans {s t u : State} (h : sameCtxs s t) (g : sameCtxs t u) : sameCtxs s u :=
  fun x => (g x).trans (h x)

theorem sameCtxs_of_frame {ps : List Part} {s t : State} (h : onlyChanges ps s t) (hm : .ctxs ∉ ps := by decide) :
    sameCtxs s t := fun x => by rw [h.ctxOf_eq x hm]

theorem sameCtxs.ite {s t u : State} (c : Prop) [Decidable c] (h : sameCtxs s t) (g : sameCtxs s u) :
    sameCtxs s (if c then t else u) := by
  split
  · exact h
  · exact g

section Same

variable {s t : State} (h : sameCtxs s t)
include h

theorem sameCtxs.frame {ps : List Part} {u : State} (hu : onlyChanges ps t u) (hm : .ctxs ∉ ps := by decide) :
    sameCtxs s u := h.trans (sameCtxs_of_frame hu hm)

theorem sameCtxs.onCtx (x : Nat) {f : CtxSt → CtxSt} (hf : ∀ c, ctxKey (f c) = ctxKey c) : sameCtxs s (onCtx x f t) := by
  refine h.trans fun y => ?_
  unfold Machine.onCtx
  split
  · rename_i c hc
    by_cases hy : y = x
    · subst hy
      rw [ctxOf_setCtx_same, hc, Option.map_some, hf c]
      rfl
    · rw [ctxOf_setCtx_other _ _ _ _ hy]
  · rfl

theorem sameCtxs.giveRec (x : Nat) (r : Rec) : sameCtxs s (giveRec x r t) := h.onCtx x fun _ => rfl

theorem sameCtxs.offerRec (x : Nat) (r : Rec) : sameCtxs s (offerRec x r t) := by
  unfold Machine.offerRec
  split
  · split
    · exact h.giveRec x r
    · exact h
  · exact h

theorem sameCtxs.foldl {α : Type} {f : State → α → State} (hf : ∀ u x, sameCtxs s u → sameCtxs s (f u x)) (l : List α) :
    sameCtxs s (l.foldl f t) := by
  induction l generalizing t with
  | nil => exact h
  | cons x l ih => exact ih (hf t x h)

theorem sameCtxs.offerWhere (f : CtxSt → Bool) (r : CtxSt → Rec) : sameCtxs s (offerWhere f r t) := by
  unfold Machine.offerWhere
  refine h.foldl (fun u x hu => ?_) _
  split
  · split
    · exact hu.offerRec _ _
    · exact hu
  · exact hu

theorem sameCtxs.offerUnit (u : Nat) (r : Rec) : sameCtxs s (offerUnit u r t) := h.offerWhere _ _

theorem sameCtxs.offerPart (p : Nat) (r : Rec) : sameCtxs s (offerPart p r t) := h.offerWhere _ _

/-- What a context keeps. -/
theorem sameCtxs.some {x : Nat} {c : CtxSt} (hc : ctxOf s x = some c) :
    ∃ d, ctxOf t x = some d ∧ ctxKey d = ctxKey c := by
  have := h x
  rw [hc] at this
  cases hd : ctxOf t x with
  | none => rw [hd] at this; cases this
  | some d =>
    rw [hd] at this
    exact ⟨d, rfl, Option.some.inj this⟩

theorem sameCtxs.symm : sameCtxs t s := fun x => (h x).symm

end Same

/-- No key advances where contexts keep their sequence numbers. -/
theorem seqWrapped_of_sameCtxs {s t : State} (h : sameCtxs s t) : seqWrapped s t = t :=
  seqWrapped_of fun x c d hc hd hn => by
    obtain ⟨e, he, hk⟩ := h.some hc
    rw [hd] at he
    cases he
    have : (ctxKey d).seq = (ctxKey c).seq := by rw [hk]
    have : d.seq = c.seq := this
    omega

theorem mem_ctxIds {s : State} {x : Nat} {c : CtxSt} (h : ctxOf s x = some c) : x ∈ ctxIds s := by
  have hg : ∀ m : SMap (Option CtxSt), smGet noneD m x = some c → x ∈ (m.filter fun e => e.2.isSome).map (·.1) := by
    intro m
    induction m with
    | nil => intro h; cases h
    | cons e m ih =>
      intro h
      by_cases hk : e.1 = x
      · have he : e.2 = some c := by simpa [smGet, hk] using h
        simp [he, hk]
      · have := ih (by simpa [smGet, hk] using h)
        rw [List.filter_cons]
        split
        · exact List.mem_cons_of_mem _ this
        · exact this
  exact hg _ h

/-- A context waits for the partition's epoch. -/
theorem epochAwaited_iff (s : State) (p : Nat) : epochAwaited s p = true ↔
    ∃ x c, ctxOf s x = some c ∧ c.part = p ∧ ctxArmed c = true ∧ c.closing = none := by
  unfold epochAwaited
  rw [List.any_eq_true]
  constructor
  · rintro ⟨x, -, hx⟩
    split at hx
    · rename_i c hc
      simp only [Bool.and_eq_true, beq_iff_eq, Option.isNone_iff_eq_none] at hx
      exact ⟨x, c, hc, hx.1.1, hx.1.2, hx.2⟩
    · cases hx
  · rintro ⟨x, c, hc, hp, ha, hn⟩
    refine ⟨x, mem_ctxIds hc, ?_⟩
    rw [hc]
    simp [hp, ha, hn]

theorem epochAwaited_of_sameCtxs {s t : State} (h : sameCtxs s t) (p : Nat) : epochAwaited t p = epochAwaited s p := by
  have one {s t : State} (h : sameCtxs s t) (hs : epochAwaited s p = true) : epochAwaited t p = true := by
    obtain ⟨x, c, hc, hp, ha, hn⟩ := (epochAwaited_iff s p).mp hs
    obtain ⟨d, hd, hk⟩ := h.some hc
    refine (epochAwaited_iff t p).mpr ⟨x, d, hd, (show (ctxKey d).part = p by rw [hk]; exact hp), ?_, (show (ctxKey d).closing = none by rw [hk]; exact hn)⟩
    have hst : (ctxKey d).state = (ctxKey c).state := by rw [hk]
    have : d.state = c.state := hst
    rw [ctxArmed, this]
    exact ha
  exact Bool.eq_iff_iff.mpr ⟨one h.symm, one h⟩

/-! ## Frames of the Lens -/

section Lens

variable {ps : List Part} {s t : State} (h : onlyChanges ps s t)
include h

theorem onlyChanges_onSlot (k : Nat) (f : Slot → Slot) (hl : .lens ∈ ps := by decide) : onlyChanges ps s (onSlot k f t) := by
  unfold onSlot
  split
  · exact h.setSlot _ _ hl
  · exact h

theorem onlyChanges_onSpill (j : Nat) (f : SpillQ → SpillQ) (hl : .lens ∈ ps := by decide) :
    onlyChanges ps s (onSpill j f t) := h.onLens _ hl

theorem onlyChanges_addJob (k : Nat) (w : SpillWhat) (hl : .lens ∈ ps := by decide) : onlyChanges ps s (addJob k w t) :=
  h.onLens _ hl

theorem onlyChanges_onPair (id : Nat) (f : PairSt → PairSt) (hl : .lens ∈ ps := by decide) :
    onlyChanges ps s (onPair id f t) := h.onLens _ hl

theorem onlyChanges_addUnbound (tap n : Nat) (hl : .lens ∈ ps := by decide) : onlyChanges ps s (addUnbound tap n t) :=
  h.onLens _ hl

theorem onlyChanges_commitPart (k key : Nat) (i : Img) (hl : .lens ∈ ps := by decide) (hd : .draws ∈ ps := by decide) :
    onlyChanges ps s (commitPart k key i t) := by
  unfold commitPart
  split
  · exact h
  · exact .ite _ h ((onlyChanges.ite _ (h.setSlot _ _ hl) (h.setSlot _ _ hl)).draw hd)

theorem onlyChanges_commitParts (k : Nat) (parts : SMap Img) (hl : .lens ∈ ps := by decide)
    (hd : .draws ∈ ps := by decide) : onlyChanges ps s (commitParts k parts t) :=
  h.foldl (fun _ _ hu => onlyChanges_commitPart hu _ _ _ hl hd) _

theorem onlyChanges_joinPost (k g : Nat) (hl : .lens ∈ ps := by decide) (hd : .draws ∈ ps := by decide) :
    onlyChanges ps s (joinPost k g t) := by
  unfold joinPost
  split
  · exact h
  · split
    · exact (h.setSlot _ _ hl).draw hd
    · exact h

section Spill

variable (hl : .lens ∈ ps) (hs : .smp ∈ ps)
include hl hs

theorem onlyChanges_spillAsk (q : SpillQ) : onlyChanges ps s (spillAsk q t) := by
  unfold spillAsk
  split
  · exact h
  · exact (onlyChanges_onSpill h _ _ hl).foldl (fun _ _ hu => hu.readPieces _ _ _ _ _ hs) _

theorem onlyChanges_spillWrite (k : Nat) : onlyChanges ps s (spillWrite k t) := by
  unfold spillWrite
  split
  · exact (h.setSlot _ _ hl).addPieces _ _ _ _ _ _ hs
  · exact h

omit hl in
theorem onlyChanges_spillWriteCut (k id kind : Nat) : onlyChanges ps s (spillWriteCut k id kind t) := by
  unfold spillWriteCut
  split
  · exact h.addPieces _ _ _ _ _ _ hs
  · exact h

variable (hd : .draws ∈ ps)
include hd

theorem onlyChanges_spillCommit (k : Nat) (parts : SMap Img) : onlyChanges ps s (spillCommit k parts t) := by
  unfold spillCommit
  split
  · exact h
  · refine .ite _ h (onlyChanges_spillWrite (onlyChanges_commitParts ?_ _ _ hl hd) hl hs _)
    exact .ite _ h (h.setSlot _ _ hl)

theorem onlyChanges_spillCut (k g id : Nat) (b m : Bool) (n : Nat) : onlyChanges ps s (spillCut k g id b m n t) := by
  unfold spillCut
  split
  · exact h
  · rename_i x hx
    have h1 := (h.setSlot k (some (if b then bufBoundary t.draws m id x else bufFreeze id x)) hl).draw hd
    have h2 := onlyChanges.ite (((!cutAgain (draw (setSlot k (some (if b then bufBoundary t.draws m id x else bufFreeze id x)) t)) k g
      && x.post.any fun e => e.1 == g) : Bool) = true) (onlyChanges_joinPost h1 k g hl hd) h1
    have h3 := onlyChanges.ite ((b || x.buf = .empty || x.buf = .freeze : Bool) = true)
      (onlyChanges_spillWriteCut h2 hs k (if b then n else id) (if b then 2 else 1)) h2
    exact .ite _ (onlyChanges_spillWrite h3 hl hs k) h3

theorem onlyChanges_spillDo (q : SpillQ) : onlyChanges ps s (spillDo q t) := by
  have h1 := onlyChanges_onSlot (h.onLens
    (fun l => { l with spill := delFirst (fun o => o.job == q.job) l.spill }) hl) q.slot (spillLoad q) hl
  unfold spillDo
  dsimp only
  split
  · exact onlyChanges_spillCommit h1 hl hs hd _ _
  · exact onlyChanges_spillCut h1 hl hs hd _ _ _ _ _ _
  · exact onlyChanges_onSlot h1 _ _ hl
  · exact h1
  · exact h1

theorem onlyChanges_spillPump (n : Nat) : onlyChanges ps s (spillPump n t) := by
  induction n generalizing t with
  | zero => exact h
  | succ n ih =>
    unfold spillPump
    split
    · exact ih (onlyChanges_spillAsk h hl hs _)
    · split
      · exact ih (onlyChanges_spillDo h hl hs hd _)
      · exact h

theorem onlyChanges_spillNext : onlyChanges ps s (spillNext t) := onlyChanges_spillPump h hl hs hd _

theorem onlyChanges_commitTo (k : Nat) (parts : SMap Img) : onlyChanges ps s (commitTo k parts t) := by
  unfold commitTo
  split
  · exact h
  · exact .ite _ h (.ite _ (onlyChanges_commitParts h _ _ hl hd)
      (onlyChanges_spillNext (onlyChanges_addJob h _ _ hl) hl hs hd))

theorem onlyChanges_commitBelow (k g : Nat) : onlyChanges ps s (commitBelow k g t) := by
  unfold commitBelow
  refine (h.foldl (fun u x hu => ?_) _).foldl (fun u x hu => ?_) _
  · split
    · exact .ite _ (onlyChanges_commitTo (hu.setTap _ _ hl) hl hs hd _ _) hu
    · exact hu
  · exact onlyChanges_commitTo (onlyChanges_onPair hu _ _ hl) hl hs hd _ _

omit hs hd in
theorem onlyChanges_rekeySlot (k g : Nat) : onlyChanges ps s (rekeySlot k g t) := by
  refine onlyChanges.onLens (h.foldl (fun u x hu => ?_) _) _ hl
  split
  · exact .ite _ (hu.setTap _ _ hl) hu
  · exact hu

omit hs hd in
theorem onlyChanges_cutSpilled (k g id : Nat) (b m : Bool) (n : Nat) : onlyChanges ps s (cutSpilled k g id b m n t) := by
  have h1 := onlyChanges_addJob (h.onLens (fun l => { l with spill := (t.obs.lens.spill.map (splitJob k g)).map (·.1) }) hl)
    k (.cut g id b m n) hl
  have h2 := onlyChanges.ite (b = true) (onlyChanges_addJob h1 k .epoch hl) h1
  exact h2.foldl (fun _ _ hu => onlyChanges_addJob hu _ _ hl) _

theorem onlyChanges_cutSlot (k g id : Nat) (b m : Bool) (n : Nat) : onlyChanges ps s (cutSlot k g id b m n t) := by
  have h0 := onlyChanges_commitBelow h hl hs hd k g
  unfold cutSlot
  dsimp only
  split
  · exact h0
  · refine .ite _ ?_ ?_
    · have h1 (v : Option Slot) := (h0.setSlot k v hl).draw hd
      exact .ite _ (h1 _) (onlyChanges_rekeySlot (onlyChanges_joinPost (h1 _) _ _ hl hd) hl _ _)
    · have h1 := onlyChanges_cutSpilled h0 hl k g id b m n
      exact onlyChanges_spillNext (.ite _ h1 (onlyChanges_rekeySlot h1 hl _ _)) hl hs hd

omit hs hd in
theorem onlyChanges_lensDrained (p : Nat) : onlyChanges ps s (lensDrained p t) :=
  h.foldl (fun _ _ hu => .ite _ (onlyChanges_addJob hu _ _ hl) (onlyChanges_onSlot hu _ _ hl)) _

end Spill

theorem onlyChanges_rowSummary (kind tap g : Nat) (st : Stream) (a : RowSum) (hx : .ctxs ∈ ps := by decide) :
    onlyChanges ps s (rowSummary kind tap g st a t) := by
  unfold rowSummary
  refine h.foldl (fun u x hu => ?_) _
  split
  · exact .ite _ (hu.offerRec _ _ hx) hu
  · exact hu

theorem onlyChanges_rowCut (tap g : Nat) (again : Bool) (st : Stream) (hx : .ctxs ∈ ps := by decide) :
    onlyChanges ps s (rowCut tap g again st t).2 := by
  unfold rowCut
  dsimp only
  split
  · exact onlyChanges_rowSummary h _ _ _ _ _ hx
  · exact h

theorem onlyChanges_rowCuts (g : Nat) (p : Option Nat) (hl : .lens ∈ ps := by decide) (hx : .ctxs ∈ ps := by decide) :
    onlyChanges ps s (rowCuts g p t) := by
  unfold rowCuts
  refine h.foldl (fun u x hu => ?_) _
  split
  · exact .ite _ ((onlyChanges_rowCut hu _ _ _ _ hx).setTap _ _ hl) hu
  · exact hu

end Lens

/-! ## What a cut of the Lens leaves to the contexts -/

theorem sameCtxs.rowSummary {s t : State} (h : sameCtxs s t) (kind tap g : Nat) (st : Stream) (a : RowSum) :
    sameCtxs s (rowSummary kind tap g st a t) := by
  unfold Machine.rowSummary
  refine h.foldl (fun u x hu => ?_) _
  split
  · split
    · exact hu.offerRec _ _
    · exact hu
  · exact hu

theorem sameCtxs.rowCut {s t : State} (h : sameCtxs s t) (tap g : Nat) (again : Bool) (st : Stream) :
    sameCtxs s (rowCut tap g again st t).2 := by
  unfold Machine.rowCut
  dsimp only
  split
  · exact h.rowSummary _ _ _ _ _
  · exact h

theorem sameCtxs.rowCuts {s t : State} (h : sameCtxs s t) (g : Nat) (p : Option Nat) : sameCtxs s (rowCuts g p t) := by
  unfold Machine.rowCuts
  refine h.foldl (fun u x hu => ?_) _
  split
  · exact .ite _ ((hu.rowCut _ _ _ _).frame (ps := [.lens]) ((onlyChanges.refl _ _).setTap _ _)) hu
  · exact hu

end Sys2Proof.Machine
end

section
/-! CERTIFICATE. Epoch boundaries are taken and their records written (R90 to R92). -/

namespace Sys2Proof.Machine

open Sys2Proof.Safety

set_option Elab.async false

/-! ## What stands through the steps of a boundary -/

/-- From s to t the epochs stand, and contexts keep all but what they hold and their epoch numbers. -/
def epochsStand (s t : State) : Prop := epochsOf t = epochsOf s ∧ sameCtxs s t

theorem epochsStand.refl (s : State) : epochsStand s s := ⟨rfl, .refl s⟩

theorem epochsStand.trans {s t u : State} (h : epochsStand s t) (g : epochsStand t u) : epochsStand s u :=
  ⟨g.1.trans h.1, h.2.trans g.2⟩

theorem epochsStand_of_frame {ps : List Part} {s t : State} (h : onlyChanges ps s t) (hc : .cut ∉ ps := by decide)
    (hx : .ctxs ∉ ps := by decide) : epochsStand s t := ⟨epochsOf_of_frame h hc, sameCtxs_of_frame h hx⟩

theorem epochsStand_of_ctxs {ps : List Part} {s t : State} (h : onlyChanges ps s t) (hx : sameCtxs s t)
    (hc : .cut ∉ ps := by decide) : epochsStand s t := ⟨epochsOf_of_frame h hc, hx⟩

theorem epochsStand_of_cut {ps : List Part} {s t : State} (h : onlyChanges ps s t) (he : epochsOf t = epochsOf s)
    (hx : .ctxs ∉ ps := by decide) : epochsStand s t := ⟨he, sameCtxs_of_frame h hx⟩

theorem epochsStand.epochOf_eq {s t : State} (h : epochsStand s t) (p : Nat) : epochOf t p = epochOf s p :=
  congrArg (fun m => smGet epochD m p) h.1

theorem epochsStand.foldl {α : Type} {s t : State} (h : epochsStand s t) {f : State → α → State}
    (hf : ∀ u x, epochsStand u (f u x)) (l : List α) : epochsStand s (l.foldl f t) := by
  induction l generalizing t with
  | nil => exact h
  | cons x l ih => exact ih (h.trans (hf t x))

theorem epochsStand_accrue (u g : Nat) (s : State) : epochsStand s (accrue u g s) :=
  epochsStand_of_cut (onlyChanges_accrue (onlyChanges.refl [.hed, .cut] s) u g) (epochsOf_accrue u g s)

theorem sameCtxs_splitRun (p g : Nat) (s : State) : sameCtxs s (splitRun p g s) := by
  unfold splitRun
  split
  · exact .refl s
  · split
    · exact .refl s
    · refine (sameCtxs.refl s).foldl (fun u x hu => ?_) _
      split
      · exact hu
      · refine .ite _ ?_ hu
        exact (sameCtxs.ite _ (hu.offerUnit _ _) hu).frame (ps := [.hed]) ((onlyChanges.refl _ _).onPort _ _)

theorem epochsStand_splitRun (p g : Nat) (s : State) : epochsStand s (splitRun p g s) :=
  epochsStand_of_ctxs (onlyChanges_splitRun (onlyChanges.refl [.hed, .ctxs] s) p g) (sameCtxs_splitRun p g s)

theorem epochsStand_splitRuns (g : Nat) (who : Nat → Bool) (s : State) : epochsStand s (splitRuns g who s) := by
  refine (epochsStand.refl s).foldl (fun u x => ?_) _
  split
  · split
    · exact epochsStand_splitRun _ _ _
    · exact .refl _
  · exact .refl _

theorem onlyChanges_lensBoundary {ps : List Part} {s t : State} (h : onlyChanges ps s t) (p g : Nat) (same : Option Nat)
    (hl : .lens ∈ ps := by decide) (hs : .smp ∈ ps := by decide) (hd : .draws ∈ ps := by decide)
    (hx : .ctxs ∈ ps := by decide) : onlyChanges ps s (lensBoundary p g same t) :=
  (onlyChanges_rowCuts h _ _ hl hx).foldl (fun _ _ hu => onlyChanges_cutSlot hu hl hs hd _ _ _ _ _ _) _

theorem sameCtxs_cutSlots {α : Type} {s t : State} (h : sameCtxs s t) (l : List α) (k : α → Nat) (g id : Nat) (b m : Bool)
    (n : State → Nat) : sameCtxs s (l.foldl (fun acc x => cutSlot (k x) g id b m (n acc) acc) t) :=
  h.foldl (fun _ _ hu => hu.frame (onlyChanges_cutSlot (onlyChanges.refl [.lens, .smp, .draws] _)
    (by decide) (by decide) (by decide) _ _ _ _ _ _)) l

theorem epochsStand_lensBoundary (p g : Nat) (same : Option Nat) (s : State) :
    epochsStand s (lensBoundary p g same s) :=
  epochsStand_of_ctxs (onlyChanges_lensBoundary (onlyChanges.refl [.lens, .smp, .draws, .ctxs] s) p g same)
    (sameCtxs_cutSlots ((sameCtxs.refl s).rowCuts g (some p)) _ _ _ _ _ _ _)

theorem onlyChanges_addMark (m : CutMark) (s : State) : onlyChanges [.cut, .hed] s (addMark m s) :=
  (((onlyChanges.refl _ s).onCut _).onCut _).onHed _

theorem epochsStand_addMark (m : CutMark) (s : State) : epochsStand s (addMark m s) :=
  epochsStand_of_cut (onlyChanges_addMark m s) rfl

theorem onlyChanges_dropRequest (s : State) : onlyChanges [.pwr, .hed] s (dropRequest s) :=
  .ite _ (.refl _ s) ((onlyChanges_loseCopies (onlyChanges.refl _ s)).onPwr _)

/-- Units that restart at the boundary leave the epochs. -/
theorem onlyChanges_restartUnit (g u : Nat) (s : State) : onlyChanges [.hed] s (restartUnit g u s) := by
  have h := onlyChanges_snapUnit (onlyChanges.refl [.hed] s) u g
  exact .ite _ h (h.onUnit _ _)

/-- The cut's banks at the boundary, before its epoch is entered. -/
def banksLatched (p g : Nat) (s : State) : State :=
  ((List.range s.build.units).filter fun u => (unitOf s u).owner == p).foldl (fun a u => restartUnit g u a)
    (onCut (onCuts fun lim b => if g < lim then restartSplit
      (onCut (fun c => { c with
        epochBank := mergeBank (if (epochOf s p).undrained.isSome then c.epochBank else bankRest s p c.epochBank)
          (bankPart s p s.obs.cut.main.live)
        opsDead := c.opsDead.filter fun k => k / 512 != p }) s) p g b else b)
      (onCut (fun c => { c with
        epochBank := mergeBank (if (epochOf s p).undrained.isSome then c.epochBank else bankRest s p c.epochBank)
          (bankPart s p s.obs.cut.main.live)
        opsDead := c.opsDead.filter fun k => k / 512 != p }) s))

theorem latchEpoch_eq (p g : Nat) (s : State) :
    latchEpoch p g s = onEpoch p (stepEpoch g (some (nextUndrained (epochOf s p) g))) (banksLatched p g s) := rfl

theorem epochsStand_onCut {f : Cut → Cut} (hf : ∀ c, (f c).epochs = c.epochs) (s : State) : epochsStand s (onCut f s) :=
  epochsStand_of_cut ((onlyChanges.refl [.cut] s).onCut _) (hf _)

theorem epochsStand_banksLatched (p g : Nat) (s : State) : epochsStand s (banksLatched p g s) := by
  unfold banksLatched
  refine epochsStand.foldl ((epochsStand_onCut (fun _ => ?_) s).trans (epochsStand_onCut (fun _ => ?_) _))
    (fun a u => epochsStand_of_frame (onlyChanges_restartUnit g u a)) _
  · rfl
  · rfl

/-! ## One partition's epoch -/

/-- From s to t the epochs of every partition but p stand, those of p change by f, and contexts keep all but what they
hold and their epoch numbers. -/
def epochMoves (p : Nat) (f : EpochSt → EpochSt) (s t : State) : Prop :=
  epochOf t p = f (epochOf s p) ∧ (∀ q, q ≠ p → epochOf t q = epochOf s q) ∧ sameCtxs s t

theorem epochMoves_onEpoch (p : Nat) (f : EpochSt → EpochSt) (s : State) : epochMoves p f s (onEpoch p f s) :=
  ⟨epochOf_onEpoch_same _ _ _, fun _ hq => epochOf_onEpoch_other _ _ _ _ hq,
    sameCtxs_of_frame ((onlyChanges.refl [.cut] s).onEpoch p f)⟩

theorem epochMoves.after {p : Nat} {f : EpochSt → EpochSt} {s t u : State} (h : epochMoves p f s t)
    (g : epochsStand t u) : epochMoves p f s u :=
  ⟨(g.epochOf_eq p).trans h.1, fun q hq => (g.epochOf_eq q).trans (h.2.1 q hq), h.2.2.trans g.2⟩

theorem epochMoves.before {p : Nat} {f : EpochSt → EpochSt} {s t u : State} (g : epochsStand s t)
    (h : epochMoves p f t u) : epochMoves p f s u :=
  ⟨by rw [h.1, g.epochOf_eq p], fun q hq => (h.2.1 q hq).trans (g.epochOf_eq q), g.2.trans h.2.2⟩

theorem epochMoves.trans {p : Nat} {f g : EpochSt → EpochSt} {s t u : State} (h : epochMoves p f s t)
    (k : epochMoves p g t u) : epochMoves p (fun e => g (f e)) s u :=
  ⟨by rw [k.1, h.1], fun q hq => (k.2.1 q hq).trans (h.2.1 q hq), h.2.2.trans k.2.2⟩

/-- The bits of an epoch's state that a renumbering leaves. -/
theorem renumberEpochs_moves (p g : Nat) (s : State) :
    ∃ r : EpochSt → List Nat, epochMoves p (fun e => { e with renumber := r e }) s (renumberEpochs p g s) := by
  unfold renumberEpochs
  split
  · refine ⟨fun e => e.renumber.filter fun c => decide (g ≤ c), ?_⟩
    have h := epochMoves_onEpoch p (fun e => { e with renumber := e.renumber.filter fun c => decide (g ≤ c) }) s
    have hs (l : List Nat) (t : State) : epochsStand t
        (l.foldl (fun a x => onCtx x (fun c => if c.part = p then { c with epochNum := 0 } else c) a) t) :=
      (epochsStand.refl t).foldl (fun a x => epochsStand_of_ctxs ((onlyChanges.refl [.ctxs] a).onCtx _ _)
        ((sameCtxs.refl a).onCtx x fun c => by split <;> rfl)) l
    exact h.after (hs _ _)
  · exact ⟨fun e => e.renumber, rfl, fun _ _ => rfl, .refl s⟩

theorem drainEpoch_moves (p : Nat) (s : State) : epochMoves p (fun e => { e with undrained := none }) s (drainEpoch p s) := by
  have h1 : epochsStand s (onCut (fun c => { c with epochBank := bankRest s p c.epochBank }) s) :=
    epochsStand_of_cut ((onlyChanges.refl [.cut] s).onCut _) rfl
  have h2 (l : List (Nat × UnitSt)) (t : State) : epochsStand t
      (l.foldl (fun a e => onUnit e.1 (fun x => { x with epochLost := false }) a) t) :=
    (epochsStand.refl t).foldl (fun a x => epochsStand_of_frame ((onlyChanges.refl [.hed] a).onUnit _ _)) l
  have h3 (t : State) : epochsStand t (lensDrained p t) :=
    epochsStand_of_frame (onlyChanges_lensDrained (onlyChanges.refl [.lens] t) (by decide) p)
  exact (epochMoves.before (h1.trans (h2 _ _)) (epochMoves_onEpoch p _ _)).after (h3 _)

/-! ## The boundary -/

/-- The machine at the boundary at g of partition p, before its epoch is drained where nothing awaits it. -/
def boundaryTaken (p g : Nat) (same : Option Nat) (s : State) : State :=
  addMark ⟨g, some p, true, default⟩ (lensBoundary p g same (latchEpoch p g (renumberEpochs p g s)))

/-- The epoch starts at the boundary, and the one before it stands undrained and ends there. -/
theorem boundaryTaken_spec (p g : Nat) (same : Option Nat) (s : State) :
    ((epochOf (boundaryTaken p g same s) p).start = g ∧ (epochOf (boundaryTaken p g same s) p).skipped = 0 ∧
      (epochOf (boundaryTaken p g same s) p).ignored = 0 ∧
      (epochOf (boundaryTaken p g same s) p).undrained.map (·.fin) = some g) ∧
    (∀ q, q ≠ p → epochOf (boundaryTaken p g same s) q = epochOf s q) ∧ sameCtxs s (boundaryTaken p g same s) := by
  obtain ⟨r, hr⟩ := renumberEpochs_moves p g s
  unfold boundaryTaken
  generalize renumberEpochs p g s = t at hr
  have hm := epochMoves.before (epochsStand_banksLatched p g t)
    (epochMoves_onEpoch p (stepEpoch g (some (nextUndrained (epochOf t p) g))) (banksLatched p g t))
  rw [← latchEpoch_eq] at hm
  obtain ⟨he, ho, hx⟩ := hr.trans
    (hm.after ((epochsStand_lensBoundary p g same _).trans (epochsStand_addMark ⟨g, some p, true, default⟩ _)))
  refine ⟨?_, ho, hx⟩
  rw [he]
  refine ⟨rfl, rfl, rfl, congrArg some ?_⟩
  unfold nextUndrained
  split <;> rfl

/-- What the earlier steps of the boundary leave. -/
def runsSplit (p g : Nat) (s : State) : State :=
  splitRuns g (fun u => (unitOf (((List.range s.build.units).filter fun u => (unitOf s u).owner == p).foldl
    (fun a u => accrue u g a) s) u).owner == p)
    (((List.range s.build.units).filter fun u => (unitOf s u).owner == p).foldl (fun a u => accrue u g a) s)

theorem epochsStand_runsSplit (p g : Nat) (s : State) : epochsStand s (runsSplit p g s) :=
  ((epochsStand.refl s).foldl (fun a u => epochsStand_accrue u g a) _).trans (epochsStand_splitRuns g _ _)

theorem opBoundary_takes {p g : Nat} {s : State} (hb : boundOf s p = some g) (hf : finalAt s g = true)
    (hn : ((freezes s).any fun f => decide (f.t ≤ g)) = false) :
    ∃ same, opBoundary p s = dropRequest
      (if epochAwaited (boundaryTaken p g same (runsSplit p g s)) p then boundaryTaken p g same (runsSplit p g s)
       else drainEpoch p (boundaryTaken p g same (runsSplit p g s))) := by
  unfold opBoundary
  rw [hb]
  dsimp only
  rw [if_neg (by simp [hf, hn])]
  exact ⟨_, rfl⟩

/-! ## The epoch's records -/

theorem onlyChanges_epochGroup (p : Nat) (u : Undrained) (x : Nat) (s : State) :
    onlyChanges [.ctxs] s (epochGroup p u x s) := by
  unfold epochGroup
  split
  · exact .refl _ s
  · exact .ite _ (.refl _ s) (((onlyChanges.refl _ s).foldl (fun _ _ hu => hu.offerRec _ _) _).onCtx _ _)

theorem cut_drainEpoch (p : Nat) (s : State) : (drainEpoch p s).obs.cut.opsLost = s.obs.cut.opsLost ∧
    (drainEpoch p s).obs.cut.main = s.obs.cut.main ∧ (drainEpoch p s).obs.cut.shadow = s.obs.cut.shadow := by
  have h2 (l : List (Nat × UnitSt)) (t : State) :
      (l.foldl (fun a e => onUnit e.1 (fun x => { x with epochLost := false }) a) t).obs.cut = t.obs.cut :=
    ((onlyChanges.refl [.hed] t).foldl (fun _ _ hu => hu.onUnit _ _) l).cut_eq
  have h3 (t : State) : (lensDrained p t).obs.cut = t.obs.cut :=
    (onlyChanges_lensDrained (onlyChanges.refl [.lens] t) (by decide) p).cut_eq
  have hc : (drainEpoch p s).obs.cut = (onEpoch p (fun e => { e with undrained := none })
      (onCut (fun c => { c with epochBank := bankRest s p c.epochBank }) s)).obs.cut := by
    unfold drainEpoch
    rw [h3]
    exact congrArg (fun c : Cut => { c with epochs := smMod epochD c.epochs p (fun e => { e with undrained := none }) })
      (h2 _ _)
  rw [hc]
  exact ⟨rfl, rfl, rfl⟩

/-- The epoch's records reach the contexts, and the partition loses no ops any more. -/
def recordsTaken (p : Nat) (u : Undrained) (s : State) : State :=
  onCut (fun c => { c with opsLost := c.opsLost.filter (· != p) }) ((ctxIds s).foldl (fun a x => epochGroup p u x a) s)

theorem opEpochTaken_takes {p : Nat} {u : Undrained} {s : State} (hu : (epochOf s p).undrained = some u)
    (hr : epochRoom p u s = true) (hf : ((freezes s).any fun f => decide (f.t ≤ u.fin)) = false)
    (hh : freezeHeld s p u.fin = false) (hb : (slotsOf s (some p)).any (spillBusy s) = false) :
    opEpochTaken p s = drainEpoch p (recordsTaken p u s) := by
  unfold opEpochTaken
  rw [hu]
  dsimp only
  rw [if_neg (by simp [hr, hf, hh, hb])]
  rfl

/-! ## An edge of `FRAME_SYNC` -/

/-- Each partition takes the edge. -/
def edgesTaken (g : Nat) (l : List Nat) (s : State) : State := l.foldl (fun a p => onEpoch p (edgeEpoch g) a) s

theorem onlyChanges_edgesTaken (g : Nat) (l : List Nat) (s : State) : onlyChanges [.cut] s (edgesTaken g l s) :=
  (onlyChanges.refl _ s).foldl (fun _ p h => h.onEpoch p _) l

theorem epochOf_edgesTaken (g p : Nat) (l : List Nat) (hl : l.Nodup) (s : State) :
    epochOf (edgesTaken g l s) p = if p ∈ l then edgeEpoch g (epochOf s p) else epochOf s p := by
  induction l generalizing s with
  | nil => rfl
  | cons q l ih =>
    obtain ⟨hq, hl⟩ := List.nodup_cons.mp hl
    refine (ih hl (onEpoch q (edgeEpoch g) s)).trans ?_
    by_cases hp : p = q
    · subst hp
      rw [if_neg hq, if_pos (List.mem_cons_self ..), epochOf_onEpoch_same]
    · rw [epochOf_onEpoch_other _ _ _ _ hp]
      simp [hp]

/-- An FSYNC schedule alone takes the edge. -/
theorem edgeEpoch_takes {g : Nat} {e : EpochSt} {x : EpEntry} (he : e.entries = [x]) (h2 : x.sched.source = 2)
    (hs : x.stop = none) (hl : e.lastEdge = none) : edgeEpoch g e = { e with
      lastEdge := some g
      entries := [{ x with next := x.next ++ [g + 1024], first := some (x.first.getD (g + 1024)) }] } := by
  have ht : edgeTakes g x = true := by simp [edgeTakes, h2, hs]
  unfold edgeEpoch
  rw [if_neg (by simp [he, ht]), hl, if_neg (by simp), he]
  simp [edgeEntries, ht]

/-- Where no Sentinel watch starts at an edge, its boundaries are all it gives. -/
theorem opFrameSync_edges {s : State} (hr : obsRuns s = true) (hs : s.aon.pwr.stage = .awake)
    (hf : s.aon.pwr.sleepFrom = none) (ha : senArmed s (fun w => w.startKind == 8) = []) :
    opFrameSync s = edgesTaken (engGt s - corrOf s.aon.pwr.ratio) (List.range (npart s.build)) s := by
  obtain ⟨h0, -, -⟩ := (obsRuns_iff s).mp hr
  have hc := onlyChanges_edgesTaken (engGt s - corrOf s.aon.pwr.ratio) (List.range (npart s.build)) s
  unfold opFrameSync
  rw [if_neg (by simp [h0])]
  dsimp only
  rw [if_pos (by simp [hr, hs, hf])]
  change senFrame (edgesTaken (engGt s - corrOf s.aon.pwr.ratio) (List.range (npart s.build)) s) = _
  generalize edgesTaken (engGt s - corrOf s.aon.pwr.ratio) (List.range (npart s.build)) s = t at hc
  have ht : senArmed t (fun w => w.startKind == 8) = [] := by
    rw [senArmed, hc.sen_eq]
    exact ha
  rw [senFrame, ht]
  rfl

/-- Settles O39: a boundary enters the epoch once and drains it where nothing awaits it; the records drain it where
staging has room; an edge gives an FSYNC schedule its boundary. -/
theorem epochBoundaries : Obligations.EpochBoundaries := by
  refine ⟨fun p b s hr hb hf hn => ?_, fun p u s hr hu hrm hf hh hb => ?_, fun p x s hr hst hsl hp ha he h2 hs hl => ?_⟩
  · obtain ⟨same, e⟩ := opBoundary_takes hb hf hn
    have hg : goesTo (.epochBoundary p) s (opBoundary p s) := goesTo_inObs rfl hr
    have h0 := epochsStand_runsSplit p b s
    obtain ⟨⟨h1, h2, h3, h4⟩, ho, hx⟩ := boundaryTaken_spec p b same (runsSplit p b s)
    have haw := epochAwaited_of_sameCtxs (h0.2.trans hx) p
    generalize boundaryTaken p b same (runsSplit p b s) = t at *
    have hd (u : State) : epochsStand u (dropRequest u) := epochsStand_of_frame (onlyChanges_dropRequest u)
    rw [e, haw] at hg
    refine ⟨_, hg, ?_⟩
    cases hw : epochAwaited s p with
    | true =>
      rw [if_pos rfl]
      simp only [(hd t).epochOf_eq]
      exact ⟨h1, h2, h3, fun _ => h4, nofun, fun q hq => (ho q hq).trans (h0.epochOf_eq q)⟩
    | false =>
      rw [if_neg (by simp)]
      obtain ⟨hq, hqo, -⟩ := drainEpoch_moves p t
      simp only [(hd _).epochOf_eq, hq]
      exact ⟨h1, h2, h3, nofun, fun _ => trivial, fun q hn => (hqo q hn).trans ((ho q hn).trans (h0.epochOf_eq q))⟩
  · have e := opEpochTaken_takes hu hrm hf hh hb
    have hg : goesTo (.epochRecordsTaken p) s (opEpochTaken p s) := goesTo_inObs rfl hr
    rw [e] at hg
    have hgr : onlyChanges [.ctxs] s ((ctxIds s).foldl (fun a x => epochGroup p u x a) s) :=
      (onlyChanges.refl _ s).foldl (fun a x h => h.trans (onlyChanges_epochGroup p u x a)) _
    have hcut : (recordsTaken p u s).obs.cut = { s.obs.cut with opsLost := s.obs.cut.opsLost.filter (· != p) } :=
      congrArg (fun c : Cut => { c with opsLost := c.opsLost.filter (· != p) }) hgr.cut_eq
    have hep (q : Nat) : epochOf (recordsTaken p u s) q = epochOf s q := by
      rw [epochOf, hcut]
      rfl
    obtain ⟨hq, hqo, -⟩ := drainEpoch_moves p (recordsTaken p u s)
    obtain ⟨c1, c2, c3⟩ := cut_drainEpoch p (recordsTaken p u s)
    refine ⟨_, hg, ?_, fun q hn => ?_, ?_, ?_, ?_⟩
    · rw [hq, hep p]
    · rw [hqo q hn, hep q]
    · rw [c1, hcut]
      simp
    · rw [c2, hcut]
    · rw [c3, hcut]
  · have hg : goesTo .frameSyncRise s (opFrameSync s) := goesTo_run rfl hr.1
    rw [opFrameSync_edges hr.2 hst hsl ha] at hg
    have hpe := epochOf_edgesTaken (engGt s - corrOf s.aon.pwr.ratio) p _ (List.nodup_range (n := npart s.build)) s
    rw [if_pos (List.mem_range.mpr hp), edgeEpoch_takes he h2 hs hl] at hpe
    refine ⟨_, hg, onlyChanges_edgesTaken _ _ s, ?_, ?_, ?_⟩
    · rw [hpe]
    · rw [hpe]
    · rw [hpe]

end Sys2Proof.Machine
end

section
/-! CERTIFICATE. A freeze becomes final in the shadow bank (R79, R81, R87). -/

namespace Sys2Proof.Machine

open Sys2Proof.Safety

set_option Elab.async false

/-! ## The pending freezes, by ID and T -/

/-- ID and T of a freeze. -/
def idAndT (f : Freeze) : Nat × Nat := (f.id, f.t)

def idsAndTs (s : State) : List (Nat × Nat) := (freezes s).map idAndT

/-- From s to t epochs and pending freezes stand, their banks apart. -/
def cutsStand (s t : State) : Prop := epochsOf t = epochsOf s ∧ idsAndTs t = idsAndTs s

theorem cutsStand.refl (s : State) : cutsStand s s := ⟨rfl, rfl⟩

theorem cutsStand.trans {s t u : State} (h : cutsStand s t) (g : cutsStand t u) : cutsStand s u :=
  ⟨g.1.trans h.1, g.2.trans h.2⟩

theorem cutsStand_of_frame {ps : List Part} {s t : State} (h : onlyChanges ps s t) (hc : .cut ∉ ps := by decide) :
    cutsStand s t := by
  have hk := h.cut_eq hc
  exact ⟨congrArg Cut.epochs hk, congrArg (fun c : Cut => (c.sw ++ c.hw.toList).map idAndT) hk⟩

theorem cutsStand.foldl {α : Type} {s t : State} (h : cutsStand s t) {f : State → α → State}
    (hf : ∀ u x, cutsStand u (f u x)) (l : List α) : cutsStand s (l.foldl f t) := by
  induction l generalizing t with
  | nil => exact h
  | cons x l ih => exact ih (h.trans (hf t x))

theorem cutsStand_onCuts (g : Nat → Split → Split) (s : State) : cutsStand s (onCut (onCuts g) s) := by
  refine ⟨rfl, ?_⟩
  simp only [idsAndTs, freezes, onCut_ocut, onCuts]
  cases s.obs.cut.hw with
  | none => simp [idAndT]
  | some f => simp [idAndT]

theorem cutsStand_accrue (u g : Nat) (s : State) : cutsStand s (accrue u g s) := by
  unfold accrue
  split
  · split
    · exact (cutsStand_onCuts _ s).trans (cutsStand_of_frame ((onlyChanges.refl [.hed] _).onUnit _ _))
    · exact .refl s
  · exact .refl s

theorem cutsStand_splitRuns (g : Nat) (who : Nat → Bool) (s : State) : cutsStand s (splitRuns g who s) := by
  refine (cutsStand.refl s).foldl (fun u x => ?_) _
  split
  · split
    · exact cutsStand_of_frame (onlyChanges_splitRun (onlyChanges.refl [.hed, .ctxs] u) _ _)
    · exact .refl u
  · exact .refl u

/-! ## The earliest freezes -/

theorem leastBy_map {α β : Type} (g : α → β) (key : β → Nat) (l : List α) :
    leastBy key (l.map g) = (leastBy (fun x => key (g x)) l).map g := by
  induction l with
  | nil => rfl
  | cons x l ih =>
    simp only [List.map_cons, leastBy, ih]
    cases leastBy (fun x => key (g x)) l with
    | none => rfl
    | some y =>
      simp only [Option.map_some]
      split <;> rfl

/-- The earliest freezes are known from the IDs and T alone. -/
theorem headKeys_eq (s : State) : (headFreezes s).map idAndT =
    match leastBy (fun k : Nat × Nat => k.2) (idsAndTs s) with
    | some k => (idsAndTs s).filter fun j => j.2 == k.2
    | none => [] := by
  rw [idsAndTs, leastBy_map idAndT]
  unfold headFreezes
  have : (fun x : Freeze => (idAndT x).2) = fun f => f.t := rfl
  rw [this]
  cases leastBy (fun f : Freeze => f.t) (freezes s) with
  | none => rfl
  | some f =>
    rw [Option.map_some]
    dsimp only
    rw [List.filter_map]
    rfl

theorem headFreezes_of_keys {s t : State} {f : Freeze} (h : idsAndTs t = idsAndTs s) (hf : headFreezes s = [f]) :
    ∃ g, headFreezes t = [g] ∧ g.id = f.id ∧ g.t = f.t := by
  have hk : (headFreezes t).map idAndT = [idAndT f] := by
    rw [headKeys_eq, h, ← headKeys_eq, hf]
    rfl
  obtain ⟨g, hg, hgf⟩ := List.map_eq_singleton_iff.mp hk
  exact ⟨g, hg, congrArg Prod.fst hgf, congrArg Prod.snd hgf⟩

/-! ## The shadow bank takes the cut -/

theorem onlyChanges_takeShadow (f : Freeze) (fin : Nat) (s : State) : onlyChanges [.hed, .cut] s (takeShadow f fin s) :=
  ((onlyChanges.refl _ s).foldl (fun _ _ h => .ite _ h (h.onUnit _ _)) _).onCut _

theorem cut_shadowLost (b : Nat → Bool) (l : List Nat) (s : State) :
    (l.foldl (fun a u => if (unitOf a u).shadowLost = b u then a
      else onUnit u (fun x => { x with shadowLost := b u }) a) s).obs.cut = s.obs.cut :=
  ((onlyChanges.refl [.hed] s).foldl (fun _ _ h => .ite _ h (h.onUnit _ _)) l).cut_eq

theorem cut_takeShadow (f : Freeze) (fin : Nat) (s : State) : (takeShadow f fin s).obs.cut =
    { s.obs.cut with
      shadow := some ⟨f.id, f.t, fin, f.fabric, f.fabSeq, wholeBank f.bank⟩
      sw := s.obs.cut.sw.filter (fun g => g.t != f.t)
      hw := match s.obs.cut.hw with | some g => if g.t = f.t then none else some g | none => none } := by
  unfold takeShadow
  dsimp only
  rw [onCut_ocut, cut_shadowLost (fun u => List.contains _ u)] <;> rfl

theorem freezes_takeShadow (f : Freeze) (fin : Nat) (s : State) :
    freezes (takeShadow f fin s) = (freezes s).filter (fun g => g.t != f.t) := by
  unfold freezes
  rw [cut_takeShadow, List.filter_append]
  congr 1
  cases s.obs.cut.hw with
  | none => rfl
  | some g =>
    by_cases h : g.t = f.t
    · simp [h]
    · simp [h]

/-! ## The settlement -/

theorem onlyChanges_accrueAll (g : Nat) (s : State) : onlyChanges [.hed, .cut] s (accrueAll g s) :=
  (onlyChanges.refl _ s).foldl (fun _ _ h => onlyChanges_accrue h _ _) _

theorem onlyChanges_splitRuns (g : Nat) (who : Nat → Bool) (s : State) :
    onlyChanges [.hed, .ctxs] s (splitRuns g who s) := by
  refine (onlyChanges.refl _ s).foldl (fun u x h => ?_) _
  split
  · exact .ite _ (onlyChanges_splitRun h _ _) h
  · exact h

/-- The machine before the shadow bank takes the cut: what is stamped before it is counted. -/
def cutCounted (g : Nat) (s : State) : State := splitRuns g (fun _ => true) (accrueAll g s)

theorem onlyChanges_cutCounted (g : Nat) (s : State) : onlyChanges [.hed, .cut, .ctxs] s (cutCounted g s) :=
  ((onlyChanges_accrueAll g s).mono (by decide)).trans ((onlyChanges_splitRuns g _ _).mono (by decide))

theorem cutsStand_cutCounted (g : Nat) (s : State) : cutsStand s (cutCounted g s) :=
  ((cutsStand.refl s).foldl (fun u _ => cutsStand_accrue _ g u) _).trans (cutsStand_splitRuns g _ _)

theorem onlyChanges_lensFreeze (g id : Nat) (s : State) : onlyChanges [.lens, .smp, .draws, .ctxs] s (lensFreeze g id s) :=
  (onlyChanges_rowCuts (onlyChanges.refl _ s) _ _).foldl
    (fun _ _ hu => onlyChanges_cutSlot hu (by decide) (by decide) (by decide) _ _ _ _ _ _) _

theorem onlyChanges_freezeGroup (f : Freeze) (fin x : Nat) (s : State) : onlyChanges [.ctxs] s (freezeGroup f fin x s) := by
  unfold freezeGroup
  split
  · exact .refl _ s
  · dsimp only
    have h (r : Rec) := (onlyChanges.refl [.ctxs] s).offerRec x r
    split
    · exact h _
    · exact ((h _).foldl (fun _ _ hu => hu.offerRec _ _) _).foldl (fun _ _ hu => hu.offerRec _ _) _

/-- The Lens and the contexts take the cut. -/
def cutTold (f : Freeze) (fin : Nat) (s : State) : State :=
  (ctxIds (lensFreeze f.t f.id (takeShadow f fin s))).foldl (fun a x => freezeGroup f fin x a)
    (lensFreeze f.t f.id (takeShadow f fin s))

theorem onlyChanges_cutTold (f : Freeze) (fin : Nat) (s : State) :
    onlyChanges [.lens, .smp, .draws, .ctxs] (takeShadow f fin s) (cutTold f fin s) :=
  (onlyChanges_lensFreeze _ _ _).foldl
    (fun a x h => h.trans ((onlyChanges_freezeGroup f fin x a).mono (by decide))) _

/-- The cut is done: no ops are lost any more, and its GT is marked. -/
def cutMarked (f : Freeze) (fin : Nat) (s : State) : State :=
  addMark ⟨f.t, none, false, ⟨wholeBank f.bank, []⟩⟩ (onCut (fun c => { c with opsLost := [] }) (cutTold f fin s))

theorem onlyChanges_cutMarked (f : Freeze) (fin : Nat) (s : State) :
    onlyChanges [.hed, .cut, .lens, .smp, .draws, .ctxs] s (cutMarked f fin s) :=
  ((((onlyChanges_takeShadow f fin s).mono (by decide)).trans ((onlyChanges_cutTold f fin s).mono (by decide))).onCut _).trans
    ((onlyChanges_addMark _ _).mono (by decide))

theorem addMark_keeps (m : CutMark) (s : State) : (addMark m s).obs.cut.shadow = s.obs.cut.shadow ∧
    freezes (addMark m s) = freezes s ∧ epochsOf (addMark m s) = epochsOf s ∧
    (addMark m s).obs.cut.opsLost = s.obs.cut.opsLost := ⟨rfl, rfl, rfl, rfl⟩

/-- The cut's own fields once it is done. -/
theorem cut_cutMarked (f : Freeze) (fin : Nat) (s : State) :
    (cutMarked f fin s).obs.cut.shadow = some ⟨f.id, f.t, fin, f.fabric, f.fabSeq, wholeBank f.bank⟩ ∧
    freezes (cutMarked f fin s) = (freezes s).filter (fun g => g.t != f.t) ∧
    epochsOf (cutMarked f fin s) = epochsOf s ∧ (cutMarked f fin s).obs.cut.opsLost = [] := by
  have hc := (onlyChanges_cutTold f fin s).cut_eq
  obtain ⟨hs, hf, he, ho⟩ := addMark_keeps ⟨f.t, none, false, ⟨wholeBank f.bank, []⟩⟩
    (onCut (fun c => { c with opsLost := [] }) (cutTold f fin s))
  refine ⟨?_, ?_, ?_, ho⟩
  · rw [cutMarked, hs, onCut_ocut, hc, cut_takeShadow]
  · rw [cutMarked, hf, ← freezes_takeShadow f fin s]
    unfold freezes
    rw [onCut_ocut, hc]
  · rw [cutMarked, he]
    unfold epochsOf
    rw [onCut_ocut, hc, cut_takeShadow]

theorem opFreezeFinal_cuts {f g : Freeze} {s : State} (hf : headFreezes s = [f]) (ha : finalAt s f.t = true)
    (hb : boundsBefore s f.t = false) (hg : headFreezes (cutCounted f.t s) = [g]) :
    opFreezeFinal s = afterFreeze g.t (cutMarked g (now s) (cutCounted f.t s)) := by
  unfold opFreezeFinal
  rw [hf]
  dsimp only
  rw [if_neg (by simp [ha, hb])]
  change (match headFreezes (cutCounted f.t s) with | [] => _ | g :: gs' => _) = _
  rw [hg]
  rfl

/-- Settles O38: the cut leaves what is pending, its banks apart, until the shadow bank takes it. -/
theorem freezeBecomesFinal : Obligations.FreezeBecomesFinal := by
  intro f s hr hf ha hb hh
  obtain ⟨he0, hk0⟩ := cutsStand_cutCounted f.t s
  obtain ⟨g, hg, hid, ht⟩ := headFreezes_of_keys hk0 hf
  have h0 := onlyChanges_cutCounted f.t s
  have h1 := onlyChanges_cutMarked g (now s) (cutCounted f.t s)
  have e := opFreezeFinal_cuts hf ha hb hg
  have hgo : goesTo .freezeFinal s (opFreezeFinal s) := goesTo_inObs rfl hr
  rw [e] at hgo
  obtain ⟨c1, c2, c3, c4⟩ := cut_cutMarked g (now s) (cutCounted f.t s)
  generalize cutMarked g (now s) (cutCounted f.t s) = t at hgo h1 c1 c2 c3 c4
  have haf : afterFreeze g.t t = maybeSwitch t := by rw [afterFreeze, h1.hang_eq, h0.hang_eq, hh]
  rw [haf] at hgo
  have hm := onlyChanges_maybeSwitch t
  have hfz : freezes (maybeSwitch t) = freezes t := by rw [freezes, hm.cut_eq]; rfl
  refine ⟨_, hgo, ?_, fun x hx => ?_, ?_, fun p => ?_, ?_, ?_⟩
  · rw [hm.cut_eq, c1]
    simp [hid, ht]
  · rw [hfz, c2] at hx
    have := (List.mem_filter.mp hx).2
    rw [ht] at this
    simpa using this
  · rw [hfz, c2, ht]
    have hl (l : List Freeze) : (l.filter fun x => x.t != f.t).map (·.id) =
        ((l.map idAndT).filter fun k => k.2 != f.t).map (·.1) := by
      rw [List.filter_map, List.map_map]
      rfl
    rw [hl, hl]
    exact congrArg (fun l => (l.filter fun k : Nat × Nat => k.2 != f.t).map (·.1)) hk0
  · have hc : epochsOf (maybeSwitch t) = epochsOf s := by
      rw [epochsOf_of_frame hm, c3, he0]
    exact congrArg (fun m => smGet epochD m p) hc
  · rw [hm.cut_eq, c4]
  · rw [hm.now_eq, h1.now_eq, h0.now_eq]

end Sys2Proof.Machine
end

section
/-! CERTIFICATE. A record is placed, a frame opened and closed by age (R198, R203, R205, R402). -/

namespace Sys2Proof.Machine

open Sys2Proof.Safety

set_option Elab.async false

/-! ## A record into a new frame -/

theorem length_le (n x : Nat) : (le n x).length = n := by
  induction n generalizing x with
  | zero => rfl
  | succ n ih => simp [le, ih]

theorem length_zeros (n : Nat) : (zeros n).length = n := by simp [zeros]

/-- A CLKSTOP, HANG or SENT record is short. -/
theorem length_recBytes_short {b : RecBody} (h : isDeferred b = true ∨ ∃ w u, b = .clkstop w u) (d : Nat) (l c : Bool) :
    (recBytes b d l c).length ≤ 88 := by
  obtain h | ⟨w, u, rfl⟩ := h
  · cases b with
    | hang => simp [recBytes, recClass, recCode, recExt, length_le, length_zeros]
    | sent => simp [recBytes, recClass, recCode, recFixed, length_le, length_zeros]
    | _ => cases h
  · simp [recBytes, recClass, recCode, recFixed, length_le]

/-- A short record fits in the new frame that it opens. -/
theorem addTo_newFrame {s : State} {c : CtxSt} {r : Rec} (h : isDeferred r.body = true ∨ ∃ w u, r.body = .clkstop w u)
    (h16 : 16 ≤ r.stamp) :
    ∃ fb, addTo (newFrame s r.stamp) c r = some fb ∧ fb.base = r.stamp - 16 ∧ fb.recs = 1 := by
  have hw : inWindow (newFrame s r.stamp) r.stamp = true := by
    simp only [inWindow, newFrame, Bool.and_eq_true]
    exact ⟨decide_eq_true (by omega), decide_eq_true (by omega)⟩
  have ha : addTo (newFrame s r.stamp) c r = addRecord (newFrame s r.stamp) c r := by
    unfold addTo
    rw [if_neg (by simp [hw])]
    obtain h | ⟨w, u, h⟩ := h
    · split
      · rename_i hb
        rw [hb] at h
        cases h
      · rfl
    · rw [h]
  have hl (d : Nat) (l k : Bool) := length_recBytes_short h d l k
  refine ⟨_, ha.trans (if_pos ?_), rfl, rfl⟩
  have := hl (r.stamp - (r.stamp - 16)) (!isCut r.body && !isDeferred r.body && decide (r.stamp < c.highest)) (isCut r.body)
  simp only [bodyLen, newFrame, endEvt, List.nil_append]
  omega

/-! ## What placing it leads to -/

/-- The context once the record has been written to its new frame and has left the hold. -/
theorem placeRec_opens {x : Nat} {r : Rec} {c : CtxSt} {s : State} (hc : ctxOf s x = some c)
    (hb : isDeferred r.body = true ∨ ∃ w u, r.body = .clkstop w u) (hf : c.frame = none) (h16 : 16 ≤ r.stamp)
    (hfree : 1 ≤ freeBufs s) :
    ∃ fb, fb.base = r.stamp - 16 ∧ fb.recs = 1 ∧
      placeRec x r s = (true, onCtx x (fun c => raiseHighest r (digestRec r { c with frame := some fb })) s) := by
  obtain ⟨fb, ha, hbase, hrecs⟩ := addTo_newFrame (s := s) (c := c) hb h16
  refine ⟨fb, hbase, hrecs, ?_⟩
  have hev : isEvent r.body = false ∧ endsGap r.body = false ∧ fillDigest c r = r ∧
      wrote x r fb s = onCtx x (fun c => raiseHighest r (digestRec r { c with frame := some fb })) s := by
    obtain ⟨stamp, body⟩ := r
    obtain hb | ⟨w, u, hb⟩ := hb
    · cases body with
      | hang => exact ⟨rfl, rfl, rfl, rfl⟩
      | sent => exact ⟨rfl, rfl, rfl, rfl⟩
      | _ => cases hb
    · cases hb
      exact ⟨rfl, rfl, rfl, rfl⟩
  obtain ⟨h1, h2, h3, h4⟩ := hev
  have hw : writeRec false x r s = (true, wrote x r fb s) := by
    unfold writeRec
    rw [hc]
    dsimp only
    rw [hf, h3]
    dsimp only
    unfold writeNew
    rw [if_neg (by simp; omega), hc]
    dsimp only
    rw [ha]
  unfold placeRec
  simp only [h1, h2, Bool.false_and, Bool.false_eq_true, if_false, if_true, hw, h4]

/-- The sums leave what a frame and its order depend on. -/
theorem digestRec_keeps (r : Rec) (c : CtxSt) : (digestRec r c).hold = c.hold ∧ (digestRec r c).frame = c.frame ∧
    (digestRec r c).seq = c.seq ∧ (digestRec r c).highest = c.highest := by
  have h1 (c : CtxSt) : ((match r.body with
      | .mark _ _ 0 _ _ _ => { c with refStamp := r.stamp }
      | .gap .. => { c with lossy := true }
      | _ => c : CtxSt).hold = c.hold) ∧ ((match r.body with
      | .mark _ _ 0 _ _ _ => { c with refStamp := r.stamp }
      | .gap .. => { c with lossy := true }
      | _ => c : CtxSt).frame = c.frame) ∧ ((match r.body with
      | .mark _ _ 0 _ _ _ => { c with refStamp := r.stamp }
      | .gap .. => { c with lossy := true }
      | _ => c : CtxSt).seq = c.seq) ∧ ((match r.body with
      | .mark _ _ 0 _ _ _ => { c with refStamp := r.stamp }
      | .gap .. => { c with lossy := true }
      | _ => c : CtxSt).highest = c.highest) := by
    split <;> exact ⟨rfl, rfl, rfl, rfl⟩
  unfold digestRec
  dsimp only
  split
  · exact h1 c
  · split
    · exact h1 c
    · exact h1 c

/-- The context into which a record has been placed. -/
def placedIn (r : Rec) (fb : FrameB) (c : CtxSt) : CtxSt :=
  { raiseHighest r (digestRec r { c with frame := some fb }) with
    hold := delFirst (fun y => y == r) (raiseHighest r (digestRec r { c with frame := some fb })).hold }

theorem placedIn_keeps (r : Rec) (fb : FrameB) {c : CtxSt} (hh : c.hold = [r]) :
    (placedIn r fb c).hold = [] ∧ (placedIn r fb c).frame = some fb ∧ (placedIn r fb c).seq = c.seq ∧
      (placedIn r fb c).highest = if isCut r.body || isDeferred r.body then c.highest else max c.highest r.stamp := by
  obtain ⟨h1, h2, h3, h4⟩ := digestRec_keeps r { c with frame := some fb }
  have hold : (raiseHighest r (digestRec r { c with frame := some fb })).hold = [r] := by
    unfold raiseHighest
    split
    · rw [h1, hh]
    · exact h1.trans hh
  refine ⟨?_, ?_, ?_, ?_⟩
  · rw [placedIn, hold]
    simp [delFirst]
  · unfold placedIn raiseHighest
    split
    · exact h2
    · exact h2
  · unfold placedIn raiseHighest
    split
    · exact h3
    · exact h3
  · unfold placedIn raiseHighest
    split
    · exact h4
    · exact congrArg (fun n => max n r.stamp) h4

theorem onCtx_some {x : Nat} {c : CtxSt} {s : State} (f : CtxSt → CtxSt) (hc : ctxOf s x = some c) :
    onCtx x f s = setCtx x (some (f c)) s := by
  unfold onCtx
  rw [hc]

/-- A short record alone in its context's hold opens a frame. -/
theorem goesTo_recordPlaced {x : Nat} {r : Rec} {c : CtxSt} {s : State} (hr : running s) (hc : ctxOf s x = some c)
    (hres : c.resident = true) (hh : c.hold = [r]) (hb : isDeferred r.body = true ∨ ∃ w u, r.body = .clkstop w u)
    (hp : isDeferred r.body = false → placeable s r.stamp = true) (hf : c.frame = none) (h16 : 16 ≤ r.stamp)
    (hfree : 1 ≤ freeBufs s) :
    ∃ t fb, goesTo (.recordPlaced x) s t ∧ onlyChanges [.ctxs] s t ∧ ctxOf t x = some (placedIn r fb c) ∧
      fb.base = r.stamp - 16 ∧ fb.recs = 1 ∧ ∀ y, y ≠ x → ctxOf t y = ctxOf s y := by
  obtain ⟨fb, hbase, hrecs, hpl⟩ := placeRec_opens hc hb hf h16 hfree
  obtain ⟨t1, ht1⟩ : ∃ t1, t1 = onCtx x (fun c => raiseHighest r (digestRec r { c with frame := some fb })) s := ⟨_, rfl⟩
  rw [← ht1] at hpl
  have hc1 : ctxOf t1 x = some (raiseHighest r (digestRec r { c with frame := some fb })) := by
    rw [ht1, onCtx_some _ hc]
    exact ctxOf_setCtx_same _ _ _
  have hf1 : onlyChanges [.ctxs] s t1 := by
    rw [ht1]
    exact (onlyChanges.refl _ s).onCtx _ _
  have e : opRecordPlaced x s = dropHold x r t1 := by
    unfold opRecordPlaced
    rw [hc]
    dsimp only
    cases hd : isDeferred r.body with
    | true =>
      have hn : nextDeferred c = some r := by simp [nextDeferred, hh, hd]
      rw [hn, if_neg (by simp), if_pos hres]
      unfold placeNext
      rw [hc, Option.bind_some, hn]
      dsimp only
      rw [hpl]
      exact if_pos rfl
    | false =>
      have hn : nextDeferred c = none := by simp [nextDeferred, hh, hd]
      have hx : nextRec s c = some r := by simp [nextRec, hh, hd, hp hd]
      rw [hn, hx, if_neg (by simp), if_pos hres]
      unfold placeNext
      rw [hc, Option.bind_some, hn]
      dsimp only
      unfold placeOrdered
      rw [hc, Option.bind_some, hx]
      dsimp only
      rw [hpl]
      exact if_pos rfl
  have hd1 : dropHold x r t1 = setCtx x (some (placedIn r fb c)) t1 := onCtx_some _ hc1
  rw [hd1] at e
  have hother (y : Nat) (hy : y ≠ x) : ctxOf (setCtx x (some (placedIn r fb c)) t1) y = ctxOf s y := by
    rw [ctxOf_setCtx_other _ _ _ _ hy, ht1, onCtx_some _ hc, ctxOf_setCtx_other _ _ _ _ hy]
  refine ⟨_, fb, ?_, hf1.setCtx _ _, ctxOf_setCtx_same _ _ _, hbase, hrecs, hother⟩
  have hg := goesTo_inWriter (f := opRecordPlaced x) (c := .recordPlaced x) rfl hr ?_
  · rwa [e] at hg
  · rw [e]
    refine seqWrapped_of fun y a b ha hb' hn => ?_
    by_cases hy : y = x
    · subst hy
      rw [ctxOf_setCtx_same] at hb'
      rw [hc] at ha
      cases ha
      cases hb'
      have := (placedIn_keeps r fb hh).2.2.1
      omega
    · rw [hother y hy, ha] at hb'
      cases hb'
      omega

/-! ## A frame is closed by age -/

/-- The frame that closing the context's open frame gives. -/
def closedFrame (x : Nat) (last : Bool) (waiter cause : Option (Nat × Nat)) (c : CtxSt) (f : FrameB) (s : State) : Frame :=
  ⟨c.part, c.job, x, c.seq, match outGen s c.part c.job with | some g => g.gen | none => 0, (endEvt f).cuts, last, c.first,
    (endEvt f).bound, (endEvt f).recs, (endEvt f).base, s.aon.instId, (endEvt f).body,
    (partOf s c.part).region.isSome, c.host, waiter, cause, now s⟩

/-- The context whose open frame has been closed. -/
def frameClosed (c : CtxSt) : CtxSt := { c with
  frame := none
  first := false
  seq := (c.seq + 1) % 2 ^ 32
  framesSinceArm := sat (2 ^ 32 - 1) (c.framesSinceArm + 1) }

/-- Where a closed frame of a context goes. -/
def frameOut (c : CtxSt) (clear : Bool) (f : Frame) (s : State) : State :=
  let s := if clear then (if c.egr || c.host then egrSkipped s else s)
    else if c.egr then frameToEgress f s else s
  let due := c.host && hostAllowed s f && !clear
  let s := if c.host && !due then hbSkip c.part s else s
  if f.regionDue || due then onSmp (fun m => { m with frames := m.frames ++ [{ f with hostDue := due }] }) s else s

theorem closeFrame_eq {x : Nat} {c : CtxSt} {f : FrameB} {s : State} (hc : ctxOf s x = some c) (hf : c.frame = some f)
    (last : Bool) (waiter cause : Option (Nat × Nat)) :
    closeFrame x last waiter cause s =
      frameOut c (endEvt f).clear (closedFrame x last waiter cause c f s) (setCtx x (some (frameClosed c)) s) := by
  unfold closeFrame
  rw [hc]
  dsimp only
  rw [hf]
  rfl

/-- A frame that goes neither to egress nor to the host is queued where its partition has a region. -/
theorem frameOut_plain {c : CtxSt} (he : c.egr = false) (hh : c.host = false) (clear : Bool) (f : Frame) (s : State) :
    frameOut c clear f s = if f.regionDue then
      onSmp (fun m => { m with frames := m.frames ++ [{ f with hostDue := false }] }) s else s := by
  unfold frameOut
  simp only [he, hh, Bool.false_and, Bool.or_false, Bool.false_eq_true, if_false, ite_self]

/-- Settles O40: a record alone in its hold opens a frame, and a frame of age closes. -/
theorem recordsAndFrames : Obligations.RecordsAndFrames := by
  refine ⟨fun x u stamp w c s hr hc hres hh hf hw hp h16 hfree => ?_, fun x stamp r c s hr hc hres hh hd hs hf h16 hfree => ?_,
    fun x f c s hr hc hf ha he hh hq => ?_⟩
  · obtain ⟨t, fb, hg, ht, hx, hbase, hrecs, ho⟩ := goesTo_recordPlaced (r := ⟨stamp, .clkstop w u⟩) hr hc hres hh
      (.inr ⟨w, u, rfl⟩) (fun _ => hp) hf h16 hfree
    obtain ⟨h1, h2, h3, h4⟩ := placedIn_keeps ⟨stamp, .clkstop w u⟩ fb hh
    refine ⟨t, _, hg, ht, hx, h1, ?_, h3, h4, ho⟩
    rw [h2, Option.map_some, hbase, hrecs]
  · subst hs
    obtain ⟨t, fb, hg, ht, hx, hbase, hrecs, ho⟩ := goesTo_recordPlaced hr hc hres hh (.inl hd) (fun hn => by simp [hd] at hn)
      hf h16 hfree
    obtain ⟨h1, h2, h3, h4⟩ := placedIn_keeps r fb hh
    refine ⟨t, _, hg, ht, hx, h1, ?_, h3, ?_, ho⟩
    · rw [h2, Option.map_some, hbase, hrecs]
    · rw [h4, if_pos (by simp [hd])]
  · have e : opFrameAge x s = frameOut c (endEvt f).clear (closedFrame x false none none c f s)
        (setCtx x (some (frameClosed c)) s) := by
      unfold opFrameAge
      rw [hc]
      dsimp only
      rw [hf]
      exact (if_pos ha).trans (closeFrame_eq hc hf _ _ _)
    rw [frameOut_plain he hh] at e
    have hctx (y : Nat) : ctxOf (opFrameAge x s) y = ctxOf (setCtx x (some (frameClosed c)) s) y := by
      rw [e]
      split <;> rfl
    have hg : goesTo (.frameAgeTimeout x) s (opFrameAge x s) := by
      refine goesTo_inWriter rfl hr (seqWrapped_of fun y a b ha hb hn => ?_)
      rw [hctx y] at hb
      by_cases hy : y = x
      · subst hy
        rw [ctxOf_setCtx_same] at hb
        rw [hc] at ha
        cases ha
        cases hb
        exact absurd hn.2 (by omega)
      · rw [ctxOf_setCtx_other _ _ _ _ hy, ha] at hb
        cases hb
        omega
    refine ⟨_, frameClosed c, hg, ?_, (hctx x).trans (ctxOf_setCtx_same _ _ _), rfl, ?_, rfl, fun hreg => ?_, fun hreg => ?_⟩
    · rw [e]
      have h1 : onlyChanges [.ctxs, .smp] s (setCtx x (some (frameClosed c)) s) := (onlyChanges.refl _ s).setCtx _ _
      exact .ite _ (h1.onSmp _) h1
    · exact Nat.mod_eq_of_lt (by omega)
    · rw [e, if_pos (show (closedFrame x false none none c f s).regionDue = true from hreg)]
      exact ⟨_, rfl, rfl, rfl, rfl, hreg, rfl⟩
    · rw [e, if_neg (by simp [closedFrame, hreg])]
      rfl

end Sys2Proof.Machine
end

section
/-! CERTIFICATE. The governor issues pieces and cadence tranches (R353, R354, R356). -/

namespace Sys2Proof.Machine

open Sys2Proof.Safety

set_option Elab.async false

/-- A write under the first tag, where none is outstanding. -/
def writeOut0 (p : Piece) (s : State) : State :=
  onSmp (fun m => { m with wrOut := m.wrOut ++ [⟨0, sidOf s p.part, p.what, p.addr, p.data, p.part⟩] }) s

theorem wrOut_writeOut0 {s : State} (h : s.obs.smp.wrOut = []) (p : Piece) :
    (writeOut0 p s).obs.smp.wrOut = [⟨0, sidOf s p.part, p.what, p.addr, p.data, p.part⟩] :=
  congrArg (· ++ [_]) h

theorem issueWrite_first {s : State} (h : s.obs.smp.wrOut = []) (p : Piece) : issueWrite p s = some (writeOut0 p s) := by
  have ht : lowestFree 128 (s.obs.smp.wrOut.map (·.tag)) = some 0 := by
    rw [h]
    rfl
  unfold issueWrite
  rw [ht]
  rfl

/-- The piece that waits alone in class 1 is next where it fits. -/
theorem nextPiece_one {s : State} {p : Piece} {f : Piece → Bool} (hp : s.obs.smp.pieces = [p]) (hc : p.cls = 1)
    (hr : s.obs.smp.run < 15) (hf : f p = true) : nextPiece s f = some p := by
  have h1 : waitingOf s 1 = [p] := by simp [waitingOf, hp, hc]
  unfold nextPiece
  rw [if_neg (by omega)]
  simp [h1, hf]

theorem nextPiece_none {s : State} {f : Piece → Bool} (h : ∀ k, waitingOf s k = []) : nextPiece s f = none := by
  unfold nextPiece
  rw [if_neg (by simp [h 6])]
  simp [h]

/-- A metered piece is issued as a write where it is no spill read. -/
theorem issuePiece_write {p : Piece} (hl : ∀ k, p.what ≠ .lensRead k) (s : State) : issuePiece p s = issueWrite p s := by
  unfold issuePiece
  split
  · exact absurd ‹p.what = _› (hl _)
  · rfl

theorem noteHost_other {p : Piece} (hh : ∀ f, p.what ≠ .host f) (s : State) : noteHost p s = s := by
  unfold noteHost
  split
  · exact absurd ‹p.what = _› (hh _)
  · rfl

/-- The governor's step with one piece of class 1 that fits. -/
theorem opIssue_one {s : State} {p : Piece} (hh : hangHolds s = false) (hc : cadence s = false) (hr : ringsAsk s = s)
    (hp : s.obs.smp.pieces = [p]) (h1 : p.cls = 1) (h15 : s.obs.smp.run < 15) (hw : s.obs.smp.wrOut = [])
    (hl : ∀ k, p.what ≠ .lensRead k) (hf : costOf p.units ≤ s.obs.smp.credit) :
    opIssue s = spend p.units (issued p (writeOut0 p s)) := by
  have hu : issueUnmetered s = none := by simp [issueUnmetered, hp, h1]
  unfold opIssue
  rw [hr]
  dsimp only
  rw [hu]
  dsimp only
  unfold issueMetered
  rw [if_neg (by simp [hh, hc]), nextPiece_one hp h1 h15 (by simpa using hf)]
  dsimp only
  rw [issuePiece_write hl, issueWrite_first hw]

theorem wrOut_spend (n : Nat) (s : State) : (spend n s).obs.smp.wrOut = s.obs.smp.wrOut := rfl

theorem pad_spend (n : Nat) (s : State) : (spend n s).obs.smp.pad = s.obs.smp.pad := rfl

theorem sidOf_spend (n p : Nat) (s : State) : sidOf (spend n s) p = sidOf s p := rfl

theorem credit_spend (n : Nat) (s : State) : (spend n s).obs.smp.credit = s.obs.smp.credit - costOf n := rfl

theorem credit_writeOut0 (p : Piece) (s : State) : (writeOut0 p s).obs.smp.credit = s.obs.smp.credit := rfl

theorem waitingOf_spend (n : Nat) (s : State) (k : Nat) : waitingOf (spend n s) k = waitingOf s k := rfl

/-- A tranche with nothing waiting is one write of zeros. -/
theorem opTranche_pads {s : State} (hc : cadence s = true) (hh : hangHolds s = false) (hf : costOf 64 ≤ s.obs.smp.credit)
    (hr : ringsAsk s = s) (hn : ∀ k, waitingOf s k = []) (hw : s.obs.smp.wrOut = []) :
    opTranche s = writeOut0 ⟨0, 64, 0, .pad, s.obs.smp.pad, List.replicate (8 * 64) 0⟩ (spend 64 s) := by
  have ht : trancheFill 64 64 (spend 64 s) = (64, spend 64 s) := by
    unfold trancheFill
    rw [nextPiece_none fun k => (waitingOf_spend 64 s k).trans (hn k)]
  unfold opTranche
  rw [if_neg (by simp [hc, hh, hf]), hr, ht]
  dsimp only
  rw [if_neg (by decide)]
  unfold writeNow
  rw [issueWrite_first ((wrOut_spend 64 s).trans hw)]
  dsimp only
  rw [pad_spend]

/-- Settles O41: the piece that fits is issued under the first tag, and a tranche with nothing waiting is padding. -/
theorem governorAndCadence : Obligations.GovernorAndCadence := by
  refine ⟨fun p s hr hh hc hra hp h1 h15 hw hho hl hf => ?_, fun s hr hc hh hf hra hn hw => ?_⟩
  · have e := opIssue_one hh hc hra hp h1 h15 hw hl hf
    have hn : issued p (writeOut0 p s) = onSmp (fun m => { m with
        pieces := delFirst (· == p) m.pieces
        run := if p.cls = 6 then 0 else sat 15 (m.run + 1)
        rr4 := match p.what with | .frame _ => p.part | _ => m.rr4
        rr5 := match p.what with | .host _ => p.part | _ => m.rr5 }) (writeOut0 p s) := noteHost_other hho _
    rw [hn] at e
    have hfr : onlyChanges [.smp] s (opIssue s) := by
      rw [e]
      exact (((onlyChanges.refl _ s).onSmp _).onSmp _).onSmp _
    have hg : goesTo .governorIssue s (opIssue s) := goesTo_inWriter_of_ctxs rfl hr hfr.ctxs_eq
    refine ⟨_, hg, hfr, ?_, ?_, ?_⟩
    · rw [e]
      have : delFirst (· == p) s.obs.smp.pieces = [] := by simp [hp, delFirst]
      exact this
    · rw [e]
      exact wrOut_writeOut0 hw p
    · rw [e]
      rfl
  · have e := opTranche_pads hc hh hf hra hn hw
    have hfr : onlyChanges [.smp] s (opTranche s) := by
      rw [e]
      exact ((onlyChanges.refl _ s).onSmp _).onSmp _
    have hg : goesTo .cadenceTranche s (opTranche s) := goesTo_inWriter_of_ctxs rfl hr hfr.ctxs_eq
    refine ⟨_, hg, hfr, ?_, ?_⟩
    · rw [e, wrOut_writeOut0 ((wrOut_spend 64 s).trans hw), sidOf_spend]
    · rw [e, credit_writeOut0, credit_spend]
      exact congrArg (s.obs.smp.credit - ·) (by decide : costOf 64 = 64 * 64 * 1600)

end Sys2Proof.Machine
end

section
/-! CERTIFICATE. The System Memory Port's answers (R223, R227, R234, R246, R247, R366). -/

namespace Sys2Proof.Machine

open Sys2Proof.Safety

set_option Elab.async false

/-! ## A ring's registers -/

theorem blockOf_aRing_add {r k : Nat} (h : r < 64) (hk : k < 0x40) : blockOf (aRing r + k) = 4 := by
  unfold blockOf aRing
  omega

theorem regPart_aRing_add {r k : Nat} (h : r < 64) (hk : k < 0x40) : regPart (aRing r + k) = .obsRegs := by
  have hb := blockOf_aRing_add h hk
  have ha : regAon (aRing r + k) = false := by
    simp [regAon, hb]
  simp [regPart, ha]

/-! ## A ring stops -/

theorem onlyChanges_ringFault {ps : List Part} {s t : State} (h : onlyChanges ps s t) {r : Nat} (hr : r < 64) (st : Nat)
    (hc : .cmd ∈ ps := by decide) (ho : .obsRegs ∈ ps := by decide) (he : .evq ∈ ps := by decide) :
    onlyChanges ps s (ringFault r st t) :=
  ((h.onRing r _ hc).orReg (aRing r + 0x18) 1 (regPart_aRing_add (k := 0x18) hr (by decide) ▸ ho)).push 0 _ _ _ _ _ (by decide)
    (.inr (by decide)) (.inr (by decide)) (.inl he) ho

theorem ringOf_orReg (a : Nat) (v : U32) (s : State) (r : Nat) : ringOf (orReg a v s) r = ringOf s r := by
  unfold orReg setReg
  split <;> rfl

/-- A stopped ring, and its error bit. -/
theorem ringFault_spec {r : Nat} (hr : r < 64) (st : Nat) (s : State) :
    ringOf (ringFault r st s) r = { ringOf s r with stopped := true, en := false, faultSt := st } ∧
      bit (reg (ringFault r st s) (aRing r + 0x18)) 0 = true := by
  unfold ringFault
  dsimp only
  generalize ht : onRing r (fun g => { g with stopped := true, en := false, faultSt := st }) s = t
  have hp := (onlyChanges.refl [.evq, .obsRegs] (orReg (aRing r + 0x18) 1 t)).push 0 0x70
    (ringPart t r) r (lo32 st) (engGt t)
  constructor
  · rw [hp.ringOf_eq r, ringOf_orReg, ← ht, ringOf_onRing_same]
  · rw [reg_push_other (by rw [blockOf_aRing_add hr (by decide)]; decide) (by decide : (kindCls 0x70).1 < 8), bit_reg_orReg]
    exact Bool.or_true _

/-! ## A completion has been written -/

/-- The entry's write is answered: its ring no longer waits for it. -/
def entryAcked (r seq : Nat) (w : Wr) (s : State) : State :=
  onRing r (fun g => { g with
    unacked := g.unacked.erase seq
    noirq := g.noirq.map fun e => if e.1 = (w.addr - (ringOf s r).cqBase) / 16
      then ((w.addr - (ringOf s r).cqBase) / 16, e.2.1, true) else e }) s

theorem entryWritten_eq (r seq : Nat) (w : Wr) (q : Bool) (s : State) :
    entryWritten r seq w q s = if q then entryAcked r seq w s else raisePend r (entryAcked r seq w s) := rfl

theorem ringOf_entryAcked (r seq : Nat) (w : Wr) (s : State) :
    ∃ l, ringOf (entryAcked r seq w s) r = { ringOf s r with unacked := (ringOf s r).unacked.erase seq, noirq := l } :=
  ⟨_, ringOf_onRing_same _ _ _⟩

/-- The message of a ring's interrupt. -/
def ringMsi (r : Nat) (s : State) : Piece :=
  ⟨1, 1, ringPart s r, .msi r (ringOf s r).msia (reg s (aRing r + 0x24)), (ringOf s r).msia,
    [BitVec.ofNat 64 (reg s (aRing r + 0x24)).toNat]⟩

/-- PEND rises, with an MSI where the ring has them enabled and PEND was clear. -/
theorem raisePend_spec (r : Nat) (s : State) :
    ringOf (raisePend r s) r = { ringOf s r with pend := true } ∧
    (raisePend r s).obs.smp.wrOut = s.obs.smp.wrOut ∧
    (raisePend r s).obs.smp.pieces = s.obs.smp.pieces ++
      (if (ringOf s r).pend = false ∧ bit (reg s (aRing r + 0x28)) 8 = true then [ringMsi r s] else []) := by
  unfold raisePend
  cases hp : (ringOf s r).pend with
  | true =>
    rw [if_pos rfl, if_neg (by simp)]
    exact ⟨congrArg (fun b => { ringOf s r with pend := b }) hp, rfl, (List.append_nil _).symm⟩
  | false =>
    rw [if_neg (by simp)]
    dsimp only
    cases hb : bit (reg s (aRing r + 0x28)) 8 with
    | false =>
      rw [if_neg (by simp), if_neg (by simp)]
      exact ⟨ringOf_onRing_same _ _ _, rfl, (List.append_nil _).symm⟩
    | true =>
      rw [if_pos rfl, if_pos ⟨rfl, rfl⟩]
      refine ⟨(ringOf_onRing_same r (fun g => { g with pend := true }) s), rfl, ?_⟩
      have hm : (ringOf (onRing r (fun g => { g with pend := true }) s) r).msia = (ringOf s r).msia := by
        rw [ringOf_onRing_same]
      have hd : reg (onRing r (fun g => { g with pend := true }) s) (aRing r + 0x24) + BitVec.ofNat 32 0 =
          reg s (aRing r + 0x24) := by
        rw [reg_onRing]
        exact BitVec.add_zero _
      unfold addMsi ringMsi
      dsimp only
      rw [hm, hd]
      rfl

theorem onlyChanges_entryWritten (r seq : Nat) (w : Wr) (q : Bool) (s : State) :
    onlyChanges [.smp, .cmd] s (entryWritten r seq w q s) := by
  have h : onlyChanges [.smp, .cmd] s (entryAcked r seq w s) := (onlyChanges.refl _ s).onRing _ _
  rw [entryWritten_eq]
  exact .ite _ h (h.raisePend _)

/-! ## Responses -/

/-- The tag of the only outstanding write is free again. -/
def wrAnswered (tag : Nat) (s : State) : State :=
  onSmp (fun m => { m with wrOut := delFirst (fun x => x.tag == tag) m.wrOut }) s

theorem wrOut_wrAnswered {tag : Nat} {w : Wr} {s : State} (h : s.obs.smp.wrOut = [w]) (ht : w.tag = tag) :
    (wrAnswered tag s).obs.smp.wrOut = [] := by
  have : delFirst (fun x : Wr => x.tag == tag) s.obs.smp.wrOut = [] := by simp [h, delFirst, ht]
  exact this

theorem opWriteResponse_one {tag : Nat} {err : Bool} {w : Wr} {s : State} (h : s.obs.smp.wrOut = [w]) (ht : w.tag = tag) :
    opWriteResponse tag err s = written w err (wrAnswered tag s) := by
  unfold opWriteResponse
  rw [h, List.find?_cons_of_pos (by simp [ht])]
  rfl

/-- The tag of the only outstanding read is free again. -/
def rdAnswered (tag : Nat) (s : State) : State :=
  onSmp (fun m => { m with rdOut := delFirst (fun x => x.tag == tag) m.rdOut }) s

theorem rdOut_rdAnswered {tag : Nat} {q : Rd} {s : State} (h : s.obs.smp.rdOut = [q]) (ht : q.tag = tag) :
    (rdAnswered tag s).obs.smp.rdOut = [] := by
  have : delFirst (fun x : Rd => x.tag == tag) s.obs.smp.rdOut = [] := by simp [h, delFirst, ht]
  exact this

theorem opReadData_one {tag : Nat} {ws : List U64} {err : Bool} {q : Rd} {s : State} (h : s.obs.smp.rdOut = [q])
    (ht : q.tag = tag) : opReadData tag ws err s = walkAll (readDone q ws err (rdAnswered tag s)) := by
  unfold opReadData
  rw [h, List.find?_cons_of_pos (by simp [ht])]
  rfl

theorem walkAll_of_no_dumps {s : State} (h : s.obs.wat.dumps = []) : walkAll s = s := by
  unfold walkAll
  rw [h]
  rfl

/-- The write of an entry is acknowledged. -/
theorem opWriteResponse_entry {tag r seq : Nat} {e : Entry} {q : Bool} {w : Wr} {s : State}
    (h : s.obs.smp.wrOut = [w]) (ht : w.tag = tag) (hw : w.what = .completion r seq e q) :
    opWriteResponse tag false s = entryWritten r seq w q (wrAnswered tag s) := by
  rw [opWriteResponse_one h ht]
  unfold written
  rw [hw]
  rfl

theorem opWriteResponse_fault {tag r seq : Nat} {e : Entry} {q : Bool} {w : Wr} {s : State}
    (h : s.obs.smp.wrOut = [w]) (ht : w.tag = tag) (hw : w.what = .completion r seq e q) :
    opWriteResponse tag true s = ringFault r 2 (onRing r (fun g => { g with again := g.again ++ [pieceOf w] })
      (wrAnswered tag s)) := by
  rw [opWriteResponse_one h ht]
  unfold written
  rw [hw]
  rfl

/-- The fields of a ring and of the port once an entry's write has been acknowledged. -/
theorem entryAnswered_spec {tag r seq : Nat} {q : Bool} {w : Wr} {s : State} (h : s.obs.smp.wrOut = [w]) (ht : w.tag = tag) :
    (entryWritten r seq w q (wrAnswered tag s)).obs.smp.wrOut = [] ∧
    (ringOf (entryWritten r seq w q (wrAnswered tag s)) r).unacked = (ringOf s r).unacked.erase seq ∧
    (ringOf (entryWritten r seq w q (wrAnswered tag s)) r).pend = (if q then (ringOf s r).pend else true) ∧
    (entryWritten r seq w q (wrAnswered tag s)).obs.smp.pieces = s.obs.smp.pieces ++
      (if q = false ∧ (ringOf s r).pend = false ∧ bit (reg s (aRing r + 0x28)) 8 = true then [ringMsi r s] else []) := by
  have hw := wrOut_wrAnswered h ht
  generalize hs : wrAnswered tag s = t at hw
  have hring : ringOf t r = ringOf s r := by rw [← hs]; rfl
  have hreg (a : Nat) : reg t a = reg s a := by rw [← hs]; rfl
  have hpc : t.obs.smp.pieces = s.obs.smp.pieces := by rw [← hs]; rfl
  obtain ⟨l, hl⟩ := ringOf_entryAcked r seq w t
  have hmsi : ringMsi r (entryAcked r seq w t) = ringMsi r s := by
    have h1 : reg (entryAcked r seq w t) (aRing r + 0x24) = reg s (aRing r + 0x24) := (reg_onRing _ _ _ _).trans (hreg _)
    have h2 : ringPart (entryAcked r seq w t) r = ringPart s r := by
      unfold ringPart
      rw [show reg (entryAcked r seq w t) (aRing r) = reg s (aRing r) from (reg_onRing _ _ _ _).trans (hreg _)]
    have h3 : (ringOf (entryAcked r seq w t) r).msia = (ringOf s r).msia := by rw [hl, hring]
    unfold ringMsi
    rw [h1, h2, h3]
  rw [entryWritten_eq]
  cases q with
  | true =>
    rw [if_pos rfl, if_pos rfl, if_neg (by simp), hl, hring]
    exact ⟨hw, rfl, rfl, hpc.trans (List.append_nil _).symm⟩
  | false =>
    rw [if_neg (by simp), if_neg (by simp)]
    obtain ⟨p1, p2, p3⟩ := raisePend_spec r (entryAcked r seq w t)
    have h8 : reg (entryAcked r seq w t) (aRing r + 0x28) = reg s (aRing r + 0x28) := (reg_onRing _ _ _ _).trans (hreg _)
    have hpe : (entryAcked r seq w t).obs.smp.pieces = s.obs.smp.pieces := hpc
    refine ⟨p2.trans hw, ?_, ?_, ?_⟩
    · rw [p1, hl, hring]
    · rw [p1]
    · rw [p3, hmsi, h8, hl, hring, hpe]
      simp

/-- The descriptors that have arrived, as the ring holds them. -/
def arrived (r n : Nat) (ws : List U64) (s : State) : List Held :=
  (descsOf n ws).zipIdx.map fun e => ⟨(ringOf s r).nextSeq + e.2, e.1, .serial, engGt s⟩

theorem map_d_arrived (r n : Nat) (ws : List U64) (s : State) : (arrived r n ws s).map (·.d) = descsOf n ws := by
  unfold arrived
  rw [List.map_map]
  exact List.zipIdx_map_fst 0 (descsOf n ws)

/-- The descriptors have joined their ring. -/
def descsTaken (r n : Nat) (ws : List U64) (tag : Nat) (s : State) : State :=
  onRing r (fun g => { g with
    reading := 0
    fetched := (ringOf s r).fetched ++ arrived r n ws s
    nextSeq := (ringOf s r).nextSeq + n
    head := ((ringOf s r).head + n) % ringN s r }) (rdAnswered tag s)

/-- Settles O42: an answered write acts on its ring alone, and descriptors join their ring in order. -/
theorem smpAnswers : Obligations.SmpAnswers := by
  refine ⟨fun tag r seq e q w s hr h64 h ht hw => ?_, fun tag err s hr hn => ?_,
    fun tag r n ws q s hr h64 h ht hw hrd ha hd => ?_⟩
  · have eok := opWriteResponse_entry h ht hw
    have hf := onlyChanges_entryWritten r seq w q (wrAnswered tag s)
    have hf : onlyChanges [.smp, .cmd] s (entryWritten r seq w q (wrAnswered tag s)) :=
      onlyChanges.trans ((onlyChanges.refl _ s).onSmp _) hf
    obtain ⟨s1, s2, s3, s4⟩ := entryAnswered_spec (r := r) (seq := seq) (q := q) h ht
    have hg : goesTo (.smpWriteResponse tag false) s (entryWritten r seq w q (wrAnswered tag s)) := by
      have hg := goesTo_inWriter_of_ctxs (f := opWriteResponse tag false) (c := .smpWriteResponse tag false) rfl hr
        (by rw [eok, hf.ctxs_eq])
      rwa [eok] at hg
    refine ⟨fun hq hb => ⟨_, hg, hf, s1, ?_, s2, ?_⟩, fun hq hb hp => ⟨_, hg, hf, s1, ?_, s2, ?_⟩,
      fun hq => ⟨_, hg, hf, s1, ?_, s2⟩, ?_⟩
    · rw [s3, hq]
      rfl
    · rw [s4, if_neg (by rintro ⟨-, h1, h2⟩; rw [h1, h2] at hb; simp at hb)]
      exact List.append_nil _
    · rw [s3, hq]
      rfl
    · rw [s4, if_pos ⟨hq, hp, hb⟩]
      rfl
    · rw [s3, hq]
      rfl
    · have ef := opWriteResponse_fault h ht hw
      generalize ha : onRing r (fun g => { g with again := g.again ++ [pieceOf w] }) (wrAnswered tag s) = t at ef
      have h1 : onlyChanges [.smp, .cmd, .obsRegs, .evq] s t := by
        rw [← ha]
        exact ((onlyChanges.refl _ s).onSmp _).onRing _ _
      have hff := onlyChanges_ringFault h1 h64 2
      have hg : goesTo (.smpWriteResponse tag true) s (ringFault r 2 t) := by
        have hg := goesTo_inWriter_of_ctxs (f := opWriteResponse tag true) (c := .smpWriteResponse tag true) rfl hr
          (by rw [ef, hff.ctxs_eq])
        rwa [ef] at hg
      obtain ⟨f1, f2⟩ := ringFault_spec h64 2 t
      have hwo : t.obs.smp.wrOut = [] := by
        rw [← ha]
        exact wrOut_wrAnswered h ht
      have hsm : (ringFault r 2 t).obs.smp = t.obs.smp :=
        (onlyChanges_ringFault (onlyChanges.refl [.cmd, .obsRegs, .evq] t) h64 2).smp_eq
      refine ⟨_, hg, hff, ?_, ?_, ?_, ?_, f2⟩
      · rw [hsm, hwo]
      · rw [f1]
      · rw [f1]
      · rw [f1]
  · have hnone : s.obs.smp.wrOut.find? (fun w => w.tag == tag) = none := by
      rw [List.find?_eq_none]
      intro w hwm
      simp [hn w hwm]
    have hx : opWriteResponse tag err s = s := by
      unfold opWriteResponse
      rw [hnone]
    have hstay : inWriter (opWriteResponse tag err) s = s := by
      unfold inWriter
      rw [inObs_run _ _ hr.2, hx]
      exact seqWrapped_of_ctxs rfl
    exact exec_stays rfl hr.1 hstay
  · have hcond : ¬ ((ringOf (rdAnswered tag s) r).reading ≠ n ∨
        q.addr ≠ (ringOf (rdAnswered tag s) r).base + 64 * (ringOf (rdAnswered tag s) r).head) := by
      have : ringOf (rdAnswered tag s) r = ringOf s r := rfl
      rw [this]
      simp [hrd, ha]
    have hrun {err : Bool} {t : State} (e : readDone q ws err (rdAnswered tag s) = t) (hdt : t.obs.wat.dumps = [])
        (hx : t.obs.ctxs = s.obs.ctxs) : goesTo (.smpReadData tag ws err) s t := by
      have e' : opReadData tag ws err s = t := by rw [opReadData_one h ht, e, walkAll_of_no_dumps hdt]
      have hg := goesTo_inWriter_of_ctxs (f := opReadData tag ws err) (c := .smpReadData tag ws err) rfl hr (by rw [e', hx])
      rwa [e'] at hg
    have hin (err : Bool) : readDone q ws err (rdAnswered tag s) = descData r n q.addr ws err (rdAnswered tag s) := by
      unfold readDone
      rw [hw]
    constructor
    · have e : readDone q ws false (rdAnswered tag s) = descsTaken r n ws tag s := by
        rw [hin]
        unfold descData
        rw [if_neg hcond, if_neg (by simp)]
        rfl
      have hf : onlyChanges [.smp, .cmd] s (descsTaken r n ws tag s) := ((onlyChanges.refl _ s).onSmp _).onRing _ _
      have hring : ringOf (descsTaken r n ws tag s) r = { ringOf s r with
          reading := 0
          fetched := (ringOf s r).fetched ++ arrived r n ws s
          nextSeq := (ringOf s r).nextSeq + n
          head := ((ringOf s r).head + n) % ringN s r } := ringOf_onRing_same _ _ _
      refine ⟨_, hrun e (hf.wat_eq ▸ hd) hf.ctxs_eq, hf, rdOut_rdAnswered h ht, ?_, ?_, ?_, ?_⟩
      · rw [hring]
      · rw [hring]
      · rw [hring]
        dsimp only
        rw [List.map_append, map_d_arrived]
      · rw [hring]
    · generalize hs' : onRing r (fun g => { g with reading := 0 }) (rdAnswered tag s) = t
      have e : readDone q ws true (rdAnswered tag s) = ringFault r 1 t := by
        rw [hin]
        unfold descData
        rw [if_neg hcond, if_pos rfl, hs']
      have h1 : onlyChanges [.smp, .cmd, .obsRegs, .evq] s t := by
        rw [← hs']
        exact ((onlyChanges.refl _ s).onSmp _).onRing _ _
      have hff := onlyChanges_ringFault h1 h64 1
      have hring : ringOf t r = { ringOf s r with reading := 0 } := by
        rw [← hs']
        exact ringOf_onRing_same _ _ _
      have hrd : t.obs.smp.rdOut = [] := by
        rw [← hs']
        exact rdOut_rdAnswered h ht
      have hsm : (ringFault r 1 t).obs.smp = t.obs.smp :=
        (onlyChanges_ringFault (onlyChanges.refl [.cmd, .obsRegs, .evq] t) h64 1).smp_eq
      obtain ⟨f1, f2⟩ := ringFault_spec h64 1 t
      refine ⟨_, hrun e (hff.wat_eq ▸ hd) hff.ctxs_eq, hff, ?_, ?_, ?_, ?_, ?_, f2⟩
      · rw [hsm, hrd]
      · rw [f1]
      · rw [f1]
      · rw [f1]
      · rw [f1, hring]

end Sys2Proof.Machine
end

section
/-! CERTIFICATE. `FREEZE_AT`, `EPOCH_SET` and `READ_SHADOW` (R77, R79, R88 to R90). -/

namespace Sys2Proof.Machine

open Sys2Proof.Safety

set_option Elab.async false

/-! ## `FREEZE_AT` -/

/-- The state in which a software freeze of the command's partition is pending at T. -/
def freezeSet (r T : Nat) (s : State) : State :=
  onCut (fun c => addIssued (newFreeze T 1 false 0 [ringPart s r] false s)
    { c with sw := c.sw ++ [newFreeze T 1 false 0 [ringPart s r] false s] }) s

theorem newFreeze_id {T : Nat} {s : State} (hT : ∀ f ∈ freezes s, f.t ≠ T) (own : List Nat) :
    (newFreeze T 1 false 0 own false s).id = nextFreezeId s := by
  have hn : (freezes s).find? (fun f => f.t == T) = none := by
    rw [List.find?_eq_none]
    intro f hf
    simp [hT f hf]
  unfold newFreeze
  rw [hn]

theorem swFreeze_new {T : Nat} {s : State} (hT : ∀ f ∈ freezes s, f.t + 63 < T ∨ T + 63 < f.t)
    (hl : s.obs.cut.sw.length < 4) (r : Nat) :
    swFreeze T false 0 [ringPart s r] s = (some (nextFreezeId s), freezeSet r T s) := by
  have hn : s.obs.cut.sw.find? (fun f => decide (f.t ≤ T + 63) && decide (T ≤ f.t + 63)) = none := by
    rw [List.find?_eq_none]
    intro f hf
    have := hT f (List.mem_append_left _ hf)
    simp only [Bool.and_eq_true, decide_eq_true_eq]
    omega
  have hid := newFreeze_id (s := s) (T := T) (fun f hf => by have := hT f hf; omega) [ringPart s r]
  unfold swFreeze
  rw [hn]
  dsimp only
  rw [if_neg (by omega), hid]
  rfl

theorem onlyChanges_freezeSet (r T : Nat) (s : State) : onlyChanges [.cut] s (freezeSet r T s) :=
  (onlyChanges.refl _ s).onCut _

theorem cut_freezeSet (r T : Nat) (s : State) :
    (freezeSet r T s).obs.cut.sw = s.obs.cut.sw ++ [newFreeze T 1 false 0 [ringPart s r] false s] ∧
      (freezeSet r T s).obs.cut.hw = s.obs.cut.hw ∧ (freezeSet r T s).obs.cut.main = s.obs.cut.main ∧
      (freezeSet r T s).obs.cut.shadow = s.obs.cut.shadow := ⟨rfl, rfl, rfl, rfl⟩

theorem cut_complete (r : Nat) (h : Held) (st : Nat) (res : U32) (s : State) :
    (complete r h st res s).obs.cut = s.obs.cut := rfl

/-- An explicit T keeps the lead and the bound of 2^40; T 0 is 1,024 GT on. -/
def leadKept (h : Held) (T : Nat) (s : State) : Prop :=
  if pair (dw h 3) (dw h 4) = 0 then T = gtMod (engGt s + 1024) else T = pair (dw h 3) (dw h 4) ∧
    engGt s + 1024 ≤ T ∧ T ≤ engGt s + 2 ^ 40

theorem doFreezeAt_acts {r T : Nat} {h : Held} {s : State} (h5 : bit (dw h 5) 0 = false) (hT : leadKept h T s)
    (hq : s.obs.hang.seq = none) (hf : ∀ f ∈ freezes s, f.t + 63 < T ∨ T + 63 < f.t) (hl : s.obs.cut.sw.length < 4) :
    doFreezeAt r h s = complete r h stOk (lo32 (nextFreezeId s)) (freezeSet r T s) := by
  have ht : (if pair (dw h 3) (dw h 4) = 0 then gtMod (engGt s + 1024) else pair (dw h 3) (dw h 4)) = T ∧
      ¬ (pair (dw h 3) (dw h 4) ≠ 0 ∧ (T < engGt s + 1024 ∨ engGt s + 2 ^ 40 < T)) := by
    unfold leadKept at hT
    by_cases h0 : pair (dw h 3) (dw h 4) = 0
    · rw [if_pos h0] at hT ⊢
      exact ⟨hT.symm, fun hn => hn.1 h0⟩
    · rw [if_neg h0] at hT ⊢
      obtain ⟨h1, h2, h3⟩ := hT
      exact ⟨h1.symm, fun hn => hn.2.elim (by omega) (by omega)⟩
  obtain ⟨ht, hlead⟩ := ht
  unfold doFreezeAt
  dsimp only
  rw [h5, if_neg (c := (false : Bool) = true) (by simp), ht, if_neg (by simp), if_neg hlead, if_neg (by simp [hq]),
    if_neg (by simp), swFreeze_new hf hl r]
  exact finish_ok _ _ (by decide) _ _

theorem doFreezeAt_late {r : Nat} {h : Held} {s : State} (h5 : bit (dw h 5) 0 = false)
    (h0 : pair (dw h 3) (dw h 4) ≠ 0) (hl : pair (dw h 3) (dw h 4) < engGt s + 1024) :
    doFreezeAt r h s = complete r h stTimeout 0 s := by
  unfold doFreezeAt
  dsimp only
  rw [h5, if_neg (c := (false : Bool) = true) (by simp), if_neg h0, if_neg (by simp), if_pos ⟨h0, .inl hl⟩]
  exact fail_ok _ _ (by decide) _

/-! ## `EPOCH_SET` -/

/-- The schedule that the words of `EPOCH_SET` give, accepted at GT c. -/
def schedOf (h : Held) (c : Nat) : Sched :=
  ⟨fld (dw h 3) 0 2, pair (dw h 4) (dw h 5),
    if pair (dw h 6) (dw h 7) = 0 then gtMod (c + 1024) else pair (dw h 6) (dw h 7)⟩

/-- The schedule has joined its partition's. -/
def epochJoined (p : Nat) (h : Held) (s : State) : State :=
  onEpoch p (fun e => { addSchedule (engGt s) (schedOf h (engGt s)) e with renumber := e.renumber ++ [engGt s] }) s

theorem doEpochSet_acts {r : Nat} {h : Held} {s : State} (he : epochStatus h = none) :
    doEpochSet r h s = complete r h stOk 0 (epochJoined (ringPart s r) h s) := by
  unfold doEpochSet
  rw [he]
  exact finish_ok _ _ (by decide) _ _

theorem onlyChanges_epochJoined (p : Nat) (h : Held) (s : State) : onlyChanges [.cut] s (epochJoined p h s) :=
  (onlyChanges.refl _ s).onEpoch _ _

theorem start_addSchedule (c : Nat) (d : Sched) (e : EpochSt) : (addSchedule c d e).start = e.start := by
  unfold addSchedule
  split <;> rfl

theorem epochOf_epochJoined (p : Nat) (h : Held) (s : State) :
    epochOf (epochJoined p h s) p =
      { addSchedule (engGt s) (schedOf h (engGt s)) (epochOf s p) with
        renumber := (epochOf s p).renumber ++ [engGt s] } := epochOf_onEpoch_same _ _ _

/-- Source 0: every schedule that stands ends within 1,024 GT. -/
theorem addSchedule_off {d : Sched} (hd : d.source = 0) (c : Nat) (e : EpochSt) :
    ∀ x ∈ (addSchedule c d e).entries, ∃ y, x.stop = some y ∧ y ≤ c + 1024 := by
  unfold addSchedule capEntries
  rw [hd]
  intro x hx
  simp only [List.map_map, List.mem_map, Function.comp_apply] at hx
  obtain ⟨z, -, rfl⟩ := hx
  refine ⟨_, rfl, ?_⟩
  split
  · exact Nat.min_le_right _ _
  · exact Nat.le_refl _

theorem addSchedule_period {d : Sched} (hd : d.source = 1) (c : Nat) (e : EpochSt) :
    (addSchedule c d e).entries.getLast? =
      some ⟨d, [firstBound d.base d.period (c + 1024)], some (firstBound d.base d.period (c + 1024)), none, none⟩ := by
  unfold addSchedule
  rw [hd]
  exact List.getLast?_concat

theorem addSchedule_fsync {d : Sched} (hd : d.source = 2) (c : Nat) (e : EpochSt) :
    (addSchedule c d e).entries = e.entries ++ [⟨d, [], none, none, none⟩] := by
  unfold addSchedule
  rw [hd]
  rfl

/-- The words 4 to 7 are 0 but for a periodic schedule (Table 4.6). -/
theorem words_zero_of_epochStatus {h : Held} (he : epochStatus h = none) (h1 : fld (dw h 3) 0 2 ≠ 1) :
    dw h 4 = 0 ∧ dw h 5 = 0 ∧ dw h 6 = 0 ∧ dw h 7 = 0 := by
  unfold epochStatus at he
  dsimp only at he
  split at he
  · cases he
  · rename_i hn
    simp [h1] at hn
    grind

theorem pair_zero : pair 0 0 = 0 := by decide

/-! ## `READ_SHADOW` -/

theorem doReadShadow_checks {r : Nat} {h : Held} {s : State} (hi : freezeIssued s (fld (dw h 3) 0 16) = true)
    (hu : fld (dw h 4) 16 12 < s.build.units) (hr : fld (dw h 4) 0 12 ≤ fld (dw h 4) 16 12)
    (hp : canPark s r h = true) :
    doReadShadow r h s = if freezePending s (fld (dw h 3) 0 16) then park r h .freeze s else shadowNow r h s := by
  unfold doReadShadow
  dsimp only
  rw [if_neg (by simp [hi]), if_neg (by omega), if_neg (by simp [hp])]

theorem onlyChanges_writeOut (r : Nat) (h : Held) (a : Nat) (l : List U64) (b : Bool) (s : State) :
    onlyChanges [.smp, .cmd] s (writeOut r h a l b s) :=
  onlyChanges_park ((onlyChanges.refl _ s).addPieces _ _ _ _ _ _) _ _ _

theorem ctxs_writeOut (r : Nat) (h : Held) (a : Nat) (l : List U64) (b : Bool) (s : State) :
    (writeOut r h a l b s).obs.ctxs = s.obs.ctxs := (onlyChanges_writeOut r h a l b s).ctxs_eq

theorem pieces_writeOut (r : Nat) (h : Held) (a : Nat) (l : List U64) (b : Bool) (s : State) :
    (writeOut r h a l b s).obs.smp.pieces = s.obs.smp.pieces ++
      piecesOf 6 (ringPart s r) (.out r h.seq false) (.out r h.seq true) a l := rfl

/-- An output's command waits for the pieces that it has asked for. -/
theorem parks_writeOut {r : Nat} {h : Held} {s : State} (hf : frontOf s r = some h) (a : Nat) (l : List U64) (b : Bool) :
    ∃ n, parks r h (.output (ceilDiv l.length 8) n false b) s (writeOut r h a l b s) :=
  ⟨_, parks_park hf rfl _⟩

/-! ## The three commands -/

theorem freezeAt_completes (r T : Nat) (h : Held) (s : State) (ha : atFrontOf 0x20 r h s) (hb : reservedBad h = false)
    (h5 : bit (dw h 5) 0 = false) (hT : leadKept h T s) (hq : s.obs.hang.seq = none)
    (hf : ∀ f ∈ freezes s, f.t + 63 < T ∨ T + 63 < f.t) (hl : s.obs.cut.sw.length < 4) :
    ∃ t f, goesTo (.freezeAt r) s t ∧ onlyChanges [.smp, .cmd, .cut] s t ∧
      completes r h stOk (lo32 (nextFreezeId s)) s t ∧ t.obs.cut.sw = s.obs.cut.sw ++ [f] ∧ f.t = T ∧
      f.id = nextFreezeId s ∧ f.own = [ringPart s r] ∧ t.obs.cut.hw = s.obs.cut.hw ∧
      t.obs.cut.main = s.obs.cut.main ∧ t.obs.cut.shadow = s.obs.cut.shadow := by
  have e := doFreezeAt_acts (r := r) h5 hT hq hf hl
  have hc := onlyChanges_freezeSet r T s
  obtain ⟨hg, hk⟩ := goesTo_completes (i := .freezeAt r) rfl ha ((checked_passes hb _).trans e) hc
  obtain ⟨c1, c2, c3, c4⟩ := cut_freezeSet r T s
  refine ⟨_, newFreeze T 1 false 0 [ringPart s r] false s, hg, (hc.mono (by decide)).complete _ _ _ _, hk, ?_, rfl, ?_,
    rfl, ?_⟩
  · rw [cut_complete, c1]
  · exact newFreeze_id (fun f hm => by have := hf f hm; omega) _
  · rw [cut_complete]
    exact ⟨c2, c3, c4⟩

theorem epochSet_completes (r B : Nat) (h : Held) (s : State) (ha : atFrontOf 0x21 r h s) (he : epochStatus h = none)
    (hB : B = (if pair (dw h 6) (dw h 7) = 0 then gtMod (engGt s + 1024) else pair (dw h 6) (dw h 7))) :
    ∃ t, goesTo (.epochSet r) s t ∧ onlyChanges [.smp, .cmd, .cut, .ctxs] s t ∧ completes r h stOk 0 s t ∧
      (∀ q, q ≠ ringPart s r → epochOf t q = epochOf s q) ∧
      (epochOf t (ringPart s r)).start = (epochOf s (ringPart s r)).start ∧
      (fld (dw h 3) 0 2 = 0 → ∀ e ∈ (epochOf t (ringPart s r)).entries, ∃ x, e.stop = some x ∧ x ≤ engGt s + 1024) ∧
      (fld (dw h 3) 0 2 = 1 → (epochOf t (ringPart s r)).entries.getLast? =
        some ⟨⟨1, pair (dw h 4) (dw h 5), B⟩, [firstBound B (pair (dw h 4) (dw h 5)) (engGt s + 1024)],
          some (firstBound B (pair (dw h 4) (dw h 5)) (engGt s + 1024)), none, none⟩) ∧
      (fld (dw h 3) 0 2 = 2 → (epochOf t (ringPart s r)).entries = (epochOf s (ringPart s r)).entries ++
        [⟨⟨2, 0, gtMod (engGt s + 1024)⟩, [], none, none, none⟩]) := by
  have e := doEpochSet_acts (r := r) (s := s) he
  have hc := onlyChanges_epochJoined (ringPart s r) h s
  obtain ⟨hg, hk⟩ := goesTo_completes (i := .epochSet r) rfl ha e hc
  have hep (q : Nat) : epochOf (complete r h stOk 0 (epochJoined (ringPart s r) h s)) q =
      epochOf (epochJoined (ringPart s r) h s) q := by
    unfold epochOf
    rw [cut_complete]
  have hself := epochOf_epochJoined (ringPart s r) h s
  refine ⟨_, hg, (hc.mono (by decide)).complete _ _ _ _, hk, fun q hq => ?_, ?_, fun hs => ?_, fun hs => ?_, fun hs => ?_⟩
  · rw [hep]
    exact epochOf_onEpoch_other _ _ _ _ hq
  · rw [hep, hself]
    exact start_addSchedule _ _ _
  · rw [hep, hself]
    exact addSchedule_off hs _ _
  · have hd : schedOf h (engGt s) = ⟨1, pair (dw h 4) (dw h 5), B⟩ := by rw [schedOf, hs, hB]
    rw [hep, hself, hd]
    exact addSchedule_period rfl _ _
  · obtain ⟨z4, z5, z6, z7⟩ := words_zero_of_epochStatus he (by omega)
    have hd : schedOf h (engGt s) = ⟨2, 0, gtMod (engGt s + 1024)⟩ := by
      rw [schedOf, hs, z4, z5, z6, z7, pair_zero, if_pos rfl]
    rw [hep, hself, hd]
    exact addSchedule_fsync rfl _ _

theorem readShadow_answers (r : Nat) (h : Held) (b : Shadow) (s : State) (ha : atFrontOf 0x22 r h s)
    (hb : reservedBad h = false) (e : doReadShadow r h s = shadowNow r h s) (hs : s.obs.cut.shadow = some b) :
    (b.id = fld (dw h 3) 0 16 → ∃ t n, goesTo (.readShadow r) s t ∧ onlyChanges [.smp, .cmd] s t ∧
      parks r h (.output (ceilDiv (shadowOut s b (ringPart s r) h (!hasConsent s (ringPart s r) 0)).length 8) n false
        (!hasConsent s (ringPart s r) 0)) s t ∧
      t.obs.smp.pieces = s.obs.smp.pieces ++ piecesOf 6 (ringPart s r) (.out r h.seq false) (.out r h.seq true)
        (dAddr h 5) (shadowOut s b (ringPart s r) h (!hasConsent s (ringPart s r) 0))) ∧
    (b.id ≠ fld (dw h 3) 0 16 → ∃ t, goesTo (.readShadow r) s t ∧ onlyChanges [.smp, .cmd] s t ∧
      completes r h stAborted 0 s t) := by
  unfold shadowNow at e
  rw [hs] at e
  dsimp only at e
  refine ⟨fun hid => ?_, fun hid => ?_⟩
  · rw [if_pos hid] at e
    have g := goesTo_checked (i := .readShadow r) rfl ha hb (seqWrapped_of_ctxs (by rw [e, ctxs_writeOut]))
    rw [e] at g
    obtain ⟨n, hn⟩ := parks_writeOut ha.2.1 (dAddr h 5)
      (shadowOut s b (ringPart s r) h (!hasConsent s (ringPart s r) 0)) (!hasConsent s (ringPart s r) 0)
    exact ⟨_, n, g, onlyChanges_writeOut _ _ _ _ _ _, hn, pieces_writeOut _ _ _ _ _ _⟩
  · rw [if_neg hid, fail_ok _ _ (by decide)] at e
    obtain ⟨hg, hk⟩ := goesTo_completes (i := .readShadow r) rfl ha ((checked_passes hb _).trans e) (.refl [] s)
    exact ⟨_, hg, onlyChanges_complete _ _ _ _ _, hk⟩

/-- Settles O48: each command leads to one freeze, one schedule, or one output. -/
theorem freezesEpochsAndShadow : Obligations.FreezesEpochsAndShadow := by
  refine ⟨freezeAt_completes, fun r h s ha hb h5 h0 hl => ?_, epochSet_completes,
    fun r h b s ha hb hi hu hn hp hs hq => ?_, fun r h s ha hb hi hu hn hp hq => ?_⟩
  · obtain ⟨hg, hk⟩ := goesTo_completes (i := .freezeAt r) rfl ha ((checked_passes hb _).trans (doFreezeAt_late h5 h0 hl))
      (.refl [] s)
    exact ⟨_, hg, onlyChanges_complete _ _ _ _ _, hk⟩
  · exact readShadow_answers r h b s ha hb ((doReadShadow_checks hi hu hn hp).trans (if_neg (by simp [hq]))) hs
  · have e := (doReadShadow_checks hi hu hn hp).trans (if_pos hq)
    have g := goesTo_checked (i := .readShadow r) rfl ha hb (seqWrapped_of_ctxs (by rw [e, ctxs_park]))
    rw [e] at g
    exact ⟨_, g, onlyChanges_park (.refl _ s) _ _ _, parks_park ha.2.1 rfl _⟩

end Sys2Proof.Machine
end

section
/-! CERTIFICATE. The attribution table, from a state in which a walk of a watch waits too. -/

namespace Sys2Proof.Machine

open Sys2Proof.Safety

set_option Elab.async false

/-- An `ATTR_LOAD` of one group at site 8, in its second pass. -/
def attrLoading : Held := ⟨7, ⟨[0x130, 5, 0, 8, 4096, 0, 1]⟩, .read 1 [], 0⟩

/-- A machine at work in which ring 2 reads the group of an `ATTR_LOAD`, and a walk has nothing left to ask for. -/
def loadBesideWalk : State :=
  onWat (fun w => { w with dumps := [{ (default : Dump) with source := 1 }] })
    (onRing 2 (fun g => { g with cur := some attrLoading })
      (onSmp (fun m => { m with rdOut := [⟨0, 0, .cmd 2 7 1, 4096, 1⟩] }) atWork))

/-- Refutes O49: read data for any command lets the walks of the watches go on (R153), and the statement takes any
state. In one where a walk stands with nothing left to read, the words of the group end that walk, so the watches
change beside the table. -/
theorem not_attributionTable : ¬ Obligations.AttributionTable := by
  unfold Obligations.AttributionTable
  rintro ⟨_, h, _⟩
  obtain ⟨t, hg, hf, _⟩ := h 2 0 attrLoading ⟨0, 0, .cmd 2 7 1, 4096, 1⟩ [1, 0, 0, 0, 0, 0, 0, 0] loadBesideWalk
    (by decide) (by decide) (by decide) (by decide) (by decide) (by decide) (by decide) (by decide) (by decide)
    (by decide) (by decide)
  have hr := goesTo_inWriter_of_ctxs (f := opReadData 0 [1, 0, 0, 0, 0, 0, 0, 0] false)
    (c := .smpReadData 0 [1, 0, 0, 0, 0, 0, 0, 0] false) rfl (s := loadBesideWalk) (by decide) (by decide)
  have hs (b u : State) : (settle b u).obs.wat = u.obs.wat := by
    obtain ⟨_, _, _, _, _, h⟩ := settle_eq b u
    rw [h]
    rfl
  have hd : (settle loadBesideWalk t).obs.wat =
      (settle loadBesideWalk (opReadData 0 [1, 0, 0, 0, 0, 0, 0, 0] false loadBesideWalk)).obs.wat :=
    congrArg (fun o => match o with | .next u => u.obs.wat | _ => default) (hg.symm.trans hr)
  rw [hs, hs, hf.wat_eq] at hd
  exact absurd (congrArg (fun w : Wat => w.dumps.map (·.ended)) hd) (by decide)

end Sys2Proof.Machine
end

section
/-! CERTIFICATE. The engine's fetches, and its parked commands (R225 to R227, R234 to R236, R404). -/

namespace Sys2Proof.Machine

open Sys2Proof.Safety

set_option Elab.async false

/-! ## Parked commands -/

/-- A parked command that goes on. -/
theorem opParked_waits {r : Nat} {h : Held} {s : State} (hw : waits r h s) : opParked r h.seq s = parkedNext r h s := by
  unfold opParked
  rw [hw.2]

/-- What a parked command leads to where the contexts stand. -/
theorem goesTo_parked {r : Nat} {h : Held} {s t : State} (hw : waits r h s) (e : parkedNext r h s = t)
    (hx : t.obs.ctxs = s.obs.ctxs) : goesTo (.parkedCommandComplete r h.seq) s t := by
  have e' := (opParked_waits hw).trans e
  have g := goesTo_inWriter_of_ctxs (f := opParked r h.seq) (c := .parkedCommandComplete r h.seq) rfl hw.1 (by rw [e', hx])
  rwa [e'] at g

/-- A parked command completes, and nothing else comes of it. -/
theorem parked_ends {r st : Nat} {res : U32} {h : Held} {s : State} (hw : waits r h s)
    (e : parkedNext r h s = complete r h st res s) :
    ∃ t, goesTo (.parkedCommandComplete r h.seq) s t ∧ onlyChanges [.smp, .cmd] s t ∧ ends r h st res s t :=
  ⟨_, goesTo_parked hw e (ctxs_complete _ _ _ _ _), onlyChanges_complete _ _ _ _ _, ends_complete (ringAgrees_refl r s) _ _ _⟩

/-- A parked command whose condition is not met stays. -/
theorem parked_stays {r : Nat} {h : Held} {s : State} (hw : waits r h s) (e : parkedNext r h s = s) :
    exec (.parkedCommandComplete r h.seq) s = .next s := by
  refine exec_stays (f := inWriter (opParked r h.seq)) rfl hw.1.1 ?_
  unfold inWriter
  rw [inObs_run _ _ hw.1.2, (opParked_waits hw).trans e]
  exact seqWrapped_of_ctxs rfl

/-- An output other than a save's or a shadow's, with nothing refused, completes once its pieces are answered. -/
theorem outputDone_plain {r units : Nat} {err : Bool} {h : Held} {s : State} (h22 : opOf h ≠ 0x22) (h15 : opOf h ≠ 0x15) :
    outputDone units err false r h s =
      complete r h (if err then stAborted else stOk) (if err then 0 else lo32 units) s := by
  unfold outputDone
  dsimp only
  rw [if_neg h15]
  cases err with
  | true => exact (if_pos rfl).trans (fail_ok _ _ (by decide) _)
  | false =>
    rw [if_neg (by simp), if_neg (by simp), if_neg (by simp [h22])]
    exact finish_ok _ _ (by decide) _ _

/-! ## Fetches -/

theorem dropUnknown_none {r : Nat} {s : State} (h : frontOf s r = none) (n : Nat) : dropUnknown n r s = s := by
  cases n with
  | zero => rfl
  | succ n =>
    unfold dropUnknown
    rw [h]

theorem frontOf_of_no_fetched {r : Nat} {s : State} (h : (ringOf s r).fetched = []) : frontOf s r = none := by
  unfold frontOf
  dsimp only
  split
  · rfl
  · rw [h]
    rfl

/-- The ring whose turn it is can be served. -/
theorem fetchable_of_nextRing {r : Nat} {s : State} (h : nextRing s = some r) : fetchable s r = true :=
  List.find?_some h

theorem opFetch_turn {r : Nat} {s : State} (hr : r < 64) (hf : (ringOf s r).fetched = []) (hn : nextRing s = some r) :
    opFetch r s = fetch r s := by
  unfold opFetch
  rw [if_neg (by omega), dropUnknown_none (frontOf_of_no_fetched hf)]
  exact if_pos hn

/-- The state in which n descriptors of a ring have been asked for under tag g. -/
def descsAsked (r g n : Nat) (s : State) : State :=
  onCmd (fun c => { c with rr := r }) (onRing r (fun x => { x with reading := n }) (onSmp (fun m => { m with
    rdOut := m.rdOut ++ [⟨g, sidOf s (ringPart s r), .desc r n, (ringOf s r).base + 64 * (ringOf s r).head, n⟩] }) s))

theorem ringOf_onCmd_rr (k q : Nat) (s : State) : ringOf (onCmd (fun c => { c with rr := k }) s) q = ringOf s q := rfl

theorem ringOf_onSmp (f : Smp → Smp) (q : Nat) (s : State) : ringOf (onSmp f s) q = ringOf s q := rfl

theorem ringOf_descsAsked (r g n : Nat) (s : State) :
    ringOf (descsAsked r g n s) r = { ringOf s r with reading := n } := by
  unfold descsAsked
  rw [ringOf_onCmd_rr, ringOf_onRing_same, ringOf_onSmp]

theorem ringOf_descsAsked_other (r g n : Nat) (s : State) {q : Nat} (hq : q ≠ r) :
    ringOf (descsAsked r g n s) q = ringOf s q := by
  unfold descsAsked
  rw [ringOf_onCmd_rr, ringOf_onRing_other _ _ _ _ hq, ringOf_onSmp]

theorem fetch_reads {r g : Nat} {s : State} (hn : nextRing s = some r) (he : 0 < entriesFree s r) (hg : readTag s g) :
    fetch r s = descsAsked r g (min (min 4 (64 - (ringOf s r).head % 64)) (min (min (posted s r) (entriesFree s r))
      (ringN s r - (ringOf s r).head))) s := by
  unfold fetch issueRead
  dsimp only
  rw [if_neg (by simp [fetchable_of_nextRing hn]), if_neg (by omega), hg]
  rfl

theorem evq_setReg (a : Nat) (v : U32) (s : State) : (setReg a v s).obs.evq = s.obs.evq := by
  unfold setReg
  split <;> rfl

theorem evq_orReg (a : Nat) (v : U32) (s : State) : (orReg a v s).obs.evq = s.obs.evq := evq_setReg _ _ _

/-- An item of a class that the AON domain does not keep stands in a holding register. -/
theorem holds_push (src : Nat) (i : Item) (s : State) (h1 : i.pclass ≠ 1) (h2 : ¬ (i.pclass = 2 ∧ src = 0)) :
    (push src i s).obs.evq.holds ≠ [] := by
  unfold push
  rw [if_neg h1, if_neg h2]
  cases hf : s.obs.evq.holds.find? (fun h => h.cls == i.pclass && h.src == src) with
  | none => exact List.append_ne_nil_of_right_ne_nil _ (List.cons_ne_nil _ _)
  | some o =>
    dsimp only
    have hne : s.obs.evq.holds ≠ [] := List.ne_nil_of_mem (List.mem_of_find?_eq_some hf)
    have hl (k : Nat) (t : State) : (countOvf k t).obs.evq.holds = t.obs.evq.holds := by
      unfold countOvf
      split
      · exact congrArg Evq.holds ((evq_orReg _ _ _).trans (evq_setReg _ _ _))
      · rfl
    rw [hl]
    intro h0
    have : (modFirst (fun h : HoldReg => h.cls == i.pclass && h.src == src)
        (fun h => { h with item := keepItem o.item i }) s.obs.evq.holds).length = 0 := congrArg List.length h0
    rw [length_modFirst] at this
    exact hne (List.length_eq_zero_iff.mp this)

/-- Settles O55: a fetch and a parked command each take the one branch that their state admits. -/
theorem engineTurnsAndParked : Obligations.EngineTurnsAndParked := by
  refine ⟨fun r g n s hr h64 _ _ _ hf _ _ he hn hg hk => ?_, fun r s hr h64 _ _ _ hf _ _ he hfull hn => ?_,
    fun r s hr hf hn => ?_, fun r d h got s hw hst hd => ?_, fun r h s hw hst hb => ⟨fun hm => ?_, fun hm => ?_⟩,
    fun r units left err h s hw hst h22 h15 => ⟨fun hl => ?_, fun hl => ?_⟩, fun r h s hw hst h0 hm hc hb => ?_⟩
  · have e : opFetch r s = descsAsked r g n s := by
      rw [opFetch_turn h64 hf hn, fetch_reads hn he hg, hk]
    have hc : onlyChanges [.smp, .cmd] s (descsAsked r g n s) :=
      (((onlyChanges.refl _ s).onSmp _).onRing _ _).onCmd _
    have hgo := goesTo_inWriter_of_ctxs (f := opFetch r) (c := .descriptorFetch r) rfl hr (by rw [e, hc.ctxs_eq])
    rw [e] at hgo
    exact ⟨_, hgo, hc, ringOf_descsAsked r g n s, rfl, fun q hq => ringOf_descsAsked_other r g n s hq⟩
  · generalize ht : onRing r (fun g => { g with full := true }) s = t
    have e : opFetch r s = push 0 (mkItem 0x71 (ringPart s r) r (lo32 (unconsumed s r)) (engGt s)) t := by
      rw [opFetch_turn h64 hf hn]
      unfold fetch cqFull
      dsimp only
      rw [if_neg (by simp [fetchable_of_nextRing hn]), if_pos he, if_neg (by simp [hfull]), ht]
    have h1 : onlyChanges [.cmd, .evq, .obsRegs] s t := by
      rw [← ht]
      exact (onlyChanges.refl _ s).onRing _ _
    have hc := h1.push 0 0x71 (ringPart s r) r (lo32 (unconsumed s r)) (engGt s)
    have hring := ((onlyChanges.refl [.evq, .obsRegs] t).push 0 0x71 (ringPart s r) r (lo32 (unconsumed s r)) (engGt s)).ringOf_eq r
    have hgo := goesTo_inWriter_of_ctxs (f := opFetch r) (c := .descriptorFetch r) rfl hr (by rw [e, hc.ctxs_eq])
    rw [e] at hgo
    refine ⟨_, hgo, hc, ?_, holds_push _ _ _ (by decide : (kindCls 0x71).1 ≠ 1) fun hn => ?_⟩
    · rw [hring, ← ht, ringOf_onRing_same]
    · exact absurd hn.1 (by decide : (kindCls 0x71).1 ≠ 2)
  · refine exec_stays (f := inWriter (opFetch r)) rfl hr.1 ?_
    have e : opFetch r s = s := by
      unfold opFetch
      rw [dropUnknown_none hf, if_neg hn]
      exact ite_self _
    unfold inWriter
    rw [inObs_run _ _ hr.2, e]
    exact seqWrapped_of_ctxs rfl
  · have e : opVerdictTimeout r h.seq s = complete r h stTimeout 0 s := by
      unfold opVerdictTimeout
      rw [hw.2]
      dsimp only
      rw [hst]
      exact (if_pos hd).trans (fail_ok _ _ (by decide) _)
    have g := goesTo_inWriter_of_ctxs (f := opVerdictTimeout r h.seq) (c := .firmwareVerdictTimeout r h.seq) rfl hw.1
      (by rw [e, ctxs_complete])
    rw [e] at g
    exact ⟨_, g, onlyChanges_complete _ _ _ _ _, ends_complete (ringAgrees_refl r s) _ _ _⟩
  · refine parked_ends hw ?_
    unfold parkedNext
    rw [hst]
    dsimp only
    rw [if_pos hm, endFence_eq, fenceMarked, if_neg (by simp [hb])]
  · refine parked_stays hw ?_
    unfold parkedNext
    rw [hst]
    exact if_neg (by simp [hm])
  · refine parked_ends hw ?_
    unfold parkedNext
    rw [hst]
    exact (if_pos hl).trans (outputDone_plain h22 h15)
  · refine parked_stays hw ?_
    unfold parkedNext
    rw [hst]
    exact if_neg hl
  · refine parked_ends hw ?_
    have he : effectOf h = checked doNop := by
      unfold effectOf
      rw [h0]
      rfl
    unfold parkedNext
    rw [hst]
    dsimp only
    rw [hm]
    dsimp only
    unfold command
    rw [hm]
    dsimp only
    rw [hc]
    dsimp only
    rw [he, checked_passes hb]
    exact finish_ok _ _ (by decide) _ _

end Sys2Proof.Machine
end

section
/-! CERTIFICATE. `CTX_OPEN` on a context table out of its order. -/

namespace Sys2Proof.Machine

open Sys2Proof.Safety

set_option Elab.async false

/-- A `CTX_OPEN` without selectors. -/
def opening : Held := ⟨7, ⟨[272, 5, 0, 1]⟩, .serial, 0⟩

/-- A machine at work, a `CTX_OPEN` at the front of ring 2, whose context table holds context 1 before context 0;
context 0 has reached its last SEQ, and its job holds an outbound key. -/
def unorderedContexts : State :=
  onKeys (fun k => { k with jobs := [⟨0, 0, [⟨0, [], 0, []⟩], []⟩] })
    (onObs (fun o => { o with ctxs := [(1, some default), (0, some { (default : CtxSt) with seq := 2 ^ 32 - 1 })] })
      (onRing 2 (fun g => { g with fetched := [opening] }) (onCmd (fun m => { m with agreed := 0x11 }) atWork)))

/-- Refutes O46: the statement takes any state, and the first gap of a table out of its order is the ID of a context that
stands. The context opened in its place begins at SEQ 0 where the other stood at its last, which counts as a SEQ that
has wrapped (R282), so the job's outbound key advances; the frame of the statement has no keys. -/
theorem not_contextsOpenAndClose : ¬ Obligations.ContextsOpenAndClose := by
  unfold Obligations.ContextsOpenAndClose
  rintro ⟨h, _⟩
  obtain ⟨t, hg, hf, _⟩ := h 2 opening true 0 unorderedContexts (by decide) (by decide) (by decide) (by decide) (by decide)
  have hr := goesTo_inObs (f := fun s => seqWrapped s (atFront (fun h => opOf h == 0x10) doCtxOpen 2 s))
    (c := .ctxOpen 2) rfl (s := unorderedContexts) (by decide)
  have hs (b u : State) : (settle b u).aon.keys = u.aon.keys := by
    obtain ⟨_, _, _, _, _, h⟩ := settle_eq b u
    rw [h]
    rfl
  have hd : (settle unorderedContexts t).aon.keys = (settle unorderedContexts (seqWrapped unorderedContexts
      (atFront (fun h => opOf h == 0x10) doCtxOpen 2 unorderedContexts))).aon.keys :=
    congrArg (fun o => match o with | .next u => u.aon.keys | _ => default) (hg.symm.trans hr)
  rw [hs, hs, hf.keys_eq] at hd
  exact absurd (congrArg (fun k : Keys => k.jobs.map fun j => j.outb.map (·.gen)) hd) (by decide)

end Sys2Proof.Machine
end

section
/-! SUPPORT. `CTX_ARM` up to its key (R241, R344): what the sums' restart and the cut's mark leave of the machine. -/

namespace Sys2Proof.Machine

open Sys2Proof.Safety

set_option Elab.async false

/-- Where every context that loses its last SEQ is armed anew, no key advances. -/
theorem seqWrapped_of_armedAnew {b s : State} (h : ∀ x c d, ctxOf b x = some c → ctxOf s x = some d →
    ¬ (d.seq < c.seq ∧ c.seq = 2 ^ 32 - 1 ∧ armedAnew c d = false)) : seqWrapped b s = s := by
  have fold (l : List Nat) : l.foldl (fun acc x => match ctxOf b x, ctxOf s x with
      | some b, some c =>
        if c.seq < b.seq ∧ b.seq = 2 ^ 32 - 1 ∧ armedAnew b c = false then advanceGen none c.part c.job 0 acc else acc
      | _, _ => acc) s = s := by
    induction l with
    | nil => rfl
    | cons x l ih =>
      rw [List.foldl_cons]
      split
      · rename_i c d hc hd
        rw [if_neg (h x c d hc hd)]
        exact ih
      · exact ih
  exact fold _

/-! ## Units of ports -/

theorem sameUnits_smMap {f : PortSt → PortSt} (hf : ∀ x, (f x).unit = x.unit) (m : SMap PortSt) :
    sameUnits (smMap portD f m) m := by
  have fold (l acc : SMap PortSt) : sameUnits (l.foldl (fun acc e => smMod portD acc e.1 f) acc) acc := by
    induction l generalizing acc with
    | nil => exact fun _ => rfl
    | cons e l ih =>
      refine fun p => (ih (smMod portD acc e.1 f) p).trans ?_
      by_cases hp : p = e.1
      · rw [hp, smGet_smMod_same, hf]
      · rw [smGet_smMod_other _ _ _ hp]
  exact fold m m

/-! ## The fingerprint's inputs -/

/-- Part of the Hedgerow that the fingerprint reads stands. -/
def sameMap (s t : State) : Prop :=
  t.obs.hed.colls = s.obs.hed.colls ∧ t.obs.hed.sects = s.obs.hed.sects ∧ t.obs.hed.attr = s.obs.hed.attr ∧
    t.obs.hed.engSkew = s.obs.hed.engSkew ∧ sameUnits t.obs.hed.ports s.obs.hed.ports

theorem sameMap.refl (s : State) : sameMap s s := ⟨rfl, rfl, rfl, rfl, fun _ => rfl⟩

theorem sameMap.trans {s t u : State} (h : sameMap s t) (g : sameMap t u) : sameMap s u := by
  obtain ⟨h1, h2, h3, h4, h5⟩ := h
  obtain ⟨g1, g2, g3, g4, g5⟩ := g
  exact ⟨g1.trans h1, g2.trans h2, g3.trans h3, g4.trans h4, fun p => (g5 p).trans (h5 p)⟩

theorem sameMap_of_frame {ps : List Part} {s t : State} (h : onlyChanges ps s t) (hm : .hed ∉ ps := by decide) :
    sameMap s t := by
  unfold sameMap
  rw [h.hed_eq hm]
  exact sameMap.refl s

theorem sameMap.onUnit {s t : State} (h : sameMap s t) (u : Nat) (f : UnitSt → UnitSt) : sameMap s (onUnit u f t) :=
  h.trans (sameMap.refl t)

theorem mapAt_sameMap {s t : State} (hb : t.build = s.build) (h : sameMap s t) (sec g : Nat) :
    sameUnits (mapAt t sec g) (mapAt s sec g) := by
  obtain ⟨-, hs, -, -, hp⟩ := h
  have hsec : sectOf t sec = sectOf s sec := by
    unfold sectOf
    rw [hs, hb]
  unfold mapAt
  rw [hsec]
  generalize (sectOf s sec).remaps.filter (fun r => decide (r.1 ≤ g)) = l
  generalize s.obs.hed.ports = m at hp
  generalize t.obs.hed.ports = n at hp
  induction l generalizing m n with
  | nil => exact hp
  | cons e l ih => exact ih _ _ (sameUnits_applyRemap hp _ _)

theorem portOfUnit_sameMap {s t : State} (hb : t.build = s.build) (h : sameMap s t) (u g : Nat) :
    portOfUnit t u g = portOfUnit s u g := by
  have hm := mapAt_sameMap hb h (u / 256) g
  unfold portOfUnit
  dsimp only
  congr 1
  funext p
  rw [hm p]

theorem attrOf_sameMap {s t : State} (hb : t.build = s.build) (h : sameMap s t) (k : Nat) : attrOf t k = attrOf s k := by
  unfold attrOf
  rw [h.2.2.1, hb]

theorem spareDigest_sameMap {s t : State} (hb : t.build = s.build) (hl : t.obs.lens = s.obs.lens) (h : sameMap s t) :
    spareDigest t = spareDigest s := by
  have hc (c : Nat) : collOf t c = collOf s c := by
    unfold collOf
    rw [h.1]
  have hp : portOfUnit t = portOfUnit s := funext fun u => funext fun g => portOfUnit_sameMap hb h u g
  have hc : collOf t = collOf s := funext hc
  unfold spareDigest
  rw [hp, hc, hb, hl]

theorem attrDigest_sameMap {s t : State} (hb : t.build = s.build) (h : sameMap s t) (p : Nat) :
    attrDigest t p = attrDigest s p := by
  have ha : attrOf t = attrOf s := funext fun k => attrOf_sameMap hb h k
  unfold attrDigest
  rw [ha, h.2.2.1]

/-- The fingerprint stands where its inputs do. -/
theorem rfpRec_sameMap {ps : List Part} {s t : State} (hf : onlyChanges ps s t) (h : sameMap s t) (p c g : Nat)
    (hw : .pwr ∉ ps := by decide) (ho : .obsRegs ∉ ps := by decide) (hr : .aonRegs ∉ ps := by decide)
    (hc : .cmd ∉ ps := by decide) (hm : .smp ∉ ps := by decide) (hl : .lens ∉ ps := by decide) :
    rfpRec t p c g = rfpRec s p c g := by
  have hreg (a : Nat) : reg t a = reg s a := hf.reg_eq a (by unfold regPart; split <;> assumption)
  have hs := spareDigest_sameMap hf.build_eq (hf.lens_eq hl) h
  have ha := attrDigest_sameMap hf.build_eq h p
  unfold rfpRec
  rw [hf.pwr_eq hw, hreg, hreg, hreg, hf.cmd_eq hc, hf.smp_eq hm, hs, ha]

/-! ## The sums restart -/

/-- The counters of context x that a unit holds. -/
def selsOf (x : Nat) (u : UnitSt) : List Nat :=
  u.sels.filterMap fun q => match q.2 with | some z => if z.ctx = x then some q.1 else none | none => none

/-- The counters of a context that one unit holds restart at GT g. -/
def selsRestarted (x p g : Nat) (s : State) (e : Nat × UnitSt) : State :=
  if (selsOf x e.2).isEmpty then s
  else
    onUnit e.1 (fun v => { v with sels := v.sels.map fun q =>
      (q.1, q.2.map fun z => if z.ctx = x then { z with since := g } else z) })
      (count p g (bankUnit e.1 fun b => { b with p := (selsOf x e.2).foldl (fun m k => smPut u64D m k 0) b.p }) s)

theorem zeroSels_eq (x p g : Nat) (s : State) :
    zeroSels x p g s = s.obs.hed.units.foldl (selsRestarted x p g) s := rfl

theorem selsRestarted_keeps {s t : State} (h : onlyChanges [.cut, .hed] s t ∧ sameMap s t) (x p g : Nat)
    (e : Nat × UnitSt) :
    onlyChanges [.cut, .hed] s (selsRestarted x p g t e) ∧ sameMap s (selsRestarted x p g t e) := by
  unfold selsRestarted
  split
  · exact h
  · have hc := (onlyChanges.refl [.cut] t).count p g
      (bankUnit e.1 fun b => { b with p := (selsOf x e.2).foldl (fun m k => smPut u64D m k 0) b.p })
    exact ⟨(h.1.trans (hc.mono (by decide))).onUnit _ _, (h.2.trans (sameMap_of_frame hc)).onUnit _ _⟩

theorem zeroSels_keeps (x p g : Nat) (s : State) :
    onlyChanges [.cut, .hed] s (zeroSels x p g s) ∧ sameMap s (zeroSels x p g s) := by
  have fold (l : List (Nat × UnitSt)) (t : State) (h : onlyChanges [.cut, .hed] s t ∧ sameMap s t) :
      onlyChanges [.cut, .hed] s (l.foldl (selsRestarted x p g) t) ∧ sameMap s (l.foldl (selsRestarted x p g) t) := by
    induction l generalizing t with
    | nil => exact h
    | cons e l ih => exact ih _ (selsRestarted_keeps h x p g e)
  rw [zeroSels_eq]
  exact fold _ s ⟨.refl _ s, .refl s⟩

/-- What the trim of the cut's marks leaves of a port's offered stamps. -/
def portTrimmed (low : Nat) (v : PortSt) : PortSt := { v with offered := v.offered.filter fun x => decide (low ≤ x) }

theorem ports_addMark (m : CutMark) (s : State) :
    ∃ low, (addMark m s).obs.hed.ports = smMap portD (portTrimmed low) s.obs.hed.ports := ⟨_, rfl⟩

theorem sameMap_addMark (m : CutMark) (s : State) : sameMap s (addMark m s) :=
  have hp : sameUnits (addMark m s).obs.hed.ports s.obs.hed.ports := by
    obtain ⟨low, h⟩ := ports_addMark m s
    rw [h]
    exact sameUnits_smMap (f := portTrimmed low) (fun _ => rfl) _
  ⟨rfl, rfl, rfl, rfl, hp⟩

end Sys2Proof.Machine
end

section
/-! CERTIFICATE. `CTX_ARM`, `CTX_PAUSE`, `CTX_RESUME`, `CTX_SAVE` and `CTX_RESTORE` (R241, R244), but for the advance of
a key. -/

namespace Sys2Proof.Machine

open Sys2Proof.Safety

set_option Elab.async false

/-! ## What contexts keep -/

section Keeps

variable {α : Type} {k : CtxSt → α}

/-- From s to t every context keeps `k`. -/
def keepsCtx (k : CtxSt → α) (s t : State) : Prop := ∀ x, (ctxOf t x).map k = (ctxOf s x).map k

theorem keepsCtx.refl (s : State) : keepsCtx k s s := fun _ => rfl

theorem keepsCtx.trans {s t u : State} (h : keepsCtx k s t) (g : keepsCtx k t u) : keepsCtx k s u :=
  fun x => (g x).trans (h x)

theorem keepsCtx_of_sameCtxs {s t : State} (h : sameCtxs s t) (hk : ∀ c, k (ctxKey c) = k c) : keepsCtx k s t := fun x => by
  cases hs : ctxOf s x with
  | none =>
    have := h x
    rw [hs, Option.map_none, Option.map_eq_none_iff] at this
    rw [this]
  | some c =>
    obtain ⟨d, hd, he⟩ := h.some hs
    rw [hd, Option.map_some, Option.map_some, ← hk d, ← hk c, he]

theorem keepsCtx_of_frame {ps : List Part} {s t : State} (h : onlyChanges ps s t) (hm : .ctxs ∉ ps := by decide) :
    keepsCtx k s t := fun x => by rw [h.ctxOf_eq x hm]

theorem keepsCtx_setCtx {s : State} {x : Nat} {c d : CtxSt} (hc : ctxOf s x = some c) (h : k d = k c) :
    keepsCtx k s (setCtx x (some d) s) := fun y => by
  by_cases hy : y = x
  · subst hy
    rw [ctxOf_setCtx_same, hc, Option.map_some, Option.map_some, h]
  · rw [ctxOf_setCtx_other _ _ _ _ hy]

theorem keepsCtx.onCtx {s t : State} (h : keepsCtx k s t) (x : Nat) (f : CtxSt → CtxSt) (hf : ∀ c, k (f c) = k c) :
    keepsCtx k s (onCtx x f t) := by
  unfold Machine.onCtx
  split
  · rename_i c hc
    exact h.trans (keepsCtx_setCtx hc (hf c))
  · exact h

theorem keepsCtx.giveRec {s t : State} (h : keepsCtx k s t) (x : Nat) (r : Rec) (hk : ∀ c, k (ctxKey c) = k c) :
    keepsCtx k s (giveRec x r t) := h.trans (keepsCtx_of_sameCtxs ((sameCtxs.refl t).giveRec x r) hk)

theorem keepsCtx.some {s t : State} (h : keepsCtx k s t) {x : Nat} {c d : CtxSt} (hc : ctxOf s x = some c)
    (hd : ctxOf t x = some d) : k d = k c := by
  have := h x
  rw [hc, hd] at this
  exact Option.some.inj this

end Keeps

/-- No key advances where contexts keep their SEQ. -/
theorem seqWrapped_of_keeps {s t : State} (h : keepsCtx (·.seq) s t) : seqWrapped s t = t :=
  seqWrapped_of fun x c d hc hd hn => by
    have : d.seq = c.seq := h.some hc hd
    omega

/-! ## Dumps end -/

/-- What the end of dumps leaves: registers outside Boxwood's block, and contexts but for their held records. -/
def dumpsEnd (s t : State) : Prop :=
  onlyChanges [.ctxs, .wat, .evq, .obsRegs] s t ∧ sameCtxs s t ∧ ∀ a, blockOf a ≠ 7 → reg t a = reg s a

theorem dumpsEnd.refl (s : State) : dumpsEnd s s := ⟨.refl _ s, .refl s, fun _ _ => rfl⟩

theorem dumpsEnd_finishDump {s t : State} (h : dumpsEnd s t) (d : Dump) (g : Nat) : dumpsEnd s (finishDump d g t) := by
  obtain ⟨hf, hc, hr⟩ := h
  refine ⟨onlyChanges_finishDump hf d g, ?_, fun a ha => ?_⟩
  · unfold finishDump
    have h1 := ((hc.giveRec d.ctx ⟨g, .watchEnd d.watch d.seq d.status d.irreg (d.source == 0) d.faults d.bytesOut⟩).frame
      ((onlyChanges.refl [.wat] _).onWat (fun w => { w with
        dumps := delFirst (fun x => x.id == d.id) w.dumps
        xlt := w.xlt.map fun x => if x.dump = d.id then { x with dead := true } else x })))
    have h2 := h1.frame ((onlyChanges.refl [.evq, .obsRegs] _).push 0 0x42 d.part d.watch (BitVec.ofNat 32 d.status) g)
    dsimp only
    split
    · exact h2
    · exact .ite _ h2 (.ite _ (h2.frame ((onlyChanges.refl [.wat] _).setWatch _ _))
        (h2.frame ((onlyChanges.refl [.wat] _).setWatch _ _)))
  · rw [← hr a ha]
    have h1 : reg (giveRec d.ctx ⟨g, .watchEnd d.watch d.seq d.status d.irreg (d.source == 0) d.faults d.bytesOut⟩ t) a =
      reg t a := ((onlyChanges.refl [.ctxs] t).giveRec _ _).reg_eq a (by unfold regPart; split <;> decide)
    have hw (u : State) (v : Nat) (w : Option Watch) : reg (setWatch v w u) a = reg u a :=
      ((onlyChanges.refl [.wat] u).setWatch v w).reg_eq a (by unfold regPart; split <;> decide)
    rw [← h1]
    unfold finishDump
    dsimp only
    split
    · rw [reg_push_other ha (by decide : (kindCls 0x42).1 < 8)]
      rfl
    · split
      · rw [reg_push_other ha (by decide : (kindCls 0x42).1 < 8)]
        rfl
      · split
        · rw [hw, reg_push_other ha (by decide : (kindCls 0x42).1 < 8)]
          rfl
        · rw [hw, reg_push_other ha (by decide : (kindCls 0x42).1 < 8)]
          rfl

theorem dumpsEnd_endDump {s t : State} (h : dumpsEnd s t) (id st g : Nat) : dumpsEnd s (endDump id st g t) := by
  unfold endDump
  split
  · exact dumpsEnd_finishDump h _ _
  · exact h

theorem dumpsEnd_endDumps {s t : State} (h : dumpsEnd s t) (p : Dump → Bool) (st g : Nat) :
    dumpsEnd s (endDumps p st g t) := by
  unfold endDumps
  generalize t.obs.wat.dumps.filter p = l
  induction l generalizing t with
  | nil => exact h
  | cons d l ih =>
    exact ih (dumpsEnd_endDump h d.id st g)

/-! ## Records join a hold -/

theorem mem_holdRec (r : Rec) (l : List Rec) : r ∈ holdRec r l := mem_insertBy _ _ _

theorem mem_holdRec_of_mem {q : Rec} {l : List Rec} (h : q ∈ l) (r : Rec) : q ∈ holdRec r l := by
  obtain ⟨a, b, hl, hi, -, -⟩ := insertBy_splits (fun y x : Rec => decide (x.stamp < y.stamp) ||
    (x.stamp == y.stamp && decide (recRank x.body < recRank y.body))) r l
  unfold holdRec
  rw [hi]
  rw [hl] at h
  simp only [List.mem_append, List.mem_cons] at h ⊢
  exact Or.imp Or.inl id h

theorem giveRec_some {s : State} {x : Nat} {c : CtxSt} (hc : ctxOf s x = some c) (r : Rec) :
    giveRec x r s = setCtx x (some { c with hold := holdRec r c.hold }) s := onCtx_some _ hc

theorem ctxOf_giveRec {s : State} {x : Nat} {c : CtxSt} (hc : ctxOf s x = some c) (r : Rec) :
    ctxOf (giveRec x r s) x = some { c with hold := holdRec r c.hold } := by
  rw [giveRec_some hc, ctxOf_setCtx_same]

theorem ctxOf_onCtx {s : State} {x : Nat} {c : CtxSt} (hc : ctxOf s x = some c) (f : CtxSt → CtxSt) :
    ctxOf (onCtx x f s) x = some (f c) := by
  rw [onCtx_some _ hc, ctxOf_setCtx_same]

/-- A record that no consent guards is taken by a context that is offered its stamp. -/
theorem offerRec_taken {s : State} {x : Nat} {c : CtxSt} {r : Rec} (hc : ctxOf s x = some c)
    (ho : offeredAt c r.stamp = true) (ha : recConsent r.body = none) : offerRec x r s = giveRec x r s := by
  unfold offerRec
  rw [hc]
  refine if_pos ?_
  rw [ho]
  unfold admitted
  rw [ha]
  rfl

/-- A span that begins at a GT offers that GT. -/
theorem offeredAt_open (t : Nat) (c : CtxSt) (l : List (Nat × Option Nat)) (h : c.spans = (t, none) :: l) :
    offeredAt c t = true := by
  unfold offeredAt
  rw [h]
  simp

/-! ## The opcodes -/

theorem withCtx_acts {ok : CtxState → Bool} {f : CtxSt → Nat → Held → State → State} {r : Nat} {h : Held} {c : CtxSt}
    {s : State} (hc : ctxOf s (dCtx h) = some c) (hok : ok c.state = true) : withCtx ok f r h s = f c r h s := by
  unfold withCtx
  rw [hc]
  exact if_pos hok

theorem kept_of_ctxKey {c d : CtxSt} (h : ctxKey d = ctxKey c) : d.spans = c.spans ∧ d.seq = c.seq ∧ d.state = c.state ∧
    d.waiters = c.waiters ∧ d.pauseStamp = c.pauseStamp := by
  have h1 : (ctxKey d).spans = (ctxKey c).spans := by rw [h]
  have h2 : (ctxKey d).seq = (ctxKey c).seq := by rw [h]
  have h3 : (ctxKey d).state = (ctxKey c).state := by rw [h]
  have h4 : (ctxKey d).waiters = (ctxKey c).waiters := by rw [h]
  have h5 : (ctxKey d).pauseStamp = (ctxKey c).pauseStamp := by rw [h]
  exact ⟨h1, h2, h3, h4, h5⟩

theorem spans_closeSpan {c d : CtxSt} (h : d.spans = c.spans) (g : Nat) :
    (closeSpan g d).spans = (closeSpan g c).spans := by
  unfold closeSpan
  dsimp only
  rw [h]

/-- A context paused at GT g. -/
def pausedCtx (g : Nat) (c : CtxSt) : CtxSt := { closeSpan g c with
  state := .paused
  pauseStamp := g }

/-- A context that knows the command whose PAUSE record closes its frame. -/
def pausedBy (r seq : Nat) (c : CtxSt) : CtxSt := { c with pauseBy := some (r, seq) }

/-- A context whose save begins at GT g. -/
def spanEnded (g : Nat) (c : CtxSt) : CtxSt := { closeSpan g c with pauseStamp := g }

/-- One more command waits for the context's last frame. -/
def waitedBy (r seq : Nat) (c : CtxSt) : CtxSt := { c with waiters := c.waiters ++ [(r, seq)] }

/-- A context saved at GT g. -/
def savedCtx (g : Nat) (c : CtxSt) : CtxSt := { closeSpan g c with
  state := .saved
  resident := false
  spillAddr := 0 }

/-- The dumps of the command's context have ended. -/
def dumpsEnded (h : Held) (s : State) : State := endDumps (fun d => d.ctx == dCtx h) 3 (engGt s) s

theorem dumpsEnd_dumpsEnded (h : Held) (s : State) : dumpsEnd s (dumpsEnded h s) := dumpsEnd_endDumps (.refl s) _ _ _

/-- From a machine whose dumps have ended, the context is paused at GT g and its PAUSE record held. -/
def pausedAt (r : Nat) (h : Held) (g : Nat) (u : State) : State :=
  giveRec (dCtx h) ⟨g, .pause 0⟩ (onCtx (dCtx h) (pausedBy r h.seq) (onCtx (dCtx h) (pausedCtx g) u))

theorem pauseCtx_acts {r : Nat} {h : Held} {c : CtxSt} (hn : c.closing = none) (s : State) :
    pauseCtx c r h s = complete r h stOk 0 (pausedAt r h (engGt s) (dumpsEnded h s)) := by
  unfold pauseCtx
  dsimp only
  rw [if_neg (by simp [hn])]
  exact finish_ok _ _ (by decide) _ _

theorem onlyChanges_pausedAt (r : Nat) (h : Held) (g : Nat) (u : State) : onlyChanges [.ctxs] u (pausedAt r h g u) :=
  (((onlyChanges.refl _ u).onCtx _ _).onCtx _ _).giveRec _ _

theorem keepsSeq_pausedAt (r : Nat) (h : Held) (g : Nat) (u : State) : keepsCtx (·.seq) u (pausedAt r h g u) :=
  (((keepsCtx.refl u).onCtx _ (pausedCtx g) fun _ => rfl).onCtx _ (pausedBy r h.seq) fun _ => rfl).giveRec _ _ fun _ => rfl

theorem ctxOf_pausedAt {r g : Nat} {h : Held} {c : CtxSt} {u : State} (hc : ctxOf u (dCtx h) = some c) :
    ctxOf (pausedAt r h g u) (dCtx h) = some { pausedBy r h.seq (pausedCtx g c) with
      hold := holdRec ⟨g, .pause 0⟩ (pausedBy r h.seq (pausedCtx g c)).hold } :=
  ctxOf_giveRec (ctxOf_onCtx (ctxOf_onCtx hc _) _) _

theorem ctxPause_completes (r : Nat) (h : Held) (c : CtxSt) (s : State) (ha : atFrontOf 0x13 r h s)
    (hb : reservedBad h = false) (hc : ctxOf s (dCtx h) = some c) (hst : c.state = .armed) (hn : c.closing = none) :
    ∃ t d, goesTo (.ctxPause r) s t ∧ onlyChanges [.smp, .cmd, .ctxs, .wat, .evq, .obsRegs] s t ∧
      completes r h stOk 0 s t ∧ ctxOf t (dCtx h) = some d ∧ d.state = .paused ∧ d.pauseStamp = engGt s ∧
      ⟨engGt s, .pause 0⟩ ∈ d.hold ∧ d.pauseBy = some (r, h.seq) ∧ d.spans = (closeSpan (engGt s) c).spans ∧
      d.seq = c.seq := by
  have e : checked (withCtx (· == .armed) pauseCtx) r h s =
      complete r h stOk 0 (pausedAt r h (engGt s) (dumpsEnded h s)) := by
    rw [checked_passes hb, withCtx_acts hc (by simp [hst]), pauseCtx_acts hn]
  obtain ⟨hf, hcx, hreg⟩ := dumpsEnd_dumpsEnded h s
  generalize dumpsEnded h s = u at hf hcx hreg e
  obtain ⟨c1, hc1, hk⟩ := hcx.some hc
  obtain ⟨hsp, hsq, -, -, -⟩ := kept_of_ctxKey hk
  have hfr := onlyChanges_pausedAt r h (engGt s) u
  have hd := ctxOf_pausedAt (r := r) (g := engGt s) hc1
  have hkp := (keepsCtx_of_sameCtxs hcx (k := (·.seq)) fun _ => rfl).trans (keepsSeq_pausedAt r h (engGt s) u)
  generalize pausedAt r h (engGt s) u = t at e hfr hd hkp
  have hring : reg t (aRing r) = reg s (aRing r) :=
    (hfr.reg_eq _ (by unfold regPart; split <;> decide)).trans
      (hreg _ (by rw [blockOf_aRing (ringPart_of_frontOf ha.2.1)]; decide))
  have hst' := hf.trans (hfr.mono (by decide))
  obtain ⟨hg, hq⟩ := goesTo_front_completes (i := .ctxPause r) (p := fun h => opOf h == 0x13) rfl ha
    (by simp [ha.2.2.1]) e (ringAgrees_of_regs hst' r hring)
    (seqWrapped_of_keeps (hkp.trans (keepsCtx_of_frame (onlyChanges_complete _ _ _ _ _))))
  exact ⟨_, _, hg, (hst'.mono (by decide)).complete _ _ _ _, hq, (ctxOf_complete _ _ _ _ _ _).trans hd, rfl, rfl,
    mem_holdRec _ _, rfl, spans_closeSpan hsp _, hsq⟩

/-- A context whose records are offered again from GT g on. -/
def resumedCtx (g : Nat) (c : CtxSt) : CtxSt := { openSpan g c with state := .armed }

theorem resumeCtx_acts {r : Nat} {h : Held} {c : CtxSt} {s : State} (hc : ctxOf s (dCtx h) = some c)
    (hn : c.closing = none) :
    ∃ t, resumeCtx c r h s = complete r h stOk 0 t ∧ onlyChanges [.ctxs] s t ∧ ctxOf t (dCtx h) = some { c with
      state := .armed
      spans := (engGt s, none) :: c.spans
      hold := holdRec ⟨engGt s, .resume 0 c.pauseStamp⟩ c.hold } ∧ ∀ y, y ≠ dCtx h → ctxOf t y = ctxOf s y := by
  have hop : openSpan (engGt s) c = { c with spans := (engGt s, none) :: c.spans } := by
    unfold openSpan
    rw [if_neg (by simp [hn])]
  have h1 : ctxOf (onCtx (dCtx h) (resumedCtx (engGt s)) s) (dCtx h) =
      some { c with
        spans := (engGt s, none) :: c.spans
        state := .armed } := by
    rw [ctxOf_onCtx hc, resumedCtx, hop]
  refine ⟨giveRec (dCtx h) ⟨engGt s, .resume 0 c.pauseStamp⟩
    (onCtx (dCtx h) (resumedCtx (engGt s)) s), ?_,
    ((onlyChanges.refl _ s).onCtx _ _).giveRec _ _, ?_, fun y hy => ?_⟩
  · have ht := offerRec_taken (r := ⟨engGt s, .resume 0 c.pauseStamp⟩) h1
      (offeredAt_open (engGt s) _ c.spans rfl) (by rfl)
    exact (congrArg (finish r h stOk 0 false) ht).trans (finish_ok _ _ (by decide) _ _)
  · exact ctxOf_giveRec h1 _
  · rw [giveRec_some h1, ctxOf_setCtx_other _ _ _ _ hy, onCtx_some _ hc, ctxOf_setCtx_other _ _ _ _ hy]

theorem ctxResume_completes (r : Nat) (h : Held) (c : CtxSt) (s : State) (ha : atFrontOf 0x14 r h s)
    (hb : reservedBad h = false) (hc : ctxOf s (dCtx h) = some c) (hst : c.state = .paused) (hn : c.closing = none) :
    ∃ t, goesTo (.ctxResume r) s t ∧ onlyChanges [.smp, .cmd, .ctxs] s t ∧ completes r h stOk 0 s t ∧
      ctxOf t (dCtx h) = some { c with
        state := .armed, spans := (engGt s, none) :: c.spans, hold := holdRec ⟨engGt s, .resume 0 c.pauseStamp⟩ c.hold } ∧
      ∀ y, y ≠ dCtx h → ctxOf t y = ctxOf s y := by
  obtain ⟨t, e, hf, hd, ho⟩ := resumeCtx_acts (r := r) hc hn
  have e' : checked (withCtx (· == .paused) resumeCtx) r h s = complete r h stOk 0 t := by
    rw [checked_passes hb, withCtx_acts hc (by simp [hst]), e]
  have hk : keepsCtx (·.seq) s t := fun x => by
    by_cases hx : x = dCtx h
    · rw [hx, hd, hc]
      rfl
    · rw [ho x hx]
  obtain ⟨hg, hq⟩ := goesTo_front_completes (i := .ctxResume r) (p := fun h => opOf h == 0x14) rfl ha
    (by simp [ha.2.2.1]) e' (ringAgrees_of_frame hf r (by rw [hf.cmd_eq]))
    (seqWrapped_of_keeps (hk.trans (keepsCtx_of_frame (onlyChanges_complete _ _ _ _ _))))
  exact ⟨_, hg, (hf.mono (by decide)).complete _ _ _ _, hq, hd, ho⟩

/-- A save begins at GT t: the records it needs are held, and it waits for the last frame. -/
def savingAt (r : Nat) (h : Held) (armed : Bool) (g : Nat) (u : State) : State :=
  giveRec (dCtx h) ⟨g, .digest false false false 0 0 0⟩ (onCtx (dCtx h)
    (waitedBy r h.seq) (if armed then
      giveRec (dCtx h) ⟨g, .pause 1⟩ (onCtx (dCtx h) (spanEnded g) u) else u))

theorem saveCtx_acts {r : Nat} {h : Held} {c : CtxSt} {s : State} (hp : canPark s r h = true) (hn : c.closing = none)
    (hs : saving s (dCtx h) = false) :
    saveCtx c r h s = park r h (.ctxFrame false) (savingAt r h (decide (c.state = .armed)) (engGt s) (dumpsEnded h s)) := by
  unfold saveCtx savingAt
  dsimp only
  rw [if_neg (by simp [hp]), if_neg (by simp [hn, hs])]
  by_cases ha : c.state = .armed
  · rw [if_pos ha, if_pos (by simp [ha])]
    rfl
  · rw [if_neg ha, if_neg (by simp [ha])]
    rfl

theorem onlyChanges_savingAt (r : Nat) (h : Held) (a : Bool) (g : Nat) (u : State) :
    onlyChanges [.ctxs] u (savingAt r h a g u) := by
  have h0 := onlyChanges.refl [.ctxs] u
  exact ((onlyChanges.ite _ ((h0.onCtx _ _).giveRec _ _) h0).onCtx _ _).giveRec _ _

theorem keepsSeq_savingAt (r : Nat) (h : Held) (a : Bool) (g : Nat) (u : State) :
    keepsCtx (·.seq) u (savingAt r h a g u) := by
  have h0 := keepsCtx.refl (k := CtxSt.seq) u
  have h1 : keepsCtx (·.seq) u (if a then
      giveRec (dCtx h) ⟨g, .pause 1⟩ (onCtx (dCtx h) (spanEnded g) u) else u) := by
    split
    · exact (h0.onCtx _ (spanEnded g) fun _ => rfl).giveRec _ _ fun _ => rfl
    · exact h0
  exact (h1.onCtx _ (waitedBy r h.seq) fun _ => rfl).giveRec _ _ fun _ => rfl

theorem ctxOf_savingAt {r g : Nat} {h : Held} {c : CtxSt} {u : State} (hc : ctxOf u (dCtx h) = some c) (a : Bool) :
    ∃ d, ctxOf (savingAt r h a g u) (dCtx h) = some d ∧ d.state = c.state ∧ d.waiters = c.waiters ++ [(r, h.seq)] ∧
      ⟨g, .digest false false false 0 0 0⟩ ∈ d.hold ∧ (a = true → ⟨g, .pause 1⟩ ∈ d.hold ∧ d.pauseStamp = g) ∧
      (a = false → d.pauseStamp = c.pauseStamp) := by
  cases a with
  | true =>
    have h1 := ctxOf_giveRec (ctxOf_onCtx hc (spanEnded g)) ⟨g, .pause 1⟩
    have h2 := ctxOf_giveRec (ctxOf_onCtx h1 (waitedBy r h.seq))
      ⟨g, .digest false false false 0 0 0⟩
    exact ⟨_, h2, rfl, rfl, mem_holdRec _ _, fun _ => ⟨mem_holdRec_of_mem (mem_holdRec _ _) _, rfl⟩,
      fun hn => Bool.noConfusion hn⟩
  | false =>
    have h2 := ctxOf_giveRec (ctxOf_onCtx hc (waitedBy r h.seq))
      ⟨g, .digest false false false 0 0 0⟩
    exact ⟨_, h2, rfl, rfl, mem_holdRec _ _, fun hn => Bool.noConfusion hn, fun _ => rfl⟩

theorem ctxSave_parks (r : Nat) (h : Held) (c : CtxSt) (s : State) (ha : atFrontOf 0x15 r h s)
    (hb : reservedBad h = false) (hc : ctxOf s (dCtx h) = some c) (hst : c.state = .armed ∨ c.state = .paused)
    (hn : c.closing = none) (hs : saving s (dCtx h) = false) (hp : canPark s r h = true) :
    ∃ t d, goesTo (.ctxSave r) s t ∧ onlyChanges [.cmd, .ctxs, .wat, .evq, .obsRegs] s t ∧
      parks r h (.ctxFrame false) s t ∧ ctxOf t (dCtx h) = some d ∧ d.state = c.state ∧
      d.waiters = c.waiters ++ [(r, h.seq)] ∧ ⟨engGt s, .digest false false false 0 0 0⟩ ∈ d.hold ∧
      (c.state = .armed → ⟨engGt s, .pause 1⟩ ∈ d.hold ∧ d.pauseStamp = engGt s) ∧
      (c.state = .paused → d.pauseStamp = c.pauseStamp) := by
  have e : checked (withCtx (fun q => q == .armed || q == .paused) saveCtx) r h s = park r h (.ctxFrame false)
      (savingAt r h (decide (c.state = .armed)) (engGt s) (dumpsEnded h s)) := by
    rw [checked_passes hb, withCtx_acts hc (by rcases hst with h | h <;> simp [h]), saveCtx_acts hp hn hs]
  obtain ⟨hf, hcx, -⟩ := dumpsEnd_dumpsEnded h s
  generalize dumpsEnded h s = u at e hf hcx
  obtain ⟨c1, hc1, hk⟩ := hcx.some hc
  obtain ⟨-, -, hs1, hw1, hp1⟩ := kept_of_ctxKey hk
  obtain ⟨d, hd, d1, d2, d3, d4, d5⟩ := ctxOf_savingAt (r := r) (g := engGt s) hc1 (decide (c.state = .armed))
  have hfr := hf.trans ((onlyChanges_savingAt r h (decide (c.state = .armed)) (engGt s) u).mono (by decide))
  have hkp := (keepsCtx_of_sameCtxs hcx (k := (·.seq)) fun _ => rfl).trans
    (keepsSeq_savingAt r h (decide (c.state = .armed)) (engGt s) u)
  generalize savingAt r h (decide (c.state = .armed)) (engGt s) u = t at e hd hfr hkp
  have hg := goesTo_execOp (i := .ctxSave r) rfl ha (by
    rw [e]
    exact seqWrapped_of_keeps (hkp.trans (keepsCtx_of_frame (onlyChanges_park (.refl [.cmd] t) r h _))))
  rw [e] at hg
  have hd' : ctxOf (park r h (.ctxFrame false) t) (dCtx h) = some d := hd
  refine ⟨_, d, hg, onlyChanges_park (hfr.mono (by decide)) _ _ _, parks_park ha.2.1 (by rw [hfr.cmd_eq]) _, hd',
    d1.trans hs1, by rw [d2, hw1], d3, fun h1 => d4 (by simp [h1]), fun h1 => ?_⟩
  rw [d5 (by simp [h1]), hp1]

theorem onlyChanges_releaseSels (x : Nat) (s : State) : onlyChanges [.hed] s (releaseSels x s) :=
  (onlyChanges.refl _ s).foldl (fun _ _ h => .ite _ (h.onUnit _ _) h) _

theorem engSkew_releaseSels (x : Nat) (s : State) : (releaseSels x s).obs.hed.engSkew = s.obs.hed.engSkew := by
  have fold (l : List (Nat × UnitSt)) (t : State) (h : t.obs.hed.engSkew = s.obs.hed.engSkew) :
      (l.foldl (fun acc e => if e.2.sels.any (fun q => match q.2 with | some z => z.ctx == x | none => false)
        then onUnit e.1 (fun u => { u with
          sels := u.sels.filter fun q => match q.2 with | some z => z.ctx != x | none => true }) acc
        else acc) t).obs.hed.engSkew = s.obs.hed.engSkew := by
    induction l generalizing t with
    | nil => exact h
    | cons e l ih =>
      rw [List.foldl_cons]
      refine ih _ ?_
      split
      · exact h
      · exact h
  exact fold s.obs.hed.units s rfl

/-- A save whose image is written. -/
def savedAt (h : Held) (s : State) : State :=
  releaseSels (dCtx h) (onCtx (dCtx h) (savedCtx (engGt s)) s)

theorem endSave_acts {r units : Nat} {h : Held} {c : CtxSt} {s : State} (hc : ctxOf s (dCtx h) = some c)
    (hs : c.state ≠ .saved) : endSave units false r h s = complete r h stOk (lo32 units) (savedAt h s) := by
  unfold endSave
  dsimp only
  rw [hc]
  dsimp only
  rw [if_neg hs, if_neg (by simp)]
  exact finish_ok _ _ (by decide) _ _

theorem ctxSave_ends (r units : Nat) (h : Held) (c : CtxSt) (s : State) (hw : waits r h s) (ho : opOf h = 0x15)
    (hst : h.stage = .output units 0 false false) (hc : ctxOf s (dCtx h) = some c) (hs : c.state ≠ .saved) :
    ∃ t d, goesTo (.parkedCommandComplete r h.seq) s t ∧ onlyChanges [.smp, .cmd, .ctxs, .hed] s t ∧
      ends r h stOk (lo32 units) s t ∧ ctxOf t (dCtx h) = some d ∧ d.state = .saved ∧ d.resident = false ∧
      d.spans = (closeSpan (engGt s) c).spans ∧ ∀ y, y ≠ dCtx h → ctxOf t y = ctxOf s y := by
  have e : parkedNext r h s = complete r h stOk (lo32 units) (savedAt h s) := by
    unfold parkedNext
    rw [hst]
    dsimp only
    rw [if_pos rfl, outputDone, if_pos ho]
    exact endSave_acts hc hs
  have e' := (opParked_waits hw).trans e
  have h1 := (onlyChanges.refl [.ctxs] s).onCtx (dCtx h) (savedCtx (engGt s))
  have h2 := onlyChanges_releaseSels (dCtx h) (onCtx (dCtx h) (savedCtx (engGt s)) s)
  have hkp : keepsCtx (·.seq) s (savedAt h s) :=
    ((keepsCtx.refl s).onCtx (dCtx h) (savedCtx (engGt s)) fun _ => rfl).trans (keepsCtx_of_frame h2)
  have hfr : onlyChanges [.ctxs, .hed] s (savedAt h s) := (h1.mono (by decide)).trans (h2.mono (by decide))
  have hsk : (savedAt h s).obs.hed.engSkew = s.obs.hed.engSkew :=
    (engSkew_releaseSels _ _).trans (congrArg Hed.engSkew h1.hed_eq)
  have hd : ctxOf (savedAt h s) (dCtx h) = some (savedCtx (engGt s) c) := (h2.ctxOf_eq _).trans (ctxOf_onCtx hc _)
  have hdo (y : Nat) (hy : y ≠ dCtx h) : ctxOf (savedAt h s) y = ctxOf s y := by
    rw [savedAt, h2.ctxOf_eq, onCtx_some _ hc, ctxOf_setCtx_other _ _ _ _ hy]
  generalize savedAt h s = t at e' hkp hfr hsk hd hdo
  have hg := goesTo_inWriter (f := opParked r h.seq) (c := .parkedCommandComplete r h.seq) rfl hw.1
    (by rw [e']; exact seqWrapped_of_keeps (hkp.trans (keepsCtx_of_frame (onlyChanges_complete _ _ _ _ _))))
  rw [e'] at hg
  have hag : ringAgrees r s t := ⟨by rw [hfr.cmd_eq], hfr.reg_eq _ (by unfold regPart; split <;> decide), by
    rw [engGt, engGt, hsk, copyAt, copyAt, hfr.now_eq]⟩
  refine ⟨_, _, hg, (hfr.mono (by decide)).complete _ _ _ _, ends_complete hag _ _ _, hd, rfl, rfl, rfl, hdo⟩

theorem ctxRestore_asks (r g : Nat) (h : Held) (c : CtxSt) (s : State) (ha : atFrontOf 0x16 r h s)
    (hb : reservedBad h = false) (hc : ctxOf s (dCtx h) = some c) (hst : c.state = .saved) (hl : dLen h 6 ≤ 8192)
    (hg : readTag s g) (hp : isParked s r h = false) :
    ∃ t, goesTo (.ctxRestore r) s t ∧ onlyChanges [.smp, .cmd] s t ∧
      asks r h (dAddr h 3) (min (dLen h 5) (saveUnits 4096)) g s t ∧
      (ringOf t r).cur = some { h with stage := .read 0 [] } := by
  have e : checked (withCtx (· == .saved) doCtxRestore) r h s = onRing r (fun x => { dropHeld h.seq x with
      cur := some { h with stage := .read 0 [] } }) (asked r h (dAddr h 3) (min (dLen h 5) (saveUnits 4096)) g s) := by
    have hbuf : bufAt h 0 = (dAddr h 3, min (dLen h 5) (saveUnits 4096)) := by
      unfold bufAt
      rw [ha.2.2.1]
      rfl
    have hp' : isParked (asked r h (dAddr h 3) (min (dLen h 5) (saveUnits 4096)) g s) r h = false := hp
    rw [checked_passes hb, withCtx_acts hc (by simp [hst])]
    unfold doCtxRestore
    rw [if_neg (by omega), hbuf, beginRead_holds _ _ hg]
    unfold hold
    rw [hp', if_neg (by simp)]
  have hf : onlyChanges [.smp, .cmd] s (onRing r (fun x => { dropHeld h.seq x with
      cur := some { h with stage := .read 0 [] } }) (asked r h (dAddr h 3) (min (dLen h 5) (saveUnits 4096)) g s)) :=
    (onlyChanges_asked _ _ _ _ _ _).onRing _ _
  have hg' := goesTo_execOp (i := .ctxRestore r) rfl ha (by
    rw [e]
    exact seqWrapped_of_ctxs hf.ctxs_eq)
  rw [e] at hg'
  refine ⟨_, hg', hf, asks_asked r h _ _ g s, ?_⟩
  rw [ringOf_onRing_same]

end Sys2Proof.Machine
end

section
/-! SUPPORT. Job keys (R282): what an advance of a generation leaves of the contexts and of the newest generations. -/

namespace Sys2Proof.Machine

open Sys2Proof.Safety

set_option Elab.async false

/-! ## One key of a list -/

theorem find?_modFirst_same {α : Type} {p : α → Bool} {f : α → α} (hf : ∀ x, p x = true → p (f x) = true) {l : List α}
    {x : α} (h : l.find? p = some x) : (modFirst p f l).find? p = some (f x) := by
  induction l with
  | nil => cases h
  | cons y l ih =>
    unfold modFirst
    cases hy : p y with
    | true =>
      rw [List.find?_cons_of_pos hy] at h
      cases h
      rw [if_pos rfl, List.find?_cons_of_pos (hf _ hy)]
    | false =>
      rw [List.find?_cons_of_neg (by simp [hy])] at h
      rw [if_neg (by simp), List.find?_cons_of_neg (by simp [hy]), ih h]

theorem find?_modFirst_other {α : Type} {p q : α → Bool} {f : α → α} (h1 : ∀ x, p x = true → q x = false)
    (h2 : ∀ x, p x = true → q (f x) = false) (l : List α) : (modFirst p f l).find? q = l.find? q := by
  induction l with
  | nil => rfl
  | cons y l ih =>
    unfold modFirst
    cases hy : p y with
    | true => rw [if_pos rfl, List.find?_cons_of_neg (by simp [h2 y hy]), List.find?_cons_of_neg (by simp [h1 y hy])]
    | false =>
      rw [if_neg (by simp)]
      cases hq : q y with
      | true => rw [List.find?_cons_of_pos hq, List.find?_cons_of_pos hq]
      | false => rw [List.find?_cons_of_neg (by simp [hq]), List.find?_cons_of_neg (by simp [hq]), ih]

/-! ## Job keys -/

/-- A change of a job's key keeps whose it is. -/
def keepsJob (f : JobKey → JobKey) : Prop := ∀ k, (f k).part = k.part ∧ (f k).job = k.job

theorem keepsJob_setGens (dir : Nat) (g : List Gen) : keepsJob (setGens dir g) := fun k => by
  unfold setGens
  split <;> exact ⟨rfl, rfl⟩

theorem jobOf_onJob_same {p j : Nat} {f : JobKey → JobKey} (hf : keepsJob f) {k : JobKey} {s : State}
    (h : jobOf s p j = some k) : jobOf (onJob p j f s) p j = some (f k) :=
  find?_modFirst_same (fun x hx => by rw [(hf x).1, (hf x).2]; exact hx) h

theorem jobOf_onJob_other {p j q i : Nat} {f : JobKey → JobKey} (hf : keepsJob f) (hn : ¬ (q = p ∧ i = j)) (s : State) :
    jobOf (onJob p j f s) q i = jobOf s q i := by
  have hx (x : JobKey) (h : (x.part == p && x.job == j) = true) : (x.part == q && x.job == i) = false := by
    simp only [Bool.and_eq_true, beq_iff_eq] at h
    obtain ⟨rfl, rfl⟩ := h
    simp only [Bool.and_eq_false_iff, beq_eq_false_iff_ne]
    by_cases h1 : q = x.part
    · exact .inr fun h2 => hn ⟨h1, h2.symm⟩
    · exact .inl fun h2 => h1 h2.symm
  exact find?_modFirst_other hx (fun x h => by rw [(hf x).1, (hf x).2]; exact hx x h) _

theorem jobOf_of_keys {s t : State} (h : t.aon.keys = s.aon.keys) (p j : Nat) : jobOf t p j = jobOf s p j := by
  unfold jobOf
  rw [h]

theorem gensOf_setGens_same (dir : Nat) (l : List Gen) (k : JobKey) : gensOf (setGens dir l k) dir = l := by
  unfold gensOf setGens
  by_cases h : dir = 0
  · rw [if_pos h, if_pos h]
  · rw [if_neg h, if_neg h]

/-- Outbound and inbound are the two directions there are. -/
theorem gensOf_setGens_other {dir d : Nat} (h : ¬ (dir = 0 ↔ d = 0)) (l : List Gen) (k : JobKey) :
    gensOf (setGens dir l k) d = gensOf k d := by
  unfold gensOf setGens
  by_cases h0 : dir = 0
  · rw [if_pos h0, if_neg (fun hd => h ⟨fun _ => hd, fun _ => h0⟩), if_neg (fun hd => h ⟨fun _ => hd, fun _ => h0⟩)]
  · have hd : d = 0 := Decidable.byContradiction fun hd => h ⟨fun x => absurd x h0, fun x => absurd x hd⟩
    rw [if_neg h0, if_pos hd, if_pos hd]

/-- The newest generation of a job's direction. -/
def headGen (s : State) (p j dir : Nat) : Option Nat := (jobOf s p j).bind fun k => (gensOf k dir).head?.map (·.gen)

theorem headGen_of_keys {s t : State} (h : t.aon.keys = s.aon.keys) (p j dir : Nat) : headGen t p j dir = headGen s p j dir := by
  unfold headGen
  rw [jobOf_of_keys h]

/-! ## A generation is erased -/

/-- What is left once the older generation of a direction is gone: every newest generation and every context's key but
for its held records. -/
def keepsHeads (s t : State) : Prop := (∀ p j d, headGen t p j d = headGen s p j d) ∧ keepsCtx (·.state) s t

theorem keepsHeads.refl (s : State) : keepsHeads s s := ⟨fun _ _ _ => rfl, .refl s⟩

theorem keepsHeads.trans {s t u : State} (h : keepsHeads s t) (g : keepsHeads t u) : keepsHeads s u :=
  ⟨fun p j d => (g.1 p j d).trans (h.1 p j d), h.2.trans g.2⟩

theorem keepsHeads_of_frame {ps : List Part} {s t : State} (h : onlyChanges ps s t) (hk : .keys ∉ ps := by decide)
    (hc : .ctxs ∉ ps := by decide) : keepsHeads s t :=
  ⟨headGen_of_keys (h.keys_eq hk), keepsCtx_of_frame h hc⟩

theorem keepsHeads_of_keys {s t : State} (h : t.aon.keys = s.aon.keys) (hc : keepsCtx (·.state) s t) : keepsHeads s t :=
  ⟨headGen_of_keys h, hc⟩

theorem keepsHeads.foldl {α : Type} {f : State → α → State} (hf : ∀ s x, keepsHeads s (f s x)) (l : List α) (s : State) :
    keepsHeads s (l.foldl f s) := by
  induction l generalizing s with
  | nil => exact .refl s
  | cons x l ih => exact (hf s x).trans (ih _)

theorem head_setGens_newest (k : JobKey) (dir d : Nat) {a : Gen} {l : List Gen} (h : gensOf k dir = a :: l) :
    (gensOf (setGens dir [a] k) d).head?.map (·.gen) = (gensOf k d).head?.map (·.gen) := by
  by_cases hd : dir = 0 ↔ d = 0
  · have e (k : JobKey) : gensOf k d = gensOf k dir := by
      unfold gensOf
      by_cases h0 : dir = 0
      · rw [if_pos h0, if_pos (hd.mp h0)]
      · rw [if_neg h0, if_neg (fun x => h0 (hd.mpr x))]
    rw [e, e, gensOf_setGens_same, h]
    rfl
  · rw [gensOf_setGens_other hd]

theorem keepsHeads_onJob_newest {p j dir : Nat} {k : JobKey} {a : Gen} {l : List Gen} {s : State}
    (hk : jobOf s p j = some k) (hg : gensOf k dir = a :: l) : keepsHeads s (onJob p j (setGens dir [a]) s) := by
  refine ⟨fun q i d => ?_, keepsCtx_of_frame ((onlyChanges.refl [.keys] s).onKeys _)⟩
  unfold headGen
  by_cases h : q = p ∧ i = j
  · obtain ⟨rfl, rfl⟩ := h
    rw [jobOf_onJob_same (keepsJob_setGens _ _) hk, hk]
    exact head_setGens_newest k dir d hg
  · rw [jobOf_onJob_other (keepsJob_setGens _ _) h]

/-- The parked `KEY_ROTATE`s of a direction learn how its older generation ended. -/
def rotationsTold (p j dir : Nat) (clean : Bool) (s : State) : State :=
  onCmd (fun c => { c with rings := c.rings.map fun e => (e.1, { e.2 with parked := e.2.parked.map fun h =>
    match h.stage with
    | .rotate g st cl =>
      if fld (h.d.w.getD 0 0) 16 6 = p ∧ fld (h.d.w.getD 3 0) 0 8 = j ∧ fld (h.d.w.getD 3 0) 8 1 = dir ∧ st = 2 then
        { h with stage := .rotate g st (cl && clean) } else h
    | _ => h }) }) s

theorem eraseOlder_eq {by_ : Option (Nat × Nat)} {p j dir : Nat} {clean : Bool} {k : JobKey} {a b : Gen} {l : List Gen}
    {s : State} (hk : jobOf s p j = some k) (hg : gensOf k dir = a :: b :: l) :
    eraseOlder by_ p j dir clean s = rotationsTold p j dir clean (push 1 (mkItem 0x23 p j (BitVec.ofNat 32 a.gen)
      (engGt (if !clean && dir = 0 then dropUnder by_ p j b.gen (onJob p j (setGens dir [a]) s)
        else onJob p j (setGens dir [a]) s)))
      (if !clean && dir = 0 then dropUnder by_ p j b.gen (onJob p j (setGens dir [a]) s)
        else onJob p j (setGens dir [a]) s)) := by
  unfold eraseOlder
  rw [hk]
  dsimp only
  rw [hg]
  rfl

theorem eraseOlder_alone {by_ : Option (Nat × Nat)} {p j dir : Nat} {clean : Bool} {k : JobKey} {a : Gen} {s : State}
    (hk : jobOf s p j = some k) (hg : gensOf k dir = [a]) : eraseOlder by_ p j dir clean s = s := by
  unfold eraseOlder
  rw [hk]
  dsimp only
  rw [hg]

/-- An erasure whose frames are all acknowledged and read. -/
theorem keepsHeads_eraseOlder_clean (by_ : Option (Nat × Nat)) (p j dir : Nat) (s : State) :
    keepsHeads s (eraseOlder by_ p j dir true s) := by
  cases hk : jobOf s p j with
  | none =>
    unfold eraseOlder
    rw [hk]
    exact .refl s
  | some k =>
    match hg : gensOf k dir with
    | [] =>
      unfold eraseOlder
      rw [hk]
      dsimp only
      rw [hg]
      exact .refl s
    | [a] =>
      rw [eraseOlder_alone hk hg]
      exact .refl s
    | a :: b :: l =>
      rw [eraseOlder_eq hk hg, if_neg (by simp)]
      refine (keepsHeads_onJob_newest hk hg).trans ?_
      generalize onJob p j (setGens dir [a]) s = t
      have h := (onlyChanges.refl [.evq, .obsRegs, .cmd] t).push 1 0x23 p j (BitVec.ofNat 32 a.gen) (engGt t)
      exact keepsHeads_of_frame (h.onCmd _)

theorem keepsHeads_sweepGens (s : State) : keepsHeads s (sweepGens s) := by
  unfold sweepGens
  refine keepsHeads.foldl (fun t k => ?_) _ s
  split
  · split
    · exact .refl t
    · exact keepsHeads_eraseOlder_clean _ _ _ _ _
  · exact .refl t

/-! ## Frames are closed -/

section Frame

variable {ps : List Part} {s t : State} (h : onlyChanges ps s t)
include h

theorem onlyChanges_bumpAny (a lo n k : Nat) (ho : .obsRegs ∈ ps := by decide) (ha : .aonRegs ∈ ps := by decide) :
    onlyChanges ps s (bumpReg a lo n k t) :=
  h.bumpReg a lo n k (by unfold regPart; split <;> assumption)

theorem onlyChanges_egrRun (g : Link → Link) (he : .egr ∈ ps := by decide) : onlyChanges ps s (egrRun g t) := h.onEgr _ he

theorem onlyChanges_noteSent (f : Frame) (he : .egr ∈ ps := by decide) : onlyChanges ps s (noteSent f t) := h.onEgr _ he

theorem onlyChanges_egrPump (n : Nat) (he : .egr ∈ ps := by decide) : onlyChanges ps s (egrPump n t) := by
  induction n generalizing t with
  | zero => exact h
  | succ n ih =>
    unfold egrPump
    dsimp only
    split
    · split
      · exact ih (onlyChanges_egrRun ((onlyChanges.ite _ (onlyChanges_noteSent h _ he) h).onEgr _ he) _ he)
      · exact h
    · exact h

theorem onlyChanges_egrEnter (f : Frame) (b : List Byte) (o : Nat) (he : .egr ∈ ps := by decide)
    (hf : .fab ∈ ps := by decide) (ho : .obsRegs ∈ ps := by decide) : onlyChanges ps s (egrEnter f b o t) :=
  .ite _ (onlyChanges_egrPump (h.onEgr _ he) _ he)
    (.ite _ (onlyChanges_egrSkipped h ho) (h.fabSend _ _ _ _ hf))

theorem onlyChanges_fabFrame (f : Frame) (b : List Byte) (he : .egr ∈ ps := by decide) (hf : .fab ∈ ps := by decide)
    (hc : .cut ∈ ps := by decide) (ho : .obsRegs ∈ ps := by decide) : onlyChanges ps s (fabFrame f b t) := by
  unfold fabFrame
  exact .ite _ ((((h.onEgr _ he).onFab _ hf).onFab _ hf).countLink _ _ hc) (onlyChanges_egrSkipped h ho)

theorem onlyChanges_frameToEgress (f : Frame) (he : .egr ∈ ps := by decide) (hf : .fab ∈ ps := by decide)
    (hc : .cut ∈ ps := by decide) (ho : .obsRegs ∈ ps := by decide) : onlyChanges ps s (frameToEgress f t) := by
  unfold frameToEgress
  split
  · exact h
  · split
    · exact .ite _ (.ite _ (onlyChanges_egrEnter h _ _ _ he hf ho) (onlyChanges_fabFrame h _ _ he hf hc ho))
        (onlyChanges_egrSkipped h ho)
    · exact onlyChanges_egrSkipped h ho

theorem onlyChanges_frameOut (c : CtxSt) (clear : Bool) (f : Frame) (he : .egr ∈ ps := by decide)
    (hf : .fab ∈ ps := by decide) (hc : .cut ∈ ps := by decide) (ho : .obsRegs ∈ ps := by decide)
    (ha : .aonRegs ∈ ps := by decide) (hm : .smp ∈ ps := by decide) : onlyChanges ps s (frameOut c clear f t) := by
  have h1 : onlyChanges ps s (if clear then (if c.egr || c.host then egrSkipped t else t)
      else if c.egr then frameToEgress f t else t) :=
    .ite _ (.ite _ (onlyChanges_egrSkipped h ho) h) (.ite _ (onlyChanges_frameToEgress h f he hf hc ho) h)
  unfold frameOut
  dsimp only
  generalize (if clear then (if c.egr || c.host then egrSkipped t else t)
      else if c.egr then frameToEgress f t else t) = u at h1
  have h2 (b : Bool) : onlyChanges ps s (if c.host && !b then hbSkip c.part u else u) :=
    .ite _ (onlyChanges_bumpAny h1 _ _ _ _ ho ha) h1
  exact .ite _ ((h2 _).onSmp _ hm) (h2 _)

end Frame

/-- A closed frame leaves every key, and of its context all but the frame and its count. -/
theorem keepsHeads_closeFrame (x : Nat) (last : Bool) (w c : Option (Nat × Nat)) (s : State) :
    keepsHeads s (closeFrame x last w c s) := by
  cases hc : ctxOf s x with
  | none =>
    unfold closeFrame
    rw [hc]
    exact .refl s
  | some d =>
    cases hf : d.frame with
    | none =>
      unfold closeFrame
      rw [hc]
      dsimp only
      rw [hf]
      exact .refl s
    | some f =>
      rw [closeFrame_eq hc hf]
      have h := onlyChanges_frameOut (onlyChanges.refl [.egr, .fab, .cut, .obsRegs, .aonRegs, .smp]
        (setCtx x (some (frameClosed d)) s)) d (endEvt f).clear (closedFrame x last w c d f s)
      exact (keepsHeads_of_keys (s := s) (t := setCtx x (some (frameClosed d)) s) rfl (keepsCtx_setCtx hc rfl)).trans
        (keepsHeads_of_frame h)

/-! ## The advance -/

/-- The frames of a job's contexts are closed. -/
def framesClosed (by_ : Option (Nat × Nat)) (p j : Nat) (s : State) : State :=
  (jobCtxs s p j).foldl (fun a x => closeFrame x false none by_ a) s

theorem keepsHeads_framesClosed (by_ : Option (Nat × Nat)) (p j : Nat) (s : State) :
    keepsHeads s (framesClosed by_ p j s) := keepsHeads.foldl (fun _ _ => keepsHeads_closeFrame _ _ _ _ _) _ _

/-- The KEYGEN records of a job's contexts are offered. -/
def keygensOffered (p j dir g : Nat) (s : State) : State :=
  (jobCtxs s p j).foldl (fun a x => match ctxOf a x with
    | some c => offerRec x ⟨engGt a, .keygen j dir g (if dir = 0 then c.seq else 0)⟩ a
    | none => a) s

theorem keepsHeads_keygensOffered (p j dir g : Nat) (s : State) : keepsHeads s (keygensOffered p j dir g s) := by
  refine keepsHeads.foldl (fun t x => ?_) _ s
  split
  · have h := (onlyChanges.refl [.ctxs] t).offerRec x
    exact keepsHeads_of_keys ((h _).keys_eq) (keepsCtx_of_sameCtxs ((sameCtxs.refl t).offerRec x _) fun _ => rfl)
  · exact .refl t

/-- The generation that follows a job's newest one. -/
def nextGen (j dir : Nat) (cur : Gen) (since : Nat) : Gen :=
  ⟨(cur.gen + 1) % 4, Config.hkdf cur.key []
    ("WRN1-ROT".toUTF8.toList.map (fun c => BitVec.ofNat 8 c.toNat) ++ le 1 j ++ le 1 dir ++ le 1 ((cur.gen + 1) % 4)) 32,
    since, []⟩

/-- The frames that an advance closes: those of an outbound direction. -/
def dirClosed (by_ : Option (Nat × Nat)) (p j dir : Nat) (s : State) : State :=
  if dir = 0 then framesClosed by_ p j s else s

theorem keepsHeads_dirClosed (by_ : Option (Nat × Nat)) (p j dir : Nat) (s : State) :
    keepsHeads s (dirClosed by_ p j dir s) := by
  unfold dirClosed
  split
  · exact keepsHeads_framesClosed _ _ _ _
  · exact .refl s

theorem advanceGen_eq {by_ : Option (Nat × Nat)} {p j dir : Nat} {k : JobKey} {a : Gen} {l : List Gen} {s : State}
    (hk : jobOf s p j = some k) (hg : gensOf k dir = a :: l) :
    advanceGen by_ p j dir s = sweepGens (keygensOffered p j dir ((a.gen + 1) % 4)
      (onJob p j (fun k => setGens dir (nextGen j dir a (engGt (dirClosed by_ p j dir (eraseOlder by_ p j dir false s))) ::
        gensOf k dir) k) (dirClosed by_ p j dir (eraseOlder by_ p j dir false s)))) := by
  unfold advanceGen
  rw [hk]
  dsimp only
  rw [hg]
  rfl

theorem advanceGen_none {p j : Nat} {s : State} (h : jobOf s p j = none) (by_ : Option (Nat × Nat)) (dir : Nat) :
    advanceGen by_ p j dir s = s := by
  unfold advanceGen
  rw [h]

/-- An advance from a single generation: the newest is the next modulo 4, and contexts keep their states. -/
theorem advanceGen_alone {by_ : Option (Nat × Nat)} {p j dir : Nat} {k : JobKey} {a : Gen} {s : State}
    (hk : jobOf s p j = some k) (hg : gensOf k dir = [a]) :
    headGen (advanceGen by_ p j dir s) p j dir = some ((a.gen + 1) % 4) ∧
      keepsCtx (·.state) s (advanceGen by_ p j dir s) := by
  rw [advanceGen_eq hk hg, eraseOlder_alone hk hg]
  have h1 := keepsHeads_dirClosed by_ p j dir s
  generalize dirClosed by_ p j dir s = t at h1
  have hh : headGen t p j dir = some a.gen := by
    rw [h1.1, headGen, hk]
    simp [hg]
  obtain ⟨k', hk'⟩ : ∃ k', jobOf t p j = some k' := by
    unfold headGen at hh
    cases hj : jobOf t p j with
    | none => rw [hj] at hh; cases hh
    | some k' => exact ⟨k', rfl⟩
  generalize hf : (fun k => setGens dir (nextGen j dir a (engGt t) :: gensOf k dir) k) = f
  have hkf : keepsJob f := fun k => by rw [← hf]; exact keepsJob_setGens _ _ k
  have h2 : headGen (onJob p j f t) p j dir = some ((a.gen + 1) % 4) := by
    unfold headGen
    rw [jobOf_onJob_same hkf hk', ← hf]
    simp [gensOf_setGens_same, nextGen]
  have h3 : keepsCtx (·.state) t (onJob p j f t) := keepsCtx_of_frame ((onlyChanges.refl [.keys] t).onKeys _)
  have h4 := (keepsHeads_keygensOffered p j dir ((a.gen + 1) % 4) (onJob p j f t)).trans (keepsHeads_sweepGens _)
  exact ⟨(h4.1 _ _ _).trans h2, h1.2.trans (h3.trans h4.2)⟩

end Sys2Proof.Machine
end

section
/-! CERTIFICATE. `CTX_ARM` (R241, R282, R344). -/

namespace Sys2Proof.Machine

open Sys2Proof.Safety

set_option Elab.async false

/-- The engine's copy reads the same where the time and the copy's skew stand. -/
theorem engGt_of_skew {ps : List Part} {s t : State} (h : onlyChanges ps s t)
    (hs : t.obs.hed.engSkew = s.obs.hed.engSkew) (ht : .tb ∉ ps := by decide) : engGt t = engGt s := by
  rw [engGt, engGt, hs, copyAt, copyAt, h.now_eq ht]

/-- A context armed at GT g. -/
def armedCtx (g : Nat) (notime : Bool) (c : CtxSt) : CtxSt := { openSpan g c with
  state := .armed
  seq := 0
  first := true
  framesSinceArm := 0
  content := 0
  timing := 0
  ncanon := 0
  lossy := false
  notime := notime
  refStamp := g
  ordinals := []
  samples := []
  highest := 0
  epochNum := 0 }

/-- The sums of the context restart at the arm, and the cut is marked. -/
def armMarked (h : Held) (c : CtxSt) (s : State) : State :=
  addMark ⟨engGt s, some c.part, false, (zeroSels (dCtx h) c.part (engGt s) s).obs.cut.main⟩
    (zeroSels (dCtx h) c.part (engGt s) s)

/-- From the marked machine the context is armed at GT g. -/
def armSet (h : Held) (c : CtxSt) (g : Nat) (u : State) : State :=
  setCtx (dCtx h) (some (armedCtx g (!hasConsent u c.part 7) c)) u

/-- The fingerprint's record has been offered, and no SEQ of the context counts as sent. -/
def armOffered (h : Held) (c : CtxSt) (g : Nat) (u : State) : State :=
  onEgr (fun e => { e with sentSeqs := e.sentSeqs.filter fun q => q.ctx != dCtx h })
    (offerRec (dCtx h) (rfpRec u c.part 0 g) u)

/-- The machine in which the context is armed, but for its job's key. -/
def armedAt (h : Held) (c : CtxSt) (s : State) : State :=
  armOffered h c (engGt s) (armSet h c (engGt s) (armMarked h c s))

theorem armCtx_acts {r : Nat} {h : Held} {c : CtxSt} {s : State} (hr : (partOf s c.part).region.isSome = true) :
    armCtx c r h s = complete r h stOk 0 (advanceGen (some (r, h.seq)) c.part c.job 0 (armedAt h c s)) := by
  unfold armCtx
  dsimp only
  rw [if_neg (by simp [Option.isNone_iff_eq_none, Option.isSome_iff_ne_none.mp hr])]
  exact finish_ok _ _ (by decide) _ _

/-- What arming leaves, and the armed context. -/
theorem armedAt_spec {h : Held} {c : CtxSt} {s : State} (hn : c.closing = none) :
    onlyChanges [.cut, .hed, .ctxs, .egr] s (armedAt h c s) ∧ engGt (armedAt h c s) = engGt s ∧
      (∀ y, y ≠ dCtx h → ctxOf (armedAt h c s) y = ctxOf s y) ∧
      ∃ n, ctxOf (armedAt h c s) (dCtx h) = some { armedCtx (engGt s) n c with
        hold := holdRec (rfpRec s c.part 0 (engGt s)) c.hold } ∧ (armedCtx (engGt s) n c).spans = (engGt s, none) :: c.spans := by
  obtain ⟨z1, z2⟩ := zeroSels_keeps (dCtx h) c.part (engGt s) s
  have m1 : onlyChanges [.cut, .hed] s (armMarked h c s) := z1.trans (onlyChanges_addMark _ _)
  have m2 : sameMap s (armMarked h c s) := z2.trans (sameMap_addMark _ _)
  unfold armedAt
  generalize armMarked h c s = u at m1 m2
  have hsp (n : Bool) : (armedCtx (engGt s) n c).spans = (engGt s, none) :: c.spans := by
    have : (openSpan (engGt s) c).spans = (engGt s, none) :: c.spans := by
      unfold openSpan
      rw [if_neg (by simp [hn])]
    exact this
  have hh (n : Bool) : (armedCtx (engGt s) n c).hold = c.hold := by
    have : (openSpan (engGt s) c).hold = c.hold := by
      unfold openSpan
      rw [if_neg (by simp [hn])]
    exact this
  generalize hnt : (!hasConsent u c.part 7) = n
  have hset : armSet h c (engGt s) u = setCtx (dCtx h) (some (armedCtx (engGt s) n c)) u := by
    unfold armSet
    rw [hnt]
  have s1 : onlyChanges [.cut, .hed, .ctxs] s (armSet h c (engGt s) u) := by
    rw [hset]
    exact (m1.mono (by decide)).setCtx _ _
  have hrf : rfpRec (armSet h c (engGt s) u) c.part 0 (engGt s) = rfpRec s c.part 0 (engGt s) := by
    refine rfpRec_sameMap s1 (m2.trans ?_) _ _ _
    rw [hset]
    exact sameMap_of_frame ((onlyChanges.refl [.ctxs] u).setCtx _ _)
  have hx : ctxOf (armSet h c (engGt s) u) (dCtx h) = some (armedCtx (engGt s) n c) := by
    rw [hset, ctxOf_setCtx_same]
  have hoff : armOffered h c (engGt s) (armSet h c (engGt s) u) =
      onEgr (fun e => { e with sentSeqs := e.sentSeqs.filter fun q => q.ctx != dCtx h })
        (giveRec (dCtx h) (rfpRec s c.part 0 (engGt s)) (armSet h c (engGt s) u)) := by
    unfold armOffered
    rw [hrf, offerRec_taken hx (offeredAt_open (engGt s) _ c.spans (hsp n)) rfl]
  have hg := ctxOf_giveRec hx (rfpRec s c.part 0 (engGt s))
  have hego (y : Nat) (f : Egr → Egr) (v : State) : ctxOf (onEgr f v) y = ctxOf v y := rfl
  have hfr : onlyChanges [.cut, .hed, .ctxs, .egr] s (armOffered h c (engGt s) (armSet h c (engGt s) u)) := by
    rw [hoff]
    exact ((s1.mono (by decide)).giveRec _ _).onEgr _
  have hsk : (armOffered h c (engGt s) (armSet h c (engGt s) u)).obs.hed.engSkew = s.obs.hed.engSkew := by
    rw [← m2.2.2.2.1]
    have h1 : onlyChanges [.ctxs, .egr] u (armOffered h c (engGt s) (armSet h c (engGt s) u)) := by
      rw [hoff, hset]
      exact (((onlyChanges.refl _ u).setCtx _ _).giveRec _ _).onEgr _
    rw [h1.hed_eq]
  refine ⟨hfr, ?_, fun y hy => ?_, n, ?_, hsp n⟩
  · exact engGt_of_skew hfr hsk
  · rw [hoff, hego, giveRec_some hx, ctxOf_setCtx_other _ _ _ _ hy, hset, ctxOf_setCtx_other _ _ _ _ hy, m1.ctxOf_eq]
  · rw [hoff, hego, hg, hh]

theorem ctxArm_completes (r : Nat) (h : Held) (c : CtxSt) (s : State) (ha : atFrontOf 0x12 r h s)
    (hb : reservedBad h = false) (hc : ctxOf s (dCtx h) = some c) (hst : c.state = .opened) (hn : c.closing = none)
    (hr : (partOf s c.part).region.isSome = true) (hj : jobOf s c.part c.job = none) :
    ∃ t d, goesTo (.ctxArm r) s t ∧ onlyChanges [.smp, .cmd, .ctxs, .cut, .hed, .egr] s t ∧ completes r h stOk 0 s t ∧
      ctxOf t (dCtx h) = some d ∧ d.state = .armed ∧ d.seq = 0 ∧ d.first = true ∧ d.content = 0 ∧ d.timing = 0 ∧
      d.ncanon = 0 ∧ d.refStamp = engGt s ∧ d.spans = (engGt s, none) :: c.spans ∧
      rfpRec s c.part 0 (engGt s) ∈ d.hold ∧ ∀ y, y ≠ dCtx h → ctxOf t y = ctxOf s y := by
  obtain ⟨hf, hgt, ho, n, hd, hsp⟩ := armedAt_spec (h := h) (s := s) hn
  have e : checked (withCtx (· == .opened) armCtx) r h s = complete r h stOk 0 (armedAt h c s) := by
    have hj' : jobOf (armedAt h c s) c.part c.job = none := (jobOf_of_keys hf.keys_eq _ _).trans hj
    rw [checked_passes hb, withCtx_acts hc (by simp [hst]), armCtx_acts hr, advanceGen_none hj']
  generalize armedAt h c s = t at hf hgt ho hd e
  have hag : ringAgrees r s t := ⟨by rw [hf.cmd_eq], hf.reg_eq _ (by unfold regPart; split <;> decide), hgt⟩
  have hw : seqWrapped s (complete r h stOk 0 t) = complete r h stOk 0 t := by
    refine seqWrapped_of_armedAnew fun x c' d hc' hd' hx => ?_
    rw [ctxOf_complete] at hd'
    by_cases hy : x = dCtx h
    · subst hy
      rw [hc] at hc'
      rw [hd] at hd'
      obtain rfl := Option.some.inj hc'
      obtain rfl := Option.some.inj hd'
      have hnew : armedAnew c { armedCtx (engGt s) n c with hold := holdRec (rfpRec s c.part 0 (engGt s)) c.hold } = true := by
        unfold armedAnew
        rw [hst]
        rfl
      rw [hnew] at hx
      exact Bool.noConfusion hx.2.2
    · rw [ho x hy, hc'] at hd'
      obtain rfl := Option.some.inj hd'
      exact Nat.lt_irrefl _ hx.1
  obtain ⟨hg, hq⟩ := goesTo_front_completes (i := .ctxArm r) (p := fun h => opOf h == 0x12) rfl ha
    (by simp [ha.2.2.1]) e hag hw
  exact ⟨_, _, hg, (hf.mono (by decide)).complete _ _ _ _, hq, (ctxOf_complete _ _ _ _ _ _).trans hd, rfl, rfl, rfl, rfl,
    rfl, rfl, rfl, hsp, mem_holdRec _ _, fun y hy => (ctxOf_complete _ _ _ _ _ _).trans (ho y hy)⟩

theorem ctxArm_advances (r : Nat) (h : Held) (c : CtxSt) (k : JobKey) (g : Gen) (s : State) (ha : atFrontOf 0x12 r h s)
    (hb : reservedBad h = false) (hc : ctxOf s (dCtx h) = some c) (hst : c.state = .opened) (hn : c.closing = none)
    (hr : (partOf s c.part).region.isSome = true) (hj : jobOf s c.part c.job = some k) (hg : k.outb = [g]) (hnw : noWrap s) :
    ∃ t, goesTo (.ctxArm r) s t ∧ (ctxOf t (dCtx h)).map (·.state) = some .armed ∧
      (outGen t c.part c.job).map (·.gen) = some ((g.gen + 1) % 4) := by
  obtain ⟨hf, -, -, n, hd, -⟩ := armedAt_spec (h := h) (s := s) hn
  have e : checked (withCtx (· == .opened) armCtx) r h s =
      complete r h stOk 0 (advanceGen (some (r, h.seq)) c.part c.job 0 (armedAt h c s)) := by
    rw [checked_passes hb, withCtx_acts hc (by simp [hst]), armCtx_acts hr]
  obtain ⟨h1, h2⟩ := advanceGen_alone (by_ := some (r, h.seq)) (dir := 0)
    ((jobOf_of_keys hf.keys_eq _ _).trans hj) (a := g) hg
  generalize advanceGen (some (r, h.seq)) c.part c.job 0 (armedAt h c s) = t at e h1 h2
  have hgo := goesTo_execOp (i := .ctxArm r) rfl ha (seqWrapped_of_noWrap hnw _)
  rw [e] at hgo
  refine ⟨_, hgo, ?_, ?_⟩
  · rw [ctxOf_complete, h2, hd]
    rfl
  · rw [← h1]
    have hk : (complete r h stOk 0 t).aon.keys = t.aon.keys := (onlyChanges_complete _ _ _ _ _).keys_eq
    unfold outGen headGen
    rw [jobOf_of_keys hk]
    cases jobOf t c.part c.job with
    | none => rfl
    | some k => rfl

/-- Settles O47: each opcode changes its context alone, and an arm advances the key of the context's job. -/
theorem contextsArmAndSave : Obligations.ContextsArmAndSave :=
  ⟨ctxArm_completes, ctxArm_advances, ctxPause_completes, ctxResume_completes, ctxSave_parks, ctxSave_ends,
    ctxRestore_asks⟩

end Sys2Proof.Machine
end

section
/-! CERTIFICATE. Lens slots, lane groups, pairs and tap queues (R116, R118 to R121, R125, R128). -/

namespace Sys2Proof.Machine

open Sys2Proof.Safety

set_option Elab.async false

/-! ## Work on spilled slots -/

/-- With no work on spilled slots nothing of it goes on. -/
theorem spillPump_idle {s : State} (h : s.obs.lens.spill = []) (n : Nat) : spillPump n s = s := by
  cases n with
  | zero => rfl
  | succ n =>
    unfold spillPump
    rw [h]
    rfl

theorem spillNext_idle {s : State} (h : s.obs.lens.spill = []) : spillNext s = s := spillPump_idle h _

theorem slotOf_onLens {f : Lens → Lens} (h : ∀ l, (f l).slots = l.slots) (s : State) (k : Nat) :
    slotOf (onLens f s) k = slotOf s k := congrArg (fun m => smGet noneD m k) (h s.obs.lens)

theorem slotOf_onSlot_other (k : Nat) (f : Slot → Slot) (s : State) {y : Nat} (h : y ≠ k) :
    slotOf (onSlot k f s) y = slotOf s y := by
  unfold onSlot
  split
  · exact slotOf_setSlot_other _ _ _ _ h
  · rfl

theorem onSlot_some {k : Nat} {x : Slot} {s : State} (h : slotOf s k = some x) (f : Slot → Slot) :
    onSlot k f s = setSlot k (some (f x)) s := by
  unfold onSlot
  rw [h]

/-! ## `LENS_BIND` -/

theorem chan_zeroChan (k : Slot) (s : State) {i : Nat} (h1 : k.chanBase ≤ i) (h2 : i < k.chanBase + k.chanCount) :
    smGet natD (zeroChan k s).obs.lens.chan i = 0 := by
  have he : (zeroChan k s).obs.lens.chan = s.obs.lens.chan.filter fun e =>
      !(decide (k.chanBase ≤ e.1) && decide (e.1 < k.chanBase + k.chanCount)) := rfl
  rw [he]
  generalize s.obs.lens.chan = m
  induction m with
  | nil => rfl
  | cons e m ih =>
    rw [List.filter_cons]
    split
    · rename_i hk
      have hne : e.1 ≠ i := by
        rintro rfl
        simp [h1, h2] at hk
      unfold smGet
      rw [if_neg hne]
      exact ih
    · exact ih

/-- The state in which a slot of the descriptor's parameters is bound. -/
def slotBound (id : Nat) (x : Slot) (s : State) : State := setSlot id (some x) (zeroChan x s)

theorem onlyChanges_slotBound (id : Nat) (x : Slot) (s : State) : onlyChanges [.lens] s (slotBound id x s) :=
  ((onlyChanges.refl _ s).onLens _).setSlot _ _

theorem chan_slotBound (id : Nat) (x : Slot) (s : State) :
    (slotBound id x s).obs.lens.chan = (zeroChan x s).obs.lens.chan := rfl

theorem slotOf_zeroChan (x : Slot) (s : State) (y : Nat) : slotOf (zeroChan x s) y = slotOf s y :=
  slotOf_onLens (fun _ => rfl) s y

theorem lens_complete (r : Nat) (h : Held) (st : Nat) (res : U32) (s : State) :
    (complete r h st res s).obs.lens = s.obs.lens := rfl

theorem doLensBind_acts {r : Nat} {h : Held} {s : State} (h1 : bindReserved s h = false) (h2 : bindLength s h = false)
    (h3 : s.obs.lens.oos = false) (h4 : firstGap 0 (s.obs.lens.slots.map (·.1)) < 65536)
    (h5 : 0 < resFree s ∨ dAddr h 12 ≠ 0) :
    doLensBind r h s = complete r h (if 0 < resFree s then stOk else stSpilled)
      (lo32 (firstGap 0 (s.obs.lens.slots.map (·.1)))) (slotBound (firstGap 0 (s.obs.lens.slots.map (·.1)))
        (slotOfDesc s (ringPart s r) h (decide (0 < resFree s))) s) := by
  have hn : (s.obs.lens.oos || decide (65536 ≤ firstGap 0 (s.obs.lens.slots.map (·.1))) ||
      (!decide (0 < resFree s) && dAddr h 12 == 0)) = false := by
    rw [h3]
    rcases h5 with h5 | h5 <;> simp [h4, h5]
  unfold doLensBind
  dsimp only
  rw [if_neg (by simp [h1]), if_neg (by simp [h2]), if_neg (by simp [hn])]
  by_cases hr : 0 < resFree s
  · rw [if_pos hr, if_pos (by simp [hr])]
    exact finish_ok _ _ (by decide) _ _
  · rw [if_neg hr, if_neg (by simp [hr])]
    exact finish_ok _ _ (by decide) _ _

theorem lensBind_binds (r : Nat) (h : Held) (s : State) (ha : atFrontOf 0x40 r h s) (h1 : bindReserved s h = false)
    (h2 : bindLength s h = false) (h3 : s.obs.lens.oos = false) (h4 : firstGap 0 (s.obs.lens.slots.map (·.1)) < 65536)
    (h5 : 0 < resFree s ∨ dAddr h 12 ≠ 0) :
    ∃ t x, goesTo (.lensBind r) s t ∧ onlyChanges [.smp, .cmd, .lens] s t ∧
      completes r h (if 0 < resFree s then stOk else stSpilled) (lo32 (firstGap 0 (s.obs.lens.slots.map (·.1)))) s t ∧
      x = slotOfDesc s (ringPart s r) h (decide (0 < resFree s)) ∧
      slotOf t (firstGap 0 (s.obs.lens.slots.map (·.1))) = some x ∧
      (∀ y, y ≠ firstGap 0 (s.obs.lens.slots.map (·.1)) → slotOf t y = slotOf s y) ∧
      (∀ i, x.chanBase ≤ i → i < x.chanBase + x.chanCount → smGet natD t.obs.lens.chan i = 0) := by
  have e := doLensBind_acts (r := r) h1 h2 h3 h4 h5
  generalize slotOfDesc s (ringPart s r) h (decide (0 < resFree s)) = x at e
  generalize firstGap 0 (s.obs.lens.slots.map (·.1)) = id at e
  have hc := onlyChanges_slotBound id x s
  obtain ⟨hg, hk⟩ := goesTo_completes (i := .lensBind r) rfl ha e hc
  refine ⟨_, x, hg, (hc.mono (by decide)).complete _ _ _ _, hk, rfl, ?_, fun y hy => ?_, fun i hi hj => ?_⟩
  · rw [slotOf_complete]
    exact slotOf_setSlot_same _ _ _
  · rw [slotOf_complete]
    exact (slotOf_setSlot_other _ _ _ _ hy).trans (slotOf_zeroChan _ _ _)
  · rw [lens_complete, chan_slotBound]
    exact chan_zeroChan x s hi hj

/-! ## `LENS_READ` -/

theorem doLensRead_checks {r : Nat} {h : Held} {s : State} (h0 : fld (dw h 5) 0 16 = 0) (h1 : 0 < fld (dw h 4) 0 16)
    (h2 : fld (dw h 3) 0 16 + fld (dw h 4) 0 16 ≤ 65536) (hp : canPark s r h = true) (hf : freezePending s 0 = false) :
    doLensRead r h s = lensImages r h s := by
  unfold doLensRead
  dsimp only
  rw [h0, if_neg (by simp), if_neg (by omega), if_neg (by simp [hp]), if_neg (by simp [hf])]

/-- The slots whose images a read waits for. -/
def spilledOf (p : Nat) (h : Held) (s : State) : List Nat :=
  if hasConsent s p 2 then (readSlots h).filter fun k => match slotOf s k with
    | some x => x.part == p && !x.resident | none => false else []

theorem lensImages_eq (r : Nat) (h : Held) (s : State) :
    lensImages r h s =
      let u := spillNext ((spilledOf (ringPart s r) h s).foldl
        (fun a k => addJob k (.read r h.seq (fld (dw h 5) 0 16)) a) s)
      if imagesDue u r h.seq then park r h .images u else lensNow r h u := rfl

theorem lensNow_plain {r : Nat} {h : Held} {s : State} (hb : bit (dw h 5) 17 = false) :
    lensNow r h s = writeOut r h (dAddr h 6) (lensOut s (ringPart s r) h (!hasConsent s (ringPart s r) 2))
      (!hasConsent s (ringPart s r) 2) s := by
  unfold lensNow
  dsimp only
  rw [hb, Bool.and_false, if_neg (by simp)]

theorem lensRead_writes (r : Nat) (h : Held) (s : State) (ha : atFrontOf 0x41 r h s) (hb : reservedBad h = false)
    (h0 : fld (dw h 5) 0 16 = 0) (h1 : 0 < fld (dw h 4) 0 16) (h2 : fld (dw h 3) 0 16 + fld (dw h 4) 0 16 ≤ 65536)
    (hp : canPark s r h = true) (hf : freezePending s 0 = false) (h17 : bit (dw h 5) 17 = false)
    (hs : s.obs.lens.spill = [])
    (hres : ∀ k x, k ∈ readSlots h → slotOf s k = some x → x.part = ringPart s r → x.resident = true) :
    ∃ t n, goesTo (.lensRead r) s t ∧ onlyChanges [.smp, .cmd] s t ∧
      parks r h (.output (ceilDiv (lensOut s (ringPart s r) h (!hasConsent s (ringPart s r) 2)).length 8) n false
        (!hasConsent s (ringPart s r) 2)) s t ∧
      t.obs.smp.pieces = s.obs.smp.pieces ++ piecesOf 6 (ringPart s r) (.out r h.seq false) (.out r h.seq true)
        (dAddr h 6) (lensOut s (ringPart s r) h (!hasConsent s (ringPart s r) 2)) := by
  have hk : spilledOf (ringPart s r) h s = [] := by
    unfold spilledOf
    split
    · rw [List.filter_eq_nil_iff]
      intro k hm
      split
      · rename_i x hx
        intro hn
        simp only [Bool.and_eq_true, beq_iff_eq, Bool.not_eq_true'] at hn
        rw [hres k x hm hx hn.1] at hn
        exact Bool.noConfusion hn.2
      · simp
    · rfl
  have hd : imagesDue s r h.seq = false := by
    unfold imagesDue
    rw [hs]
    rfl
  have e : doLensRead r h s = writeOut r h (dAddr h 6) (lensOut s (ringPart s r) h (!hasConsent s (ringPart s r) 2))
      (!hasConsent s (ringPart s r) 2) s := by
    rw [doLensRead_checks h0 h1 h2 hp hf, lensImages_eq, hk]
    dsimp only [List.foldl_nil]
    rw [spillNext_idle hs, hd, if_neg (by simp), lensNow_plain h17]
  have g := goesTo_checked (i := .lensRead r) rfl ha hb (seqWrapped_of_ctxs (by rw [e, ctxs_writeOut]))
  rw [e] at g
  obtain ⟨n, hn⟩ := parks_writeOut ha.2.1 (dAddr h 6)
    (lensOut s (ringPart s r) h (!hasConsent s (ringPart s r) 2)) (!hasConsent s (ringPart s r) 2)
  exact ⟨_, n, g, onlyChanges_writeOut _ _ _ _ _ _, hn, pieces_writeOut _ _ _ _ _ _⟩

/-- A read of a stored slot's live image has joined the list and asked for the image. -/
def imageAsked (k r seq : Nat) (x : Slot) (s : State) : State :=
  readPieces 3 x.part (.lensRead s.obs.lens.nextJob) x.spillAddr 36
    (onLens (fun l => { l with
      spill := [⟨l.nextJob, k, .read r seq 0, some 36, []⟩]
      nextJob := l.nextJob + 1 }) s)

theorem spillNext_read {k r seq : Nat} {x : Slot} {s : State} (hs : s.obs.lens.spill = []) (hk : slotOf s k = some x)
    (hst : x.stored = true) (hw : spillWriting s k = false) :
    spillNext (addJob k (.read r seq 0) s) = imageAsked k r seq x s := by
  generalize hu : addJob k (.read r seq 0) s = u
  have hsp : u.obs.lens.spill = [⟨s.obs.lens.nextJob, k, .read r seq 0, none, []⟩] := by
    rw [← hu]
    exact congrArg (· ++ [_]) hs
  have hku : slotOf u k = some x := by
    rw [← hu]
    exact hk
  have hwu : spillWriting u k = false := by
    rw [← hu]
    exact hw
  have hturn : spillTurn u ⟨s.obs.lens.nextJob, k, .read r seq 0, none, []⟩ = true := by
    unfold spillTurn
    rw [hsp, hwu]
    simp
  have hask : spillAsk ⟨s.obs.lens.nextJob, k, .read r seq 0, none, []⟩ u = imageAsked k r seq x s := by
    have ha : spillAreas x (.read r seq 0) = [x.spillAddr] := by
      unfold spillAreas
      dsimp only
      rw [if_pos rfl, if_pos hst]
    have hon : onSpill s.obs.lens.nextJob (fun q => { q with asked := some (36 * 1) }) u = onLens (fun l => { l with
        spill := [⟨l.nextJob, k, .read r seq 0, some 36, []⟩]
        nextJob := l.nextJob + 1 }) s := by
      rw [← hu]
      unfold onSpill addJob onLens onObs
      dsimp only
      rw [hs]
      simp [modFirst]
    unfold spillAsk
    rw [hku]
    dsimp only
    rw [ha]
    dsimp only [List.length_singleton, List.foldl_cons, List.foldl_nil]
    rw [hon]
    rfl
  have hidle : spillPump 3 (imageAsked k r seq x s) = imageAsked k r seq x s := by
    have hsp' : (imageAsked k r seq x s).obs.lens.spill = [⟨s.obs.lens.nextJob, k, .read r seq 0, some 36, []⟩] := rfl
    unfold spillPump
    rw [hsp']
    rfl
  unfold spillNext
  rw [hsp]
  unfold spillPump
  rw [hsp, List.find?_cons_of_pos (by rw [hturn]; rfl)]
  dsimp only
  rw [hask]
  exact hidle

theorem onlyChanges_imageAsked (k r seq : Nat) (x : Slot) (s : State) :
    onlyChanges [.smp, .lens] s (imageAsked k r seq x s) := ((onlyChanges.refl _ s).onLens _).readPieces _ _ _ _ _

theorem imageAsked_spec (k r seq : Nat) (x : Slot) (s : State) :
    (imageAsked k r seq x s).obs.lens.slots = s.obs.lens.slots ∧ (imageAsked k r seq x s).obs.lens.chan = s.obs.lens.chan ∧
    (imageAsked k r seq x s).obs.lens.spill = [⟨s.obs.lens.nextJob, k, .read r seq 0, some 36, []⟩] ∧
    (imageAsked k r seq x s).obs.smp.pieces = s.obs.smp.pieces ++ (piecesOf 3 x.part (.lensRead s.obs.lens.nextJob)
        (.lensRead s.obs.lens.nextJob) x.spillAddr (List.replicate (8 * 36) 0)).map fun p => { p with data := [] } :=
  ⟨rfl, rfl, rfl, rfl⟩

theorem lensRead_waits (r k : Nat) (h : Held) (x : Slot) (s : State) (ha : atFrontOf 0x41 r h s)
    (hb : reservedBad h = false) (h0 : fld (dw h 5) 0 16 = 0) (h3 : fld (dw h 3) 0 16 = k) (h4 : fld (dw h 4) 0 16 = 1)
    (hp : canPark s r h = true) (hf : freezePending s 0 = false) (hs : s.obs.lens.spill = [])
    (hc : hasConsent s (ringPart s r) 2 = true) (hk : slotOf s k = some x) (hpt : x.part = ringPart s r)
    (hres : x.resident = false) (hst : x.stored = true) (hw : spillWriting s k = false) :
    ∃ t, goesTo (.lensRead r) s t ∧ onlyChanges [.smp, .cmd, .lens] s t ∧ parks r h .images s t ∧
      t.obs.lens.slots = s.obs.lens.slots ∧ t.obs.lens.chan = s.obs.lens.chan ∧
      t.obs.lens.spill = [⟨s.obs.lens.nextJob, k, .read r h.seq 0, some 36, []⟩] ∧
      t.obs.smp.pieces = s.obs.smp.pieces ++ (piecesOf 3 x.part (.lensRead s.obs.lens.nextJob)
        (.lensRead s.obs.lens.nextJob) x.spillAddr (List.replicate 288 0)).map fun p => { p with data := [] } := by
  have hk16 : k < 65536 := by
    rw [← h3]
    have := fld_lt (dw h 3) 0 16
    omega
  have hks : spilledOf (ringPart s r) h s = [k] := by
    have hr : readSlots h = [k] := by
      unfold readSlots
      rw [h4, h3]
      rfl
    unfold spilledOf
    rw [if_pos hc, hr, List.filter_cons_of_pos (by rw [hk]; simp [hpt, hres])]
    rfl
  have hdue : imagesDue (imageAsked k r h.seq x s) r h.seq = true := by
    unfold imagesDue
    rw [(imageAsked_spec k r h.seq x s).2.2.1]
    simp
  have e : doLensRead r h s = park r h .images (imageAsked k r h.seq x s) := by
    rw [doLensRead_checks h0 (by omega) (by omega) hp hf, lensImages_eq, hks, h0]
    dsimp only [List.foldl_cons, List.foldl_nil]
    rw [spillNext_read hs hk hst hw, if_pos hdue]
  have hfr := onlyChanges_imageAsked k r h.seq x s
  obtain ⟨i1, i2, i3, i4⟩ := imageAsked_spec k r h.seq x s
  generalize imageAsked k r h.seq x s = t at e hfr i1 i2 i3 i4
  have g := goesTo_checked (i := .lensRead r) rfl ha hb (seqWrapped_of_ctxs (by rw [e, ctxs_park, hfr.ctxs_eq]))
  rw [e] at g
  exact ⟨_, g, onlyChanges_park (hfr.mono (by decide)) _ _ _, parks_park ha.2.1 (by rw [hfr.cmd_eq]) _, i1, i2, i3, i4⟩

end Sys2Proof.Machine
end

section
/-! CERTIFICATE. The release of Lens slots, the spare lane group, pairs and tap queues (R116, R120, R121, R128). -/

namespace Sys2Proof.Machine

open Sys2Proof.Safety

set_option Elab.async false

theorem onLens_congr {f g : Lens → Lens} {s : State} (h : f s.obs.lens = g s.obs.lens) : onLens f s = onLens g s := by
  unfold onLens onObs
  dsimp only
  rw [h]

theorem onLens_same {f : Lens → Lens} {s : State} (h : f s.obs.lens = s.obs.lens) : onLens f s = s := by
  unfold onLens onObs
  dsimp only
  rw [h]

/-! ## Streams and pairs leave a slot -/

/-- The slots stand, and nothing outside the Lens changes. -/
def slotsStand (s t : State) : Prop := onlyChanges [.lens] s t ∧ t.obs.lens.slots = s.obs.lens.slots

theorem slotsStand.refl (s : State) : slotsStand s s := ⟨.refl _ s, rfl⟩

theorem slotsStand.onLens {s t : State} (h : slotsStand s t) {f : Lens → Lens} (hf : ∀ l, (f l).slots = l.slots) :
    slotsStand s (onLens f t) := ⟨h.1.onLens f, (hf t.obs.lens).trans h.2⟩

theorem slotsStand.setTap {s t : State} (h : slotsStand s t) (u : Nat) (v : Option Stream) : slotsStand s (setTap u v t) :=
  h.onLens fun l => by split <;> rfl

theorem slotsStand.addUnbound {s t : State} (h : slotsStand s t) (u n : Nat) : slotsStand s (addUnbound u n t) :=
  h.onLens fun l => by split <;> rfl

theorem slotsStand.ite {s t u : State} (c : Prop) [Decidable c] (h : slotsStand s t) (g : slotsStand s u) :
    slotsStand s (if c then t else u) := by
  split
  · exact h
  · exact g

theorem slotsStand.foldl {α : Type} {s t : State} (h : slotsStand s t) {f : State → α → State}
    (hf : ∀ u x, slotsStand s u → slotsStand s (f u x)) (l : List α) : slotsStand s (l.foldl f t) := by
  induction l generalizing t with
  | nil => exact h
  | cons x l ih => exact ih (hf t x h)

/-- A pair has left, and what it held is counted unbound. -/
def pairGone (id : Nat) (p : PairSt) (s : State) : State :=
  let s := addUnbound 0 (partElems p.parts + unpaired 0 p)
    (onLens (fun l => { l with pairs := delFirst (fun q => q.id == id) l.pairs }) s)
  if p.joined then addUnbound 1 (partElems p.parts + unpaired 1 p) s else s

theorem slotsStand.pairGone {s t : State} (h : slotsStand s t) (id : Nat) (p : PairSt) : slotsStand s (pairGone id p t) := by
  have h1 := (h.onLens (f := fun l => { l with pairs := delFirst (fun q => q.id == id) l.pairs })
    (fun _ => rfl)).addUnbound 0 (partElems p.parts + unpaired 0 p)
  exact .ite _ (h1.addUnbound _ _) h1

theorem slotsStand.unbindStream {s t : State} (h : slotsStand s t) (tap : Nat) : slotsStand s (unbindStream tap t) := by
  unfold Machine.unbindStream
  split
  · exact h
  · split
    · split
      · rename_i id _ _ p _
        refine slotsStand.foldl (h.pairGone id p) (fun u x hu => ?_) _
        split
        · exact .ite _ (hu.setTap _ _) hu
        · exact hu
      · exact h.setTap _ _
    · exact (h.addUnbound _ _).setTap _ _
    · exact h

theorem slotsStand_unbindSlot (k : Nat) (s : State) : slotsStand s (unbindSlot k s) := by
  unfold unbindSlot
  have h1 := (slotsStand.refl s).foldl (f := fun acc u => match tapOf acc u with
    | some st => if st.slot = some k then unbindStream u acc else acc
    | none => acc) (fun u x hu => by
      split
      · exact .ite _ (hu.unbindStream _) hu
      · exact hu) [0, 1]
  refine (h1.foldl (fun u p hu => ?_) _).onLens fun _ => rfl
  exact .ite _ ((hu.addUnbound _ _).addUnbound _ _) (hu.addUnbound _ _)

/-! ## `LENS_RELEASE` -/

/-- Elements lost before reach the live image. -/
def lostSettled (x : Slot) : Slot :=
  if x.lostDue = 0 then x else { x with lostDue := 0, live := imgAdd 0 x.live (imgLost x.lostDue) }

/-- The writes of a slot's image are dropped. -/
def writesDropped (k : Nat) (s : State) : State :=
  onSmp (fun m => { m with pieces := m.pieces.filter fun x => x.what != .lensSpill k }) (onSlot k lostSettled s)

/-- Pieces that stay once the work `js` on slot k has gone. -/
def spillStays (k : Nat) (js : List SpillQ) (x : Piece) : Bool :=
  x.what != .lensSpill k && js.all fun q => x.what != .lensRead q.job

theorem settleSpill_idle {s : State} (h : s.obs.lens.spill = []) (k : Nat) : settleSpill k s = writesDropped k s := by
  have hsp : (onSlot k lostSettled s).obs.lens.spill = [] := by
    unfold onSlot
    split <;> exact h
  have hl : onLens (fun l => { l with spill := l.spill.filter fun q => q.slot != k }) (onSlot k lostSettled s) =
      onSlot k lostSettled s := by
    refine onLens_same ?_
    generalize (onSlot k lostSettled s).obs.lens = l at hsp
    rw [hsp, List.filter_nil, ← hsp]
  have hw : (writesDropped k s).obs.lens.spill = [] := hsp
  have e : settleSpill k s = spillNext (onSmp (fun m => { m with
        pieces := m.pieces.filter (spillStays k (s.obs.lens.spill.filter fun q => q.slot == k)) })
      (onLens (fun l => { l with spill := l.spill.filter fun q => q.slot != k })
        (onSlot k lostSettled ((s.obs.lens.spill.filter fun q => q.slot == k).foldl (fun a q => match q.what with
          | .commit _ parts => commitParts k parts a
          | _ => a) s)))) := rfl
  have hst : spillStays k [] = fun x => x.what != .lensSpill k := funext fun x => Bool.and_true _
  rw [e, h, List.filter_nil, List.foldl_nil, hl, hst]
  exact spillNext_idle hw

theorem onlyChanges_writesDropped (k : Nat) (s : State) : onlyChanges [.smp, .lens] s (writesDropped k s) :=
  (onlyChanges_onSlot (onlyChanges.refl _ s) _ _).onSmp _

/-- The slot's image becomes a record of its partition's contexts where the command asks for it. -/
def flushed (k : Nat) (flush : Bool) (s : State) : State :=
  match slotOf s k with
  | some x => if flush then offerPart x.part
      ⟨engGt s, .lens k 1 0 (imageWords ⟨k, 0, 0, false, false, false⟩ x (liveView s x))⟩ s else s
  | none => s

theorem flushed_keeps (k : Nat) (flush : Bool) (s : State) :
    onlyChanges [.ctxs] s (flushed k flush s) ∧ sameCtxs s (flushed k flush s) ∧ (flush = false → flushed k flush s = s) := by
  unfold flushed
  split
  · cases flush with
    | true => exact ⟨(onlyChanges.refl _ s).offerPart _ _, (sameCtxs.refl s).offerPart _ _, fun h => Bool.noConfusion h⟩
    | false => exact ⟨.refl _ s, .refl s, fun _ => rfl⟩
  · exact ⟨.refl _ s, .refl s, fun _ => rfl⟩

theorem releaseSlot_eq (k : Nat) (flush : Bool) (s : State) :
    releaseSlot k flush s = setSlot k none (flushed k flush (unbindSlot k (settleSpill k s))) := rfl

theorem releaseSlot_idle {s : State} (h : s.obs.lens.spill = []) (k : Nat) (flush : Bool) :
    onlyChanges [.smp, .lens, .ctxs] s (releaseSlot k flush s) ∧ sameCtxs s (releaseSlot k flush s) ∧
      slotOf (releaseSlot k flush s) k = none ∧ (∀ y, y ≠ k → slotOf (releaseSlot k flush s) y = slotOf s y) ∧
      (flush = false → (releaseSlot k flush s).obs.ctxs = s.obs.ctxs) := by
  rw [releaseSlot_eq, settleSpill_idle h]
  have h1 := onlyChanges_writesDropped k s
  have hw (y : Nat) (hy : y ≠ k) : slotOf (writesDropped k s) y = slotOf s y := slotOf_onSlot_other k lostSettled s hy
  generalize writesDropped k s = u at h1 hw
  obtain ⟨h2, h2s⟩ := slotsStand_unbindSlot k u
  generalize unbindSlot k u = v at h2 h2s
  obtain ⟨h3, h3s, h3f⟩ := flushed_keeps k flush v
  have hv : onlyChanges [.smp, .lens] s v := h1.trans (h2.mono (by decide))
  have hset (w : State) : onlyChanges [.lens] w (setSlot k none w) := (onlyChanges.refl _ w).setSlot _ _
  refine ⟨(hv.mono (by decide)).trans ((h3.mono (by decide)).trans ((hset _).mono (by decide))),
    (sameCtxs_of_frame hv).trans (h3s.trans (sameCtxs_of_frame (hset _))), slotOf_setSlot_same _ _ _, fun y hy => ?_,
    fun hf => ?_⟩
  · have e1 : slotOf v y = slotOf u y := congrArg (fun m => smGet noneD m y) h2s
    rw [slotOf_setSlot_other _ _ _ _ hy, slotOf, h3.lens_eq]
    exact e1.trans (hw y hy)
  · rw [h3f hf, (hset v).ctxs_eq, hv.ctxs_eq]

theorem lensRelease_unbound (r : Nat) (h : Held) (s : State) (ha : atFrontOf 0x42 r h s) (hb : reservedBad h = false)
    (hk : slotOf s (fld (dw h 3) 0 16) = none) :
    ∃ t, goesTo (.lensRelease r) s t ∧ onlyChanges [.smp, .cmd] s t ∧ completes r h stOk 0 s t := by
  have e : doLensRelease r h s = complete r h stOk 0 s := by
    unfold doLensRelease
    dsimp only
    rw [hk]
    exact finish_ok _ _ (by decide) _ _
  obtain ⟨hg, hq⟩ := goesTo_completes (i := .lensRelease r) rfl ha ((checked_passes hb _).trans e) (.refl [] s)
  exact ⟨_, hg, onlyChanges_complete _ _ _ _ _, hq⟩

theorem lensRelease_unbinds (r : Nat) (h : Held) (x : Slot) (s : State) (ha : atFrontOf 0x42 r h s)
    (hb : reservedBad h = false) (hk : slotOf s (fld (dw h 3) 0 16) = some x) (hp : x.part = ringPart s r)
    (hres : x.resident = true) (hs : s.obs.lens.spill = []) :
    ∃ t, goesTo (.lensRelease r) s t ∧ onlyChanges [.smp, .cmd, .lens, .ctxs, .draws] s t ∧ completes r h stOk 0 s t ∧
      slotOf t (fld (dw h 3) 0 16) = none ∧ (∀ y, y ≠ fld (dw h 3) 0 16 → slotOf t y = slotOf s y) ∧
      (bit (dw h 3) 16 = false → t.obs.ctxs = s.obs.ctxs) := by
  have e : doLensRelease r h s = complete r h stOk 0 (releaseSlot (fld (dw h 3) 0 16) (bit (dw h 3) 16) s) := by
    unfold doLensRelease
    dsimp only
    rw [hk]
    dsimp only
    rw [if_neg (fun hn => hn hp), if_pos (by rw [hres]; rfl)]
    exact finish_ok _ _ (by decide) _ _
  obtain ⟨h1, h2, h3, h4, h5⟩ := releaseSlot_idle hs (fld (dw h 3) 0 16) (bit (dw h 3) 16)
  generalize releaseSlot (fld (dw h 3) 0 16) (bit (dw h 3) 16) s = t at e h1 h2 h3 h4 h5
  have hcr : t.obs.cmd.rings = s.obs.cmd.rings := by rw [h1.cmd_eq]
  obtain ⟨hg, hq⟩ := goesTo_front_completes (i := .lensRelease r) (p := fun h => opOf h == 0x42) rfl ha
    (by simp [ha.2.2.1]) ((checked_passes hb _).trans e) (ringAgrees_of_frame h1 r hcr)
    (seqWrapped_of_sameCtxs (h2.trans (sameCtxs_of_frame (onlyChanges_complete _ _ _ _ _))))
  exact ⟨_, hg, (h1.mono (by decide)).complete _ _ _ _, hq, h3, h4, h5⟩

/-! ## Pairs and tap queues -/

theorem tapOf_setTap_zero (v : Option Stream) (s : State) : tapOf (setTap 0 v s) 0 = v := rfl

/-- A pair that found no partner has left, its elements counted unbound. -/
def unpairedOf (p : PairSt) (s : State) : State :=
  addUnbound 0 (unpaired 0 p) (onLens (fun l => { l with pairs := [] }) s)

theorem pairExpires (p : PairSt) (s : State) (hr : running s) (hp : s.obs.lens.pairs = [p]) (hj : p.joined = false)
    (hd : p.since + 64 * incOf s.aon.pwr.ratio ≤ now s) :
    ∃ t, goesTo .pairWindowExpiry s t ∧ onlyChanges [.lens] s t ∧ t.obs.lens.pairs = [] ∧
      t.obs.lens.unb0 = sat (2 ^ 48 - 1) (s.obs.lens.unb0 + (p.q0.length + p.lost0)) ∧
      t.obs.lens.unb1 = s.obs.lens.unb1 ∧ t.obs.lens.slots = s.obs.lens.slots ∧
      ∀ st, tapOf s 0 = some st → st.pairOf = some p.id → tapOf t 0 = some { st with pairOf := none, slot := none } := by
  have hone : onLens (fun l => { l with pairs := delFirst (fun q => q.id == p.id) l.pairs }) s =
      onLens (fun l => { l with pairs := [] }) s := by
    refine onLens_congr ?_
    rw [hp]
    simp [delFirst]
  have e : opPairExpiry s = match tapOf (unpairedOf p s) 0 with
      | some st => if st.pairOf = some p.id then setTap 0 (some { st with pairOf := none, slot := none }) (unpairedOf p s)
        else unpairedOf p s
      | none => unpairedOf p s := by
    unfold opPairExpiry
    rw [hp, List.find?_cons_of_pos (by simp [hj, hd])]
    unfold unpair pairOf
    dsimp only
    rw [hp, List.find?_cons_of_pos (by simp)]
    dsimp only
    rw [hone]
    rfl
  have hg := goesTo_inObs (c := .pairWindowExpiry) rfl hr
  rw [e] at hg
  have hu : onlyChanges [.lens] s (unpairedOf p s) := onlyChanges_addUnbound ((onlyChanges.refl _ s).onLens _) _ _
  have hpairs : (unpairedOf p s).obs.lens.pairs = [] := rfl
  have h0 : (unpairedOf p s).obs.lens.unb0 = sat (2 ^ 48 - 1) (s.obs.lens.unb0 + (p.q0.length + p.lost0)) := rfl
  have h1 : (unpairedOf p s).obs.lens.unb1 = s.obs.lens.unb1 := rfl
  have hsl : (unpairedOf p s).obs.lens.slots = s.obs.lens.slots := rfl
  have htap : tapOf (unpairedOf p s) 0 = tapOf s 0 := rfl
  generalize unpairedOf p s = u at hg hu hpairs h0 h1 hsl htap
  rw [htap] at hg
  cases ht : tapOf s 0 with
  | none =>
    rw [ht] at hg
    exact ⟨_, hg, hu, hpairs, h0, h1, hsl, fun st h => nomatch h⟩
  | some st =>
    rw [ht] at hg
    dsimp only at hg
    by_cases hid : st.pairOf = some p.id
    · rw [if_pos hid] at hg
      refine ⟨_, hg, hu.setTap _ _, hpairs, h0, h1, hsl, fun st' h _ => ?_⟩
      obtain rfl := Option.some.inj h
      exact tapOf_setTap_zero _ _
    · rw [if_neg hid] at hg
      refine ⟨_, hg, hu, hpairs, h0, h1, hsl, fun st' h h' => ?_⟩
      obtain rfl := Option.some.inj h
      exact absurd h' hid

theorem imageWords_stored (g : ImgTag) (x : Slot) (b : Bool) (i : Img) :
    imageWords g { x with stored := b } i = imageWords g x i := rfl

theorem spillLoad_keeps (q : SpillQ) (x : Slot) : (spillLoad q x).part = x.part ∧ (spillLoad q x).lostDue = x.lostDue ∧
    (spillLoad q x).spillAddr = x.spillAddr := by
  unfold spillLoad
  dsimp only
  split
  · split <;> exact ⟨rfl, rfl, rfl⟩
  · split <;> exact ⟨rfl, rfl, rfl⟩

/-- A part has reached a slot's live image. -/
def liveAdded (i : Img) (fr : Nat) (x : Slot) : Slot := { x with live := imgAdd fr x.live i }

theorem commitPart_live {k : Nat} {i : Img} {x : Slot} {s : State} (hk : slotOf s k = some x)
    (hp : (partOf s x.part).state = 1) : commitPart k 0 i s = draw (setSlot k (some (liveAdded i s.draws x)) s) := by
  unfold commitPart
  rw [hk]
  dsimp only
  rw [if_neg (fun hn => hn hp), if_neg (fun hn => hn.1 rfl)]
  rfl

theorem spillCommit_adds {k : Nat} {i : Img} {x : Slot} {s : State} (hk : slotOf s k = some x)
    (hp : (partOf s x.part).state = 1) (hl : x.lostDue = 0) :
    spillCommit k [(0, i)] s = addPieces 3 x.part (.lensSpill k) (.lensSpill k) x.spillAddr
      (imageWords ⟨k, 0, 0, false, false, false⟩ (liveAdded i s.draws x) (liveAdded i s.draws x).live)
      (setSlot k (some { liveAdded i s.draws x with stored := true })
        (draw (setSlot k (some (liveAdded i s.draws x)) s))) := by
  unfold spillCommit
  rw [hk]
  dsimp only
  rw [if_neg (fun hn => hn hp), if_pos hl]
  unfold commitParts
  dsimp only [List.foldl_cons, List.foldl_nil]
  rw [commitPart_live hk hp]
  have hs : slotOf (draw (setSlot k (some (liveAdded i s.draws x)) s)) k = some (liveAdded i s.draws x) :=
    slotOf_setSlot_same _ _ _
  unfold spillWrite
  rw [hs]
  rfl

theorem slotOf_spillCommit_other {k : Nat} {i : Img} {x : Slot} {s : State} (hk : slotOf s k = some x)
    (hp : (partOf s x.part).state = 1) (hl : x.lostDue = 0) {j : Nat} (hj : j ≠ k) :
    slotOf (spillCommit k [(0, i)] s) j = slotOf s j := by
  rw [spillCommit_adds hk hp hl]
  have h1 : slotOf (draw (setSlot k (some (liveAdded i s.draws x)) s)) j = slotOf s j := slotOf_setSlot_other _ _ _ _ hj
  exact (slotOf_setSlot_other _ _ _ _ hj).trans h1

theorem spillCommits (tap : Nat) (i : Img) (q : SpillQ) (x : Slot) (s : State) (hr : running s)
    (hs : s.obs.lens.spill = [q]) (hw : q.what = .commit (some tap) [(0, i)]) (hq : spillReady q = true)
    (hk : slotOf s q.slot = some x) (hl : x.lostDue = 0) (hp : (partOf s x.part).state = 1) :
    ∃ t y, goesTo (.spillCommitDone tap) s t ∧ onlyChanges [.lens, .smp, .draws] s t ∧ t.obs.lens.spill = [] ∧
      slotOf t q.slot = some y ∧ y.live = imgAdd s.draws (spillLoad q x).live i ∧ y.stored = true ∧
      t.obs.smp.pieces = s.obs.smp.pieces ++ piecesOf 3 x.part (.lensSpill q.slot) (.lensSpill q.slot) x.spillAddr
        (imageWords ⟨q.slot, 0, 0, false, false, false⟩ y y.live) ∧
      ∀ j, j ≠ q.slot → slotOf t j = slotOf s j := by
  generalize hu : setSlot q.slot (some (spillLoad q x)) (onLens (fun l => { l with spill := [] }) s) = u
  obtain ⟨l1, l2, l3⟩ := spillLoad_keeps q x
  have hku : slotOf u q.slot = some (spillLoad q x) := by
    rw [← hu]
    exact slotOf_setSlot_same _ _ _
  have hfu : onlyChanges [.lens] s u := by
    rw [← hu]
    exact ((onlyChanges.refl _ s).onLens _).setSlot _ _
  have hpu : (partOf u (spillLoad q x).part).state = 1 := by rw [l1, hfu.partOf_eq, hp]
  have hlu : (spillLoad q x).lostDue = 0 := l2.trans hl
  have hdo : spillDo q s = spillCommit q.slot [(0, i)] u := by
    have h1 : onLens (fun l => { l with spill := delFirst (fun o => o.job == q.job) l.spill }) s =
        onLens (fun l => { l with spill := [] }) s := by
      refine onLens_congr ?_
      rw [hs]
      simp [delFirst]
    have h2 : slotOf (onLens (fun l => { l with spill := [] }) s) q.slot = some x := hk
    unfold spillDo
    dsimp only
    rw [hw, h1, onSlot_some h2, hu]
  have hother (j : Nat) (hj : j ≠ q.slot) : slotOf u j = slotOf s j := by
    rw [← hu]
    exact slotOf_setSlot_other _ _ _ _ hj
  have hsu : u.obs.lens.spill = [] := by
    rw [← hu]
    rfl
  have hpc : u.obs.smp.pieces = s.obs.smp.pieces := by rw [hfu.smp_eq]
  have hdr : u.draws = s.draws := hfu.draws_eq
  have e : opSpillDone tap s = spillCommit q.slot [(0, i)] u := by
    have hof : spillOf s tap = [q] := by
      unfold spillOf
      rw [hs, List.filter_cons_of_pos (by rw [hw]; simp)]
      rfl
    have hidle : (spillCommit q.slot [(0, i)] u).obs.lens.spill = [] := by
      rw [spillCommit_adds hku hpu hlu]
      exact hsu
    unfold opSpillDone
    rw [hof]
    dsimp only
    rw [if_pos hq, hdo, spillNext_idle hidle]
  have hg := goesTo_inObs (c := .spillCommitDone tap) rfl hr
  rw [e] at hg
  have hfr : onlyChanges [.lens, .smp, .draws] s (spillCommit q.slot [(0, i)] u) :=
    (hfu.mono (by decide)).trans (onlyChanges_spillCommit (onlyChanges.refl [.lens, .smp, .draws] u)
      (by decide) (by decide) (by decide) _ _)
  have hoth (j : Nat) (hj : j ≠ q.slot) := (slotOf_spillCommit_other hku hpu hlu (i := i) hj).trans (hother j hj)
  rw [spillCommit_adds hku hpu hlu] at hg hfr
  have hothe (j : Nat) (hj : j ≠ q.slot) := hoth j hj
  rw [spillCommit_adds hku hpu hlu] at hothe
  refine ⟨_, { liveAdded i u.draws (spillLoad q x) with stored := true }, hg, hfr, hsu, ?_, ?_, rfl, ?_, hothe⟩
  · exact slotOf_setSlot_same _ _ _
  · rw [← hdr]
    rfl
  · rw [imageWords_stored, ← hpc, ← l1, ← l3]
    rfl

/-- Settles O50: each command changes its own slot alone, and the work on spilled slots goes on with its own turn. -/
theorem lensSlotsAndQueues : Obligations.LensSlotsAndQueues :=
  ⟨lensBind_binds, lensRead_writes, lensRead_waits, lensRelease_unbound, lensRelease_unbinds,
    fun s hr => ⟨_, goesTo_inObs (c := .laneSpareConnected) rfl hr, (onlyChanges.refl _ s).onLens _, rfl⟩, pairExpires,
    fun tap i q x s hr hs hw hq hk _ hl hp => spillCommits tap i q x s hr hs hw hq hk hl hp⟩

end Sys2Proof.Machine
end

section
/-! CERTIFICATE. The end of a partition's drain, for a ring number past the last ring. -/

namespace Sys2Proof.Machine

open Sys2Proof.Safety

set_option Elab.async false

/-- A `PART_CLOSE` of partition 5, its drain begun at GT 0. -/
def draining : Held := ⟨7, ⟨[0x50171, 5]⟩, .partClose 0 0 0 2, 0⟩

/-- A machine at work in which the rings' table holds that command under number 64, which no ring has, and a frame of
the partition waits past the bound of the drain. -/
def drainPastRings : State :=
  onTb (fun b => { b with rootGt := 2 ^ 28 })
    (onPart 5 (fun q => { q with state := 3 })
      (onSmp (fun m => { m with frames := [{ (default : Frame) with part := 5, hostDue := true }] })
        (onRing 64 (fun g => { g with parked := [draining] }) atWork)))

/-- Refutes O53: the statement takes the command's ring as the rings' table has it. The register of a ring 64 is the
first of Privet, whose count of lost frames the end of the drain raises before it queues the completion entry: the size
of the completion queue is another then, so the tail does not wrap as the size before has it. -/
theorem not_partitions : ¬ Obligations.Partitions := by
  unfold Obligations.Partitions
  rintro ⟨_, _, _, _, _, _, h⟩
  obtain ⟨t, hg, ⟨_, htail, _⟩, _⟩ := h 5 64 0 draining drainPastRings (by decide) (by decide) (by decide)
    (.inr (by decide))
  have hr := goesTo_inObs (f := fun s => seqWrapped s (opDrainEnd 5 s)) (c := .partCloseDrainEnd 5) rfl
    (s := drainPastRings) (by decide)
  have hs (b u : State) : (settle b u).obs.cmd = u.obs.cmd := by
    obtain ⟨_, _, _, _, _, h⟩ := settle_eq b u
    rw [h]
    rfl
  have hd : (settle drainPastRings t).obs.cmd =
      (settle drainPastRings (seqWrapped drainPastRings (opDrainEnd 5 drainPastRings))).obs.cmd :=
    congrArg (fun o => match o with | .next u => u.obs.cmd | _ => default) (hg.symm.trans hr)
  rw [hs, hs] at hd
  have hq : (ringOf t 64).cqTail = (ringOf (seqWrapped drainPastRings (opDrainEnd 5 drainPastRings)) 64).cqTail :=
    congrArg (fun m : Cmd => (smGet ringD m.rings 64).cqTail) hd
  exact absurd (htail.symm.trans hq) (by decide +kernel)

end Sys2Proof.Machine
end

section
/-! CERTIFICATE. Firmware's verdict on a Consent Word, for a ring number past the last ring. -/

namespace Sys2Proof.Machine

open Sys2Proof.Safety

set_option Elab.async false

/-- The buffer of a Consent Word of partition 0 whose serial is 0. -/
def staleWord : List (List U64) := [0x14357 :: List.replicate 23 0]

/-- A `CONSENT_LOAD` that waits for firmware. -/
def consenting : Held := ⟨7, ⟨[0x175, 5, 0, 4096, 0, 3]⟩, .firmware (2 ^ 28) staleWord, 0⟩

/-- A machine at work in which the rings' table holds that command under number 65, which no ring has; partition 0 has a
tenant key and a frame that waits for its host ring, and one violation registers CONSENT_VIOL,
whose action is FREEZE. -/
def consentPastRings : State :=
  setReg (aAlm + 8) 1 <| setReg (aAlm + 4) 0x100
    (onPwr (fun p => { p with fwOk := true })
      (onKeys (fun k => { k with tenant := [(0, some [1])] })
        (onSmp (fun m => { m with frames := [{ (default : Frame) with hostDue := true }] })
          (onRing 65 (fun g => { g with parked := [consenting] }) atWork))))

/-- The machine once firmware has refused the word. -/
def consentPastRingsRefused : State :=
  seqWrapped consentPastRings (opParked 65 7 consentPastRings)

/-- Refutes O54: the statement takes the command's ring as the rings' table has it. The register of a ring 65 is the one
that counts the host-ring frames skipped for partition 0. A word that does not hold is a consent violation, whose action
here stops the host rings; the frame that waits is counted as skipped before the completion entry is queued, so the size
of the completion queue is another then, and the tail does not wrap as the size before has it. -/
theorem not_keysAndConsent : ¬ Obligations.KeysAndConsent := by
  unfold Obligations.KeysAndConsent
  rintro ⟨_, _, _, h, _⟩
  obtain ⟨t, hg, _, hbad⟩ := h 65 (2 ^ 28) consenting staleWord consentPastRings (by decide) (by decide) rfl (by decide)
    (by decide +kernel) (by decide +kernel)
  obtain ⟨⟨_, htail, _⟩, _⟩ := hbad (by decide +kernel)
  have hr : goesTo (.parkedCommandComplete 65 7) consentPastRings consentPastRingsRefused :=
    goesTo_inObs (f := fun s => seqWrapped s (opParked 65 7 s)) rfl (by decide)
  have hs (b u : State) : (settle b u).obs.cmd = u.obs.cmd := by
    obtain ⟨_, _, _, _, _, h⟩ := settle_eq b u
    rw [h]
    rfl
  have hd : (settle consentPastRings t).obs.cmd = (settle consentPastRings consentPastRingsRefused).obs.cmd :=
    congrArg (fun o => match o with | .next u => u.obs.cmd | _ => default) (hg.symm.trans hr)
  rw [hs, hs] at hd
  have hq : (ringOf t 65).cqTail = (ringOf consentPastRingsRefused 65).cqTail :=
    congrArg (fun m : Cmd => (smGet ringD m.rings 65).cqTail) hd
  exact absurd (htail.symm.trans hq) (by decide +kernel)

end Sys2Proof.Machine
end

section
/-! SUPPORT. The fall of the egress link (R305), and what ends with the frames it held. -/

namespace Sys2Proof.Machine

open Sys2Proof.Safety

set_option Elab.async false

/-! ## Registers that no item counts in -/

/-- A register that counts no lost item and reports none. -/
def spared (a : Nat) : Prop := a ≠ aEvq + 0x18 ∧ a ≠ aEvq + 0x1C ∧ a ≠ aEvq + 0x24

theorem spared_aRing (r : Nat) : spared (aRing r) := by
  unfold spared aRing aEvq
  omega

theorem reg_countOvf_spared {a c : Nat} (h : spared a) (hc : c < 8) (s : State) : reg (countOvf c s) a = reg s a := by
  obtain ⟨h0, h1, h2⟩ := h
  have h3 : a ≠ aEvq + 0x18 + 4 * (c / 4) := by omega
  unfold countOvf
  split
  · rw [reg_orReg_other _ _ _ h2, reg_bumpReg_other _ _ _ _ _ h3]
  · rfl

theorem reg_push_spared {a src : Nat} {i : Item} (h : spared a) (hi : i.pclass < 8) (s : State) :
    reg (push src i s) a = reg s a := by
  unfold push
  split
  · split
    · rfl
    · exact reg_countOvf_spared h (by omega) _
  · split
    · split
      · rfl
      · exact reg_countOvf_spared h (by omega) _
    · split
      · rfl
      · exact reg_countOvf_spared h hi _

/-! ## Generations no longer in use -/

theorem onCmd_self {f : Cmd → Cmd} {s : State} (h : f s.obs.cmd = s.obs.cmd) : onCmd f s = s := by
  unfold onCmd onObs
  dsimp only
  rw [h]

theorem rotationsTold_clean (p j dir : Nat) (s : State) : rotationsTold p j dir true s = s := by
  refine onCmd_self (congrArg (fun m => { s.obs.cmd with rings := m }) (?_ : _ = s.obs.cmd.rings))
  refine (List.map_congr_left fun e _ => ?_).trans (List.map_id _)
  refine congrArg (fun l => (e.1, { e.2 with parked := l })) (?_ : _ = e.2.parked)
  refine (List.map_congr_left fun h _ => ?_).trans (List.map_id _)
  cases h with
  | mk seq d stage at_ => cases stage <;> simp

section Sweep

variable {ps : List Part} {s t : State} (h : onlyChanges ps s t)
include h

/-- An older generation erased with every frame acknowledged leaves the parked rotations as they are. -/
theorem onlyChanges_eraseOlder_clean (by_ : Option (Nat × Nat)) (p j dir : Nat) (hk : .keys ∈ ps := by decide)
    (hv : .evq ∈ ps := by decide) (ho : .obsRegs ∈ ps := by decide) :
    onlyChanges ps s (eraseOlder by_ p j dir true t) := by
  cases e : jobOf t p j with
  | none =>
    unfold eraseOlder
    rw [e]
    exact h
  | some k =>
    match hg : gensOf k dir with
    | [] =>
      unfold eraseOlder
      rw [e]
      dsimp only
      rw [hg]
      exact h
    | [a] =>
      rw [eraseOlder_alone e hg]
      exact h
    | a :: b :: l =>
      rw [eraseOlder_eq e hg, if_neg (by simp), rotationsTold_clean]
      exact (h.onKeys _ hk).push 1 0x23 _ _ _ _ (by decide) (.inr (by decide)) (.inr (by decide)) (.inl hv) ho

theorem onlyChanges_sweepGens (hk : .keys ∈ ps := by decide) (hv : .evq ∈ ps := by decide)
    (ho : .obsRegs ∈ ps := by decide) : onlyChanges ps s (sweepGens t) := by
  unfold sweepGens
  refine h.foldl (fun u k hu => ?_) _
  split
  · exact .ite _ hu (onlyChanges_eraseOlder_clean hu _ _ _ _ hk hv ho)
  · exact hu

end Sweep

theorem reg_eraseOlder_clean {a : Nat} (ha : spared a) (by_ : Option (Nat × Nat)) (p j dir : Nat) (s : State) :
    reg (eraseOlder by_ p j dir true s) a = reg s a := by
  cases e : jobOf s p j with
  | none =>
    unfold eraseOlder
    rw [e]
  | some k =>
    match hg : gensOf k dir with
    | [] =>
      unfold eraseOlder
      rw [e]
      dsimp only
      rw [hg]
    | [x] => rw [eraseOlder_alone e hg]
    | x :: y :: l =>
      rw [eraseOlder_eq e hg, if_neg (by simp), rotationsTold_clean, reg_push_spared ha (by show (kindCls 0x23).1 < 8; decide)]
      rfl

theorem reg_foldl {α : Type} {a : Nat} {f : State → α → State} (hf : ∀ s x, reg (f s x) a = reg s a) (l : List α)
    (s : State) : reg (l.foldl f s) a = reg s a := by
  induction l generalizing s with
  | nil => rfl
  | cons x l ih => rw [List.foldl_cons, ih, hf]

theorem reg_sweepGens {a : Nat} (ha : spared a) (s : State) : reg (sweepGens s) a = reg s a := by
  unfold sweepGens
  refine reg_foldl (fun u k => ?_) _ s
  split
  · split
    · rfl
    · exact reg_eraseOlder_clean ha _ _ _ _ _
  · rfl

/-! ## Slots that are lost (R304) -/

theorem egr_slotsGone (p : ESlot → Bool) (c : Nat) (s : State) :
    (slotsGone p c s).obs.egr = { s.obs.egr with slots := s.obs.egr.slots.filter fun x => !p x } := by
  have h := (onlyChanges.refl [.fab, .obsRegs] (onEgr (fun e => { e with slots := e.slots.filter fun x => !p x }) s)).bumpReg
    (aEgr + 0x10) 0 32 (s.obs.egr.slots.filter p).length
  exact (h.foldl (f := fun a (x : ESlot) => if x.origin = a.aon.instId then a else sendOutcome x.origin x.frame 2 c a)
    (fun _ _ ha => .ite _ ha (ha.fabSend _ _ _ _)) _).egr_eq

/-- The egress port whose link has moved on. -/
def egrSent (l : Link) (n : Nat) (e : Egr) : Egr := { e with link := l, outCtr := n }

theorem egr_egrSends {α : Type} (f : State → α → State) (hf : ∀ s x, ∃ l n, (f s x).obs.egr = egrSent l n s.obs.egr)
    (xs : List α) (s : State) : ∃ l n, (xs.foldl f s).obs.egr = egrSent l n s.obs.egr := by
  induction xs generalizing s with
  | nil => exact ⟨s.obs.egr.link, s.obs.egr.outCtr, rfl⟩
  | cons x xs ih =>
    obtain ⟨l, n, h⟩ := ih (f s x)
    obtain ⟨_, _, hs⟩ := hf s x
    refine ⟨l, n, ?_⟩
    rw [List.foldl_cons, h, hs]
    rfl

theorem egr_egrSend (m : Nat) (b : List Byte) (s : State) : ∃ l n, (egrSend m b s).obs.egr = egrSent l n s.obs.egr :=
  ⟨_, s.obs.egr.outCtr + 1, rfl⟩

/-- Lost slots leave the port's other fields but its link. -/
theorem egr_loseSlots (p : ESlot → Bool) (c : Nat) (s : State) : ∃ l n, (loseSlots p c s).obs.egr =
    egrSent l n { s.obs.egr with slots := s.obs.egr.slots.filter fun x => !p x } := by
  have hg := egr_slotsGone p c s
  by_cases hn : (s.obs.egr.slots.filter p).isEmpty = true
  · have hs : s.obs.egr.slots.filter (fun x => !p x) = s.obs.egr.slots := by
      rw [List.filter_eq_self]
      intro x hx
      cases hp : p x
      · rfl
      · exact absurd (List.mem_filter.mpr ⟨hx, hp⟩) (by simp [List.isEmpty_iff.mp hn])
    refine ⟨s.obs.egr.link, s.obs.egr.outCtr, ?_⟩
    rw [hs, loseSlots, if_pos hn]
    rfl
  · by_cases hs : (slotsGone p c s).obs.egr.state = 3 ∨ (slotsGone p c s).obs.egr.state = 4
    · obtain ⟨l, n, h⟩ := egr_egrSends (fun (a : State) (r : ESlot × Nat) => egrSend 5 (le 1 r.1.origin ++ le 1 r.1.frame.part
        ++ le 1 r.1.frame.job ++ le 1 c ++ le 4 r.1.frame.ctx ++ le 4 r.1.frame.seq ++ le 4 r.2 ++ zeros 4) a)
        (fun a r => egr_egrSend _ _ _) (lossRanges (s.obs.egr.slots.filter p)) (slotsGone p c s)
      refine ⟨l, n, ?_⟩
      rw [hg] at h
      rw [← h]
      exact congrArg (fun u : State => u.obs.egr) ((if_neg hn).trans (if_pos hs))
    · refine ⟨s.obs.egr.link, s.obs.egr.outCtr, Eq.trans ?_ hg⟩
      exact congrArg (fun u : State => u.obs.egr) ((if_neg hn).trans (if_neg hs))

theorem reg_loseSlots {a : Nat} (ha : a ≠ aEgr + 0x10) (p : ESlot → Bool) (c : Nat) (s : State) :
    reg (loseSlots p c s) a = reg s a := by
  have hg : reg (slotsGone p c s) a = reg s a := by
    refine (reg_foldl (fun u x => ?_) _ _).trans (reg_bumpReg_other _ _ _ _ _ ha)
    exact (onlyChanges.ite (ps := [.fab]) _ (.refl _ u) ((onlyChanges.refl _ u).fabSend _ _ _ _)).reg_eq a
      (by unfold regPart; split <;> decide)
  have hl (f : State → ESlot × Nat → State) (hf : ∀ u x, reg (f u x) a = reg u a) :
      reg (if (slotsGone p c s).obs.egr.state = 3 ∨ (slotsGone p c s).obs.egr.state = 4 then
        (lossRanges (s.obs.egr.slots.filter p)).foldl f (slotsGone p c s) else slotsGone p c s) a = reg s a := by
    split
    · rw [reg_foldl hf, hg]
    · exact hg
  have he := hl (fun a r => egrSend 5 (le 1 r.1.origin ++ le 1 r.1.frame.part
    ++ le 1 r.1.frame.job ++ le 1 c ++ le 4 r.1.frame.ctx ++ le 4 r.1.frame.seq ++ le 4 r.2 ++ zeros 4) a) (fun u x => rfl)
  by_cases hn : (s.obs.egr.slots.filter p).isEmpty = true
  · rw [loseSlots, if_pos hn]
  · exact (congrArg (fun u => reg u a) (if_neg hn)).trans he

/-! ## The link goes down (R305) -/

/-- The port once its link has gone down. -/
def egrFallen (reason : Nat) (e : Egr) : Egr :=
  { e with
    state := 0, slots := [], lanes := 0, retraining := none, lastDown := reason, link := default, credits := 0, inbox := []
    outKey := [], inKey := [], ephemeral := [], stationKey := [], coreNonce := [], hello := [], outCtr := 0, inCtr := none
    lastMsg := none, loopback := false }

theorem egr_egrDown {s : State} (h : s.obs.egr.state ≠ 0) (reason : Nat) :
    (egrDown reason s).obs.egr = egrFallen reason s.obs.egr := by
  obtain ⟨l, n, he⟩ := egr_loseSlots (fun _ => true) 5 (onEgr (fun e => { e with state := 0 }) s)
  rw [egrDown_eq h]
  generalize loseSlots (fun _ => true) 5 (onEgr (fun e => { e with state := 0 }) s) = u at he
  have hf := ((onlyChanges.refl [.obsRegs, .evq] (linkCleared reason u)).push 0 0x60 0 0 (BitVec.ofNat 32 reason)
    (engGt (linkCleared reason u))).orReg (aEgr + 0x1C) 2
  rw [hf.egr_eq]
  show (linkCleared reason u).obs.egr = _
  have hc : (linkCleared reason u).obs.egr = { u.obs.egr with
    lanes := 0, retraining := none, lastDown := reason, link := default, credits := 0, inbox := [], outKey := []
    inKey := [], ephemeral := [], stationKey := [], coreNonce := [], hello := [], outCtr := 0, inCtr := none
    lastMsg := none, loopback := false } := rfl
  rw [hc, he]
  simp [egrSent, egrFallen, onEgr, onObs]

theorem reg_egrDown {a : Nat} (ha : spared a) (h1 : a ≠ aEgr + 0x10) (h2 : a ≠ aEgr + 0x1C) (reason : Nat) (s : State) :
    reg (egrDown reason s) a = reg s a := by
  by_cases hs : s.obs.egr.state = 0
  · rw [egrDown, if_pos hs]
  · have hl := reg_loseSlots h1 (fun _ => true) 5 (onEgr (fun e => { e with state := 0 }) s)
    rw [egrDown_eq hs, reg_orReg_other _ _ _ h2, reg_push_spared ha (by show (kindCls 0x60).1 < 8; decide)]
    exact hl

theorem linkDown_egrDown {s : State} (h : s.obs.egr.state ≠ 0) (reason : Nat) :
    bit (reg (egrDown reason s) (aEgr + 0x1C)) 1 = true := by
  rw [egrDown_eq h, bit_reg_orReg, show bit (2 : U32) 1 = true by decide, Bool.or_true]

/-! ## The port closes itself (R307) -/

theorem egr_egrCloseWith {s : State} (h : s.obs.egr.state ≠ 0) (reason : Nat) :
    ∃ l n, (egrCloseWith reason s).obs.egr = egrFallen reason (egrSent l n s.obs.egr) ∧
      bit (reg (egrCloseWith reason s) (aEgr + 0x1C)) 1 = true := by
  by_cases h3 : s.obs.egr.state = 3 ∨ s.obs.egr.state = 4
  · obtain ⟨l, n, he⟩ := egr_egrSend 6 (le 1 reason ++ zeros 3) s
    have hn : (egrSend 6 (le 1 reason ++ zeros 3) s).obs.egr.state ≠ 0 := by rw [he]; exact h
    have hd : egrCloseWith reason s = egrDown reason (egrSend 6 (le 1 reason ++ zeros 3) s) := by
      unfold egrCloseWith
      dsimp only
      rw [if_pos h3]
    rw [hd]
    exact ⟨l, n, by rw [egr_egrDown hn, he], linkDown_egrDown hn reason⟩
  · have hd : egrCloseWith reason s = egrDown reason s := by
      unfold egrCloseWith
      dsimp only
      rw [if_neg h3]
    rw [hd]
    exact ⟨_, _, egr_egrDown h reason, linkDown_egrDown h reason⟩

theorem onlyChanges_egrCloseWith {ps : List Part} {s t : State} (h : onlyChanges ps s t) (reason : Nat)
    (he : .egr ∈ ps := by decide) (hf : .fab ∈ ps := by decide) (ho : .obsRegs ∈ ps := by decide)
    (hv : .evq ∈ ps := by decide) : onlyChanges ps s (egrCloseWith reason t) := by
  unfold egrCloseWith
  dsimp only
  split
  · exact onlyChanges_egrDown (onlyChanges_egrSend h _ _ he) _ he hf ho hv
  · exact onlyChanges_egrDown h _ he hf ho hv

theorem reg_egrCloseWith {a : Nat} (ha : spared a) (h1 : a ≠ aEgr + 0x10) (h2 : a ≠ aEgr + 0x1C) (reason : Nat) (s : State) :
    reg (egrCloseWith reason s) a = reg s a := by
  unfold egrCloseWith
  dsimp only
  rw [reg_egrDown ha h1 h2]
  split <;> rfl

/-- What the local close of the port changes. -/
theorem onlyChanges_egrLocalClose (cause : Nat) (s : State) :
    onlyChanges [.egr, .fab, .keys, .evq, .obsRegs] s (egrLocalClose cause s) :=
  onlyChanges_egrCloseWith (onlyChanges_sweepGens (onlyChanges_loseSlots (.refl _ s) _ _)) _

theorem egrLocalClose_spec {s : State} (h : s.obs.egr.state ≠ 0) (cause : Nat) : ∃ l n,
    (egrLocalClose cause s).obs.egr = egrFallen 7 (egrSent l n s.obs.egr) ∧
      bit (reg (egrLocalClose cause s) (aEgr + 0x1C)) 1 = true := by
  obtain ⟨l, n, he⟩ := egr_loseSlots (fun _ => true) cause s
  have hs := (onlyChanges_sweepGens (.refl [.keys, .evq, .obsRegs] (loseSlots (fun _ => true) cause s))).egr_eq
  have hn : (sweepGens (loseSlots (fun _ => true) cause s)).obs.egr.state ≠ 0 := by rw [hs, he]; exact h
  obtain ⟨l', n', hc, hb⟩ := egr_egrCloseWith hn 7
  refine ⟨l', n', hc.trans ?_, hb⟩
  rw [hs, he]
  simp [egrSent, egrFallen]

theorem reg_egrLocalClose_aRing (cause r : Nat) (s : State) : reg (egrLocalClose cause s) (aRing r) = reg s (aRing r) := by
  have h1 : aRing r ≠ aEgr + 0x10 := by unfold aRing aEgr; omega
  have h2 : aRing r ≠ aEgr + 0x1C := by unfold aRing aEgr; omega
  unfold egrLocalClose
  rw [reg_egrCloseWith (spared_aRing r) h1 h2, reg_sweepGens (spared_aRing r), reg_loseSlots h1]

end Sys2Proof.Machine
end

section
/-! CERTIFICATE. The egress link (chapter 13): it opens, trains, closes and goes down. -/

namespace Sys2Proof.Machine

open Sys2Proof.Safety

set_option Elab.async false

/-! ## The command in progress -/

theorem seq_of_heldOf {s : State} {r seq : Nat} {h : Held} (hh : heldOf s r seq = some h) : h.seq = seq := by
  have hp : (ringOf s r).parked.find? (fun x => x.seq == seq) = some h → h.seq = seq := fun hf => by
    simpa using List.find?_some hf
  unfold heldOf at hh
  dsimp only at hh
  split at hh
  · split at hh
    · exact Option.some.inj hh ▸ ‹_›
    · exact hp hh
  · exact hp hh

theorem heldOf_of_rings {s t : State} (h : t.obs.cmd.rings = s.obs.cmd.rings) (r seq : Nat) :
    heldOf t r seq = heldOf s r seq := by
  simp [heldOf, ringOf, h]

theorem heldOf_of_cur {s : State} {r seq : Nat} (h : (ringOf s r).cur = none) :
    heldOf s r seq = (ringOf s r).parked.find? fun x => x.seq == seq := by
  simp [heldOf, h]

/-- The port has no command any more. -/
def egrFreed (s : State) : State := onEgr (fun e => { e with cmd := none }) s

theorem egrEnd_completes {s : State} {r seq st : Nat} {h : Held} (hc : s.obs.egr.cmd = some (r, seq))
    (hh : heldOf s r seq = some h) (hst : st ≠ stNoConsent) : egrEnd st s = complete r h st 0 (egrFreed s) := by
  have hf : heldOf (egrFreed s) r seq = some h := (heldOf_of_rings rfl r seq).trans hh
  unfold egrEnd
  rw [hc]
  dsimp only
  rw [show onEgr (fun e => { e with cmd := none }) s = egrFreed s from rfl, hf]
  exact fail_ok r h hst _

theorem openLate_ne (s : State) : openLate s ≠ stNoConsent := by
  unfold openLate
  split
  · decide
  · split <;> decide

theorem ringAgrees_egrFreed {r : Nat} {s t : State} (h : ringAgrees r s t) : ringAgrees r s (egrFreed t) := h

/-! ## Opening and closing (R296, R307) -/

theorem egrOpen_reads (r g : Nat) (h : Held) (s : State) (ha : atFrontOf 0x80 r h s) (hb : reservedBad h = false)
    (hl : fld (dw h 6) 0 2 < 2) (hz : fld (dw h 6) 3 13 = 0) (hn : dLen h 5 = 3) (hp : canPark s r h = true)
    (ht : readTag s g) : ∃ t, goesTo (.egrOpen r) s t ∧ onlyChanges [.smp, .cmd] s t ∧ asks r h (dAddr h 3) 3 g s t ∧
      parks r h (.read 0 []) s t := by
  have hf := onlyChanges_asked r h (dAddr h 3) 3 g s
  have e : doEgrOpen r h s = park r h (.read 0 []) (asked r h (dAddr h 3) 3 g s) := by
    unfold doEgrOpen
    dsimp only
    rw [if_neg (by omega), if_neg (by omega), hn]
    exact beginRead_parks _ _ hp ht
  refine ⟨_, e ▸ goesTo_checked rfl ha hb ?_, onlyChanges_park hf r h _, asks_asked r h _ _ g s, parks_park ha.2.1 rfl _⟩
  rw [e]
  exact seqWrapped_of_ctxs rfl

theorem egrClose_closed (r : Nat) (h : Held) (s : State) (ha : atFrontOf 0x81 r h s) (hb : reservedBad h = false)
    (hs : s.obs.egr.state = 0) : ∃ t, goesTo (.egrClose r) s t ∧ onlyChanges [.smp, .cmd] s t ∧ completes r h stOk 0 s t := by
  have e : doEgrClose r h s = complete r h stOk 0 s := by
    unfold doEgrClose
    dsimp only
    rw [if_pos hs]
    exact finish_ok r h (by decide) _ _
  obtain ⟨hg, hk⟩ := goesTo_completes (i := .egrClose r) rfl ha ((checked_passes hb _).trans e) (.refl [] s)
  exact ⟨_, hg, onlyChanges_complete r h stOk 0 s, hk⟩

/-- The port while it lets its frames drain for the command of sequence `seq` of ring r. -/
def egrDraining (r seq : Nat) (s : State) : State :=
  onEgr (fun e => { e with state := 4, closeAt := now s, cmd := some (r, seq) }) s

theorem egrClose_drains (r : Nat) (h : Held) (s : State) (ha : atFrontOf 0x81 r h s) (hb : reservedBad h = false)
    (hs : s.obs.egr.state = 3) (hd : bit (dw h 3) 0 = true) (hn : s.obs.egr.slots ≠ []) (hp : canPark s r h = true) :
    ∃ t, goesTo (.egrClose r) s t ∧ onlyChanges [.cmd, .egr] s t ∧ parks r h (.egrClose (now s)) s t ∧
      t.obs.egr = { s.obs.egr with state := 4, closeAt := now s, cmd := some (r, h.seq) } := by
  have e : doEgrClose r h s = park r h (.egrClose (now s)) (egrDraining r h.seq s) := by
    unfold doEgrClose
    dsimp only
    rw [if_neg (by omega), if_neg (by simp [hd, hs, hn]), if_neg (by simp [hp])]
    simp only [hs, if_true]
    rfl
  have hf : onlyChanges [.cmd, .egr] s (egrDraining r h.seq s) := (onlyChanges.refl _ s).onEgr _
  refine ⟨_, e ▸ goesTo_checked rfl ha hb ?_, onlyChanges_park hf r h _, parks_park ha.2.1 rfl _, rfl⟩
  rw [e]
  exact seqWrapped_of_ctxs rfl

theorem ringAgrees_egrLocalClose (r cause : Nat) (s : State) : ringAgrees r s (egrLocalClose cause s) :=
  ringAgrees_of_regs (onlyChanges_egrLocalClose cause s) r (reg_egrLocalClose_aRing cause r s)

theorem egrClose_loses (r : Nat) (h : Held) (s : State) (ha : atFrontOf 0x81 r h s) (hb : reservedBad h = false)
    (hs : s.obs.egr.state ≠ 0) (hd : bit (dw h 3) 0 = false) :
    ∃ t, goesTo (.egrClose r) s t ∧ queues r h stOk 0 s t ∧ t.obs.egr.state = 0 ∧ t.obs.egr.slots = [] ∧
      t.obs.egr.lastDown = 7 ∧ bit (reg t (aEgr + 0x1C)) 1 = true := by
  have e : doEgrClose r h s = complete r h stOk 0 (egrLocalClose 5 s) := by
    unfold doEgrClose
    dsimp only
    rw [if_neg hs, if_pos (by simp [hd])]
    exact finish_ok r h (by decide) _ _
  obtain ⟨l, n, he, hbit⟩ := egrLocalClose_spec hs 5
  have hag := ringAgrees_egrLocalClose r 5 s
  have hx := (onlyChanges_egrLocalClose 5 s).ctxs_eq
  generalize egrLocalClose 5 s = u at e he hbit hag hx
  obtain ⟨hg, hk⟩ := goesTo_front_completes (i := .egrClose r) (p := fun h => opOf h == 0x81) rfl ha (by simp [ha.2.2.1])
    ((checked_passes hb _).trans e) hag (seqWrapped_of_ctxs hx)
  have hc := onlyChanges_complete r h stOk 0 u
  refine ⟨_, hg, hk.1, ?_, ?_, ?_, ?_⟩
  · rw [hc.egr_eq, he]
    rfl
  · rw [hc.egr_eq, he]
    rfl
  · rw [hc.egr_eq, he]
    rfl
  · rw [hc.reg_eq _ (by decide)]
    exact hbit

/-! ## Training (R292, R296, R297) -/

/-- The port as the module's training leaves it. -/
def egrTrained (lanes : Nat) (rep : Bool) (t : Nat) (e : Egr) : Egr :=
  { e with
    lanes := lanes, repaired := e.repaired || rep || (lanes == 8 && e.wantLanes == 16), retraining := none
    link := { e.link with lastFlit := t } }

theorem training_loops (r seq : Nat) (h : Held) (rep : Bool) (s : State) (hr : running s) (hs : s.obs.egr.state = 1)
    (hl : s.obs.egr.loopback = true) (hc : s.obs.egr.cmd = some (r, seq)) (hu : (ringOf s r).cur = none)
    (hp : (ringOf s r).parked.find? (fun x => x.seq == seq) = some h) :
    ∃ t, goesTo (.ucieTrainingDone 8 rep) s t ∧ onlyChanges [.egr, .smp, .cmd] s t ∧ ends r h stOk 0 s t ∧
      t.obs.egr.state = 5 ∧ t.obs.egr.lanes = 8 ∧ t.obs.egr.cmd = none := by
  let u := onEgr (fun e => { egrTrained 8 rep (now s) e with state := 5 }) s
  have e : opTraining 8 rep s = egrEnd stOk u := by
    unfold opTraining
    dsimp only
    rw [if_neg (by simp), if_pos hs, if_pos hl]
    rfl
  have hf : onlyChanges [.egr] s (egrFreed u) := ((onlyChanges.refl _ s).onEgr _).onEgr _
  rw [egrEnd_completes (s := u) hc ((heldOf_of_rings rfl r seq).trans ((heldOf_of_cur hu).trans hp)) (by decide)] at e
  have hx := hf.mono (qs := [.egr, .smp, .cmd]) (by decide)
  exact ⟨_, e ▸ goesTo_inObs rfl hr, hx.complete _ _ _ _, ends_complete (ringAgrees_of_frame hf r rfl) _ _ _, rfl, rfl, rfl⟩

theorem kept_linkRun_first {l : Link} {cap : Nat} (k : KFlit) (hk : l.kept = []) (hw : l.waiting = []) (hc : 0 < cap) :
    (linkRun cap none (linkAdd k l)).kept.map (fun k => (k.ftype, k.payload)) = [(k.ftype, padTo 232 k.payload)] := by
  have ha : linkAdd k l = { l with waiting := [k] } := by
    unfold linkAdd
    rw [hw]
    rfl
  have ht : ([k] : List KFlit).take cap = [k] := List.take_of_length_le hc
  rw [ha, linkRun]
  simp [hk, ht, linkPut]

/-- HELLO, with the fresh values of a draw. -/
def helloMsg (s : State) : List Byte :=
  plainMsg 1 (le 1 1 ++ le 1 s.aon.instId ++ zeros 2 ++ fresh 1 16 s ++ le 8 (deviceId s) ++ padTo 16 s.obs.egr.stationId
    ++ (padTo 97 (Config.publicKeyFull (fresh 0 48 s))).take 97 ++ zeros 7)

theorem leAt_plainMsg (m : Nat) (b : List Byte) : leAt (plainMsg m b) 0 1 = (BitVec.ofNat 8 m).toNat := by
  show ofLe [BitVec.ofNat 8 m] = _
  simp [ofLe]

theorem sendHello_eq (s : State) : sendHello s = draw (egrPut (helloMsg s) (onEgr (fun e => { e with
    state := 2, ephemeral := fresh 0 48 s, coreNonce := fresh 1 16 s, hello := helloMsg s, helloAt := now s }) s)) := rfl

theorem egr_sendHello (s : State) : ∃ l, (sendHello s).obs.egr = { s.obs.egr with
    state := 2, ephemeral := fresh 0 48 s, coreNonce := fresh 1 16 s, hello := helloMsg s, helloAt := now s, link := l } ∧
    l = linkRun (egrCap s.obs.egr) none (linkAdd { (default : KFlit) with ftype := 2, payload := helloMsg s } s.obs.egr.link) :=
  ⟨_, rfl, rfl⟩

theorem onlyChanges_sendHello (s : State) : onlyChanges [.egr, .cmd, .draws] s (sendHello s) :=
  (((onlyChanges.refl _ s).onEgr _).onEgr _).draw

theorem training_greets (rep : Bool) (s : State) (hr : running s) (hs : s.obs.egr.state = 1)
    (hl : s.obs.egr.loopback = false) (hw : s.obs.egr.wantLanes = 16) (hk : s.obs.egr.link.kept = [])
    (hq : s.obs.egr.link.waiting = []) :
    ∃ t m, goesTo (.ucieTrainingDone 16 rep) s t ∧ onlyChanges [.egr, .cmd, .draws] s t ∧ t.obs.egr.state = 2 ∧
      t.obs.egr.lanes = 16 ∧ t.obs.egr.helloAt = now s ∧ t.obs.egr.hello = m ∧ leAt m 0 1 = 1 ∧
      t.obs.egr.link.kept.map (fun k => (k.ftype, k.payload)) = [(2, padTo 232 m)] := by
  let u := onEgr (egrTrained 16 rep (now s)) s
  let v := sendHello u
  let w := match v.obs.egr.cmd with | some (r, seq) => setStage r seq (.egrOpen 2 (now s)) v | none => v
  have e : opTraining 16 rep s = w := by
    unfold opTraining
    dsimp only
    rw [if_neg (by simp [hw]), if_pos hs, if_neg (by simp [hl])]
    rfl
  have hu : onlyChanges [.egr, .cmd, .draws] s u := (onlyChanges.refl _ s).onEgr _
  have hv : onlyChanges [.egr, .cmd, .draws] s v := hu.trans (onlyChanges_sendHello u)
  have hz : onlyChanges [.cmd] v w := by
    show onlyChanges [.cmd] v (match v.obs.egr.cmd with | some (r, seq) => setStage r seq (.egrOpen 2 (now s)) v | none => v)
    split
    · exact (onlyChanges.refl _ v).setStage _ _ _
    · exact .refl _ v
  obtain ⟨l, he, hlink⟩ := egr_sendHello u
  have hkept : l.kept.map (fun k => (k.ftype, k.payload)) = [(2, padTo 232 (helloMsg u))] := by
    rw [hlink]
    exact kept_linkRun_first (l := { s.obs.egr.link with lastFlit := now s }) _ hk hq (by show 0 < 512; decide)
  have hwe : w.obs.egr = v.obs.egr := hz.egr_eq
  refine ⟨w, helloMsg u, e ▸ goesTo_inObs rfl hr, hv.trans (hz.mono (by decide)), ?_⟩
  rw [hwe, he]
  exact ⟨rfl, rfl, rfl, rfl, leAt_plainMsg _ _, hkept⟩

/-- The port as a frame of it sees it: its state, its lanes, its training and the frames it holds. -/
def egrHolds (e : Egr) : Nat × Nat × Option Nat × List (Frame × Nat) :=
  (e.state, e.lanes, e.retraining, e.slots.map fun x => (x.frame, x.fnaks))

theorem map_modFirst_of_eq {α β : Type} {p : α → Bool} {f : α → α} {g : α → β} (h : ∀ x, g (f x) = g x) (l : List α) :
    (modFirst p f l).map g = l.map g := by
  induction l with
  | nil => rfl
  | cons x l ih =>
    unfold modFirst
    split
    · rw [List.map_cons, List.map_cons, h]
    · rw [List.map_cons, List.map_cons, ih]

/-- A frame of a slot goes out. -/
def slotSent (x : ESlot) (t : Nat) (s : State) : State :=
  egrRun (linkFrame 0 0 x.sealedBytes) (onEgr (fun e => { e with
    credits := e.credits - 1
    slots := modFirst (fun y => y.sentAt.isNone || y.resend)
      (fun y => { y with sentAt := some (y.sentAt.getD t), resend := false }) e.slots }) s)

theorem egrHolds_slotSent (x : ESlot) (t : Nat) (s : State) : egrHolds (slotSent x t s).obs.egr = egrHolds s.obs.egr :=
  congrArg (fun l => (s.obs.egr.state, s.obs.egr.lanes, s.obs.egr.retraining, l))
    (map_modFirst_of_eq (p := fun (y : ESlot) => y.sentAt.isNone || y.resend) (f := fun (y : ESlot) => { y with sentAt := some (y.sentAt.getD t), resend := false })
      (g := fun x => (x.frame, x.fnaks)) (fun _ => rfl) s.obs.egr.slots)

theorem egrHolds_egrPump (n : Nat) (s : State) : egrHolds (egrPump n s).obs.egr = egrHolds s.obs.egr := by
  induction n generalizing s with
  | zero => rfl
  | succ n ih =>
    unfold egrPump
    dsimp only
    split
    · split
      · rw [ih]
        refine (egrHolds_slotSent _ _ _).trans ?_
        split <;> rfl
      · rfl
    · rfl

theorem training_ends (lanes : Nat) (rep : Bool) (s : State) (hr : running s) (hl : lanes = 8 ∨ lanes = 16)
    (hs : 2 ≤ s.obs.egr.state) (ht : s.obs.egr.retraining.isSome = true) :
    ∃ t, goesTo (.ucieTrainingDone lanes rep) s t ∧ onlyChanges [.egr] s t ∧ t.obs.egr.state = s.obs.egr.state ∧
      t.obs.egr.lanes = lanes ∧ t.obs.egr.retraining = none ∧
      t.obs.egr.slots.map (fun e => (e.frame, e.fnaks)) = s.obs.egr.slots.map (fun e => (e.frame, e.fnaks)) := by
  let u := egrRun id (onEgr (egrTrained lanes rep (now s)) s)
  have e : opTraining lanes rep s = egrPump 480 u := by
    have hn : s.obs.egr.state ≠ 1 := by omega
    unfold opTraining
    dsimp only
    rw [if_neg (by simp [hn, hl]), if_neg hn, if_pos ht]
    rfl
  have hu : onlyChanges [.egr] s u := ((onlyChanges.refl _ s).onEgr _).onEgr _
  have hh : egrHolds (egrPump 480 u).obs.egr = (s.obs.egr.state, lanes, none, s.obs.egr.slots.map fun x => (x.frame, x.fnaks)) :=
    egrHolds_egrPump 480 u
  simp only [egrHolds, Prod.mk.injEq] at hh
  exact ⟨_, e ▸ goesTo_inObs rfl hr, onlyChanges_egrPump hu 480, hh⟩

theorem retraining_starts (s : State) (hr : running s) (hs : 2 ≤ s.obs.egr.state) (hn : s.obs.egr.retraining = none) :
    ∃ t, goesTo .retrainingStart s t ∧ onlyChanges [.egr] s t ∧
      t.obs.egr = { s.obs.egr with retraining := some (now s) } := by
  have e : opRetrainStart s = onEgr (fun e => { e with retraining := some (now s) }) s := if_pos ⟨hs, by simp [hn]⟩
  have hg : goesTo .retrainingStart s (opRetrainStart s) := goesTo_inObs rfl hr
  rw [e] at hg
  exact ⟨_, hg, (onlyChanges.refl _ s).onEgr _, rfl⟩

/-! ## The link goes down (R305) -/

theorem linkFalls {i : Instr} {f : State → State} {s : State} {reason : Nat} (he : exec i s = run (inObs f) s) (hr : running s)
    (hs : s.obs.egr.state ≠ 0) (e : f s = egrDown reason s) : ∃ t, goesTo i s t ∧ t.obs.egr.state = 0 ∧ t.obs.egr.slots = [] ∧
      t.obs.egr.lastDown = reason ∧ t.obs.egr.outKey = [] ∧ t.obs.egr.inKey = [] ∧ bit (reg t (aEgr + 0x1C)) 1 = true := by
  have hd := egr_egrDown hs reason
  refine ⟨_, e ▸ goesTo_inObs he hr, ?_, ?_, ?_, ?_, ?_, linkDown_egrDown hs reason⟩ <;> rw [hd] <;> rfl

theorem optical_stays (s : State) (hr : running s) : exec (.opticalStatusPoll false false) s = .next s :=
  exec_stays (f := inObs (opOptical false false)) rfl hr.1 (inObs_run _ s hr.2)

theorem ringAgrees_egrDown {r reason : Nat} {s : State} : ringAgrees r s (egrDown reason s) := by
  have h1 : aRing r ≠ aEgr + 0x10 := by unfold aRing aEgr; omega
  have h2 : aRing r ≠ aEgr + 0x1C := by unfold aRing aEgr; omega
  exact ringAgrees_of_regs (onlyChanges_egrDown (.refl [.egr, .fab, .evq, .obsRegs] s) reason) r
    (reg_egrDown (spared_aRing r) h1 h2 reason s)

theorem training_isLate (r seq g : Nat) (h : Held) (s : State) (hr : running s) (hc : s.obs.egr.cmd = some (r, seq))
    (hh : heldOf s r seq = some h) (hst : h.stage = .egrOpen 1 g) (hs : s.obs.egr.state = 1) (ht : g + 1600000 ≤ now s) :
    ∃ t, goesTo .egrTrainingTimeout s t ∧ queues r h (openLate s) 0 s t ∧ t.obs.egr.state = 0 ∧
      t.obs.egr.lastDown = 1 ∧ t.obs.egr.cmd = none := by
  have hn : s.obs.egr.state ≠ 0 := by omega
  have hd := egr_egrDown hn 1
  have e : opTrainingTimeout s = egrEnd (openLate s) (egrDown 1 s) := by
    unfold opTrainingTimeout
    simp only [hc, Option.bind_some, hh, hst]
    rw [if_neg (by omega)]
  have ha : ringAgrees r s (egrDown 1 s) := ringAgrees_egrDown
  rw [egrEnd_completes (by rw [hd]; exact hc) ((heldOf_of_rings ha.1 r seq).trans hh) (openLate_ne s)] at e
  have hz : (complete r h (openLate s) 0 (egrFreed (egrDown 1 s))).obs.egr = { (egrDown 1 s).obs.egr with cmd := none } := rfl
  refine ⟨_, e ▸ goesTo_inObs rfl hr, queues_complete (ringAgrees_egrFreed ha) _ _ _, ?_, ?_, ?_⟩ <;> rw [hz, hd] <;> rfl

theorem accept_isLate (r seq g : Nat) (h : Held) (s : State) (hr : running s) (hc : s.obs.egr.cmd = some (r, seq))
    (hh : heldOf s r seq = some h) (hst : h.stage = .egrOpen 2 g) (ht : g + 160000000 ≤ now s) :
    ∃ t, goesTo .acceptTimeout s t ∧ onlyChanges [.egr, .smp, .cmd] s t ∧ queues r h (openLate s) 0 s t ∧
      t.obs.egr.state = 0 ∧ t.obs.egr.cmd = none := by
  have e : opAcceptTimeout s = egrEnd (openLate s) (egrQuiet s) := by
    unfold opAcceptTimeout
    simp only [hc, Option.bind_some, hh, hst]
    rw [if_neg (by omega)]
  have hf : onlyChanges [.egr] s (egrFreed (egrQuiet s)) := ((onlyChanges.refl _ s).onEgr _).onEgr _
  rw [egrEnd_completes (s := egrQuiet s) hc ((heldOf_of_rings rfl r seq).trans hh) (openLate_ne s)] at e
  have hx := hf.mono (qs := [.egr, .smp, .cmd]) (by decide)
  exact ⟨_, e ▸ goesTo_inObs rfl hr, hx.complete _ _ _ _, queues_complete (ringAgrees_of_frame hf r rfl) _ _ _, rfl, rfl⟩

/-- Settles O57, each event of the link from the rule of what it changes. -/
theorem egressLink : Obligations.EgressLink := by
  refine ⟨egrOpen_reads, egrClose_closed, egrClose_drains, egrClose_loses, training_loops, training_greets, training_ends,
    retraining_starts, fun g s hr hs hg ht => ?_, fun l s hr hs => ?_, optical_stays, fun s hr hs ht => ?_,
    fun r seq g h s hr hc hh hst hs _ ht => training_isLate r seq g h s hr hc hh hst hs ht, accept_isLate⟩
  · have e : opRetrainTimeout s = egrDown 1 s := by
      unfold opRetrainTimeout
      rw [hg]
      exact if_pos ht
    exact linkFalls rfl hr hs e
  · obtain ⟨t, h1, h2, h3, h4, h5, _, h6⟩ := linkFalls (i := .opticalStatusPoll true l) rfl hr hs (reason := 2) (if_pos rfl)
    exact ⟨t, h1, h2, h3, h4, h5, h6⟩
  · have e : opSilence s = egrDown 4 s := if_pos ⟨hs, ht⟩
    obtain ⟨t, h1, h2, h3, h4, h5, _, h6⟩ := linkFalls (i := .silenceTimeout) rfl hr (by omega) e
    exact ⟨t, h1, h2, h3, h4, h5, h6⟩

end Sys2Proof.Machine
end

section
/-! SUPPORT. The fabric's ports and messages (R308 to R316): what a message sent changes, and what it leaves. -/

namespace Sys2Proof.Machine

open Sys2Proof.Safety

set_option Elab.async false

/-! ## Links -/

theorem linkOf_onLink_same (e : Bool) (g : Link → Link) (s : State) : linkOf (onLink e g s) e = g (linkOf s e) := by
  cases e <;> rfl

theorem linkOf_onLink_other (e : Bool) (g : Link → Link) (s : State) : linkOf (onLink e g s) (!e) = linkOf s (!e) := by
  cases e <;> rfl

theorem linkOf_of_fab {s t : State} (h : t.obs.fab = s.obs.fab) (e : Bool) : linkOf t e = linkOf s e := by
  simp [linkOf, h]

/-- A link carries a message for an instance: sent and not yet acknowledged, or waiting. -/
def linkHas (m : List Byte) (d : Nat) (l : Link) : Prop := ∃ k ∈ l.kept ++ l.waiting, k.clear = m ∧ k.dst = d

theorem linkPuts (key : Option (List Byte)) (xs : List KFlit) (l : Link) :
    (xs.foldl (linkPut key) l).waiting = l.waiting ∧ (∀ k ∈ l.kept, k ∈ (xs.foldl (linkPut key) l).kept) ∧
      ∀ x ∈ xs, ∃ k ∈ (xs.foldl (linkPut key) l).kept, k.clear = x.clear ∧ k.dst = x.dst := by
  induction xs generalizing l with
  | nil => exact ⟨rfl, fun k hk => hk, fun x hx => absurd hx (by simp)⟩
  | cons y xs ih =>
    obtain ⟨h1, h2, h3⟩ := ih (linkPut key l y)
    have hp : ∃ z ∈ (linkPut key l y).kept, z.clear = y.clear ∧ z.dst = y.dst :=
      ⟨_, List.mem_append_right _ (List.mem_singleton_self _), rfl, rfl⟩
    refine ⟨h1, fun k hk => h2 k (List.mem_append_left _ hk), fun x hx => ?_⟩
    rcases List.mem_cons.mp hx with rfl | hx
    · obtain ⟨z, hz, hc⟩ := hp
      exact ⟨z, h2 z hz, hc⟩
    · exact h3 x hx

theorem linkHas_linkRun {m : List Byte} {d : Nat} {l : Link} (cap : Nat) (key : Option (List Byte)) (h : linkHas m d l) :
    linkHas m d (linkRun cap key l) := by
  obtain ⟨k, hk, hm, hd⟩ := h
  obtain ⟨h1, h2, h3⟩ := linkPuts key (l.waiting.take (cap - l.kept.length))
    { l with waiting := l.waiting.drop (cap - l.kept.length) }
  have hr : linkRun cap key l = (l.waiting.take (cap - l.kept.length)).foldl (linkPut key)
    { l with waiting := l.waiting.drop (cap - l.kept.length) } := rfl
  rw [hr]
  rcases List.mem_append.mp hk with hk | hk
  · exact ⟨k, List.mem_append_left _ (h2 k hk), hm, hd⟩
  · rw [← List.take_append_drop (cap - l.kept.length) l.waiting] at hk
    rcases List.mem_append.mp hk with hk | hk
    · obtain ⟨z, hz, hc, hy⟩ := h3 k hk
      exact ⟨z, List.mem_append_left _ hz, hc.trans hm, hy.trans hd⟩
    · exact ⟨k, List.mem_append_right _ (h1 ▸ hk), hm, hd⟩

theorem linkHas_linkAdd (k : KFlit) (l : Link) : linkHas k.clear k.dst (linkAdd k l) :=
  ⟨k, List.mem_append_right _ (mem_insertBy _ _ _), rfl, rfl⟩

theorem linkHas_linkAdd_of {m : List Byte} {d : Nat} {l : Link} (k : KFlit) (h : linkHas m d l) :
    linkHas m d (linkAdd k l) := by
  obtain ⟨z, hz, hc⟩ := h
  obtain ⟨a, b, hs, hi, -, -⟩ := insertBy_splits (fun y z : KFlit => decide (y.ftype < 3) && decide (3 ≤ z.ftype)) k
    l.waiting
  have hw : ∀ z ∈ l.waiting, z ∈ (linkAdd k l).waiting := fun z hz => by
    show z ∈ insertBy _ k l.waiting
    rw [hi]
    rw [hs] at hz
    rcases List.mem_append.mp hz with hz | hz
    · exact List.mem_append_left _ (List.mem_append_left _ hz)
    · exact List.mem_append_right _ hz
  refine ⟨z, ?_, hc⟩
  rcases List.mem_append.mp hz with hz | hz
  · exact List.mem_append_left _ hz
  · exact List.mem_append_right _ (hw z hz)

/-! ## A message on a port -/

theorem linkHas_portForward (src : Nat) (e : Bool) (ft dst mt : Nat) (b : List Byte) (s : State) :
    linkHas (plainMsg mt b) dst (linkOf (portForward src e ft dst mt b s) e) := by
  unfold portForward portRun
  dsimp only
  rw [linkOf_onLink_same]
  exact linkHas_linkRun _ _ (linkHas_linkAdd _ _)

theorem linkOf_portForward_other (src : Nat) (e : Bool) (ft dst mt : Nat) (b : List Byte) (s : State) :
    linkOf (portForward src e ft dst mt b s) (!e) = linkOf s (!e) := linkOf_onLink_other _ _ _

theorem linkHas_portForward_of {m : List Byte} {d : Nat} {p : Bool} {s : State} (h : linkHas m d (linkOf s p)) (src : Nat)
    (e : Bool) (ft dst mt : Nat) (b : List Byte) : linkHas m d (linkOf (portForward src e ft dst mt b s) p) := by
  by_cases hp : p = e
  · subst hp
    unfold portForward portRun
    dsimp only
    rw [linkOf_onLink_same]
    exact linkHas_linkRun _ _ (linkHas_linkAdd_of _ h)
  · have hp : p = !e := by cases p <;> cases e <;> simp_all
    subst hp
    rw [linkOf_portForward_other]
    exact h

/-! ## What only sends -/

/-- The fabric but for its two links. -/
def linkless (f : Fab) : Fab := { f with linkE := default, linkW := default }

/-- Between two states, flits have been queued and sent, and nothing else has changed. -/
def sends (s t : State) : Prop := onlyChanges [.fab] s t ∧ linkless t.obs.fab = linkless s.obs.fab

theorem sends.refl (s : State) : sends s s := ⟨.refl _ s, rfl⟩

theorem sends.trans {s t u : State} (h : sends s t) (g : sends t u) : sends s u := ⟨h.1.trans g.1, g.2.trans h.2⟩

theorem sends.ite {s t u : State} (c : Prop) [Decidable c] (h : sends s t) (g : sends s u) : sends s (if c then t else u) := by
  split
  · exact h
  · exact g

theorem sends_onLink (e : Bool) (g : Link → Link) (s : State) : sends s (onLink e g s) :=
  ⟨(onlyChanges.refl _ s).onLink _ _, by cases e <;> rfl⟩

theorem sends_portForward (src : Nat) (e : Bool) (ft dst mt : Nat) (b : List Byte) (s : State) :
    sends s (portForward src e ft dst mt b s) := sends_onLink _ _ _

theorem sends_fabSend (dst ft mt : Nat) (b : List Byte) (s : State) : sends s (fabSend dst ft mt b s) :=
  sends_portForward _ _ _ _ _ _ _

theorem sends_goOn (e : Bool) (src ft dst mt : Nat) (b : List Byte) (s : State) : sends s (goOn e src ft dst mt b s) :=
  .ite _ (sends_portForward _ _ _ _ _ _ _) (.refl s)

/-- The broadcast on one port, where that is up. -/
theorem sends_fabBoth (ft mt : Nat) (b : List Byte) (s : State) : sends s (fabBoth ft mt b s) := by
  have h : sends s (if portUp s true then portSend true ft 0x3F mt b s else s) :=
    .ite _ (sends_portForward _ _ _ _ _ _ _) (.refl s)
  exact .ite _ (h.trans (sends_portForward _ _ _ _ _ _ _)) h

section Sends

variable {s t : State} (h : sends s t)
include h

theorem sends.get {α : Type} (f : Fab → α) (hf : ∀ x, f (linkless x) = f x) : f t.obs.fab = f s.obs.fab := by
  rw [← hf, h.2, hf]

theorem sends.portUp_eq (e : Bool) : portUp t e = portUp s e := by
  have h1 := h.get (fun f => f.eUp) fun _ => rfl
  have h2 := h.get (fun f => f.wUp) fun _ => rfl
  simp only [portUp, peerOk, portX, h.1.reg_eq aFab (by decide),
    fun w => h.1.reg_eq w (by unfold regPart; split <;> decide)]
  rw [h1, h2]

theorem sends.goesEast_eq (d : Nat) : goesEast t d = goesEast s d := by
  have h1 := h.get (fun f => f.members) fun _ => rfl
  have h2 := h.get (fun f => f.ccw) fun _ => rfl
  simp only [goesEast, h.portUp_eq]
  rw [h1, h2]

end Sends

/-! ## Broadcasts (R315) -/

/-- The fabric but for its links and the broadcasts it has taken. -/
def seenless (f : Fab) : Fab := { f with linkE := default, linkW := default, seen := [] }

/-- Between two states, broadcasts have been noted and flits sent, and nothing else has changed. -/
def casts (s t : State) : Prop := onlyChanges [.fab] s t ∧ seenless t.obs.fab = seenless s.obs.fab

theorem casts.refl (s : State) : casts s s := ⟨.refl _ s, rfl⟩

theorem casts.trans {s t u : State} (h : casts s t) (g : casts t u) : casts s u := ⟨h.1.trans g.1, g.2.trans h.2⟩

theorem sends.casts {s t : State} (h : sends s t) : casts s t :=
  ⟨h.1, congrArg (fun f : Fab => { f with seen := [] }) h.2⟩

theorem casts.ite {s t u : State} (c : Prop) [Decidable c] (h : casts s t) (g : casts s u) : casts s (if c then t else u) := by
  split
  · exact h
  · exact g

theorem casts_noteSeen (w : List Byte) (e : Bool) (s : State) : casts s (noteSeen w e s) := ⟨(onlyChanges.refl _ s).onFab _, rfl⟩

theorem casts_castOn (x : FMsg) (w : List Byte) (s : State) : casts s (castOn x w s) :=
  (casts_noteSeen _ _ _).trans (sends_goOn _ _ _ _ _ _ _).casts

theorem casts_fabCast (ft mt : Nat) (w b : List Byte) (s : State) : casts s (fabCast ft mt w b s) :=
  .ite _ (((casts_noteSeen _ _ _).trans (casts_noteSeen _ _ _)).trans (sends_fabBoth _ _ _ _).casts)
    ((casts_noteSeen _ _ _).trans (sends_portForward _ _ _ _ _ _ _).casts)

section Casts

variable {s t : State} (h : casts s t)
include h

theorem casts.get {α : Type} (f : Fab → α) (hf : ∀ x, f (seenless x) = f x) : f t.obs.fab = f s.obs.fab := by
  rw [← hf, h.2, hf]

theorem casts.portUp_eq (e : Bool) : portUp t e = portUp s e := by
  have h1 := h.get (fun f => f.eUp) fun _ => rfl
  have h2 := h.get (fun f => f.wUp) fun _ => rfl
  simp only [portUp, peerOk, portX, h.1.reg_eq aFab (by decide),
    fun w => h.1.reg_eq w (by unfold regPart; split <;> decide)]
  rw [h1, h2]

end Casts

/-- A broadcast taken in this GT. -/
def seenNow (w : List Byte) (s : State) : Prop := ∃ e ∈ s.obs.fab.seen, e.what = w ∧ e.seenAt = now s

theorem seenNow_noteSeen (w : List Byte) (e : Bool) (s : State) : seenNow w (noteSeen w e s) :=
  ⟨_, List.mem_cons_self, rfl, rfl⟩

theorem seenNow.noteSeen {w : List Byte} {s : State} (h : seenNow w s) (v : List Byte) (e : Bool) :
    seenNow w (noteSeen v e s) := by
  obtain ⟨x, hx, hw, ht⟩ := h
  refine ⟨x, List.mem_cons_of_mem _ (List.mem_filter.mpr ⟨hx, ?_⟩), hw, ht⟩
  rw [ht]
  exact decide_eq_true (by omega)

theorem seenNow.sends {w : List Byte} {s t : State} (h : seenNow w s) (g : sends s t) : seenNow w t := by
  obtain ⟨x, hx, hw, ht⟩ := h
  exact ⟨x, (g.get (fun f => f.seen) fun _ => rfl) ▸ hx, hw, by rw [g.1.now_eq]; exact ht⟩

theorem seenNow.fabCast {w : List Byte} {s : State} (h : seenNow w s) (ft mt : Nat) (v b : List Byte) :
    seenNow w (fabCast ft mt v b s) := by
  unfold Machine.fabCast
  split
  · exact ((h.noteSeen _ _).noteSeen _ _).sends (sends_fabBoth _ _ _ _)
  · exact (h.noteSeen _ _).sends (sends_portForward _ _ _ _ _ _ _)

theorem seenNow.seenBefore {w : List Byte} {s : State} (h : seenNow w s) : seenBefore s w = true := by
  obtain ⟨x, hx, hw, _⟩ := h
  exact List.any_eq_true.mpr ⟨x, hx, by simp [hw]⟩

/-! ## The inbox -/

/-- The fabric's inbox has been read. -/
def fabRead (s : State) : State := onFab (fun f => { f with inbox := [] }) s

theorem onlyChanges_fabRead (s : State) : onlyChanges [.fab] s (fabRead s) := (onlyChanges.refl _ s).onFab _

theorem withFab_acts {m : Nat} {p : FMsg → Bool} {f : FMsg → State → State} {x : FMsg} {s : State}
    (hi : s.obs.fab.inbox = [x]) (hm : leAt x.payload 0 1 = m) (hp : p x = true) :
    withFab m p f s = f x (fabRead s) := by
  unfold withFab
  rw [hi]
  exact if_pos (by simp [hm, hp])

theorem goesTo_withFab {i : Instr} {m : Nat} {p : FMsg → Bool} {f : FMsg → State → State} {x : FMsg} {s : State}
    (he : exec i s = run (inObs (withFab m p f)) s) (hr : running s)
    (hi : s.obs.fab.inbox = [x]) (hm : leAt x.payload 0 1 = m) (hp : p x = true) : goesTo i s (f x (fabRead s)) := by
  rw [← withFab_acts (f := f) hi hm hp]
  exact goesTo_inObs he hr

theorem portUp_fabRead (s : State) (e : Bool) : portUp (fabRead s) e = portUp s e := rfl

/-! ## Reports -/

theorem onlyChanges_fabMember {ps : List Part} {s t : State} (h : onlyChanges ps s t) (i c : Nat) (hv : .evq ∈ ps := by decide)
    (ho : .obsRegs ∈ ps := by decide) : onlyChanges ps s (fabMember i c t) := by
  have hr : regPart (aFab + 0xC) = .obsRegs := by decide
  exact (h.push 0 0x50 _ _ _ _ (by decide) (.inr (by decide)) (.inr (by decide)) (.inl hv) ho).orReg _ _ (hr ▸ ho)

theorem onlyChanges_rootChange {ps : List Part} {s t : State} (h : onlyChanges ps s t) (n o c : Nat)
    (hv : .evq ∈ ps := by decide) (ho : .obsRegs ∈ ps := by decide) : onlyChanges ps s (rootChange n o c t) := by
  have hr : regPart (aFab + 0xC) = .obsRegs := by decide
  exact (h.push 0 0x51 _ _ _ _ (by decide) (.inr (by decide)) (.inr (by decide)) (.inl hv) ho).orReg _ _ (hr ▸ ho)

theorem bit_fabMember (i c : Nat) (s : State) : bit (reg (fabMember i c s) (aFab + 0xC)) 1 = true := by
  rw [fabMember, bit_reg_orReg, show bit (2 : U32) 1 = true by decide, Bool.or_true]

theorem bit_rootChange (n o c : Nat) (s : State) : bit (reg (rootChange n o c s) (aFab + 0xC)) 2 = true := by
  rw [rootChange, bit_reg_orReg, show bit (4 : U32) 2 = true by decide, Bool.or_true]

end Sys2Proof.Machine
end

section
/-! SUPPORT. Fabric freezes (R98, R315): requests, distribution and answers. -/

namespace Sys2Proof.Machine

open Sys2Proof.Safety

set_option Elab.async false

/-! ## A freeze is scheduled -/

/-- The distributed freeze of sequence q at T, scheduled here. -/
def fabSet (q T : Nat) (s : State) : State :=
  onCut (fun c => addIssued (newFreeze T 1 true q [] false s) { c with sw := c.sw ++ [newFreeze T 1 true q [] false s] }) s

/-- A distributed freeze may be scheduled: time is aligned, T is far enough on, and no hang, no other freeze near T and
no full list stands against it. -/
def fabMayFreeze (T : Nat) (s : State) : Prop :=
  s.aon.misalign = false ∧ engGt s + 64 ≤ T ∧ s.obs.hang.seq = none ∧ (∀ f ∈ freezes s, f.t + 63 < T ∨ T + 63 < f.t) ∧
    s.obs.cut.sw.length < 4

theorem fabMayFreeze_of_frame {T : Nat} {s u : State} (h : fabMayFreeze T s) (hu : onlyChanges [.fab] s u) :
    fabMayFreeze T u := by
  obtain ⟨h1, h2, h3, h4, h5⟩ := h
  have hi : u.aon.misalign = s.aon.misalign := (hu.2.2.2 .ident (by decide)).2.2.1
  have hc := hu.cut_eq
  refine ⟨hi.trans h1, ?_, hu.hang_eq ▸ h3, ?_, hc ▸ h5⟩
  · rwa [engGt_of_skew hu (by rw [hu.hed_eq])]
  · simpa only [freezes, hc] using h4

theorem newFreeze_fabric_id {q T : Nat} {s : State} (h : fabMayFreeze T s) :
    (newFreeze T 1 true q [] false s).id = nextFreezeId s := by
  obtain ⟨-, -, -, hf, -⟩ := h
  have hn : (freezes s).find? (fun f => f.t == T) = none := by
    rw [List.find?_eq_none]
    intro f hm
    have := hf f hm
    simp only [beq_iff_eq]
    omega
  unfold newFreeze
  rw [hn]

theorem scheduleFab_new {q T : Nat} {s : State} (h : fabMayFreeze T s) :
    scheduleFab q T [] s = .ok (nextFreezeId s, fabSet q T s) := by
  have hid := newFreeze_fabric_id (q := q) h
  obtain ⟨h1, h2, h3, h4, h5⟩ := h
  have hn : s.obs.cut.sw.find? (fun f => decide (f.t ≤ T + 63) && decide (T ≤ f.t + 63)) = none := by
    rw [List.find?_eq_none]
    intro f hf
    have := h4 f (List.mem_append_left _ hf)
    simp only [Bool.and_eq_true, decide_eq_true_eq]
    omega
  unfold scheduleFab swFreeze
  rw [if_neg (by simp [h1]), if_neg (by omega), if_neg (by simp [h3]), hn]
  dsimp only
  rw [if_neg (by omega)]
  dsimp only
  rw [hid]
  rfl

/-- Another instance's freeze is scheduled and answered. -/
theorem otherFreeze_spec {q T req : Nat} {s u : State} (hm : fabMayFreeze T s) (hu : onlyChanges [.fab] s u) :
    ∃ f, onlyChanges [.fab, .cut] s (otherFreeze req q T u) ∧
      linkless (otherFreeze req q T u).obs.fab = linkless u.obs.fab ∧
      (otherFreeze req q T u).obs.cut.sw = s.obs.cut.sw ++ [f] ∧ f.t = T ∧ f.fabric = true ∧ f.fabSeq = q ∧
      f.id = nextFreezeId s := by
  have hn := fabMayFreeze_of_frame hm hu
  have e : otherFreeze req q T u = answerFreeze req q T 2 0 (fabSet q T u) := by
    unfold otherFreeze
    rw [scheduleFab_new hn]
  have hs : sends (fabSet q T u) (answerFreeze req q T 2 0 (fabSet q T u)) := sends_fabSend _ _ _ _ _
  have hc : onlyChanges [.fab, .cut] s (fabSet q T u) := (hu.mono (by decide)).onCut _
  rw [e]
  refine ⟨newFreeze T 1 true q [] false u, hc.trans (hs.1.mono (by decide)), hs.2, ?_, rfl, rfl, rfl, ?_⟩
  · rw [hs.1.cut_eq]
    show u.obs.cut.sw ++ _ = _
    rw [hu.cut_eq]
  · rw [newFreeze_fabric_id hn, nextFreezeId, nextFreezeId, hu.cut_eq]

theorem freezeRequest_schedules (T : Nat) (x : FMsg) (s : State) (hr : running s) (hi : s.obs.fab.inbox = [x])
    (hm : leAt x.payload 0 1 = 0x30) (hk : leAt x.payload 4 1 = 0) (ht : leAt x.payload 8 8 = T)
    (hroot : s.obs.fab.root = true) (hf : fabMayFreeze T s) :
    ∃ t f, goesTo .freezeRequest s t ∧ onlyChanges [.fab, .cut] s t ∧ t.obs.fab.inbox = [] ∧
      t.obs.fab.fabSeq = s.obs.fab.fabSeq % 0xFFFF + 1 ∧ t.obs.cut.sw = s.obs.cut.sw ++ [f] ∧ f.t = T ∧
      f.fabric = true ∧ f.fabSeq = s.obs.fab.fabSeq % 0xFFFF + 1 ∧ f.id = nextFreezeId s := by
  have hg := goesTo_withFab (i := .freezeRequest) rfl hr hi hm (by simp [isKind, hk])
  let v := onFab (fun f => { f with fabSeq := nextFabSeq s }) (fabRead s)
  let req := leAt x.payload 5 1 % 64
  have e : ∃ w b, takeRequest x (fabRead s) = otherFreeze req (nextFabSeq s) T (fabCast 3 0x30 w b v) := by
    refine ⟨freezeKey (nextFabSeq s), freezeBody 1 req (nextFabSeq s) T 0 0, ?_⟩
    unfold takeRequest
    rw [if_neg (by show ¬ (!s.obs.fab.root) = true; simp [hroot]), ht]
    rfl
  obtain ⟨w, b, e⟩ := e
  rw [e] at hg
  have hc := casts_fabCast 3 0x30 w b v
  generalize fabCast 3 0x30 w b v = u at hg hc
  have hu : onlyChanges [.fab] s u := ((onlyChanges_fabRead s).onFab _).trans hc.1
  obtain ⟨f, h1, h2, h3⟩ := otherFreeze_spec (q := nextFabSeq s) (req := req) hf hu
  refine ⟨_, f, hg, h1, ?_, ?_, h3⟩
  · exact (congrArg Fab.inbox h2).trans (hc.get (·.inbox) fun _ => rfl)
  · exact (congrArg Fab.fabSeq h2).trans (hc.get (·.fabSeq) fun _ => rfl)

theorem seenNow_castOn (x : FMsg) (w : List Byte) (s : State) : seenNow w (castOn x w s) :=
  (seenNow_noteSeen _ _ _).sends (sends_goOn _ _ _ _ _ _ _)

theorem freezeDistribute_schedules (T : Nat) (x : FMsg) (s : State) (hr : running s) (hi : s.obs.fab.inbox = [x])
    (hm : leAt x.payload 0 1 = 0x30) (hk : leAt x.payload 4 1 = 1) (ht : leAt x.payload 8 8 = T)
    (ho : leAt x.payload 5 1 % 64 ≠ s.aon.instId) (hn : seenBefore s (freezeKey (leAt x.payload 6 2)) = false)
    (hf : fabMayFreeze T s) :
    ∃ t f, goesTo .freezeDistribute s t ∧ onlyChanges [.fab, .cut] s t ∧ t.obs.fab.inbox = [] ∧
      seenBefore t (freezeKey (leAt x.payload 6 2)) = true ∧ t.obs.cut.sw = s.obs.cut.sw ++ [f] ∧ f.t = T ∧
      f.fabric = true ∧ f.fabSeq = leAt x.payload 6 2 := by
  have hg := goesTo_withFab (i := .freezeDistribute) rfl hr hi hm (by simp [isKind, hk])
  have hc := casts_castOn x (freezeKey (leAt x.payload 6 2)) (fabRead s)
  have hseen := (seenNow_castOn x (freezeKey (leAt x.payload 6 2)) (fabRead s)).seenBefore
  have hrep : isRepeat (fabRead s) (freezeKey (leAt x.payload 6 2)) (!x.east) = false := by
    unfold seenBefore at hn
    rw [List.any_eq_false] at hn
    unfold isRepeat
    rw [List.any_eq_false]
    intro e he
    have := hn e he
    simp only [Bool.not_eq_true] at this
    simp [this]
  have hb : seenBefore (fabRead s) (freezeKey (leAt x.payload 6 2)) = false := hn
  have hid := (hc.1.2.2.2 .ident (by decide)).1
  have e : takeDistribute x (fabRead s) = otherFreeze (leAt x.payload 5 1 % 64) (leAt x.payload 6 2) T
      (onFab (fun f => { f with fabSeq := leAt x.payload 6 2 }) (castOn x (freezeKey (leAt x.payload 6 2)) (fabRead s))) := by
    unfold takeDistribute
    dsimp only
    rw [hrep, hb, ht]
    simp only [Bool.false_eq_true, if_false, Bool.not_false, Bool.not_true]
    rw [if_neg]
    show ¬ leAt x.payload 5 1 % 64 = (castOn x (freezeKey (leAt x.payload 6 2)) (fabRead s)).aon.instId
    rw [hid]
    exact ho
  rw [e] at hg
  generalize castOn x (freezeKey (leAt x.payload 6 2)) (fabRead s) = u at hg hc hseen
  have hu : onlyChanges [.fab] s (onFab (fun f => { f with fabSeq := leAt x.payload 6 2 }) u) :=
    ((onlyChanges_fabRead s).trans hc.1).onFab _
  obtain ⟨f, h1, h2, h3, h4, h5, h6, _⟩ := otherFreeze_spec (q := leAt x.payload 6 2) (req := leAt x.payload 5 1 % 64) hf hu
  refine ⟨_, f, hg, h1, ?_, ?_, h3, h4, h5, h6⟩
  · exact (congrArg Fab.inbox h2).trans (hc.get (·.inbox) fun _ => rfl)
  · unfold seenBefore at hseen ⊢
    have h7 := congrArg Fab.seen h2
    exact (congrArg (fun l => l.any fun e => e.what == freezeKey (leAt x.payload 6 2)) h7).trans hseen

theorem freezeDistribute_repeats (x : FMsg) (s : State) (hr : running s) (hi : s.obs.fab.inbox = [x])
    (hm : leAt x.payload 0 1 = 0x30) (hk : leAt x.payload 4 1 = 1)
    (hn : seenBefore s (freezeKey (leAt x.payload 6 2)) = true) :
    ∃ t, goesTo .freezeDistribute s t ∧ onlyChanges [.fab] s t ∧ t.obs.fab.inbox = [] := by
  have hg := goesTo_withFab (i := .freezeDistribute) rfl hr hi hm (by simp [isKind, hk])
  have hb : seenBefore (fabRead s) (freezeKey (leAt x.payload 6 2)) = true := hn
  have hc : casts (fabRead s) (takeDistribute x (fabRead s)) := by
    unfold takeDistribute
    dsimp only
    rw [hb]
    simp only [Bool.not_true, Bool.not_false, if_true]
    exact .ite _ (.refl _) (casts_castOn _ _ _)
  exact ⟨_, hg, (onlyChanges_fabRead s).trans hc.1, hc.get (·.inbox) fun _ => rfl⟩

/-! ## Answers at the requester -/

/-- Two states show the same of a ring's completion queue. -/
def queueAgrees (r : Nat) (s t : State) : Prop :=
  (ringOf t r).cqTail = (ringOf s r).cqTail ∧ (ringOf t r).phase = (ringOf s r).phase ∧
    (ringOf t r).cqBase = (ringOf s r).cqBase ∧ reg t (aRing r) = reg s (aRing r) ∧ engGt t = engGt s

theorem queues_complete_of_queue {r : Nat} {s t : State} (ha : queueAgrees r s t) (h : Held) (st : Nat) (res : U32) :
    queues r h st res s (complete r h st res t) := by
  obtain ⟨h1, h2, h3, h4, h5⟩ := ha
  have hM : ringM t r = ringM s r := by simp [ringM, h4]
  have hP : ringPart t r = ringPart s r := by simp [ringPart, h4]
  refine ⟨?_, ?_, ?_⟩
  · rw [pieces_complete]
    refine List.mem_append_right _ (List.mem_singleton.mpr ?_)
    simp [entryPiece, entryOf, h1, h2, h3, h5, hP]
  · rw [ringOf_complete, ← h1, ← hM]
    rfl
  · rw [ringOf_complete, ← h1, ← h2, ← hM]
    rfl

theorem queueAgrees_of_ring {r : Nat} {s t : State} (h : ringAgrees r s t) : queueAgrees r s t := by
  rw [queueAgrees, h.ringOf_eq]
  exact ⟨rfl, rfl, rfl, h.2⟩

theorem queueAgrees_setStage {r : Nat} {s t : State} (h : queueAgrees r s t) (seq : Nat) (st : Stage) :
    queueAgrees r s (setStage r seq st t) := by
  unfold queueAgrees setStage
  rw [ringOf_onRing_same]
  exact h

/-- The one request that stands, where its flit belongs to it. -/
theorem answered_one {r T q left id : Nat} {x : FMsg} {h : Held} {s : State} (hi : leAt x.payload 5 1 % 64 = s.aon.instId)
    (hc : s.obs.fab.freezeCmds = [⟨r, h.seq, T⟩]) (hh : heldOf s r h.seq = some h) (hst : h.stage = .fabFreeze q left id)
    (hq : q = leAt x.payload 6 2) : answered x (fabRead s) = some (r, h, q, left, id, T) := by
  have hs : fzStanding (fabRead s) = [(r, h, q, left, id, T)] := by
    unfold fzStanding
    rw [show (fabRead s).obs.fab.freezeCmds = [⟨r, h.seq, T⟩] from hc]
    simp only [List.filterMap_cons, List.filterMap_nil]
    rw [show heldOf (fabRead s) r h.seq = some h from hh]
    dsimp only
    rw [hst]
  unfold answered
  rw [if_neg (show ¬ leAt x.payload 5 1 % 64 ≠ (fabRead s).aon.instId from fun hn => hn hi)]
  unfold fzFind
  rw [hs, ← hq]
  simp

theorem freezeCmds_dropFz {r T seq : Nat} {s : State} (hc : s.obs.fab.freezeCmds = [⟨r, seq, T⟩]) :
    (dropFz r seq s).obs.fab.freezeCmds = [] := by
  show s.obs.fab.freezeCmds.filter _ = []
  rw [hc]
  simp

theorem onlyChanges_dropFz {ps : List Part} {s t : State} (h : onlyChanges ps s t) (r seq : Nat) (hf : .fab ∈ ps := by decide) :
    onlyChanges ps s (dropFz r seq t) := h.onFab _ hf

theorem heldOf_setStage {r seq : Nat} {st : Stage} {h : Held} {s : State} (hu : (ringOf s r).cur = none)
    (hp : (ringOf s r).parked.find? (fun y => y.seq == seq) = some h) :
    heldOf (setStage r seq st s) r seq = some { h with stage := st } := by
  have hs : h.seq = seq := by simpa using List.find?_some hp
  unfold heldOf setStage
  dsimp only
  rw [ringOf_onRing_same]
  dsimp only
  rw [hu]
  dsimp only [Option.map_none]
  rw [List.find?_map]
  have hf : (fun y : Held => y.seq == seq) ∘ (fun x : Held => if x.seq = seq then { x with stage := st } else x) =
      fun y => y.seq == seq := by
    funext y
    dsimp only [Function.comp]
    split <;> rfl
  rw [hf, hp, Option.map_some, if_pos hs]

theorem freezeAccepted_counts (r q T left id : Nat) (x : FMsg) (h : Held) (s : State) (hr : running s)
    (hi : s.obs.fab.inbox = [x]) (hm : leAt x.payload 0 1 = 0x30) (hk : leAt x.payload 4 1 = 2)
    (ho : leAt x.payload 5 1 % 64 = s.aon.instId) (hc : s.obs.fab.freezeCmds = [⟨r, h.seq, T⟩])
    (hu : (ringOf s r).cur = none) (hp : (ringOf s r).parked.find? (fun y => y.seq == h.seq) = some h)
    (hst : h.stage = .fabFreeze q left id) (hq : q = leAt x.payload 6 2) (hid : id ≠ 0) :
    (left = 1 → ∃ t, goesTo .freezeAccepted s t ∧ onlyChanges [.smp, .cmd, .fab] s t ∧ t.obs.fab.inbox = [] ∧
      queues r h stOk (lo32 id) s t ∧ t.obs.fab.freezeCmds = []) ∧
    (1 < left → ∃ t, goesTo .freezeAccepted s t ∧ onlyChanges [.cmd, .fab] s t ∧ t.obs.fab.inbox = [] ∧
      heldOf t r h.seq = some { h with stage := .fabFreeze q (left - 1) id } ∧
      t.obs.fab.freezeCmds = s.obs.fab.freezeCmds) := by
  have hg := goesTo_withFab (i := .freezeAccepted) rfl hr hi hm (by simp [isKind, hk])
  have ha := answered_one (x := x) ho hc ((heldOf_of_cur hu).trans hp) hst hq
  have e : takeAccepted x (fabRead s) = fabFreezeDone r h (left - 1) id
      (setStage r h.seq (.fabFreeze q (left - 1) id) (fabRead s)) := by
    unfold takeAccepted
    rw [ha, ← hq]
  rw [e] at hg
  have hs : onlyChanges [.cmd, .fab] s (setStage r h.seq (.fabFreeze q (left - 1) id) (fabRead s)) :=
    ((onlyChanges_fabRead s).mono (by decide)).setStage _ _ _
  have hqa := queueAgrees_setStage (queueAgrees_of_ring (ringAgrees_of_frame (onlyChanges_fabRead s) r rfl)) h.seq
    (.fabFreeze q (left - 1) id)
  have hheld := heldOf_setStage (st := .fabFreeze q (left - 1) id) (s := fabRead s) hu hp
  have hfab : (setStage r h.seq (.fabFreeze q (left - 1) id) (fabRead s)).obs.fab = (fabRead s).obs.fab := rfl
  generalize setStage r h.seq (.fabFreeze q (left - 1) id) (fabRead s) = u at hg hs hqa hheld hfab
  refine ⟨fun hl => ?_, fun hl => ?_⟩
  · have e : fabFreezeDone r h (left - 1) id u = complete r h stOk (lo32 id) (dropFz r h.seq u) :=
      (if_pos ⟨by omega, hid⟩).trans (finish_ok r h (by decide) _ _)
    rw [e] at hg
    have hd := onlyChanges_dropFz (hs.mono (qs := [.smp, .cmd, .fab]) (by decide)) r h.seq
    refine ⟨_, hg, hd.complete _ _ _ _, ?_, queues_complete_of_queue (t := dropFz r h.seq u) hqa _ _ _, ?_⟩
    · show u.obs.fab.inbox = []
      rw [hfab]
      rfl
    · exact freezeCmds_dropFz (T := T) (by rw [hfab]; exact hc)
  · have e : fabFreezeDone r h (left - 1) id u = u := if_neg (by omega)
    rw [e] at hg
    exact ⟨_, hg, hs, by rw [hfab]; rfl, hheld, by rw [hfab]; rfl⟩

theorem freezeRefused_ends (r q T left id : Nat) (x : FMsg) (h : Held) (s : State) (hr : running s)
    (hi : s.obs.fab.inbox = [x]) (hm : leAt x.payload 0 1 = 0x30) (hk : leAt x.payload 4 1 = 3)
    (ho : leAt x.payload 5 1 % 64 = s.aon.instId) (hc : s.obs.fab.freezeCmds = [⟨r, h.seq, T⟩])
    (hh : heldOf s r h.seq = some h) (hst : h.stage = .fabFreeze q left id) (hq : q = leAt x.payload 6 2) :
    ∃ t, goesTo .freezeRefused s t ∧ onlyChanges [.smp, .cmd, .fab] s t ∧ t.obs.fab.inbox = [] ∧
      queues r h stNoResource 0 s t ∧ t.obs.fab.freezeCmds = [] := by
  have hg := goesTo_withFab (i := .freezeRefused) rfl hr hi hm (by simp [isKind, hk])
  have e : takeRefused x (fabRead s) = complete r h stNoResource 0 (dropFz r h.seq (fabRead s)) := by
    unfold takeRefused
    rw [answered_one ho hc hh hst hq]
    exact fail_ok r h (by decide) _
  rw [e] at hg
  have hf := onlyChanges_dropFz (onlyChanges_fabRead s) r h.seq
  exact ⟨_, hg, (hf.mono (qs := [.smp, .cmd, .fab]) (by decide)).complete _ _ _ _, rfl,
    queues_complete (ringAgrees_of_frame hf r rfl) _ _ _, freezeCmds_dropFz (s := fabRead s) hc⟩

end Sys2Proof.Machine
end

section
/-! CERTIFICATE. Fabric freezes, failures and flits (chapter 13). -/

namespace Sys2Proof.Machine

open Sys2Proof.Safety

set_option Elab.async false

/-! ## Ports that fail (R317) -/

/-- A port is down. -/
def portLost (east : Bool) (s : State) : State :=
  onFab (fun f => if east then { f with eUp := false } else { f with wUp := false }) s

/-- Is a port trained and not failed? -/
def portTrained (s : State) (east : Bool) : Bool := if east then s.obs.fab.eUp else s.obs.fab.wUp

theorem sends_reroute (east : Bool) (s : State) : sends s (reroute east s) := by
  unfold reroute
  dsimp only
  split
  · exact (sends_onLink _ _ _).trans (sends_onLink _ _ _)
  · exact sends_onLink _ _ _

theorem reroute_empties (east : Bool) (s : State) :
    (linkOf (reroute east s) east).kept = [] ∧ (linkOf (reroute east s) east).waiting = [] := by
  have hl (g : Link → Link) (u : State) : linkOf (portRun (!east) g u) east = linkOf u east := by
    unfold portRun
    cases east <;> rfl
  unfold reroute
  dsimp only
  split
  · rw [hl, linkOf_onLink_same]
    exact ⟨rfl, rfl⟩
  · rw [linkOf_onLink_same]
    exact ⟨rfl, rfl⟩

/-- Frames that no longer reach the root are lost. -/
def sentLost (s : State) : State :=
  if portUp s true || portUp s false || s.obs.fab.root then s
  else bumpReg (aEgr + 0x10) 0 32 s.obs.fab.sent.length (onFab (fun f => { f with sent := [] }) s)

theorem onlyChanges_sentLost (s : State) : onlyChanges [.fab, .obsRegs] s (sentLost s) :=
  .ite _ (.refl _ s) (((onlyChanges.refl _ s).onFab _).bumpReg _ _ _ _)

theorem fab_sentLost (s : State) : ∃ l, (sentLost s).obs.fab = { s.obs.fab with sent := l } := by
  unfold sentLost
  split
  · exact ⟨s.obs.fab.sent, rfl⟩
  · refine ⟨[], ?_⟩
    rw [((onlyChanges.refl [.obsRegs] (onFab (fun f => { f with sent := [] }) s)).bumpReg (aEgr + 0x10) 0 32
      s.obs.fab.sent.length).fab_eq]
    rfl

/-- The port's links as its failure leaves them. -/
def portMoved (east : Bool) (s : State) : State := reroute east (bumpReg (aFab + 8) 8 8 1 (portLost east s))

theorem portFails_eq (east : Bool) (s : State) : portFails east s = sweepGens (fabMember (sentLost (portMoved east s)).aon.instId
    (if east then 4 else 5) (onFab (fun f => { f with count := reached (sentLost (portMoved east s)) })
      (sentLost (portMoved east s)))) := rfl

theorem onlyChanges_portFails (east : Bool) (s : State) :
    onlyChanges [.fab, .obsRegs, .evq, .keys] s (portFails east s) := by
  have h : onlyChanges [.fab, .obsRegs] s (portMoved east s) :=
    (((onlyChanges.refl _ s).onFab _).bumpReg _ _ _ _).trans ((sends_reroute _ _).1.mono (by decide))
  have h := h.trans (onlyChanges_sentLost _)
  rw [portFails_eq]
  exact onlyChanges_sweepGens (onlyChanges_fabMember ((h.mono (by decide)).onFab _) _ _)

theorem fab_portFails (east : Bool) (s : State) : ∃ l n,
    (portFails east s).obs.fab = { (portMoved east s).obs.fab with sent := l, count := n } := by
  obtain ⟨l, hl⟩ := fab_sentLost (portMoved east s)
  refine ⟨l, reached (sentLost (portMoved east s)), ?_⟩
  rw [portFails_eq]
  generalize sentLost (portMoved east s) = u at hl
  rw [(onlyChanges_sweepGens (.refl [.keys, .evq, .obsRegs] _)).fab_eq,
    (onlyChanges_fabMember (.refl [.evq, .obsRegs] _) _ _).fab_eq]
  have hc : (onFab (fun f => { f with count := reached u }) u).obs.fab = { u.obs.fab with count := reached u } := rfl
  rw [hc, hl]

theorem linkLess_portMoved (east : Bool) (s : State) : linkless (portMoved east s).obs.fab = linkless (portLost east s).obs.fab := by
  refine (sends_reroute _ _).2.trans ?_
  rw [((onlyChanges.refl [.obsRegs] (portLost east s)).bumpReg (aFab + 8) 8 8 1).fab_eq]

theorem portFails_spec (east : Bool) (s : State) :
    portTrained (portFails east s) east = false ∧ portTrained (portFails east s) (!east) = portTrained s (!east) ∧
      (portFails east s).obs.fab.members = s.obs.fab.members ∧
      (linkOf (portFails east s) east).kept = [] ∧ (linkOf (portFails east s) east).waiting = [] ∧
      bit (reg (portFails east s) (aFab + 0xC)) 1 = true := by
  obtain ⟨l, n, hf⟩ := fab_portFails east s
  have hm := linkLess_portMoved east s
  have he : (portMoved east s).obs.fab.eUp = (portLost east s).obs.fab.eUp :=
    (have h := congrArg Fab.eUp hm; h)
  have hw : (portMoved east s).obs.fab.wUp = (portLost east s).obs.fab.wUp :=
    (have h := congrArg Fab.wUp hm; h)
  have hme : (portMoved east s).obs.fab.members = (portLost east s).obs.fab.members :=
    (have h := congrArg Fab.members hm; h)
  have hlink : linkOf (portFails east s) east = linkOf (portMoved east s) east := by
    unfold linkOf
    rw [hf]
  obtain ⟨hk, hq⟩ := reroute_empties east (bumpReg (aFab + 8) 8 8 1 (portLost east s))
  have hbit : bit (reg (portFails east s) (aFab + 0xC)) 1 = true := by
    rw [portFails_eq, reg_sweepGens (by unfold spared; decide)]
    exact bit_fabMember _ _ _
  refine ⟨?_, ?_, ?_, ?_, ?_, hbit⟩
  · unfold portTrained
    rw [hf]
    dsimp only
    rw [he, hw]
    cases east <;> rfl
  · unfold portTrained
    rw [hf]
    dsimp only
    rw [he, hw]
    cases east <;> rfl
  · rw [hf]
    dsimp only
    rw [hme]
    cases east <;> rfl
  · rw [hlink]
    exact hk
  · rw [hlink]
    exact hq

theorem opPortDown_acts {east lost : Bool} {s : State} (hu : portTrained s east = true)
    (ht : (linkOf s east).lastFlit + 3 * 2 ^ 14 ≤ now s) : opPortDown east lost s =
      match neighbour (portFails east s) east with
      | some m => if (lost || ((portFails east s).obs.fab.members.length == 2 && !(portFails east s).obs.fab.eUp &&
          !(portFails east s).obs.fab.wUp)) && m.id != (portFails east s).aon.instId then departs east m (portFails east s)
        else portFails east s
      | none => portFails east s := if_pos ⟨hu, ht⟩

theorem portDown_alone (east : Bool) (s : State) (hr : running s)
    (hu : (if east then s.obs.fab.eUp else s.obs.fab.wUp) = true) (ht : (linkOf s east).lastFlit + 3 * 2 ^ 14 ≤ now s)
    (hn : s.obs.fab.members.length ≠ 2) :
    ∃ t, goesTo (.fabricPortDown ⟨east, false⟩) s t ∧ (if east then t.obs.fab.eUp else t.obs.fab.wUp) = false ∧
      (if east then t.obs.fab.wUp else t.obs.fab.eUp) = (if east then s.obs.fab.wUp else s.obs.fab.eUp) ∧
      bit (reg t (aFab + 0xC)) 1 = true ∧ (linkOf t east).kept = [] ∧ (linkOf t east).waiting = [] ∧
      t.obs.fab.members = s.obs.fab.members := by
  obtain ⟨h1, h2, h3, h4, h5, h6⟩ := portFails_spec east s
  have hg : goesTo (.fabricPortDown ⟨east, false⟩) s (opPortDown east false s) := goesTo_inObs rfl hr
  have e : opPortDown east false s = portFails east s := by
    rw [opPortDown_acts hu ht]
    split
    · rw [h3, if_neg (by simp [hn])]
    · rfl
  rw [e] at hg
  refine ⟨_, hg, h1, ?_, h6, h4, h5, h3⟩
  cases east <;> exact h2

theorem ids_departed (i : Nat) (l : List Member) :
    ((l.filter fun x => x.id != i).zipIdx.map fun e => ({ e.1 with hops := e.2 } : Member)).map (·.id) =
      (l.map (·.id)).filter (· != i) := by
  rw [List.map_map, List.filter_map]
  have h (l : List Member) (n : Nat) : (l.zipIdx n).map ((fun m : Member => m.id) ∘ fun e => { e.1 with hops := e.2 }) =
      l.map (·.id) := by
    induction l generalizing n with
    | nil => rfl
    | cons x l ih => rw [List.zipIdx_cons, List.map_cons, List.map_cons, ih]; rfl
  rw [h]
  rfl

theorem portDown_departs (east : Bool) (m : Member) (s : State) (hr : running s)
    (hu : (if east then s.obs.fab.eUp else s.obs.fab.wUp) = true) (ht : (linkOf s east).lastFlit + 3 * 2 ^ 14 ≤ now s)
    (hm : neighbour s east = some m) (hi : m.id ≠ s.aon.instId) :
    ∃ t, goesTo (.fabricPortDown ⟨east, true⟩) s t ∧ (if east then t.obs.fab.eUp else t.obs.fab.wUp) = false ∧
      (if east then t.obs.fab.goneE else t.obs.fab.goneW) = true ∧
      t.obs.fab.members.map (·.id) = (s.obs.fab.members.map (·.id)).filter (· != m.id) ∧
      bit (reg t (aFab + 0xC)) 1 = true := by
  obtain ⟨h1, _, h3, _, _, _⟩ := portFails_spec east s
  have hid := ((onlyChanges_portFails east s).2.2.2 .ident (by decide)).1
  have hg : goesTo (.fabricPortDown ⟨east, true⟩) s (opPortDown east true s) := goesTo_inObs rfl hr
  have e : opPortDown east true s = departs east m (portFails east s) := by
    have hn : neighbour (portFails east s) east = some m := by
      unfold neighbour at hm ⊢
      rw [h3]
      exact hm
    rw [opPortDown_acts hu ht, hn]
    dsimp only
    rw [hid, if_pos (by simp [hi])]
  rw [e] at hg
  generalize portFails east s = u at hg h1 h3
  let v := onFab (fun f => { f with
    members := (f.members.filter fun x => x.id != m.id).zipIdx.map fun e => { e.1 with hops := e.2 }
    goneE := f.goneE || east, goneW := f.goneW || !east }) u
  have hf : (departs east m u).obs.fab = { v.obs.fab with count := reached v } := by
    have := (onlyChanges_fabMember (.refl [.evq, .obsRegs] (onFab (fun f => { f with count := reached v }) v)) m.id 2).fab_eq
    exact this
  refine ⟨_, hg, ?_, ?_, ?_, bit_fabMember _ _ _⟩
  · rw [hf]
    cases east <;> exact h1
  · rw [hf]
    cases east
    · exact Bool.or_true _
    · exact Bool.or_true _
  · rw [hf, ← h3]
    exact ids_departed m.id u.obs.fab.members

/-! ## A new root (R318) -/

theorem elected_spec {l : List Member} {m : Member} (h : elected l = some m) :
    m ∈ l ∧ ∀ x ∈ l, rankOf x.prio x.seed ≤ rankOf m.prio m.seed := by
  induction l generalizing m with
  | nil => exact absurd h (by simp [elected])
  | cons y l ih =>
    unfold elected at h
    cases hl : elected l with
    | none =>
      have hn : l = [] := by
        cases l with
        | nil => rfl
        | cons z l =>
          unfold elected at hl
          split at hl
          · split at hl <;> exact absurd hl (by simp)
          · exact absurd hl (by simp)
      rw [hl] at h
      obtain rfl := Option.some.inj h
      subst hn
      simp
    | some b =>
      obtain ⟨hb, hmax⟩ := ih hl
      rw [hl] at h
      dsimp only at h
      split at h
      · obtain rfl := Option.some.inj h
        refine ⟨List.mem_cons_self, fun x hx => ?_⟩
        rcases List.mem_cons.mp hx with rfl | hx
        · exact Nat.le_refl _
        · have := hmax x hx
          omega
      · obtain rfl := Option.some.inj h
        refine ⟨List.mem_cons_of_mem _ hb, fun x hx => ?_⟩
        rcases List.mem_cons.mp hx with rfl | hx
        · omega
        · exact hmax x hx

theorem elected_isSome {l : List Member} (h : l ≠ []) : (elected l).isSome = true := by
  cases l with
  | nil => exact absurd rfl h
  | cons y l =>
    unfold elected
    split
    · split <;> rfl
    · rfl

theorem elected_of_highest {l : List Member} {m : Member} (hm : m ∈ l)
    (h : ∀ x ∈ l, x = m ∨ rankOf x.prio x.seed < rankOf m.prio m.seed) : elected l = some m := by
  obtain ⟨b, hb⟩ := Option.isSome_iff_exists.mp (elected_isSome (List.ne_nil_of_mem hm))
  obtain ⟨hbm, hmax⟩ := elected_spec hb
  rcases h b hbm with rfl | hlt
  · exact hb
  · have := hmax m hm
    omega

theorem rootLost_elects (east west : List Nat) (other : Nat) (seg : List Member) (m : Member) (s : State) (hr : running s)
    (hs : s.obs.fab.state = 2) (hseg : seg = segment (east ++ west) s) (hm : elected seg = some m)
    (hn : (seg.any fun x => x.id == s.obs.fab.rootId) = false) (hc : s.obs.fab.freezeCmds = []) :
    ∃ t, goesTo (.rootLost false east west other) s t ∧ onlyChanges [.fab, .evq, .obsRegs] s t ∧ t.obs.fab.rootId = m.id ∧
      t.obs.fab.root = (m.id == s.aon.instId) ∧ t.obs.fab.count = seg.length ∧ bit (reg t (aFab + 0xC)) 2 = true ∧
      m ∈ seg ∧ ∀ x ∈ seg, rankOf x.prio x.seed ≤ rankOf m.prio m.seed := by
  let u := onFab (fun f => { f with rootId := m.id, root := m.id == s.aon.instId })
    (onFab (fun f => { f with count := seg.length }) s)
  let v := rootChange m.id s.obs.fab.rootId 2 u
  have hv : onlyChanges [.evq, .obsRegs] u v := onlyChanges_rootChange (.refl _ u) _ _ _
  have hz : fzStanding v = [] := by
    unfold fzStanding
    rw [hv.fab_eq, show u.obs.fab.freezeCmds = [] from hc]
    rfl
  have e : opRootLost false (east ++ west) other s = v := by
    unfold opRootLost
    simp only [← hseg, Bool.false_eq_true, if_false, hm, Bool.not_false, if_true]
    rw [if_neg (by simp [hs]), if_neg (by simp [hn])]
    show List.foldl _ v ((fzStanding v).filter _) = v
    rw [hz]
    rfl
  have hg : goesTo (.rootLost false east west other) s (opRootLost false (east ++ west) other s) := goesTo_inObs rfl hr
  rw [e] at hg
  have hu : onlyChanges [.fab, .evq, .obsRegs] s u := ((onlyChanges.refl _ s).onFab _).onFab _
  refine ⟨v, hg, hu.trans (hv.mono (by decide)), ?_, ?_, ?_, bit_rootChange _ _ _ _, elected_spec hm⟩ <;> rw [hv.fab_eq] <;> rfl

theorem rootLost_rejoins (east west : List Nat) (other : Nat) (seg : List Member) (m : Member) (s : State) (hr : running s)
    (hs : s.obs.fab.state = 2) (hseg : seg = segment (east ++ west) s) (hm : m ∈ seg) (hi : m.id = s.obs.fab.rootId)
    (hx : ∀ x ∈ seg, x.id = s.obs.fab.rootId ∨ x.id = other → x = m ∨ rankOf x.prio x.seed < rankOf m.prio m.seed) :
    ∃ t, goesTo (.rootLost true east west other) s t ∧ onlyChanges [.fab, .evq, .obsRegs] s t ∧
      t.obs.fab.rootId = s.obs.fab.rootId ∧ t.obs.fab.root = s.obs.fab.root ∧ t.obs.fab.count = seg.length ∧
      bit (reg t (aFab + 0xC)) 2 = true := by
  have he : elected (seg.filter fun x => x.id == s.obs.fab.rootId || x.id == other) = some m := by
    refine elected_of_highest (List.mem_filter.mpr ⟨hm, by simp [hi]⟩) fun x hxm => ?_
    obtain ⟨h1, h2⟩ := List.mem_filter.mp hxm
    exact hx x h1 (by simpa using h2)
  let u := onFab (fun f => { f with count := seg.length }) s
  have hv : onlyChanges [.evq, .obsRegs] u (rootChange m.id m.id 3 u) := onlyChanges_rootChange (.refl _ u) _ _ _
  have e : opRootLost true (east ++ west) other s = rootChange m.id m.id 3 u := by
    unfold opRootLost
    simp only [← hseg, if_true, he, Bool.not_true, Bool.false_eq_true, if_false]
    rw [if_neg (by simp [hs]), if_pos hi]
  have hg : goesTo (.rootLost true east west other) s (opRootLost true (east ++ west) other s) := goesTo_inObs rfl hr
  rw [e] at hg
  have hu : onlyChanges [.fab, .evq, .obsRegs] s u := (onlyChanges.refl _ s).onFab _
  refine ⟨_, hg, hu.trans (hv.mono (by decide)), ?_, ?_, ?_, bit_rootChange _ _ _ _⟩ <;> rw [hv.fab_eq] <;> rfl

/-! ## Flits (R308) -/

theorem opFabFlit_bad {east : Bool} {f : List Byte} {s : State} (hb : s.build.fabric = true) (hy : s.aon.pwr.ready = true)
    (hl : f.length = 256) (hp : peerOk s east = true) (hd : dropsFlit s east f = false) (hg : flitGood f = false) :
    opFabFlit east f s = onLink east (fun l => { l with nak := true, good := 0 })
      (onLink east (fun l => { l with lastFlit := now s }) s) := by
  unfold opFabFlit
  rw [if_neg (by simp [hb, hy, hl, hp, hd])]
  exact if_pos (by simp [hg])

theorem flit_isBad (east : Bool) (f : List Byte) (s : State) (hr : running s) (hb : s.build.fabric = true)
    (hy : s.aon.pwr.ready = true) (hl : f.length = 256) (hp : peerOk s east = true) (hd : dropsFlit s east f = false)
    (hg : flitGood f = false) :
    ∃ t, goesTo (.fabricFlitAckNak east f) s t ∧ onlyChanges [.fab] s t ∧
      linkOf t east = { linkOf s east with lastFlit := now s, nak := true, good := 0 } ∧
      linkOf t (!east) = linkOf s (!east) := by
  have e := opFabFlit_bad hb hy hl hp hd hg
  have hf : onlyChanges [.fab] s (opFabFlit east f s) := by
    rw [e]
    exact ((onlyChanges.refl _ s).onLink _ _).onLink _ _
  refine ⟨_, goesTo_inWriter_of_ctxs (c := .fabricFlitAckNak east f) rfl hr hf.ctxs_eq, hf, ?_, ?_⟩
  · rw [e, linkOf_onLink_same, linkOf_onLink_same]
  · rw [e, linkOf_onLink_other, linkOf_onLink_other]

theorem linkRun_empty {l : Link} (cap ack : Nat) (key : Option (List Byte)) (hk : l.kept = []) (hw : l.waiting = []) :
    linkRun cap key (linkAck ack l) = l := by
  have ha : linkAck ack l = l := by
    unfold linkAck
    rw [hk]
    rfl
  rw [ha, linkRun]
  simp only [hw, List.take_nil, List.drop_nil, List.foldl_nil]
  rw [← hw]

/-- The port's link after a message in sequence. -/
def linkTaken (q t : Nat) (l : Link) : Link := { l with lastFlit := t, recvSeq := q, nak := false }

theorem flit_brings (east : Bool) (f : List Byte) (s : State) (hr : running s) (hb : s.build.fabric = true)
    (hy : s.aon.pwr.ready = true) (hl : f.length = 256) (hd : dropsFlit s east f = false) (hg : flitGood f = true)
    (hu : portUp s east = true) (hx : portX s east = false) (hk : (linkOf s east).kept = []) (hw : (linkOf s east).waiting = [])
    (ht : leAt f 0 1 = 2) (hi : leAt f 1 1 % 64 = s.aon.instId)
    (hq : leAt f 4 4 = ((linkOf s east).recvSeq + 1) % 2 ^ 32) (h10 : leAt (bytesAt f 16 232) 0 1 ≠ 0x10)
    (h11 : leAt (bytesAt f 16 232) 0 1 ≠ 0x11) (hn : fabLen 2 (leAt (bytesAt f 16 232) 0 1) ≠ 0)
    (hm : leAt (bytesAt f 16 232) 2 2 = fabLen 2 (leAt (bytesAt f 16 232) 0 1)) (hin : s.obs.fab.inbox = []) :
    ∃ t, goesTo (.fabricFlitAckNak east f) s t ∧ onlyChanges [.fab] s t ∧
      t.obs.fab.inbox = [⟨east, leAt f 3 1 % 64, s.aon.instId, 2, bytesAt f 16 232⟩] ∧
      (linkOf t east).recvSeq = leAt f 4 4 ∧ (linkOf t east).nak = false ∧ (linkOf t east).lastFlit = now s := by
  obtain ⟨htr, hpe⟩ : (if east then s.obs.fab.eUp else s.obs.fab.wUp) = true ∧ peerOk s east = true := by
    simpa [portUp] using hu
  let x : FMsg := ⟨east, leAt f 3 1 % 64, s.aon.instId, 2, bytesAt f 16 232⟩
  let u := onLink east (fun l => { l with lastFlit := now s }) s
  have su : sends s u := sends_onLink _ _ _
  have hlu : linkOf u east = { linkOf s east with lastFlit := now s } := linkOf_onLink_same _ _ _
  have hears : portHears east u = u := by
    refine if_pos ?_
    cases east <;> exact htr
  let v := portRun east (linkAck (leAt f 8 4)) u
  have sv : sends s v := su.trans (sends_onLink _ _ _)
  have hlv : linkOf v east = { linkOf s east with lastFlit := now s } := by
    show linkOf (portRun east (linkAck (leAt f 8 4)) u) east = _
    unfold portRun
    dsimp only
    rw [linkOf_onLink_same, hlu]
    exact linkRun_empty (l := { linkOf s east with lastFlit := now s }) _ _ _ hk hw
  let w := onLink east (fun _ => linkTaken (leAt f 4 4) (now s) (linkOf s east)) v
  have sw : sends s w := sv.trans (sends_onLink _ _ _)
  have hlw : linkOf w east = linkTaken (leAt f 4 4) (now s) (linkOf s east) := linkOf_onLink_same _ _ _
  have hxw : portX w east = false := by
    have hreg := sw.1.reg_eq aFab (by decide)
    unfold portX at hx ⊢
    rw [hreg]
    exact hx
  have hid : w.aon.instId = s.aon.instId := (sw.1.2.2.2 .ident (by decide)).1
  have hinw : w.obs.fab.inbox = [] := (sw.get (·.inbox) fun _ => rfl).trans hin
  have htake : fabTake east 2 (leAt f 1 1 % 64) (leAt f 3 1 % 64) none (bytesAt f 16 232) w =
      onFab (fun f => { f with inbox := [x] }) w := by
    unfold fabTake
    dsimp only
    rw [if_neg (by decide), hxw, if_neg (by simp [hn, hm]), openFab, hxw,
      if_neg (by simp)]
    dsimp only
    rw [hid, if_neg (by simp [hi]), if_neg (by simp [h10, h11])]
    unfold queueFab
    rw [if_neg (by simp), hi]
    unfold onFab onObs
    dsimp only
    rw [hinw]
    rfl
  have e : opFabFlit east f s = onFab (fun f => { f with inbox := [x] }) w := by
    rw [← htake]
    unfold opFabFlit
    rw [if_neg (by simp [hb, hy, hl, hpe, hd])]
    dsimp only
    rw [if_neg (by simp [hg])]
    rw [show onLink east (fun l => { l with lastFlit := now s }) s = u from rfl, hears,
      if_neg (by rw [su.portUp_eq, hu]; simp)]
    rw [show portRun east (linkAck (leAt f 8 4)) u = v from rfl, ht, if_neg (c := (2 : Nat).testBit 4 = true) (by decide), hlv]
    have hlt : linkTake (2 % 16) 4 (leAt f 4 4) { linkOf s east with lastFlit := now s } =
        (true, linkTaken (leAt f 4 4) (now s) (linkOf s east)) := by
      unfold linkTake
      rw [if_neg (by decide), if_pos ⟨by decide, hq⟩]
      rfl
    rw [hlt]
    rfl
  have hf : onlyChanges [.fab] s (opFabFlit east f s) := by
    rw [e]
    exact sw.1.onFab _
  have hle : linkOf (opFabFlit east f s) east = linkTaken (leAt f 4 4) (now s) (linkOf s east) := by
    rw [e, ← hlw]
    rfl
  refine ⟨_, goesTo_inWriter_of_ctxs (c := .fabricFlitAckNak east f) rfl hr hf.ctxs_eq, hf, ?_, ?_, ?_, ?_⟩
  · rw [e]
    rfl
  · rw [hle]
    rfl
  · rw [hle]
    rfl
  · rw [hle]
    rfl

/-! ## Outcomes (R316) -/

theorem outcome_ends (x : FMsg) (f : Frame) (s : State) (hr : running s) (hi : s.obs.fab.inbox = [x])
    (hm : leAt x.payload 0 1 = 0x26) (hs : s.obs.fab.sent = [f]) (h4 : f.part = leAt x.payload 4 1 % 16)
    (h5 : f.job = leAt x.payload 5 1) (h8 : f.ctx = leAt x.payload 8 4) (h12 : f.seq = leAt x.payload 12 4)
    (hj : s.aon.keys.jobs = []) (hb : s.build.egress = true) :
    ∃ t, goesTo .outcome s t ∧ onlyChanges [.fab, .obsRegs] s t ∧ t.obs.fab.inbox = [] ∧ t.obs.fab.sent = [] ∧
      (leAt x.payload 6 1 = 1 → fld (reg t (aEgr + 0xC)) 0 32 = sat 0xFFFFFFFF (fld (reg s (aEgr + 0xC)) 0 32 + 1)) ∧
      (leAt x.payload 6 1 = 2 → fld (reg t (aEgr + 0x10)) 0 32 = sat 0xFFFFFFFF (fld (reg s (aEgr + 0x10)) 0 32 + 1)) ∧
      (leAt x.payload 6 1 = 0 → t.obs.regs = s.obs.regs) := by
  let u := onFab (fun f => { f with sent := [] }) (fabRead s)
  let v := if leAt x.payload 6 1 = 1 then egrSkipped u else if leAt x.payload 6 1 = 2 then bumpReg (aEgr + 0x10) 0 32 1 u else u
  have hu : onlyChanges [.fab, .obsRegs] s u := ((onlyChanges_fabRead s).mono (by decide)).onFab _
  have hv : onlyChanges [.obsRegs] u v :=
    .ite _ (onlyChanges_egrSkipped (.refl _ u)) (.ite _ ((onlyChanges.refl _ u).bumpReg _ _ _ _) (.refl _ u))
  have hw : sweepGens v = v := by
    unfold sweepGens
    rw [hv.keys_eq, show u.aon.keys.jobs = [] from hj]
    rfl
  have e : takeOutcome x (fabRead s) = v := by
    rw [← hw]
    unfold takeOutcome
    dsimp only
    rw [show (fabRead s).obs.fab.sent = [f] from hs, if_neg (by simp [h4, h5, h8, h12])]
    have hd : delFirst (fun g : Frame => g.part == leAt x.payload 4 1 % 16 && g.job == leAt x.payload 5 1
        && g.ctx == leAt x.payload 8 4 && g.seq == leAt x.payload 12 4) (fabRead s).obs.fab.sent = [] := by
      rw [show (fabRead s).obs.fab.sent = [f] from hs]
      exact if_pos (by simp [h4, h5, h8, h12])
    have hq : onFab (fun y => { y with sent := delFirst (fun g : Frame => g.part == leAt x.payload 4 1 % 16 &&
        g.job == leAt x.payload 5 1 && g.ctx == leAt x.payload 8 4 && g.seq == leAt x.payload 12 4) y.sent }) (fabRead s) = u := by
      unfold onFab onObs
      dsimp only
      rw [hd]
      rfl
    rw [hq]
  have hg := goesTo_withFab (i := .outcome) (f := takeOutcome) rfl hr hi hm rfl
  rw [e] at hg
  refine ⟨v, hg, hu.trans (hv.mono (by decide)), ?_, ?_, fun h => ?_, fun h => ?_, fun h => ?_⟩
  · rw [hv.fab_eq]
    rfl
  · rw [hv.fab_eq]
    rfl
  · have : v = bumpReg (aEgr + 0xC) 0 32 1 u := (if_pos h).trans (if_pos hb)
    rw [this, fld_reg_bumpReg _ _ _ (by decide)]
    rfl
  · have : v = bumpReg (aEgr + 0x10) 0 32 1 u := (if_neg (by omega)).trans (if_pos h)
    rw [this, fld_reg_bumpReg _ _ _ (by decide)]
    rfl
  · have : v = u := (if_neg (by omega)).trans (if_neg (by omega))
    rw [this]
    rfl

/-- Settles O60, each message and each failure from the rule of what it changes. -/
theorem fabricFreezesAndLinks : Obligations.FabricFreezesAndLinks := by
  refine ⟨fun T x s hr hi hm hk ht hroot h1 h2 h3 h4 h5 =>
      freezeRequest_schedules T x s hr hi hm hk ht hroot ⟨h1, h2, h3, h4, h5⟩,
    fun T x s hr hi hm hk ht ho hn h1 h2 h3 h4 h5 =>
      freezeDistribute_schedules T x s hr hi hm hk ht ho hn ⟨h1, h2, h3, h4, h5⟩,
    freezeDistribute_repeats, freezeAccepted_counts, freezeRefused_ends,
    fun east s hr hu ht _ hn => portDown_alone east s hr hu ht hn, portDown_departs, rootLost_elects, rootLost_rejoins,
    flit_isBad, flit_brings, outcome_ends⟩

end Sys2Proof.Machine
end

section
/-! SUPPORT. Discovery (R311, R312): the members, assignment, and what a member's place in the ring makes of it. -/

namespace Sys2Proof.Machine

open Sys2Proof.Safety

set_option Elab.async false

/-! ## Members in their order -/

theorem length_insertBy {α : Type} (after : α → α → Bool) (x : α) (l : List α) : (insertBy after x l).length = l.length + 1 := by
  obtain ⟨a, b, hl, hi, -, -⟩ := insertBy_splits after x l
  rw [hi, hl]
  simp only [List.length_append, List.length_cons, List.length_nil]
  omega

theorem length_sortBy {α : Type} (key : α → Nat) (l : List α) : (sortBy key l).length = l.length := by
  have h (acc : List α) : (l.foldl (fun acc x => insertBy (fun y z => key z < key y) x acc) acc).length =
      acc.length + l.length := by
    induction l generalizing acc with
    | nil => rfl
    | cons x l ih =>
      rw [List.foldl_cons, ih, length_insertBy, List.length_cons]
      omega
  simpa [sortBy] using h []

theorem length_eastFrom (p : Member → Bool) (l : List Member) : (eastFrom p l).length = l.length := by
  simp only [eastFrom, List.length_append, List.length_drop, List.length_take]
  omega

theorem head_eastFrom {p : Member → Bool} {l : List Member} (h : l.any p = true) :
    ∃ m r, eastFrom p l = m :: r ∧ p m = true := by
  obtain ⟨x, hx, hp⟩ := List.any_eq_true.mp h
  cases hi : l.findIdx? p with
  | none =>
    rw [List.findIdx?_eq_none_iff] at hi
    simp [hi x hx] at hp
  | some i =>
    obtain ⟨hlt, hpi, _⟩ := List.findIdx?_eq_some_iff_getElem.mp hi
    refine ⟨l[i], l.drop (i + 1) ++ l.take i, ?_, hpi⟩
    unfold eastFrom
    rw [hi]
    dsimp only [Option.getD_some]
    rw [List.drop_eq_getElem_cons hlt]
    rfl

theorem eastFrom_of_head {p : Member → Bool} {m : Member} {l : List Member} (h : p m = true) :
    eastFrom p (m :: l) = m :: l := by
  unfold eastFrom
  rw [List.findIdx?_cons, h]
  simp

theorem length_giveIds (l : List Member) (used : List Nat) : (giveIds l used).length = l.length := by
  induction l generalizing used with
  | nil => rfl
  | cons m l ih =>
    unfold giveIds
    split
    · rw [List.length_cons, ih, List.length_cons]
    · rw [List.length_cons, ih, List.length_cons]

theorem head_giveIds (m : Member) (l : List Member) (used : List Nat) :
    ∃ i r, giveIds (m :: l) used = { m with id := i } :: r := by
  unfold giveIds
  split
  · exact ⟨_, _, rfl⟩
  · exact ⟨m.id, _, rfl⟩

theorem isMe_of_reg {s t : State} (h : reg t aFab = reg s aFab) : isMe t = isMe s := by
  funext m
  simp [isMe, ownPrio, ownSeed, h]

/-! ## A member's place (Table 13.8) -/

/-- This instance's ID in a ring. -/
def ringId (ms : List Member) (s : State) : Nat := match ms.find? (isMe s) with | some m => m.id | none => s.aon.instId

/-- The root of a ring. -/
def ringRoot (ms : List Member) (s : State) : Nat := match ms with | m :: _ => m.id | [] => ringId ms s

/-- This instance has its ID. -/
def ringNamed (ms : List Member) (s : State) : State :=
  onAon (fun a => { a with instId := if a.instSet then a.instId else ringId ms s, instSet := true }) s

theorem onlyChanges_ringNamed (ms : List Member) (s : State) : onlyChanges [.ident] s (ringNamed ms s) := by
  refine ⟨rfl, rfl, rfl, fun p hp => ?_⟩
  cases p with
  | ident => simp at hp
  | aonRegs | tb | pwr | sen | alm | keys | rap | db | obsRegs | hed | cut | ctxs | smp | cmd | evq | lens | wat | hang | prv
    | egr | fab | dbg | draws => rfl

/-- This instance's view of a ring. -/
def ringJoined (ms : List Member) (s : State) : State :=
  onFab (fun f => { f with
    state := if ms.length > 1 then 2 else 0, count := ms.length, ccw := decide (8 ≤ ms.length)
    members := ((eastFrom (isMe s) ms).zipIdx).map fun e => { e.1 with hops := e.2 }
    rootId := ringRoot ms s, root := ringRoot ms s == ringId ms s, assigned := true, disc := none, goneE := false
    goneW := false }) (ringNamed ms s)

theorem onlyChanges_ringJoined (ms : List Member) (s : State) : onlyChanges [.ident, .fab] s (ringJoined ms s) :=
  ((onlyChanges_ringNamed ms s).mono (by decide)).onFab _

/-- The members new to this instance are reported. -/
def joinedNews (ms : List Member) (s : State) : State :=
  (ms.filter fun m => m.id != ringId ms s && !(s.obs.fab.members.any fun o => o.id == m.id)).foldl
    (fun a m => fabMember m.id 1 a) (ringJoined ms s)

theorem joined_reports (ms : List Member) (s : State) : onlyChanges [.evq, .obsRegs] (ringJoined ms s) (joined ms s) ∧
    ∀ r, reg (joined ms s) (aRing r) = reg s (aRing r) := by
  have hm (l : List Member) : onlyChanges [.evq, .obsRegs] (ringJoined ms s)
      (l.foldl (fun a m => fabMember m.id 1 a) (ringJoined ms s)) :=
    (onlyChanges.refl _ _).foldl (fun _ _ ha => onlyChanges_fabMember ha _ _) _
  have hp (k i : Nat) (h : (kindCls k).1 < 8) (a : Nat) (b : U32) (u : State) (r : Nat) :
      reg (push 0 (mkItem k 0 i b a) u) (aRing r) = reg u (aRing r) := reg_push_spared (spared_aRing r) h u
  have hx (r : Nat) : aRing r ≠ aFab + 0xC := by unfold aRing aFab; omega
  have hr (l : List Member) (r : Nat) : reg (l.foldl (fun a m => fabMember m.id 1 a) (ringJoined ms s)) (aRing r) =
      reg s (aRing r) := by
    refine (reg_foldl (fun u m => ?_) l _).trans rfl
    rw [fabMember, reg_orReg_other _ _ _ (hx r), hp _ _ (by decide)]
  have e : joined ms s = (if ringRoot ms s ≠ s.obs.fab.rootId ∨ (ringRoot ms s == ringId ms s) ≠ s.obs.fab.root then
      rootChange (ringRoot ms s) s.obs.fab.rootId 1 (joinedNews ms s) else joinedNews ms s) := rfl
  rw [e]
  split
  · refine ⟨onlyChanges_rootChange (hm _) _ _ _, fun r => ?_⟩
    rw [rootChange, reg_orReg_other _ _ _ (hx r), hp _ _ (by decide)]
    exact hr _ r
  · exact ⟨hm _, hr _⟩

theorem onlyChanges_joined (ms : List Member) (s : State) : onlyChanges [.ident, .fab, .evq, .obsRegs] s (joined ms s) :=
  ((onlyChanges_ringJoined ms s).mono (by decide)).trans ((joined_reports ms s).1.mono (by decide))

theorem fab_joined (ms : List Member) (s : State) : (joined ms s).obs.fab = (ringJoined ms s).obs.fab :=
  (joined_reports ms s).1.fab_eq

theorem aon_joined (ms : List Member) (s : State) :
    (joined ms s).aon.instId = (if s.aon.instSet then s.aon.instId else ringId ms s) ∧
      (joined ms s).aon.instSet = true ∧ (joined ms s).aon.discovered = s.aon.discovered := by
  have h := (joined_reports ms s).1.2.2.2 .ident (by decide)
  exact ⟨h.1.trans rfl, h.2.1.trans rfl, h.2.2.2.1.trans rfl⟩

/-! ## The command that discovers -/

theorem fabEnd_completes {s : State} {r seq st : Nat} {res : U32} {h : Held} (hc : s.obs.fab.cmd = some (r, seq))
    (hh : heldOf s r seq = some h) (hst : st ≠ stNoConsent) :
    fabEnd st res s = complete r h st res (onFab (fun f => { f with cmd := none }) s) := by
  unfold fabEnd
  rw [hc]
  dsimp only
  rw [show heldOf (onFab (fun f => { f with cmd := none }) s) r seq = some h from hh]
  exact finish_ok r h hst _ _

theorem fabDone_completes {s : State} {r seq st : Nat} {res : U32} {h : Held} (hw : fwRuns s = true)
    (hc : s.obs.fab.cmd = some (r, seq)) (hh : heldOf s r seq = some h) (hst : st ≠ stNoConsent) :
    fabDone st res s = complete r h st res (onFab (fun f => { f with cmd := none }) s) :=
  (if_pos hw).trans (fabEnd_completes hc hh hst)

theorem fabDone_idle {s : State} (hc : s.obs.fab.cmd = none) (st : Nat) (res : U32) : fabDone st res s = s := by
  unfold fabDone fabEnd
  rw [hc]
  exact ite_self s

/-! ## A broadcast reaches a port -/

theorem linkHas_fabCast (ft mt : Nat) (w b : List Byte) {s : State} {e : Bool} (h : portUp s e = true) :
    ∃ p, linkHas (plainMsg mt b) 0x3F (linkOf (fabCast ft mt w b s) p) := by
  unfold fabCast
  split
  · generalize hu : noteSeen w true (noteSeen w false s) = u
    have hp : portUp u e = true := hu ▸ h
    unfold fabBoth
    dsimp only
    cases e with
    | true =>
      refine ⟨true, ?_⟩
      rw [if_pos hp]
      have hl : linkHas (plainMsg mt b) 0x3F (linkOf (portSend true ft 0x3F mt b u) true) := linkHas_portForward _ _ _ _ _ _ _
      split
      · exact linkHas_portForward_of hl _ _ _ _ _ _
      · exact hl
    | false =>
      refine ⟨false, ?_⟩
      have hs : sends u (if portUp u true then portSend true ft 0x3F mt b u else u) :=
        .ite _ (sends_portForward _ _ _ _ _ _ _) (.refl u)
      rw [if_pos (by rw [hs.portUp_eq, hp])]
      exact linkHas_portForward _ _ _ _ _ _ _
  · exact ⟨_, linkHas_portForward _ _ _ _ _ _ _⟩

/-! ## An instance's own answer -/

theorem discBusy_of_frame {s t : State} (h : onlyChanges [.fab] s t) : discBusy t = discBusy s := by
  have he : epochOf t = epochOf s := by
    funext p
    simp [epochOf, h.cut_eq]
  simp [discBusy, anyArmed, freezes, anySentArmed, anyWdog, h.ctxs_eq, h.cut_eq, h.sen_eq, h.hed_eq, h.egr_eq, h.build_eq,
    h.now_eq, he]

theorem shownId_of_frame {s t : State} (h : onlyChanges [.fab] s t) : shownId t = shownId s := by
  obtain ⟨h1, h2, _⟩ := h.2.2.2 .ident (by decide)
  rw [shownId, shownId, h1, h2]

theorem answerBody_of_frame {s t : State} (h : onlyChanges [.fab] s t) (he : t.obs.fab.eUp = s.obs.fab.eUp)
    (hw : t.obs.fab.wUp = s.obs.fab.wUp) (hops : Nat) : answerBody hops t = answerBody hops s := by
  obtain ⟨_, _, _, hd, _⟩ := h.2.2.2 .ident (by decide)
  have hf : deviceId t = deviceId s := by
    have := h.2.2.2 .pwr (by decide)
    simp only [deviceId, fuse]
    rw [show t.aon.pwr = s.aon.pwr from this]
  have hr := h.reg_eq aFab (by decide)
  simp only [answerBody, ownPrio, ownSeed, he, hw, discBusy_of_frame h, shownId_of_frame h, hd, hf, hr]

theorem selfMember_of_frame {s t : State} (h : onlyChanges [.fab] s t) (hops : Nat) : selfMember hops t = selfMember hops s := by
  obtain ⟨_, _, _, hd, _⟩ := h.2.2.2 .ident (by decide)
  have hr := h.reg_eq aFab (by decide)
  simp only [selfMember, ownPrio, ownSeed, discBusy_of_frame h, shownId_of_frame h, hd, hr]

end Sys2Proof.Machine
end

section
/-! CERTIFICATE. Discovery and Global Time on the fabric (chapter 13). -/

namespace Sys2Proof.Machine

open Sys2Proof.Safety

set_option Elab.async false

/-! ## `FAB_DISCOVER` -/

theorem discover_alone (r : Nat) (h : Held) (s : State) (ha : atFrontOf 0x90 r h s) (hb : reservedBad h = false)
    (hw : fwRuns s = true) (he : s.obs.fab.eUp = false) (hx : s.obs.fab.wUp = false) :
    ∃ t, goesTo (.fabDiscover r) s t ∧ onlyChanges [.smp, .cmd] s t ∧ completes r h stOk 256 s t := by
  have e : doFabDiscover r h s = complete r h stOk 256 s := by
    unfold doFabDiscover
    dsimp only
    rw [if_pos (by simp [hw, he, hx])]
    exact finish_ok r h (by decide) _ _
  obtain ⟨hg, hk⟩ := goesTo_completes (i := .fabDiscover r) rfl ha ((checked_passes hb _).trans e) (.refl [] s)
  exact ⟨_, hg, onlyChanges_complete r h stOk 256 s, hk⟩

/-- The fabric once this instance's discovery has begun for the command of sequence `seq` of ring r. -/
def discoveryBegun (r seq : Nat) (s : State) : State :=
  noteSeen (probeKey (shownId s) ((s.obs.fab.discNo + 1) % 65536)) true
    (discBegin (shownId s) ((s.obs.fab.discNo + 1) % 65536) 0
      (onFab (fun f => { f with state := 1, discNo := (s.obs.fab.discNo + 1) % 65536, cmd := some (r, seq), assigned := false }) s))

theorem discover_begins (r : Nat) (h : Held) (s : State) (ha : atFrontOf 0x90 r h s) (hb : reservedBad h = false)
    (hw : fwRuns s = true) (hu : s.obs.fab.eUp = true ∨ s.obs.fab.wUp = true) (hc : s.obs.fab.cmd = none)
    (hp : canPark s r h = true) :
    ∃ t, goesTo (.fabDiscover r) s t ∧ onlyChanges [.cmd, .fab] s t ∧ parks r h (.fab (now s)) s t ∧
      t.obs.fab.state = 1 ∧ t.obs.fab.cmd = some (r, h.seq) ∧ t.obs.fab.assigned = false ∧
      t.obs.fab.disc = some ⟨shownId s, (s.obs.fab.discNo + 1) % 65536, now s, [selfMember 0 s]⟩ := by
  let b := le 1 (shownId s) ++ [0] ++ le 2 ((s.obs.fab.discNo + 1) % 65536)
  let u := discoveryBegun r h.seq s
  let v := castAnswer 0 (fabBoth 2 0x20 b u)
  have hn : (fwRuns s && !s.obs.fab.eUp && !s.obs.fab.wUp) = false := by
    obtain hu | hu := hu <;> simp [hu]
  have e : doFabDiscover r h s = park r h (.fab (now s)) v := by
    unfold doFabDiscover
    dsimp only
    rw [hn, if_neg (by simp), if_neg (by simp [hc, hp]), if_neg (by simp [hw])]
    rfl
  have hu : onlyChanges [.fab] s u := (((onlyChanges.refl _ s).onFab _).onFab _).onFab _
  have hv : casts u v := (sends_fabBoth 2 0x20 b u).casts.trans (casts_fabCast _ _ _ _ _)
  have hf : onlyChanges [.cmd, .fab] s v := (hu.trans hv.1).mono (by decide)
  have hx := (hu.trans hv.1).ctxs_eq
  have hr := (hu.trans hv.1).cmd_eq
  have hfab : ∀ {α : Type} (f : Fab → α), (∀ x, f (seenless x) = f x) → f v.obs.fab = f u.obs.fab := fun f h => hv.get f h
  generalize v = v at e hf hx hr hfab
  have hg : goesTo (.fabDiscover r) s (park r h (.fab (now s)) v) := by
    rw [← e]
    exact goesTo_checked rfl ha hb (by rw [e]; exact seqWrapped_of_ctxs hx)
  refine ⟨_, hg, onlyChanges_park hf r h _, parks_park ha.2.1 (by rw [hr]) _, ?_, ?_, ?_, ?_⟩
  · exact (hfab (·.state) fun _ => rfl).trans rfl
  · exact (hfab (·.cmd) fun _ => rfl).trans rfl
  · exact (hfab (·.assigned) fun _ => rfl).trans rfl
  · exact (hfab (·.disc) fun _ => rfl).trans rfl

theorem discover_waits (r : Nat) (h : Held) (s : State) (ha : atFrontOf 0x90 r h s) (hb : reservedBad h = false)
    (hw : fwRuns s = false) (hc : s.obs.fab.cmd = none) (hp : canPark s r h = true) :
    ∃ t, goesTo (.fabDiscover r) s t ∧ onlyChanges [.cmd, .fab] s t ∧ parks r h (.fab (now s)) s t ∧
      t.obs.fab = { s.obs.fab with cmd := some (r, h.seq), assigned := false } := by
  have e : doFabDiscover r h s = park r h (.fab (now s))
      (onFab (fun f => { f with cmd := some (r, h.seq), assigned := false }) s) := by
    unfold doFabDiscover
    dsimp only
    rw [if_neg (by simp [hw]), if_neg (by simp [hc, hp]), if_pos (by simp [hw])]
  have hf : onlyChanges [.cmd, .fab] s (onFab (fun f => { f with cmd := some (r, h.seq), assigned := false }) s) :=
    (onlyChanges.refl _ s).onFab _
  refine ⟨_, e ▸ goesTo_checked rfl ha hb ?_, onlyChanges_park hf r h _, parks_park ha.2.1 rfl _, rfl⟩
  rw [e]
  exact seqWrapped_of_ctxs rfl

/-! ## PROBE and ANSWER -/

theorem probe_isAnswered (x : FMsg) (hops east : Nat) (s : State) (hr : running s) (hi : s.obs.fab.inbox = [x])
    (hm : leAt x.payload 0 1 = 0x20) (hu : portUp s x.east = true) (hh : hops = leAt x.payload 5 1 + 1)
    (he : east = (if x.east then (256 - hops) % 256 else hops))
    (hn : seenBefore s (probeKey (leAt x.payload 4 1 % 64) (leAt x.payload 6 2)) = false) :
    ∃ t, goesTo .probe s t ∧ onlyChanges [.fab] s t ∧ t.obs.fab.inbox = [] ∧
      t.obs.fab.disc = some ⟨leAt x.payload 4 1 % 64, leAt x.payload 6 2, now s, [selfMember east s]⟩ ∧
      seenBefore t (probeKey (leAt x.payload 4 1 % 64) (leAt x.payload 6 2)) = true ∧ t.obs.fab.state = s.obs.fab.state ∧
      ∃ p, ∃ k ∈ (linkOf t p).kept ++ (linkOf t p).waiting, k.clear = plainMsg 0x21 (answerBody east s) := by
  have hg := goesTo_withFab (i := .probe) (f := takeProbe) rfl hr hi hm rfl
  let key := probeKey (leAt x.payload 4 1 % 64) (leAt x.payload 6 2)
  let u := discBegin (leAt x.payload 4 1 % 64) (leAt x.payload 6 2) east (noteSeen key (!x.east) (fabRead s))
  let v := goOn x.east x.src 2 0x3F 0x20 (le 1 (leAt x.payload 4 1 % 64) ++ le 1 hops ++ le 2 (leAt x.payload 6 2)) u
  have e : takeProbe x (fabRead s) = castAnswer east v := by
    unfold takeProbe
    dsimp only
    rw [show seenBefore (fabRead s) key = false from hn, if_neg (by simp), ← hh, ← he]
  rw [e] at hg
  have hseen : seenNow key u := seenNow_noteSeen _ _ _
  have hfu : onlyChanges [.fab] s u := ((onlyChanges_fabRead s).onFab _).onFab _
  have hd : u.obs.fab.disc = some ⟨leAt x.payload 4 1 % 64, leAt x.payload 6 2, now s, [selfMember east s]⟩ := by
    show some (Disc.mk _ _ _ [selfMember east (noteSeen key (!x.east) (fabRead s))]) = _
    rw [selfMember_of_frame (s := s) (t := noteSeen key (!x.east) (fabRead s)) ((onlyChanges_fabRead s).onFab _)]
    rfl
  have hpu : portUp u x.east = true := hu
  have hiu : u.obs.fab.inbox = [] := rfl
  have hsu : u.obs.fab.state = s.obs.fab.state := rfl
  have heu : u.obs.fab.eUp = s.obs.fab.eUp := rfl
  have hwu : u.obs.fab.wUp = s.obs.fab.wUp := rfl
  have hv : sends u v := sends_goOn _ _ _ _ _ _ _
  generalize u = u at v hseen hfu hd hpu hiu hsu heu hwu hv
  generalize v = v at hg hv
  have hb : answerBody east v = answerBody east s := answerBody_of_frame (hfu.trans hv.1)
    ((hv.get (·.eUp) fun _ => rfl).trans heu) ((hv.get (·.wUp) fun _ => rfl).trans hwu) east
  have hc : casts v (fabCast 2 0x21 (le 1 0x21 ++ answerBody east v) (answerBody east v) v) := casts_fabCast _ _ _ _ _
  rw [show castAnswer east v = fabCast 2 0x21 (le 1 0x21 ++ answerBody east v) (answerBody east v) v from rfl] at hg
  have hsv := (hseen.sends hv).fabCast 2 0x21 (le 1 0x21 ++ answerBody east v) (answerBody east v)
  obtain ⟨p, k, hk, hkc, _⟩ := linkHas_fabCast 2 0x21 (le 1 0x21 ++ answerBody east v) (answerBody east v) (s := v)
    (e := x.east) (by rw [hv.portUp_eq, hpu])
  rw [hb] at hkc
  generalize fabCast 2 0x21 (le 1 0x21 ++ answerBody east v) (answerBody east v) v = w at hg hc hsv hk
  refine ⟨_, hg, (hfu.trans hv.1).trans hc.1, ?_, ?_, hsv.seenBefore, ?_, p, k, hk, hkc⟩
  · exact ((hc.get (·.inbox) fun _ => rfl).trans (hv.get (·.inbox) fun _ => rfl)).trans hiu
  · exact ((hc.get (·.disc) fun _ => rfl).trans (hv.get (·.disc) fun _ => rfl)).trans hd
  · exact ((hc.get (·.state) fun _ => rfl).trans (hv.get (·.state) fun _ => rfl)).trans hsu

theorem probe_repeats (x : FMsg) (s : State) (hr : running s) (hi : s.obs.fab.inbox = [x]) (hm : leAt x.payload 0 1 = 0x20)
    (hn : seenBefore s (probeKey (leAt x.payload 4 1 % 64) (leAt x.payload 6 2)) = true) :
    ∃ t, goesTo .probe s t ∧ onlyChanges [.fab] s t ∧ t.obs.fab = { s.obs.fab with inbox := [] } := by
  have hg := goesTo_withFab (i := .probe) (f := takeProbe) rfl hr hi hm rfl
  have e : takeProbe x (fabRead s) = fabRead s := if_pos hn
  rw [e] at hg
  exact ⟨_, hg, onlyChanges_fabRead s, rfl⟩

/-- A broadcast is noted, and goes on where it is new. -/
def castTaken (x : FMsg) (w : List Byte) (s : State) : State :=
  if x.dst = 0x3F ∧ !isRepeat s w (!x.east) then castOn x w s else noteSeen w (!x.east) s

theorem casts_castTaken (x : FMsg) (w : List Byte) (s : State) : casts s (castTaken x w s) :=
  .ite _ (casts_castOn _ _ _) (casts_noteSeen _ _ _)

theorem answer_lists (x : FMsg) (d : Disc) (s : State) (hr : running s) (hi : s.obs.fab.inbox = [x])
    (hm : leAt x.payload 0 1 = 0x21) (hd : s.obs.fab.disc = some d) :
    ∃ t, goesTo .answer s t ∧ onlyChanges [.fab] s t ∧ t.obs.fab.inbox = [] ∧ t.obs.fab.state = s.obs.fab.state ∧
      (seenBefore s (le 1 0x21 ++ bytesAt x.payload 4 16) = false →
        t.obs.fab.disc = some { d with found := d.found ++ [answerMember x.payload] }) ∧
      (seenBefore s (le 1 0x21 ++ bytesAt x.payload 4 16) = true → t.obs.fab.disc = some d) := by
  have hg := goesTo_withFab (i := .answer) (f := takeAnswer) rfl hr hi hm rfl
  have hc := casts_castTaken x (le 1 0x21 ++ bytesAt x.payload 4 16) (fabRead s)
  have e : takeAnswer x (fabRead s) = (if (!seenBefore s (le 1 0x21 ++ bytesAt x.payload 4 16)) = true then
      onFab (fun f => { f with disc := f.disc.map fun d => { d with found := d.found ++ [answerMember x.payload] } })
        (castTaken x (le 1 0x21 ++ bytesAt x.payload 4 16) (fabRead s))
      else castTaken x (le 1 0x21 ++ bytesAt x.payload 4 16) (fabRead s)) := rfl
  rw [e] at hg
  generalize castTaken x (le 1 0x21 ++ bytesAt x.payload 4 16) (fabRead s) = u at hg hc
  have hf := (onlyChanges_fabRead s).trans hc.1
  have h1 : u.obs.fab.inbox = [] := hc.get (·.inbox) fun _ => rfl
  have h2 : u.obs.fab.state = s.obs.fab.state := hc.get (·.state) fun _ => rfl
  have h3 : u.obs.fab.disc = some d := (hc.get (·.disc) fun _ => rfl).trans hd
  cases hb : seenBefore s (le 1 0x21 ++ bytesAt x.payload 4 16) with
  | false =>
    rw [hb, if_pos (by simp)] at hg
    refine ⟨_, hg, hf.onFab _, h1, h2, fun _ => ?_, fun h => absurd h (by simp)⟩
    show u.obs.fab.disc.map _ = _
    rw [h3]
    rfl
  | true =>
    rw [hb, if_neg (by simp)] at hg
    exact ⟨_, hg, hf, h1, h2, fun h => absurd h (by simp), fun _ => h3⟩

/-! ## The steps of a discovery -/

/-- ASSIGN, as the one elected root sends it. -/
def assigned (d : Disc) (ms : List Member) (s : State) : State :=
  fabCast 2 0x22 (le 1 0x22 ++ le 2 d.no) (le 1 ms.length ++ le 1 (b2n (decide (8 ≤ ms.length))) ++ le 2 d.no
    ++ padTo 64 ((ms.take 16).flatMap assignEntry)) s

/-- The root's ring: the members in eastward order from it, each with an ID. -/
def ringOfDisc (d : Disc) (s : State) : List Member :=
  giveIds (eastFrom (isMe s) (eastward d.found)) (((eastward d.found).map (·.id)).filter fun i => i != 0x3F)

theorem length_ringOfDisc (d : Disc) (s : State) : (ringOfDisc d s).length = d.found.length := by
  rw [ringOfDisc, length_giveIds, length_eastFrom, eastward, length_sortBy]

theorem head_ringOfDisc {d : Disc} {s : State} (h : (eastward d.found).any (isMe s) = true) :
    ∃ m r, ringOfDisc d s = m :: r ∧ isMe s m = true := by
  obtain ⟨m, r, he, hp⟩ := head_eastFrom h
  obtain ⟨i, q, hg⟩ := head_giveIds m r (((eastward d.found).map (·.id)).filter fun i => i != 0x3F)
  exact ⟨{ m with id := i }, q, by rw [ringOfDisc, he, hg], hp⟩

/-- The discovery ends here: this instance is the root, and knows its GT. -/
def rootJoined (d : Disc) (s : State) : State :=
  onAon (fun a => { a with discovered := true }) (joined (ringOfDisc d s) (assigned d (ringOfDisc d s) s))

theorem discStep_elects {d : Disc} {s : State} (h1 : sharedPair (eastward d.found) = false)
    (h2 : ((eastward d.found).any fun m => m.busy && m.first) = false)
    (h3 : ((eastward d.found).any fun m => decide (rankOf (ownPrio s) (ownSeed s) < rankOf m.prio m.seed)) = false)
    (hs : s.obs.fab.state = 1) : discStep d s = fabDone stOk (fabResult (rootJoined d s)) (rootJoined d s) := by
  unfold discStep
  dsimp only
  rw [if_neg (by simp [h1]), if_neg (by simp [h2]), if_neg (by simp [h3]), if_pos hs]
  rfl

theorem members_ringJoined (ms : List Member) (s : State) : (ringJoined ms s).obs.fab.members =
    (eastFrom (isMe s) ms).zipIdx.map fun e => { e.1 with hops := e.2 } := rfl

theorem ringId_eq (ms : List Member) (s : State) : ringId ms s = (ms.find? (isMe s)).elim s.aon.instId (·.id) := by
  unfold ringId
  generalize ms.find? (isMe s) = o
  cases o <;> rfl

theorem ringId_of_head {m : Member} {s : State} (h : isMe s m = true) (l : List Member) : ringId (m :: l) s = m.id := by
  rw [ringId_eq]
  generalize isMe s = p at h
  rw [List.find?_cons_of_pos h, Option.elim_some]

/-- Where this instance is the first of a ring, the ring's root is the first of its members. -/
theorem head_ringJoined {m : Member} {s : State} (h : isMe s m = true) (l : List Member) :
    (ringJoined (m :: l) s).obs.fab.members.head?.elim 0 (·.id) = m.id := by
  rw [members_ringJoined]
  generalize isMe s = p at h
  rw [eastFrom_of_head h, List.zipIdx_cons, List.map_cons, List.head?_cons, Option.elim_some]

theorem onlyChanges_discovered (s : State) : onlyChanges [.ident] s (onAon (fun a => { a with discovered := true }) s) := by
  refine ⟨rfl, rfl, rfl, fun p hp => ?_⟩
  cases p with
  | ident => simp at hp
  | aonRegs | tb | pwr | sen | alm | keys | rap | db | obsRegs | hed | cut | ctxs | smp | cmd | evq | lens | wat | hang | prv
    | egr | fab | dbg | draws => rfl

theorem rootJoined_spec {d : Disc} {s : State} (h : (eastward d.found).any (isMe s) = true) :
    onlyChanges [.ident, .fab, .evq, .obsRegs] s (rootJoined d s) ∧ (∀ r, reg (rootJoined d s) (aRing r) = reg s (aRing r)) ∧
      (rootJoined d s).obs.fab.cmd = s.obs.fab.cmd ∧ (rootJoined d s).obs.fab.root = true ∧
      (rootJoined d s).obs.fab.count = d.found.length ∧
      (rootJoined d s).obs.fab.rootId = (rootJoined d s).obs.fab.members.head?.elim 0 (·.id) ∧
      (rootJoined d s).aon.discovered = true ∧ (rootJoined d s).aon.instSet = true ∧ (rootJoined d s).obs.fab.disc = none := by
  have hc : casts s (assigned d (ringOfDisc d s) s) := casts_fabCast _ _ _ _ _
  obtain ⟨m, l, hl, hme⟩ := head_ringOfDisc h
  have hlen := length_ringOfDisc d s
  unfold rootJoined
  generalize ringOfDisc d s = ms at hc hl hlen
  generalize assigned d ms s = u at hc
  have hmu : isMe u m = true := by rw [isMe_of_reg (hc.1.reg_eq aFab (by decide))]; exact hme
  have hf := onlyChanges_joined ms u
  have hfab : (onAon (fun a => { a with discovered := true }) (joined ms u)).obs.fab = (ringJoined ms u).obs.fab := fab_joined ms u
  obtain ⟨_, hset, _⟩ := aon_joined ms u
  obtain ⟨_, hreg⟩ := joined_reports ms u
  have hid := ringId_of_head hmu l
  have hroot : ringRoot (m :: l) u = m.id := rfl
  have hhead := head_ringJoined hmu l
  refine ⟨?_, fun r => ?_, ?_, ?_, ?_, ?_, rfl, hset, ?_⟩
  · exact ((hc.1.mono (by decide)).trans hf).trans ((onlyChanges_discovered _).mono (by decide))
  · exact (hreg r).trans (hc.1.reg_eq _ (by unfold regPart; split <;> decide))
  · rw [hfab]
    exact hc.get (·.cmd) fun _ => rfl
  · rw [hfab]
    show (ringRoot ms u == ringId ms u) = true
    rw [hl, hid, hroot]
    exact beq_self_eq_true _
  · rw [hfab]
    exact hlen
  · rw [hfab, hl, hhead]
    exact hroot
  · rw [hfab]
    rfl

theorem discovery_elects (r g : Nat) (h : Held) (d : Disc) (s : State) (hw : waits r h s) (hu : (ringOf s r).cur = none)
    (hst : h.stage = .fab g) (hc : s.obs.fab.cmd = some (r, h.seq)) (ha : s.obs.fab.assigned = false)
    (hd : s.obs.fab.disc = some d) (hs : s.obs.fab.state = 1) (hfw : fwRuns s = true) (ht : g + 16384 ≤ now s)
    (h1 : sharedPair (eastward d.found) = false) (h2 : ((eastward d.found).any fun m => m.busy && m.first) = false)
    (h3 : ((eastward d.found).any fun m => decide (rankOf (ownPrio s) (ownSeed s) < rankOf m.prio m.seed)) = false)
    (h4 : (eastward d.found).any (isMe s) = true) :
    ∃ t, goesTo (.parkedCommandComplete r h.seq) s t ∧ queues r h stOk (fabResult t) s t ∧ t.obs.fab.cmd = none ∧
      t.obs.fab.root = true ∧ t.obs.fab.count = d.found.length ∧ t.obs.fab.rootId = t.obs.fab.members.head?.elim 0 (·.id) ∧
      t.aon.discovered = true ∧ t.aon.instSet = true ∧ t.obs.fab.disc = none := by
  have e : parkedNext r h s = fabDone stOk (fabResult (rootJoined d s)) (rootJoined d s) := by
    unfold parkedNext
    simp only [hst]
    rw [if_pos hc]
    unfold discNext
    dsimp only
    rw [ha, if_neg (by simp), if_neg (by simp [hfw]; omega), hd]
    exact discStep_elects h1 h2 h3 hs
  obtain ⟨hf, hreg, hcmd, k1, k2, k3, k4, k5, k6⟩ := rootJoined_spec h4
  generalize rootJoined d s = v at e hf hreg hcmd k1 k2 k3 k4 k5 k6
  have hheld : heldOf v r h.seq = some h := (heldOf_of_rings (by rw [hf.cmd_eq]) r h.seq).trans ((heldOf_of_cur hu).trans hw.2)
  have hfv : fwRuns v = true := by
    rw [fwRuns, hf.pwr_eq]
    exact hfw
  rw [fabDone_completes hfv (hcmd.trans hc) hheld (by decide)] at e
  have hag : ringAgrees r s (onFab (fun f => { f with cmd := none }) v) :=
    ringAgrees_of_regs (hf.onFab _) r (hreg r)
  exact ⟨_, goesTo_parked hw e hf.ctxs_eq, queues_complete hag _ _ _, rfl, k1, k2, k3, k4, k5, k6⟩

theorem discovery_isAssigned (r g : Nat) (h : Held) (s : State) (hw : waits r h s) (hu : (ringOf s r).cur = none)
    (hst : h.stage = .fab g) (hc : s.obs.fab.cmd = some (r, h.seq)) (ha : s.obs.fab.assigned = true) (hfw : fwRuns s = true)
    (hroot : s.obs.fab.root = true ∨ s.aon.discovered = true) :
    ∃ t, goesTo (.parkedCommandComplete r h.seq) s t ∧ onlyChanges [.smp, .cmd, .fab] s t ∧
      ends r h stOk (fabResult s) s t ∧ t.obs.fab = { s.obs.fab with cmd := none } := by
  have e : parkedNext r h s = fabDone stOk (fabResult s) s := by
    unfold parkedNext
    simp only [hst]
    rw [if_pos hc]
    unfold discNext
    dsimp only
    rw [ha, if_pos rfl, if_pos (by simpa using hroot)]
  rw [fabDone_completes hfw hc ((heldOf_of_cur hu).trans hw.2) (by decide)] at e
  have hf : onlyChanges [.fab] s (onFab (fun f => { f with cmd := none }) s) := (onlyChanges.refl _ s).onFab _
  exact ⟨_, goesTo_parked hw e rfl, (hf.mono (qs := [.smp, .cmd, .fab]) (by decide)).complete _ _ _ _,
    ends_complete (ringAgrees_of_frame hf r rfl) _ _ _, rfl⟩

theorem discovery_isLate (r seq g : Nat) (h : Held) (s : State) (hr : running s) (hc : s.obs.fab.cmd = some (r, seq))
    (hh : heldOf s r seq = some h) (hst : h.stage = .fab g) (ht : g + 320000 ≤ now s) :
    ∃ t, goesTo .discoveryTimeout s t ∧ onlyChanges [.smp, .cmd, .fab] s t ∧ queues r h stTimeout 0 s t ∧
      t.obs.fab.cmd = none := by
  let u := if s.obs.fab.assigned then s else discStop s
  have hf : onlyChanges [.fab] s u := .ite _ (.refl _ s) ((onlyChanges.refl _ s).onFab _)
  have hcu : u.obs.fab.cmd = some (r, seq) := by
    show (if s.obs.fab.assigned then s else discStop s).obs.fab.cmd = _
    split
    · exact hc
    · exact hc
  have e : opDiscTimeout s = fabEnd stTimeout 0 u := by
    unfold opDiscTimeout
    simp only [hc, Option.bind_some, hh, hst]
    rw [if_pos ht]
  generalize u = u at hf hcu e
  rw [fabEnd_completes hcu ((heldOf_of_rings (by rw [hf.cmd_eq]) r seq).trans hh) (by decide)] at e
  have hf' : onlyChanges [.fab] s (onFab (fun f => { f with cmd := none }) u) := hf.onFab _
  exact ⟨_, e ▸ goesTo_inObs rfl hr, (hf'.mono (qs := [.smp, .cmd, .fab]) (by decide)).complete _ _ _ _,
    queues_complete (ringAgrees_of_frame hf' r (by rw [hf'.cmd_eq])) _ _ _, rfl⟩

/-! ## ASSIGN -/

theorem takeAssign_eq (x : FMsg) (s : State) : takeAssign x s =
    (if !(!seenBefore s (le 1 0x22 ++ le 2 (leAt x.payload 6 2))) || !((assignMembers x.payload).any
        (isMe (castTaken x (le 1 0x22 ++ le 2 (leAt x.payload 6 2)) s))) then
      castTaken x (le 1 0x22 ++ le 2 (leAt x.payload 6 2)) s
    else
      let v := joined (assignMembers x.payload) (castTaken x (le 1 0x22 ++ le 2 (leAt x.payload 6 2)) s)
      if v.aon.discovered || v.obs.fab.root then v
      else onFab (fun f => { f with tokenAt := some (now v) }) (fabSend v.obs.fab.rootId 2 0x23 (le 8 (now v)) v)) := rfl

/-- A new member asks the root for its GT, at its first discovery. -/
def tokenSent (v : State) : State :=
  if v.aon.discovered || v.obs.fab.root then v
  else onFab (fun f => { f with tokenAt := some (now v) }) (fabSend v.obs.fab.rootId 2 0x23 (le 8 (now v)) v)

theorem tokenSent_spec (v : State) : onlyChanges [.fab] v (tokenSent v) ∧
    linkless { (tokenSent v).obs.fab with tokenAt := none } = linkless { v.obs.fab with tokenAt := none } ∧
    (tokenSent v).obs.fab.tokenAt = (if v.aon.discovered || v.obs.fab.root then v.obs.fab.tokenAt else some (now v)) := by
  have hs := sends_fabSend v.obs.fab.rootId 2 0x23 (le 8 (now v)) v
  unfold tokenSent
  split
  · exact ⟨.refl _ v, rfl, rfl⟩
  · exact ⟨hs.1.onFab _, congrArg (fun f : Fab => { f with tokenAt := none }) hs.2, rfl⟩

theorem assign_names (x : FMsg) (me : Member) (s : State) (hr : running s) (hi : s.obs.fab.inbox = [x])
    (hm : leAt x.payload 0 1 = 0x22) (hn : seenBefore s (le 1 0x22 ++ le 2 (leAt x.payload 6 2)) = false)
    (hme : (assignMembers x.payload).find? (isMe s) = some me) :
    ∃ t, goesTo .assign s t ∧ onlyChanges [.ident, .fab, .evq, .obsRegs] s t ∧ t.obs.fab.inbox = [] ∧
      t.aon.instSet = true ∧ t.aon.instId = (if s.aon.instSet then s.aon.instId else me.id) ∧
      t.obs.fab.assigned = true ∧ t.obs.fab.disc = none ∧ t.obs.fab.count = (assignMembers x.payload).length ∧
      t.obs.fab.state = (if 1 < (assignMembers x.payload).length then 2 else 0) ∧
      (assignMembers x.payload).head?.map (·.id) = some t.obs.fab.rootId ∧
      t.obs.fab.root = (t.obs.fab.rootId == me.id) ∧
      t.obs.fab.tokenAt = (if s.aon.discovered || t.obs.fab.root then s.obs.fab.tokenAt else some (now s)) := by
  have hg := goesTo_withFab (i := .assign) (f := takeAssign) rfl hr hi hm rfl
  have hc := casts_castTaken x (le 1 0x22 ++ le 2 (leAt x.payload 6 2)) (fabRead s)
  have hany : (assignMembers x.payload).any (isMe s) = true := by
    rw [List.any_eq_true]
    exact ⟨me, List.mem_of_find?_eq_some hme, List.find?_some hme⟩
  rw [takeAssign_eq] at hg
  generalize castTaken x (le 1 0x22 ++ le 2 (leAt x.payload 6 2)) (fabRead s) = u at hg hc
  have hfu := (onlyChanges_fabRead s).trans hc.1
  have hisMe : isMe u = isMe s := isMe_of_reg (hfu.reg_eq aFab (by decide))
  rw [hisMe, hany, show seenBefore (fabRead s) (le 1 0x22 ++ le 2 (leAt x.payload 6 2)) = false from hn,
    if_neg (by simp)] at hg
  generalize assignMembers x.payload = ms at hg hme hany
  have hid : ringId ms u = me.id := by
    unfold ringId
    rw [hisMe, hme]
  have hhead : ms.head?.map (·.id) = some (ringRoot ms u) := by
    cases ms with
    | nil => exact absurd hme (by simp)
    | cons a l => rfl
  have hj := onlyChanges_joined ms u
  have hfab := fab_joined ms u
  obtain ⟨a1, a2, a3⟩ := aon_joined ms u
  obtain ⟨i1, i2, _, i4, _⟩ := hfu.2.2.2 .ident (by decide)
  have hin : (joined ms u).obs.fab.inbox = [] := by
    rw [hfab]
    exact hc.get (·.inbox) fun _ => rfl
  have htok : (joined ms u).obs.fab.tokenAt = s.obs.fab.tokenAt := by
    rw [hfab]
    exact hc.get (·.tokenAt) fun _ => rfl
  have hnow : now (joined ms u) = now s := by rw [hj.now_eq, hfu.now_eq]
  generalize joined ms u = v at hg hj hfab a1 a2 a3 hin htok hnow
  obtain ⟨hk, hl, ht⟩ := tokenSent_spec v
  have hg' : goesTo .assign s (tokenSent v) := hg
  obtain ⟨b1, b2, _⟩ := hk.2.2.2 .ident (by decide)
  have hroot : (tokenSent v).obs.fab.root = v.obs.fab.root := (have h := congrArg Fab.root hl; h)
  have hget : ∀ {α : Type} (f : Fab → α), (∀ x, f (linkless { x with tokenAt := none }) = f x) →
      f (tokenSent v).obs.fab = f v.obs.fab := fun f h => by rw [← h, hl, h]
  have hrootId : v.obs.fab.rootId = ringRoot ms u := by rw [hfab]; rfl
  refine ⟨_, hg', ((hfu.mono (by decide)).trans hj).trans (hk.mono (by decide)), ?_, ?_, ?_, ?_, ?_, ?_, ?_, ?_, ?_, ?_⟩
  · exact (hget (·.inbox) fun _ => rfl).trans hin
  · rw [b2, a2]
  · rw [b1, a1, hid, i1, i2]
  · exact (hget (·.assigned) fun _ => rfl).trans (by rw [hfab]; rfl)
  · exact (hget (·.disc) fun _ => rfl).trans (by rw [hfab]; rfl)
  · exact (hget (·.count) fun _ => rfl).trans (by rw [hfab]; rfl)
  · exact (hget (·.state) fun _ => rfl).trans (by rw [hfab]; rfl)
  · rw [hhead, ← hrootId]
    exact congrArg some (hget (·.rootId) fun _ => rfl).symm
  · rw [hroot, hget (·.rootId) fun _ => rfl, hrootId, ← hid, hfab]
    rfl
  · rw [ht, hroot, a3, i4, htok, hnow]

theorem assign_passes (x : FMsg) (s : State) (hr : running s) (hi : s.obs.fab.inbox = [x]) (hm : leAt x.payload 0 1 = 0x22)
    (hn : (assignMembers x.payload).any (isMe s) = false) :
    ∃ t, goesTo .assign s t ∧ onlyChanges [.fab] s t ∧ t.obs.fab.inbox = [] ∧
      t.obs.fab.members = s.obs.fab.members ∧ t.obs.fab.rootId = s.obs.fab.rootId ∧
      t.obs.fab.assigned = s.obs.fab.assigned := by
  have hg := goesTo_withFab (i := .assign) (f := takeAssign) rfl hr hi hm rfl
  have hc := casts_castTaken x (le 1 0x22 ++ le 2 (leAt x.payload 6 2)) (fabRead s)
  rw [takeAssign_eq] at hg
  generalize castTaken x (le 1 0x22 ++ le 2 (leAt x.payload 6 2)) (fabRead s) = u at hg hc
  have hfu := (onlyChanges_fabRead s).trans hc.1
  rw [isMe_of_reg (hfu.reg_eq aFab (by decide)), hn, if_pos (by simp)] at hg
  exact ⟨_, hg, hfu, hc.get (·.inbox) fun _ => rfl, hc.get (·.members) fun _ => rfl, hc.get (·.rootId) fun _ => rfl,
    hc.get (·.assigned) fun _ => rfl⟩

end Sys2Proof.Machine
end

section
/-! CERTIFICATE. Global Time on the fabric (R313, R314), and the statement about discovery and time. -/

namespace Sys2Proof.Machine

open Sys2Proof.Safety

set_option Elab.async false

/-! ## TOKEN and ECHO -/

theorem token_isEchoed (x : FMsg) (s : State) (hr : running s) (hi : s.obs.fab.inbox = [x])
    (hm : leAt x.payload 0 1 = 0x23) (hroot : s.obs.fab.root = true) :
    ∃ t, goesTo .token s t ∧ onlyChanges [.fab] s t ∧ t.obs.fab.inbox = [] ∧
      linkOf t (!goesEast s x.src) = linkOf s (!goesEast s x.src) ∧
      ∀ m, m = plainMsg 0x24 (bytesAt x.payload 4 8) ∨ m = plainMsg 0x25 (le 8 (now s)) →
        ∃ k ∈ (linkOf t (goesEast s x.src)).kept ++ (linkOf t (goesEast s x.src)).waiting, k.clear = m ∧ k.dst = x.src := by
  have hg := goesTo_withFab (i := .token) (f := takeToken) rfl hr hi hm rfl
  let e := goesEast s x.src
  let u := portForward s.aon.instId e 2 x.src 0x24 (bytesAt x.payload 4 8) (fabRead s)
  have hu : sends (fabRead s) u := sends_portForward _ _ _ _ _ _ _
  have he : goesEast u x.src = e := hu.goesEast_eq x.src
  have hn : now u = now s := hu.1.now_eq
  let v := portForward u.aon.instId e 2 x.src 0x25 (le 8 (now s)) u
  have ht : takeToken x (fabRead s) = v := by
    unfold takeToken
    rw [if_neg (by show ¬ (!s.obs.fab.root) = true; simp [hroot])]
    show portForward u.aon.instId (goesEast u x.src) 2 x.src 0x25 (le 8 (now u)) u = v
    rw [he, hn]
  rw [ht] at hg
  have hv : sends u v := sends_portForward _ _ _ _ _ _ _
  have hl : linkHas (plainMsg 0x24 (bytesAt x.payload 4 8)) x.src (linkOf u e) := linkHas_portForward _ _ _ _ _ _ _
  refine ⟨v, hg, (onlyChanges_fabRead s).trans (hu.1.trans hv.1), ?_, ?_, fun m hmm => ?_⟩
  · exact (hv.get (·.inbox) fun _ => rfl).trans (hu.get (·.inbox) fun _ => rfl)
  · exact (linkOf_portForward_other _ _ _ _ _ _ _).trans (linkOf_portForward_other _ _ _ _ _ _ _)
  · rcases hmm with rfl | rfl
    · exact linkHas_portForward_of hl _ _ _ _ _ _
    · exact linkHas_portForward _ _ _ _ _ _ _

theorem echo_measures (g : Nat) (x : FMsg) (s : State) (hr : running s) (hi : s.obs.fab.inbox = [x])
    (hm : leAt x.payload 0 1 = 0x24) (ht : s.obs.fab.tokenAt = some g) :
    ∃ t, goesTo .echo s t ∧ onlyChanges [.ident, .fab] s t ∧ t.aon.fabRtt = some (now s - leAt x.payload 4 8) ∧
      t.obs.fab = { s.obs.fab with inbox := [], tokenAt := none } ∧ t.aon.instId = s.aon.instId := by
  have hg := goesTo_withFab (i := .echo) (f := takeEcho) rfl hr hi hm rfl
  have e : takeEcho x (fabRead s) = onAon (fun a => { a with fabRtt := some (now s - leAt x.payload 4 8) })
      (onFab (fun f => { f with tokenAt := none }) (fabRead s)) := by
    unfold takeEcho
    rw [show (fabRead s).obs.fab.tokenAt = some g from ht]
    rfl
  rw [e] at hg
  refine ⟨_, hg, ⟨rfl, rfl, rfl, fun p hp => ?_⟩, rfl, rfl, rfl⟩
  cases p with
  | ident | fab => simp at hp
  | aonRegs | tb | pwr | sen | alm | keys | rap | db | obsRegs | hed | cut | ctxs | smp | cmd | evq | lens | wat | hang | prv
    | egr | dbg | draws => rfl

/-! ## The GT of a first discovery -/

theorem cal_loseCopies_list (l : List Nat) (s : State) (c : Nat) : (collOf (l.foldl (fun acc c =>
    dropMirrors c (onColl c (fun k => { k with
      cal := false, misses := 0, taking := k.taking.map fun x => { x with cal := false } }) acc)) s) c).cal =
    if c ∈ l then false else (collOf s c).cal := by
  induction l generalizing s with
  | nil => rfl
  | cons d l ih =>
    rw [List.foldl_cons, ih, collOf_dropMirrors, collOf_onColl]
    by_cases hc : c ∈ l
    · simp [hc]
    · by_cases hd : c = d
      · subst hd
        rw [if_neg hc, if_pos rfl, if_pos List.mem_cons_self]
        exact congrArg CollSt.cal (collOf_onColl_same _ _ _)
      · rw [if_neg hc, if_neg hd, if_neg (by simp [hd, hc]), collOf_onColl, if_neg hd]

theorem cal_loseCopies {s : State} {c : Nat} (hc : c < s.build.nColl) : (collOf (loseCopies s) c).cal = false := by
  unfold loseCopies
  rw [cal_loseCopies_list, if_pos (List.mem_range.mpr hc)]

section Frame

variable {ps : List Part} {s t : State} (h : onlyChanges ps s t)
include h

theorem onlyChanges_moveStops (v : Nat) (hm : .hed ∈ ps := by decide) (hc : .cut ∈ ps := by decide) :
    onlyChanges ps s (moveStops v t) := h.foldl (fun _ _ ha => (onlyChanges_accrue ha _ _ hm hc).onUnit _ _ hm) _

theorem onlyChanges_moveRules (v : Nat) (hs : .sen ∈ ps := by decide) : onlyChanges ps s (moveRules v t) :=
  (h.onSen _ hs).foldl (fun _ _ ha => .ite _ (ha.onSen _ hs) ha) _

end Frame

/-- The timebase with a root count loaded. -/
def gtLoaded (v : Nat) (b : Tb) : Tb :=
  { b with rootGt := v / 32 * 32, sub := v % 32, calDone := false, full := true, lockStart := v / 32 * 32, lockGap := none }

theorem loadGt_spec (v : Nat) (s : State) : onlyChanges [.tb, .pwr, .sen, .hed, .cut, .fab] s (loadGt v s) ∧
    (loadGt v s).aon.tb = gtLoaded (v % 2 ^ 64) s.aon.tb ∧ (loadGt v s).obs.fab.cmd = s.obs.fab.cmd ∧
    (loadGt v s).obs.fab.inbox = s.obs.fab.inbox ∧ ∀ c, c < s.build.nColl → (collOf (loadGt v s) c).cal = false := by
  have h1 : onlyChanges [.hed, .cut] s (moveStops (v % 2 ^ 64) s) := onlyChanges_moveStops (.refl _ s) _
  let a := onTb (gtLoaded (v % 2 ^ 64)) (moveStops (v % 2 ^ 64) s)
  have h2 : onlyChanges [.sen] a (moveRules (v % 2 ^ 64) a) := onlyChanges_moveRules (.refl _ a) _
  let b := onFab (fun f => { f with
    linkE := { f.linkE with lastFlit := v % 2 ^ 64 }, linkW := { f.linkW with lastFlit := v % 2 ^ 64 } })
    (onPwr (fun p => { p with idleSince := v % 2 ^ 64 / 32 * 32 }) (moveRules (v % 2 ^ 64) a))
  have h3 : onlyChanges [.hed] b (loseCopies b) := onlyChanges_loseCopies (.refl _ b)
  have e : loadGt v s = loseCopies b := rfl
  have hb : onlyChanges [.tb, .pwr, .sen, .hed, .cut, .fab] s b :=
    ((((h1.mono (by decide)).onTb _).trans (h2.mono (by decide))).onPwr _).onFab _
  have hfab : b.obs.fab.cmd = s.obs.fab.cmd ∧ b.obs.fab.inbox = s.obs.fab.inbox := by
    have hf : (moveRules (v % 2 ^ 64) a).obs.fab = s.obs.fab := h2.fab_eq.trans h1.fab_eq
    have hc := congrArg Fab.cmd hf
    have hi := congrArg Fab.inbox hf
    exact ⟨hc, hi⟩
  rw [e]
  refine ⟨hb.trans (h3.mono (by decide)), ?_, ?_, ?_, fun c hc => ?_⟩
  · rw [h3.tb_eq]
    show (moveRules (v % 2 ^ 64) a).aon.tb = _
    rw [h2.tb_eq]
    show gtLoaded _ (moveStops (v % 2 ^ 64) s).aon.tb = _
    rw [h1.tb_eq]
  · rw [h3.fab_eq]
    exact hfab.1
  · rw [h3.fab_eq]
    exact hfab.2
  · exact cal_loseCopies (by rw [hb.build_eq]; exact hc)

theorem gt_isLoaded (x : FMsg) (s : State) (hr : running s) (hi : s.obs.fab.inbox = [x]) (hm : leAt x.payload 0 1 = 0x25)
    (hd : s.aon.discovered = false) (hroot : s.obs.fab.root = false) (ha : s.obs.fab.assigned = true)
    (hc : s.obs.fab.cmd = none) :
    ∃ t, goesTo .gtLoad s t ∧ onlyChanges [.tb, .pwr, .ident, .sen, .hed, .cut, .fab] s t ∧
      now t = (leAt x.payload 4 8 + (s.aon.fabRtt.getD 0 + 1) / 2) % 2 ^ 64 ∧ t.aon.discovered = true ∧
      t.aon.tb.calDone = false ∧ t.aon.tb.full = true ∧ (∀ c, c < s.build.nColl → (collOf t c).cal = false) := by
  have hg := goesTo_withFab (i := .gtLoad) (f := takeGtLoad) rfl hr hi hm rfl
  let v := leAt x.payload 4 8 + (s.aon.fabRtt.getD 0 + 1) / 2
  let w := onAon (fun a => { a with discovered := true }) (loadGt v (fabRead s))
  have e : takeGtLoad x (fabRead s) = fabDone stOk (fabResult w) w := by
    unfold takeGtLoad
    rw [if_neg (by show ¬ (s.aon.discovered || s.obs.fab.root || !s.obs.fab.assigned) = true; simp [hd, hroot, ha])]
    rfl
  obtain ⟨h1, h2, h3, _, h5⟩ := loadGt_spec v (fabRead s)
  have hcw : w.obs.fab.cmd = none := h3.trans hc
  rw [e, fabDone_idle hcw] at hg
  have hw : onlyChanges [.ident] (loadGt v (fabRead s)) w := onlyChanges_discovered _
  have hf := ((onlyChanges_fabRead s).mono (qs := [.tb, .pwr, .ident, .sen, .hed, .cut, .fab]) (by decide)).trans
    ((h1.mono (by decide)).trans (hw.mono (by decide)))
  have htb : w.aon.tb = gtLoaded (v % 2 ^ 64) s.aon.tb := h2
  refine ⟨w, hg, hf, ?_, rfl, ?_, ?_, h5⟩
  · rw [now, htb]
    show (v % 2 ^ 64 / 32 * 32 + v % 2 ^ 64 % 32) % 2 ^ 64 = v % 2 ^ 64
    omega
  · rw [htb]
    rfl
  · rw [htb]
    rfl

/-! ## BEACON -/

/-- The core's time is not the root's. -/
def misaligned (s : State) : State :=
  fabMember s.aon.instId 3 (orReg (aFab + 0xC) 1 (onAon (fun a => { a with misalign := true }) s))

theorem misaligned_spec (s : State) : onlyChanges [.ident, .evq, .obsRegs] s (misaligned s) ∧
    (misaligned s).aon.misalign = true ∧ bit (reg (misaligned s) (aFab + 0xC)) 0 = true := by
  let u := onAon (fun a => { a with misalign := true }) s
  have hu : onlyChanges [.ident] s u := by
    refine ⟨rfl, rfl, rfl, fun p hp => ?_⟩
    cases p with
    | ident => simp at hp
    | aonRegs | tb | pwr | sen | alm | keys | rap | db | obsRegs | hed | cut | ctxs | smp | cmd | evq | lens | wat | hang
      | prv | egr | fab | dbg | draws => rfl
  have hv : onlyChanges [.evq, .obsRegs] u (misaligned s) :=
    onlyChanges_fabMember ((onlyChanges.refl [.evq, .obsRegs] u).orReg (aFab + 0xC) 1) _ _
  refine ⟨(hu.mono (by decide)).trans (hv.mono (by decide)), ?_, ?_⟩
  · exact (hv.2.2.2 .ident (by decide)).2.2.1.trans rfl
  · unfold misaligned
    rw [fabMember, bit_reg_orReg, reg_push_spared (by unfold spared; decide) (by show (kindCls 0x50).1 < 8; decide),
      bit_reg_orReg, show bit (1 : U32) 0 = true by decide, Bool.or_true, Bool.true_or]

theorem beacon_compares (rtt : Nat) (x : FMsg) (s : State) (hr : running s) (hi : s.obs.fab.inbox = [x])
    (hm : leAt x.payload 0 1 = 0x31) (hroot : s.obs.fab.root = false) (ha : s.aon.misalign = false)
    (hn : seenBefore s (le 1 0x31 ++ bytesAt x.payload 4 9) = false) (ht : s.aon.fabRtt = some rtt)
    (hd : s.aon.discovered = true) :
    ∃ t e, goesTo .beacon s t ∧ e = (leAt x.payload 4 8 : Int) + (rtt : Int) / 2 - (now s : Int) ∧
      t.obs.fab.inbox = [] ∧ t.obs.fab.err = e ∧ now t = now s ∧
      (-2 ≤ e → e ≤ 2 → t.aon.misalign = false ∧ onlyChanges [.fab] s t) ∧
      (e < -2 ∨ 2 < e → t.aon.misalign = true ∧ onlyChanges [.ident, .fab, .evq, .obsRegs] s t ∧
        bit (reg t (aFab + 0xC)) 0 = true) := by
  have hg := goesTo_withFab (i := .beacon) (f := takeBeacon) rfl hr hi hm rfl
  let u := goOn x.east x.src 4 x.dst 0x31 (bytesAt x.payload 4 9 ++ le 1 (leAt x.payload 13 1 + 1) ++ zeros 2)
    (noteSeen (le 1 0x31 ++ bytesAt x.payload 4 9) (!x.east) (fabRead s))
  let err : Int := (leAt x.payload 4 8 : Int) + (rtt : Int) / 2 - (now s : Int)
  have hc : casts (fabRead s) u := (casts_noteSeen _ _ _).trans (sends_goOn _ _ _ _ _ _ _).casts
  have hu : onlyChanges [.fab] s u := (onlyChanges_fabRead s).trans hc.1
  obtain ⟨_, _, i3, i4, i5⟩ := hu.2.2.2 .ident (by decide)
  let v := onFab (fun f => { f with err := err }) u
  have hv : onlyChanges [.fab] s v := hu.onFab _
  have hvm : v.aon.misalign = false := i3.trans ha
  have hvi : v.obs.fab.inbox = [] := hc.get (·.inbox) fun _ => rfl
  have e : takeBeacon x (fabRead s) = if -2 ≤ err ∧ err ≤ 2 then v else misaligned v := by
    unfold takeBeacon
    dsimp only
    rw [show (fabRead s).obs.fab.root = false from hroot,
      show seenBefore (fabRead s) (le 1 0x31 ++ bytesAt x.payload 4 9) = false from hn, if_neg (by simp)]
    show (match u.aon.fabRtt with
      | none => u
      | some rtt => if !u.aon.discovered then u else
        let err : Int := (leAt x.payload 4 8 : Int) + (rtt : Int) / 2 - (now u : Int)
        let s := onFab (fun f => { f with err := err }) u
        if -2 ≤ err ∧ err ≤ 2 ∨ s.aon.misalign then s
        else fabMember s.aon.instId 3 (orReg (aFab + 0xC) 1 (onAon (fun a => { a with misalign := true }) s))) = _
    rw [i5, ht]
    dsimp only
    rw [i4, hd, if_neg (by simp), hu.now_eq]
    show (if (-2 ≤ err ∧ err ≤ 2) ∨ v.aon.misalign = true then v else misaligned v) = _
    rw [hvm]
    simp
  rw [e] at hg
  by_cases hb : -2 ≤ err ∧ err ≤ 2
  · rw [if_pos hb] at hg
    exact ⟨v, err, hg, rfl, hvi, rfl, hv.now_eq, fun _ _ => ⟨hvm, hv⟩, fun h => by omega⟩
  · rw [if_neg hb] at hg
    obtain ⟨h1, h2, h3⟩ := misaligned_spec v
    have hf := (hv.mono (qs := [.ident, .fab, .evq, .obsRegs]) (by decide)).trans (h1.mono (by decide))
    exact ⟨_, err, hg, rfl, by rw [h1.fab_eq]; exact hvi, by rw [h1.fab_eq]; rfl, hf.now_eq,
      fun h3 h4 => absurd ⟨h3, h4⟩ hb, fun _ => ⟨h2, hf, h3⟩⟩

/-- Settles O59, each message from the rule of what it sends and what it leaves. -/
theorem discoveryAndTime : Obligations.DiscoveryAndTime :=
  ⟨discover_alone, discover_begins, discover_waits,
    fun x hops east s hr hi hm hu hh he =>
      ⟨fun hn => probe_isAnswered x hops east s hr hi hm hu hh he hn, fun hn => probe_repeats x s hr hi hm hn⟩,
    answer_lists, discovery_elects, discovery_isAssigned, assign_names, assign_passes, discovery_isLate, token_isEchoed,
    echo_measures, gt_isLoaded, beacon_compares⟩

end Sys2Proof.Machine
end

section
/-! CERTIFICATE. A one-beat stream of a tensor tap (R101, R102, R120, R127), and the statement about tap beats. -/

namespace Sys2Proof.Machine

open Sys2Proof.Safety

set_option Elab.async false

/-! ## Elements of an image -/

theorem elems_putBin (k : Nat) (f : Bin → Bin) (i : Img) : (putBin k f i).elems = i.elems := by
  unfold putBin
  dsimp only
  split <;> rfl

theorem elems_putValue (c : BinCfg) (k : Nat) (d : Dyadic) (i : Img) : (putValue c k d i).elems = i.elems := by
  unfold putValue
  dsimp only
  split <;> exact elems_putBin _ _ _

theorem elems_putWide (c : BinCfg) (d : Dyadic) (i : Img) : (putWide c d i).elems = i.elems := by
  unfold putWide
  dsimp only
  split
  · exact elems_putBin _ _ _
  split
  · exact elems_putValue _ _ _ _
  · exact elems_putValue _ _ _ _

theorem elems_negated (c : Prop) [Decidable c] (i : Img) : (if c then putNeg i else i).elems = i.elems := by
  split <;> rfl

/-- One element counts one (R108). -/
theorem elems_putElem (c : BinCfg) (v : Val) (t : Nat) (i : Img) :
    (putElem c v t i).elems = sat (2 ^ 48 - 1) (i.elems + 1) := by
  unfold putElem
  dsimp only
  split
  · exact elems_putBin _ _ _
  split
  · exact (elems_putBin _ _ _).trans (elems_negated _ _)
  have he (d : Dyadic) : (putExtreme d (if d.m < 0 then putNeg (putStamp t i) else putStamp t i)).elems =
      sat (2 ^ 48 - 1) (i.elems + 1) := elems_negated _ _
  split
  · exact (elems_putBin _ _ _).trans (he _)
  split
  · exact (elems_putBin _ _ _).trans (he _)
  split
  · exact (elems_putValue _ _ _ _).trans (he _)
  · exact (elems_putWide _ _ _).trans (he _)

theorem elems_putScales (st : Stream) (b : Beat) (n : Nat) (i : Img) : (putScales st b n i).elems = i.elems := by
  have h (l : List Nat) : ∀ j : Img, (l.foldl
      (fun acc m => putScale (decodeScale st.scale (fld b.scales (8 * m) 8)) acc) j).elems = j.elems := by
    induction l with
    | nil => exact fun _ => rfl
    | cons m l ih => exact fun j => ih _
  exact h _ i

/-- A beat's elements reach an image, as far as it has room for their count. -/
theorem elems_putBeat (c : BinCfg) (st : Stream) (b : Beat) (t : Nat) (i : Img)
    (h : i.elems + beatCount st.fmt b < 2 ^ 48) : (putBeat c st b t i).elems = i.elems + beatCount st.fmt b := by
  have hfold (n : Nat) (j : Img) (hn : j.elems + n < 2 ^ 48) :
      ((List.range n).foldl (fun acc m => putElem c (elemVal st.fmt st.scale b m) t acc) j).elems = j.elems + n := by
    induction n with
    | zero => rfl
    | succ n ih =>
      rw [List.range_succ, List.foldl_append, List.foldl_cons, List.foldl_nil, elems_putElem, ih (by omega), sat,
        if_neg (by omega)]
      omega
  have hs : (if st.scale = 0 then i else putScales st b (beatCount st.fmt b) i).elems = i.elems := by
    split
    · rfl
    · exact elems_putScales _ _ _ _
  unfold putBeat
  dsimp only
  rw [hfold _ _ (hs ▸ h), hs]

/-! ## What the operations on a tap leave of the Lens -/

@[simp] theorem tapOf_setTap (tap : Nat) (v : Option Stream) (s : State) : tapOf (setTap tap v s) tap = v := by
  unfold tapOf setTap onLens onObs
  by_cases h : tap = 0 <;> simp [h]

/-- What the Lens holds beside its open streams, rows and channels: slots, counts of unbound elements, lane groups. -/
def lensRest (l : Lens) : SMap (Option Slot) × Nat × Nat × Bool × Bool × Option Nat × List Nat × Nat :=
  (l.slots, l.unb0, l.unb1, l.oos, l.spareUsed, l.replacing, l.inject, l.failed)

@[simp] theorem lensRest_setTap (tap : Nat) (v : Option Stream) (s : State) :
    lensRest (setTap tap v s).obs.lens = lensRest s.obs.lens := by
  unfold setTap onLens onObs
  dsimp only
  split <;> rfl

@[simp] theorem lensRest_setRows (tap : Nat) (v : List Row) (s : State) :
    lensRest (setRows tap v s).obs.lens = lensRest s.obs.lens := by
  unfold setRows onLens onObs
  dsimp only
  split <;> rfl

@[simp] theorem rowsOf_setTap (tap : Nat) (v : Option Stream) (u : Nat) (s : State) : rowsOf (setTap u v s) tap = rowsOf s tap := by
  unfold rowsOf setTap onLens onObs
  dsimp only
  split <;> split <;> rfl

theorem tapOf_of_lens {s t : State} (h : t.obs.lens = s.obs.lens) (tap : Nat) : tapOf t tap = tapOf s tap := by
  unfold tapOf
  rw [h]

@[simp] theorem tapOf_addUnbound (tap u n : Nat) (s : State) : tapOf (addUnbound u n s) tap = tapOf s tap := by
  unfold tapOf addUnbound onLens onObs
  dsimp only
  split <;> split <;> rfl

/-! ## A stream without attribution -/

theorem slotFor_unattributed {st : Stream} (h : st.attributed = false) (s : State) (tap : Nat) : slotFor s tap st = none := by
  unfold slotFor
  split
  · rfl
  · refine Option.map_eq_none_iff.2 (List.find?_eq_none.2 fun e _ => ?_)
    cases e.2 with
    | none => exact Bool.false_ne_true
    | some k => simp [slotTakes, h]

theorem pairFor_unattributed {st : Stream} (h : st.attributed = false) (s : State) : pairFor s st = none :=
  List.find?_eq_none.2 fun p _ => by simp [h]

theorem onlyChanges_captureBeat (tap : Nat) (st : Stream) (b : Beat) (s : State) :
    onlyChanges [.wat] s (captureBeat tap st b s) := by
  have hc {t : State} (h : onlyChanges [.wat] s t) (id sect : Nat) (bytes : List Byte) :
      onlyChanges [.wat] s (capture id sect bytes t) := by
    unfold capture
    split
    · exact h
    · exact .ite _ h (.ite _ (h.onWat _) (h.onWat _))
  unfold captureBeat
  dsimp only
  refine (onlyChanges.refl _ s).foldl (fun u d hu => ?_) _
  have h1 : onlyChanges [.wat] s (if !b.last && decide (beatCount st.fmt b < fmtFull st.fmt) then
      onDump d.id (fun d => { d with irreg := true }) u else u) := .ite _ (hu.onWat _) hu
  exact .ite _ (h1.onWat _) (hc (hc h1 _ _ _) _ _ _)

/-- A beat of an unattributed stream has been counted: its stream stands open, and beside the streams the Lens holds
what it held, its elements among the unbound ones. -/
def countedUnbound (tap n : Nat) (s t : State) : Prop :=
  onlyChanges [.lens, .obsRegs, .wat] s t ∧ lensRest t.obs.lens = lensRest (addUnbound tap n s).obs.lens ∧
    ∃ st, tapOf t tap = some st ∧ st.slot = none ∧ st.pairOf = none ∧ st.attributed = false

theorem lensRest_addUnbound (tap n : Nat) (s : State) : lensRest (addUnbound tap n s).obs.lens =
    (s.obs.lens.slots, if tap = 0 then sat (2 ^ 48 - 1) (s.obs.lens.unb0 + n) else s.obs.lens.unb0,
      if tap = 0 then s.obs.lens.unb1 else sat (2 ^ 48 - 1) (s.obs.lens.unb1 + n), s.obs.lens.oos, s.obs.lens.spareUsed,
      s.obs.lens.replacing, s.obs.lens.inject, s.obs.lens.failed) := by
  unfold addUnbound onLens onObs lensRest
  dsimp only
  split <;> rfl

theorem lensRest_addUnbound_of {s t : State} (h : lensRest t.obs.lens = lensRest s.obs.lens) (tap n : Nat) :
    lensRest (addUnbound tap n t).obs.lens = lensRest (addUnbound tap n s).obs.lens := by
  rw [lensRest_addUnbound, lensRest_addUnbound]
  simp only [lensRest, Prod.mk.injEq] at h
  simp only [h]

theorem newStream_unattributed {b : Beat} {s : State} (ha : attrOf s (b.site % 2 ^ 20) = none) (h : Nat) :
    (newStream s b h).attributed = false := by
  show (attrOf s (b.site % 2 ^ 20)).isSome = false
  rw [ha]
  rfl

theorem openStream_unattributed (tap : Nat) (b : Beat) (h : Nat) (s : State)
    (ha : attrOf s (b.site % 2 ^ 20) = none) : openStream tap b h s = setTap tap (some (newStream s b h))
      (if b.scale ≠ 0 ∧ !fmtScalable b.fmt then badStream tap s else s) := by
  have hw := newStream_unattributed ha h
  have hj (u : State) : (if tap = 1 then pairFor u (newStream s b h) else none) = none := by
    rw [pairFor_unattributed hw, ite_self]
  have hm (u : State) : matchStream (newStream s b h) h tap u = u := if_pos (by rw [hw]; rfl)
  unfold openStream
  dsimp only
  rw [hm, hj]
  dsimp only
  rw [slotFor_unattributed hw]
  rfl

theorem onlyChanges_badStream {ps : List Part} {s t : State} (h : onlyChanges ps s t) (tap : Nat)
    (hm : .obsRegs ∈ ps := by decide) : onlyChanges ps s (badStream tap t) := h.bumpReg _ _ _ _ hm

theorem binBeat_unbound {tap : Nat} {b : Beat} {h : Nat} {s : State} {st : Stream} (hl : s.build.lens = true)
    (ht : tapOf s tap = some st) (hs : st.slot = none) (hp : st.pairOf = none) (ha : st.attributed = false) :
    countedUnbound tap (beatCount st.fmt b) s (binBeat tap b h s) := by
  let st' : Stream := { st with
    beats := st.beats + 1, elems := st.elems + beatCount st.fmt b, lastStamp := h, slot := none, pairOf := none }
  let u := setTap tap (some st') (if fmtFull st.fmt < b.count then badStream tap s else s)
  have hb : onlyChanges [.obsRegs] s (if fmtFull st.fmt < b.count then badStream tap s else s) :=
    .ite _ (onlyChanges_badStream (.refl _ s) _) (.refl _ s)
  have hu : onlyChanges [.lens, .obsRegs, .wat] s u := (hb.mono (by decide)).setTap _ _
  have e : binBeat tap b h s = addUnbound tap (beatCount st.fmt b) u := by
    have hc : (if u.build.lens then addUnbound tap (beatCount st.fmt b) u else u) = addUnbound tap (beatCount st.fmt b) u :=
      if_pos (hu.build_eq ▸ hl)
    unfold binBeat
    rw [ht]
    dsimp only
    rw [hs, hp]
    generalize Option.any _ _ = x
    cases x <;> exact hc
  have hr : lensRest u.obs.lens = lensRest s.obs.lens := (lensRest_setTap _ _ _).trans (by rw [hb.lens_eq])
  exact e ▸ ⟨hu.onLens _, lensRest_addUnbound_of hr _ _, st', (tapOf_addUnbound _ _ _ _).trans (tapOf_setTap _ _ _), rfl, rfl, ha⟩

/-- The state of a tap's beat once its elements are binned and its row record is taken. -/
def beatBinned (tap : Nat) (b : Beat) (s : State) : State :=
  let h := tapHorizon s tap
  let o := openStream tap b h s
  rowBeat tap b h (binBeat tap b h (match tapOf o tap with | some st => captureBeat tap st b o | none => o))

theorem beatBinned_unattributed {tap : Nat} {b : Beat} {s : State} (hl : s.build.lens = true)
    (ha : attrOf s (b.site % 2 ^ 20) = none) :
    countedUnbound tap (min b.count (fmtFull b.fmt)) s (beatBinned tap b s) := by
  let w := newStream s b (tapHorizon s tap)
  let o := setTap tap (some w) (if b.scale ≠ 0 ∧ !fmtScalable b.fmt then badStream tap s else s)
  have hw : w.attributed = false := newStream_unattributed ha _
  have hb : onlyChanges [.obsRegs] s (if b.scale ≠ 0 ∧ !fmtScalable b.fmt then badStream tap s else s) :=
    .ite _ (onlyChanges_badStream (.refl _ s) _) (.refl _ s)
  have ho : onlyChanges [.lens, .obsRegs, .wat] s o := (hb.mono (by decide)).setTap _ _
  have hro : lensRest o.obs.lens = lensRest s.obs.lens := (lensRest_setTap _ _ _).trans (by rw [hb.lens_eq])
  have hto : tapOf o tap = some w := tapOf_setTap _ _ _
  have e : beatBinned tap b s = rowBeat tap b (tapHorizon s tap) (binBeat tap b (tapHorizon s tap) (captureBeat tap w b o)) := by
    unfold beatBinned
    dsimp only
    rw [openStream_unattributed _ _ _ _ ha, show tapOf (setTap tap (some (newStream s b (tapHorizon s tap))) _) tap = some w from hto]
  have hc := onlyChanges_captureBeat tap w b o
  generalize captureBeat tap w b o = c at e hc
  have htc : tapOf c tap = some w := (tapOf_of_lens hc.lens_eq tap).trans hto
  obtain ⟨h1, h2, st, h3, h4, h5, h6⟩ : countedUnbound tap (beatCount w.fmt b) c (binBeat tap b (tapHorizon s tap) c) :=
    binBeat_unbound (by rw [hc.build_eq, ho.build_eq, hl]) htc rfl rfl hw
  have er : rowBeat tap b (tapHorizon s tap) (binBeat tap b (tapHorizon s tap) c) = binBeat tap b (tapHorizon s tap) c := by
    unfold rowBeat
    rw [h3]
    exact if_pos (by simp [h6])
  rw [e, er]
  have hrc : lensRest c.obs.lens = lensRest s.obs.lens := by rw [hc.lens_eq, hro]
  exact ⟨ho.trans ((hc.mono (by decide)).trans h1), h2.trans (lensRest_addUnbound_of hrc _ _), st, h3, h4, h5, h6⟩

/-! ## The close of a one-beat stream -/

/-- A beat that is a whole stream: its elements are binned, a lane group may fail, and the stream closes. -/
theorem opTapBeat_whole {tap : Nat} {b : Beat} {s : State} (hl : s.build.lens = true) (h2 : tap < 2)
    (ht : tapOf s tap = none) (hf : b.first = true) (hla : b.last = true) :
    opTapBeat tap b s = closeStream tap (tapHorizon s tap)
      (match (b.fails.map fun g => 8 * tap + g % 8).or ((beatBinned tap b s).obs.lens.inject.find? fun g => g / 8 == tap) with
        | some g => if (beatBinned tap b s).build.lens then laneFails g (tapHorizon s tap) (beatBinned tap b s)
          else beatBinned tap b s
        | none => beatBinned tap b s) := by
  unfold opTapBeat
  rw [if_neg (by rw [hl]; simp; omega)]
  dsimp only
  rw [if_neg (by rw [hf]; simp), ht, hf, hla]
  rfl

theorem closeStream_unbound {tap h : Nat} {s : State} {st : Stream} (ht : tapOf s tap = some st) (hs : st.slot = none)
    (hp : st.pairOf = none) (ha : st.attributed = false) :
    closeStream tap h s = endCapture tap (setTap tap none s) := by
  unfold closeStream
  rw [ht]
  dsimp only
  rw [ha, hs, hp]
  rfl

theorem tapOf_endCapture (tap u : Nat) (s : State) : tapOf (endCapture u s) tap = tapOf s tap := rfl

theorem lensRest_closed (tap : Nat) (s : State) :
    lensRest (endCapture tap (setTap tap none s)).obs.lens = lensRest s.obs.lens := lensRest_setTap tap none s

/-- Elements of a whole stream without attribution are counted unbound (R102). -/
theorem unattributedBeat (tap : Nat) (b : Beat) (s : State) (hr : running s) (hl : s.build.lens = true) (h2 : tap < 2)
    (ht : tapOf s tap = none) (hi : s.obs.lens.inject = []) (hn : b.fails = none) (hf : b.first = true) (hla : b.last = true)
    (ha : attrOf s (b.site % 2 ^ 20) = none) :
    ∃ t, goesTo (.tapBeat tap b) s t ∧ onlyChanges [.lens, .obsRegs, .wat] s t ∧ tapOf t tap = none ∧
      t.obs.lens.slots = s.obs.lens.slots ∧
      (if tap = 0 then t.obs.lens.unb0 = sat (2 ^ 48 - 1) (s.obs.lens.unb0 + min b.count (fmtFull b.fmt)) ∧
          t.obs.lens.unb1 = s.obs.lens.unb1
        else t.obs.lens.unb1 = sat (2 ^ 48 - 1) (s.obs.lens.unb1 + min b.count (fmtFull b.fmt)) ∧
          t.obs.lens.unb0 = s.obs.lens.unb0) := by
  have hg := goesTo_inObs (c := .tapBeat tap b) (f := opTapBeat tap b) rfl hr
  rw [opTapBeat_whole hl h2 ht hf hla] at hg
  obtain ⟨h1, h3, st, h4, h5, h6, h7⟩ := beatBinned_unattributed (tap := tap) hl ha
  generalize beatBinned tap b s = u at *
  replace h3 := h3.trans (lensRest_addUnbound _ _ _)
  have hin : u.obs.lens.inject = [] := (congrArg (fun x => x.2.2.2.2.2.2.1) h3).trans hi
  rw [hn, hin] at hg
  have hc : closeStream tap (tapHorizon s tap) u = endCapture tap (setTap tap none u) := closeStream_unbound h4 h5 h6 h7
  have hu := (lensRest_closed tap u).trans h3
  dsimp only [Option.map_none, Option.none_or, List.find?_nil] at hg
  rw [hc] at hg
  refine ⟨_, hg, (h1.setTap _ _).onWat _, tapOf_setTap _ _ _, congrArg (·.1) hu, ?_⟩
  have h0 := congrArg (fun x => x.2.1) hu
  have h1 := congrArg (fun x => x.2.2.1) hu
  dsimp only [lensRest] at h0 h1
  split <;> rename_i hz
  · rw [if_pos hz] at h0 h1
    exact ⟨h0, h1⟩
  · rw [if_neg hz] at h0 h1
    exact ⟨h1, h0⟩

/-! ## A lane group fails on a beat -/

theorem laneFails_unbound {g h : Nat} {s : State} {st : Stream} (ht : tapOf s (g / 8) = some st) (hs : st.slot = none)
    (hp : st.pairOf = none) (ho : s.obs.lens.oos = false) (hu : s.obs.lens.spareUsed = false) :
    ∃ u, onlyChanges [.lens, .evq, .obsRegs] s u ∧ u.obs.lens = { s.obs.lens with inject := s.obs.lens.inject.filter (· != g) } ∧
      laneFails g h s = orReg (aFlt + 0x110) 0x10
        (onLens (fun l => { l with spareUsed := true, failed := g, replacing := some g }) u) := by
  let v := onLens (fun l => { l with inject := l.inject.filter (· != g) }) s
  have hd : discardParts (g / 8) v = v := by
    unfold discardParts
    rw [show tapOf v (g / 8) = some st from ht]
    dsimp only
    rw [hs, hp]
  have hv : onlyChanges [.lens] s v := (onlyChanges.refl _ s).onLens _
  have hq : onlyChanges [.evq, .obsRegs] v (push g (mkItem 0x30 0 g 0 h) v) := 
    (onlyChanges.refl _ v).push _ _ _ _ _ _ (by decide) (by decide) (.inr fun hn => absurd hn.1 (by decide))
      (.inl (by decide)) (by decide)
  refine ⟨push g (mkItem 0x30 0 g 0 h) v, (hv.mono (by decide)).trans (hq.mono (by decide)), hq.lens_eq, ?_⟩
  have e : laneFails g h s = if (push g (mkItem 0x30 0 g 0 h) (discardParts (g / 8) v)).obs.lens.spareUsed then
      unbindStream 1 (unbindStream 0 (onLens (fun l => { l with oos := true }) (push g (mkItem 0x30 0 g 0 h) (discardParts (g / 8) v))))
      else orReg (aFlt + 0x110) 0x10 (onLens (fun l => { l with spareUsed := true, failed := g, replacing := some g })
        (push g (mkItem 0x30 0 g 0 h) (discardParts (g / 8) v))) := if_neg (by simp [ho])
  rw [e, hd, hq.lens_eq]
  exact if_neg (by show ¬ s.obs.lens.spareUsed = true; simp [hu])

/-- A lane group that fails its residue check on a beat is replaced by the spare group (R127, R128). -/
theorem failingBeat (tap g : Nat) (b : Beat) (s : State) (hr : running s) (hl : s.build.lens = true) (h2 : tap < 2)
    (ht : tapOf s tap = none) (ho : s.obs.lens.oos = false) (hsp : s.obs.lens.spareUsed = false) (hn : b.fails = some g)
    (hg8 : g < 8) (hf : b.first = true) (hla : b.last = true) (ha : attrOf s (b.site % 2 ^ 20) = none) :
    ∃ t, goesTo (.tapBeat tap b) s t ∧ tapOf t tap = none ∧ t.obs.lens.spareUsed = true ∧ t.obs.lens.oos = false ∧
      t.obs.lens.failed = 8 * tap + g ∧ t.obs.lens.replacing = some (8 * tap + g) ∧
      bit (reg t (aFlt + 0x110)) 4 = true ∧ irqLine t 7 = true ∧ t.obs.lens.slots = s.obs.lens.slots := by
  have hg := goesTo_inObs (c := .tapBeat tap b) (f := opTapBeat tap b) rfl hr
  rw [opTapBeat_whole hl h2 ht hf hla] at hg
  obtain ⟨h1, h3, st, h4, h5, h6, h7⟩ := beatBinned_unattributed (tap := tap) hl ha
  generalize beatBinned tap b s = u at *
  replace h3 := h3.trans (lensRest_addUnbound _ _ _)
  rw [hn, Option.map_some, Option.some_or, Nat.mod_eq_of_lt hg8] at hg
  dsimp only at hg
  rw [if_pos (h1.build_eq ▸ hl)] at hg
  have hd : (8 * tap + g) / 8 = tap := by omega
  obtain ⟨v, hv, hvl, e⟩ := laneFails_unbound (g := 8 * tap + g) (h := tapHorizon s tap) (hd.symm ▸ h4) h5 h6
    ((congrArg (fun x => x.2.2.2.1) h3).trans ho) ((congrArg (fun x => x.2.2.2.2.1) h3).trans hsp)
  rw [e] at hg
  let w := orReg (aFlt + 0x110) 0x10
    (onLens (fun l => { l with spareUsed := true, failed := 8 * tap + g, replacing := some (8 * tap + g) }) v)
  have hwt : tapOf w tap = some st := by
    rw [← h4]
    show tapOf v tap = tapOf u tap
    unfold tapOf
    rw [hvl]
  have hc : closeStream tap (tapHorizon s tap) w = endCapture tap (setTap tap none w) := closeStream_unbound hwt h5 h6 h7
  have hw := lensRest_closed tap w
  have hb : bit (reg (endCapture tap (setTap tap none w)) (aFlt + 0x110)) 4 = true := by
    show bit (reg w (aFlt + 0x110)) 4 = true
    rw [bit_reg_orReg]
    exact Bool.or_true _
  have hrst : (endCapture tap (setTap tap none w)).aon.pwr.rstN = true := by
    show v.aon.pwr.rstN = true
    rw [hv.pwr_eq, h1.pwr_eq]
    have hrun := hr.2
    simp only [obsRuns, Bool.and_eq_true] at hrun
    exact hrun.1.2
  have hvr : lensRest w.obs.lens = (v.obs.lens.slots, v.obs.lens.unb0, v.obs.lens.unb1, v.obs.lens.oos, true,
      some (8 * tap + g), v.obs.lens.inject, 8 * tap + g) := rfl
  rw [hvr, hvl] at hw
  dsimp only [lensRest] at hw h3
  simp only [Prod.mk.injEq] at hw h3
  obtain ⟨k1, -, -, k4, k5, k6, -, k8⟩ := hw
  obtain ⟨l1, -, -, l4, -⟩ := h3
  refine ⟨_, hc.subst (motive := goesTo (.tapBeat tap b) s) hg, tapOf_setTap _ _ _, k5, k4.trans (l4.trans ho), k8, k6, hb, irq7_of_fault hrst (by decide) hb, k1.trans l1⟩

/-! ## A stream that a resident slot takes -/

theorem watchesNone_matchStream {s : State} (h : s.obs.wat.watches = []) (st : Stream) (g tap : Nat) :
    matchStream st g tap s = s := by
  have hm (f : Watch → Bool) : matching s f = [] := by
    refine List.filter_eq_nil_iff.2 fun k _ => ?_
    have hk : watchOf s k = none := by
      unfold watchOf
      rw [h]
      rfl
    rw [hk]
    exact Bool.false_ne_true
  unfold matchStream
  split
  · rfl
  · rw [hm]
    rfl

theorem endCapture_idle {s : State} (h : s.obs.wat.dumps = []) (tap : Nat) : endCapture tap s = s := by
  have e : { s.obs.wat with dumps := s.obs.wat.dumps.map fun d =>
      if d.source = 0 ∧ d.tap = tap then { d with ended := true } else d } = s.obs.wat := by
    rw [h, List.map_nil, ← h]
  unfold endCapture onWat onObs
  dsimp only
  rw [e]

/-- A slot takes a scaled stream in a scalable format alone. -/
theorem slotFor_scalable {s : State} {tap k : Nat} {st : Stream} (h : slotFor s tap st = some k) :
    ¬ (st.scale ≠ 0 ∧ !fmtScalable st.fmt) := by
  rintro ⟨h1, h2⟩
  unfold slotFor at h
  rw [if_pos (by simp only [h2, Bool.and_true, Bool.or_eq_true, bne_iff_ne]; exact .inr h1)] at h
  cases h

/-- A slot's stream opens on its tap. -/
theorem openStream_slot {tap k : Nat} {b : Beat} {h : Nat} {x : Slot} {s : State} (hp : s.obs.lens.pairs = [])
    (hw : s.obs.wat.watches = []) (hk : slotFor s tap (newStream s b h) = some k) (hx : slotOf s k = some x)
    (hpair : x.pair = false) :
    openStream tap b h s = setTap tap (some { newStream s b h with slot := some k }) s := by
  have hj : (if tap = 1 then pairFor s (newStream s b h) else none) = none := by
    unfold pairFor
    rw [hp]
    exact ite_self _
  unfold openStream
  dsimp only
  rw [if_neg (slotFor_scalable hk), hj]
  dsimp only
  rw [hk]
  dsimp only
  rw [hx]
  dsimp only
  rw [if_neg (by rw [hpair]; exact Bool.false_ne_true)]
  exact watchesNone_matchStream (s := setTap tap _ s) hw _ _ _

/-- A slot's stream after its one beat: the elements stand in one part. -/
def oneBeat (key : Nat) (b : Beat) (h : Nat) (x : Slot) (st : Stream) : Stream :=
  { st with beats := st.beats + 1, elems := st.elems + beatCount st.fmt b, lastStamp := h
            parts := [(key, putBeat (binCfg x) st b h default)] }

/-- The channel maxima once a beat's elements have entered them (R115). -/
def beatChan (b : Beat) (x : Slot) (st : Stream) (chan : SMap Nat) : SMap Nat :=
  (List.range (beatCount st.fmt b)).foldl
    (fun m j => putChan x (st.beats * fmtFull st.fmt + j) (elemVal st.fmt st.scale b j) m) chan

theorem pendCuts_of_cut {s t : State} (h : t.obs.cut = s.obs.cut) (p : Nat) : pendCuts t p = pendCuts s p := by
  unfold pendCuts freezes boundsOf epochOf
  rw [h]

theorem slotOf_setTap (tap : Nat) (v : Option Stream) (s : State) (k : Nat) : slotOf (setTap tap v s) k = slotOf s k :=
  congrArg (fun x => smGet noneD (Prod.fst x) k) (lensRest_setTap tap v s)

/-- A stream that feeds slot k, before its first beat. -/
def slotStream (k : Nat) (w : Stream) : Stream := { w with slot := some k, pairOf := none, parts := [] }

/-- The elements of the one beat of a slot's stream stand in its part. -/
theorem binBeat_slot {tap k : Nat} {b : Beat} {h : Nat} {x : Slot} {s : State} {w : Stream}
    (ht : tapOf s tap = some (slotStream k w)) (hx : slotOf s k = some x) (hrep : s.obs.lens.replacing = none)
    (hcount : b.count ≤ fmtFull w.fmt) :
    onlyChanges [.lens] s (binBeat tap b h s) ∧
      (∃ key, tapOf (binBeat tap b h s) tap = some (oneBeat key b h x (slotStream k w))) ∧
      lensRest (binBeat tap b h s).obs.lens = lensRest s.obs.lens ∧ rowsOf (binBeat tap b h s) tap = rowsOf s tap := by
  let st := slotStream k w
  let st' : Stream := { st with beats := st.beats + 1, elems := st.elems + beatCount st.fmt b, lastStamp := h }
  obtain ⟨v, hv⟩ : ∃ v, v = setTap tap (some st') s := ⟨_, rfl⟩
  have hf : onlyChanges [.lens] s v := hv ▸ (onlyChanges.refl _ s).setTap _ _
  have hrv : lensRest v.obs.lens = lensRest s.obs.lens := hv ▸ lensRest_setTap _ _ _
  have hrr : v.obs.lens.replacing = none := (congrArg (fun x => x.2.2.2.2.2.1) hrv).trans hrep
  have hxv : slotOf v k = some x := hv ▸ (slotOf_setTap _ _ _ _).trans hx
  have hrow : rowsOf v tap = rowsOf s tap := hv ▸ rowsOf_setTap _ _ _ _
  have e : binBeat tap b h s =
      onLens (fun l => { l with chan := beatChan b x st v.obs.lens.chan }) (setTap tap (some (oneBeat (cutKey v w.part h) b h x st)) v) := by
    unfold binBeat
    rw [ht]
    dsimp only
    rw [if_neg (show ¬ fmtFull (slotStream k w).fmt < b.count from Nat.not_lt.2 hcount), ← hv]
    simp only [slotStream, Option.bind_some, hxv, hrr, Option.any_none]
    rfl
  rw [e]
  exact ⟨(hf.setTap _ _).onLens _, ⟨_, tapOf_setTap _ _ _⟩, (lensRest_setTap _ _ _).trans hrv, (rowsOf_setTap _ _ _ _).trans hrow⟩

theorem onlyChanges_rowParts (tap g : Nat) (st : Stream) (l : List (Nat × RowSum)) :
    ∀ (a : RowSum) (s : State), onlyChanges [.ctxs] s (rowParts tap g st l a s) := by
  have h1 (kind n : Nat) (a : RowSum) (s : State) : onlyChanges [.ctxs] s (rowSummary kind tap n st a s) :=
    onlyChanges_rowSummary (.refl _ s) _ _ _ _ _
  induction l with
  | nil => exact fun a s => h1 0 g a s
  | cons e l ih =>
    intro a s
    cases l with
    | nil => exact h1 0 g _ s
    | cons f l =>
      unfold rowParts
      dsimp only
      exact .ite _ ((h1 1 _ _ s).trans (ih _ _)) (ih _ _)

/-- The part of a one-beat stream that is committed at its close. -/
def closedPart (b : Beat) (h : Nat) (x : Slot) (st : Stream) : Img :=
  { putBeat (binCfg x) st b h default with streams := 1 }

theorem commitPart_uncut {k key : Nat} {i : Img} {x : Slot} {s : State} (hk : slotOf s k = some x)
    (hp : (partOf s x.part).state = 1) (hc : pendCuts s x.part = []) :
    commitPart k key i s = draw (setSlot k (some (liveAdded i s.draws x)) s) := by
  unfold commitPart
  rw [hk]
  dsimp only
  rw [if_neg (fun hn => hn hp), if_neg (fun hn => by rw [hc] at hn; exact absurd hn.2 (by simp))]
  rfl

/-- The close of a slot's one-beat stream commits its part to the live image (R120). -/
theorem closeStream_slot {tap k key : Nat} {b : Beat} {h : Nat} {x : Slot} {s : State} {w : Stream}
    (ht : tapOf s tap = some (oneBeat key b h x (slotStream k w))) (hrows : rowsOf s tap = []) (hd : s.obs.wat.dumps = [])
    (hx : slotOf s k = some x) (hres : x.resident = true) (hp : (partOf s x.part).state = 1)
    (hcut : pendCuts s x.part = []) :
    ∃ u, onlyChanges [.lens, .ctxs] s u ∧ tapOf u tap = none ∧ lensRest u.obs.lens = lensRest s.obs.lens ∧
      closeStream tap h s = draw (setSlot k (some (liveAdded (closedPart b h x (slotStream k w)) u.draws x)) u) := by
  let st := oneBeat key b h x (slotStream k w)
  let c := if st.attributed && s.build.lens then
      rowClose tap h (cutKey s st.part h) (finishRows tap h (cutKey s st.part h) (st, s)).1
        (finishRows tap h (cutKey s st.part h) (st, s)).2
    else s
  have hfin : finishRows tap h (cutKey s st.part h) (st, s) = (st, setRows tap [] s) := by
    unfold finishRows
    rw [show rowsOf (st, s).2 tap = [] from hrows]
    rfl
  have hrow : onlyChanges [.lens, .ctxs] s c ∧ lensRest c.obs.lens = lensRest s.obs.lens := by
    have hs : onlyChanges [.lens, .ctxs] s (setRows tap [] s) := (onlyChanges.refl _ s).onLens _
    have hr : onlyChanges [.ctxs] (setRows tap [] s) (rowClose tap h (cutKey s st.part h) st (setRows tap [] s)) :=
      onlyChanges_rowParts _ _ _ _ _ _
    dsimp only [c]
    rw [hfin]
    split
    · exact ⟨hs.trans (hr.mono (by decide)), by rw [hr.lens_eq, lensRest_setRows]⟩
    · exact ⟨.refl _ s, rfl⟩
  obtain ⟨hc, hl⟩ := hrow
  let u := setTap tap none c
  have hu : onlyChanges [.lens, .ctxs] s u := hc.setTap _ _
  have hlu : lensRest u.obs.lens = lensRest s.obs.lens := (lensRest_setTap _ _ _).trans hl
  have hxu : slotOf u k = some x := (congrArg (fun r => smGet noneD (Prod.fst r) k) hlu).trans hx
  have hpu : (partOf u x.part).state = 1 := by rw [hu.partOf_eq]; exact hp
  refine ⟨u, hu, tapOf_setTap _ _ _, hlu, ?_⟩
  have e : closeStream tap h s = commitStream tap k [(key, closedPart b h x (slotStream k w))] (endCapture tap u) := by
    unfold closeStream
    rw [ht]
    have hk : smIns st.parts key { smGet imgD st.parts key with streams := 1 } = [(key, closedPart b h x (slotStream k w))] := by
      simp [st, oneBeat, smIns, smGet, closedPart]
    rw [← hk]
    rfl
  rw [e, endCapture_idle (by rw [hu.wat_eq]; exact hd)]
  unfold commitStream
  rw [hxu]
  dsimp only
  rw [if_pos hres]
  exact commitPart_uncut hxu hpu ((pendCuts_of_cut hu.cut_eq _).trans hcut)

/-- Elements and one stream reach the live image of the slot that takes the stream (R120). -/
theorem slotBeat (tap k : Nat) (b : Beat) (x : Slot) (s : State) (hr : running s) (hl : s.build.lens = true) (h2 : tap < 2)
    (ht : tapOf s tap = none) (hrows : rowsOf s tap = []) (hi : s.obs.lens.inject = [])
    (hrep : s.obs.lens.replacing = none) (hpairs : s.obs.lens.pairs = []) (hw : s.obs.wat.watches = [])
    (hd : s.obs.wat.dumps = []) (hf : b.first = true) (hla : b.last = true) (hrowv : b.rowv = false)
    (hn : b.fails = none) (hfull : b.count ≤ fmtFull b.fmt) (hcount : b.count < 1024)
    (hk : slotFor s tap (newStream s b (tapHorizon s tap)) = some k) (hx : slotOf s k = some x) (hpair : x.pair = false)
    (hres : x.resident = true) (hp : (partOf s x.part).state = 1) (hcut : pendCuts s x.part = []) :
    ∃ t y, goesTo (.tapBeat tap b) s t ∧ onlyChanges [.lens, .ctxs, .draws] s t ∧ tapOf t tap = none ∧
      slotOf t k = some y ∧ y.live.elems = sat (2 ^ 48 - 1) (x.live.elems + b.count) ∧
      y.live.streams = sat (2 ^ 32 - 1) (x.live.streams + 1) ∧ y.buf = x.buf ∧
      t.obs.lens.unb0 = s.obs.lens.unb0 ∧ t.obs.lens.unb1 = s.obs.lens.unb1 ∧
      ∀ j, j ≠ k → slotOf t j = slotOf s j := by
  let h := tapHorizon s tap
  let w := newStream s b h
  have hg := goesTo_inObs (c := .tapBeat tap b) (f := opTapBeat tap b) rfl hr
  rw [opTapBeat_whole hl h2 ht hf hla] at hg
  let o := setTap tap (some (slotStream k w)) s
  have ho : openStream tap b h s = o := openStream_slot hpairs hw hk hx hpair
  have hof : onlyChanges [.lens] s o := (onlyChanges.refl _ s).setTap _ _
  have hol : lensRest o.obs.lens = lensRest s.obs.lens := lensRest_setTap _ _ _
  have hot : tapOf o tap = some (slotStream k w) := tapOf_setTap _ _ _
  have hocap : captureBeat tap (slotStream k w) b o = o := by
    unfold captureBeat
    rw [show o.obs.wat.dumps = [] from hd]
    rfl
  obtain ⟨h1, ⟨key, h3⟩, h4, h5⟩ := binBeat_slot (h := h) hot ((slotOf_setTap _ _ _ _).trans hx)
    ((congrArg (fun x => x.2.2.2.2.2.1) hol).trans hrep) hfull
  have e : beatBinned tap b s = binBeat tap b h o := by
    have hrow (v : State) : rowBeat tap b h v = v := by
      unfold rowBeat
      split
      · rfl
      · exact if_pos (by simp [hrowv])
    unfold beatBinned
    dsimp only
    rw [show openStream tap b (tapHorizon s tap) s = o from ho, hot]
    dsimp only
    rw [hocap, hrow]
  rw [e] at hg
  generalize binBeat tap b h o = u at *
  replace h1 := hof.trans h1
  replace h4 := h4.trans hol
  have hin : u.obs.lens.inject = [] := (congrArg (fun x => x.2.2.2.2.2.2.1) h4).trans hi
  rw [hn, hin] at hg
  dsimp only [Option.map_none, Option.none_or, List.find?_nil] at hg
  obtain ⟨v, hv, hvt, hvl, hc⟩ := closeStream_slot (s := u) h3 (h5.trans ((rowsOf_setTap _ _ _ _).trans hrows))
    (by rw [h1.wat_eq]; exact hd) ((congrArg (fun r => smGet noneD (Prod.fst r) k) h4).trans hx) hres
    (by rw [h1.partOf_eq]; exact hp) ((pendCuts_of_cut h1.cut_eq _).trans hcut)
  rw [show closeStream tap (tapHorizon s tap) u = _ from hc] at hg
  replace hvl := hvl.trans h4
  have hel : (closedPart b h x (slotStream k w)).elems = b.count := by
    have hbc : beatCount (slotStream k w).fmt b = b.count := Nat.min_eq_left hfull
    show (putBeat (binCfg x) (slotStream k w) b h default).elems = b.count
    rw [elems_putBeat _ _ _ _ _ (by rw [hbc]; show 0 + b.count < 2 ^ 48; omega), hbc]
    exact Nat.zero_add _
  refine ⟨_, _, hg, (((h1.mono (by decide)).trans (hv.mono (by decide))).setSlot _ _).draw, hvt, slotOf_setSlot_same _ _ _,
    ?_, rfl, rfl, congrArg (fun r => r.2.1) hvl, congrArg (fun r => r.2.2.1) hvl, fun j hj => ?_⟩
  · show sat (2 ^ 48 - 1) (x.live.elems + (closedPart b h x (slotStream k w)).elems) = _
    rw [hel]
  · exact (slotOf_setSlot_other _ _ _ _ hj).trans (congrArg (fun r => smGet noneD (Prod.fst r) j) hvl)

/-- Settles O56, by the path of a whole stream's one beat: unattributed, failing, and taken by a slot. -/
theorem tapBeats : Obligations.TapBeats :=
  ⟨fun tap b s hr hl h2 ht hi hn hf hla ha => unattributedBeat tap b s hr hl h2 ht hi hn hf hla ha,
    fun tap k b x s hr hl h2 ht hrows hi hrep hpairs hw hd hf hla hrowv hn hfull hcount hk hx hpair hres hp hcut =>
      slotBeat tap k b x s hr hl h2 ht hrows hi hrep hpairs hw hd hf hla hrowv hn hfull hcount hk hx hpair hres hp hcut,
    fun tap g b s hr hl h2 ht _ ho hsp hn hg hf hla ha => failingBeat tap g b s hr hl h2 ht ho hsp hn hg hf hla ha⟩

end Sys2Proof.Machine
end

section
/-! CERTIFICATE. Flits and messages of the capture station (R294 to R307), up to what `Config.ecdsaVerify` answers. -/

namespace Sys2Proof.Machine

open Sys2Proof.Safety

set_option Elab.async false

/-! ## Partner faults and messages -/

/-- The port with a partner fault that does not reach AUTH_LIM (R306). -/
def egrBlamed (kind : Nat) (e : Egr) : Egr := { e with
  lastFault := kind
  authFaults := if kind = 1 then sat 255 (e.authFaults + 1) else e.authFaults
  limFaults := if kind = 1 ∨ kind = 2 ∨ kind = 4 ∨ kind = 6 then e.limFaults + 1 else e.limFaults }

/-- The fault is counted and its item pushed. -/
def egrBlames (kind : Nat) (s : State) : State :=
  let s := onEgr (egrBlamed kind) s
  let s := if kind = 1 then bumpReg (aEgr + 0x18) 0 32 1 s else s
  orReg (aEgr + 0x1C) 4
    (push 0 (mkItem 0x61 0 0 (BitVec.ofNat 32 (kind + s.obs.egr.authFaults * 256)) (engGt s)) s)

theorem egrFault_eq (kind : Nat) (s : State) : egrFault kind s =
    if fld (reg (egrBlames kind s) (aEgr + 4)) 16 8 ≤ (egrBlames kind s).obs.egr.limFaults then
      egrCloseWith 5 (egrBlames kind s) else egrBlames kind s := rfl

theorem egrBlames_spec (kind : Nat) (s : State) : onlyChanges [.egr, .evq, .obsRegs] s (egrBlames kind s) ∧
    (egrBlames kind s).obs.egr = egrBlamed kind s.obs.egr ∧
    reg (egrBlames kind s) (aEgr + 4) = reg s (aEgr + 4) := by
  let u := if kind = 1 then bumpReg (aEgr + 0x18) 0 32 1 (onEgr (egrBlamed kind) s) else onEgr (egrBlamed kind) s
  have hu : onlyChanges [.obsRegs] (onEgr (egrBlamed kind) s) u := .ite _ ((onlyChanges.refl _ _).bumpReg _ _ _ _) (.refl _ _)
  have hp : onlyChanges [.evq, .obsRegs] u (egrBlames kind s) :=
    ((onlyChanges.refl _ u).push 0 0x61 0 0 _ _).orReg (aEgr + 0x1C) 4
  have h0 : onlyChanges [.egr] s (onEgr (egrBlamed kind) s) := (onlyChanges.refl _ s).onEgr _
  refine ⟨(h0.mono (by decide)).trans ((hu.mono (by decide)).trans (hp.mono (by decide))), by rw [hp.egr_eq, hu.egr_eq]; rfl, ?_⟩
  have h1 : reg u (aEgr + 4) = reg s (aEgr + 4) := by
    dsimp only [u]
    split
    · exact reg_bumpReg_other _ _ _ _ _ (by decide)
    · rfl
  rw [← h1]
  exact (reg_orReg_other _ _ _ (by decide)).trans (reg_push_spared (by unfold spared; decide) (by show (kindCls 0x61).1 < 8; decide) _)

/-- A fault below AUTH_LIM leaves the link as it is. -/
theorem egrFault_spec {s : State} (h : s.obs.egr.limFaults + 1 < fld (reg s (aEgr + 4)) 16 8) (kind : Nat) :
    onlyChanges [.egr, .evq, .obsRegs] s (egrFault kind s) ∧ (egrFault kind s).obs.egr = egrBlamed kind s.obs.egr := by
  obtain ⟨h1, h2, h3⟩ := egrBlames_spec kind s
  have hl : (egrBlamed kind s.obs.egr).limFaults ≤ s.obs.egr.limFaults + 1 := by
    unfold egrBlamed
    dsimp only
    split <;> omega
  have e : egrFault kind s = egrBlames kind s := by
    rw [egrFault_eq, h2, h3]
    exact if_neg (by omega)
  rw [e]
  exact ⟨h1, h2⟩

theorem limitKept {s t : State} (h : onlyChanges [.egr] s t) (he : t.obs.egr.limFaults = s.obs.egr.limFaults)
    (hl : s.obs.egr.limFaults + 1 < fld (reg s (aEgr + 4)) 16 8) : t.obs.egr.limFaults + 1 < fld (reg t (aEgr + 4)) 16 8 := by
  rw [he, h.reg_eq (aEgr + 4) (by decide)]
  exact hl

/-- The port's only message has been taken from its inbox. -/
def egrRead (s : State) : State := onEgr (fun e => { e with inbox := [] }) s

theorem goesTo_withMsg {i : Instr} {k : Nat} {f : List Byte → State → State} {m : List Byte} {s : State}
    (he : exec i s = run (inWriter (withMsg k f)) s) (hr : running s) (hi : s.obs.egr.inbox = [m]) (hm : leAt m 0 1 = k)
    (hc : (f m (egrRead s)).obs.ctxs = s.obs.ctxs) : goesTo i s (f m (egrRead s)) := by
  have e : withMsg k f s = f m (egrRead s) := by
    unfold withMsg
    rw [hi]
    exact if_pos hm
  rw [← e] at hc ⊢
  exact goesTo_inWriter_of_ctxs he hr hc

/-! ## Flits (R294, R295) -/

theorem flit_bad (f : List Byte) (s : State) (hr : running s) (h2 : 2 ≤ s.obs.egr.state) (hl : f.length = 256)
    (hb : flitGood f = false) : ∃ t, goesTo (.osepFlitAckNak f) s t ∧ onlyChanges [.egr] s t ∧
      t.obs.egr = { s.obs.egr with link := { s.obs.egr.link with lastFlit := now s, nak := true } } := by
  let t := onEgr (fun e => { e with link := { e.link with nak := true } })
    (onEgr (fun e => { e with link := { e.link with lastFlit := now s } }) s)
  have e : opOsepFlit f s = t := by
    unfold opOsepFlit
    rw [if_neg (by omega)]
    exact if_pos (by rw [hb]; rfl)
  have ht : onlyChanges [.egr] s t := ((onlyChanges.refl _ s).onEgr _).onEgr _
  exact ⟨t, e ▸ goesTo_inWriter_of_ctxs (f := opOsepFlit f) rfl hr (by rw [e]; exact ht.ctxs_eq), ht, rfl⟩

theorem egrPump_empty {s : State} (h : s.obs.egr.slots = []) (n : Nat) : egrPump n s = s := by
  cases n with
  | zero => rfl
  | succ n =>
    unfold egrPump
    dsimp only
    rw [h]
    exact ite_self _

theorem linkAck_none {l : Link} (h : l.kept = []) (a : Nat) : linkAck a l = l := by
  unfold linkAck
  rw [h]
  rfl

theorem linkRun_none {l : Link} (h : l.waiting = []) (cap : Nat) (key : Option (List Byte)) : linkRun cap key l = l := by
  unfold linkRun
  rw [h]
  cases l
  dsimp only at h
  subst h
  simp

theorem onEgr_same {g : Egr → Egr} {s : State} (h : g s.obs.egr = s.obs.egr) : onEgr g s = s := by
  unfold onEgr onObs
  dsimp only
  rw [h]

theorem egrRun_same {g : Link → Link} {s : State} (h : linkRun (egrCap s.obs.egr) none (g s.obs.egr.link) = s.obs.egr.link) :
    egrRun g s = s := onEgr_same (by rw [h])

/-- The payload's first byte is the byte after the flit's header. -/
theorem leAt_payload {f : List Byte} (h : f.length = 256) : leAt (bytesAt f 16 232) 0 1 = leAt f 16 1 := by
  obtain ⟨x, xs, hx⟩ : ∃ x xs, f.drop 16 = x :: xs := by
    cases e : f.drop 16 with
    | nil =>
      have := congrArg List.length e
      simp [h] at this
    | cons x xs => exact ⟨x, xs, rfl⟩
  unfold leAt bytesAt
  simp [hx]

/-- The port after a flit that carries a message. -/
def flitTaken (f : List Byte) (n : Nat) (e : Egr) : Egr := { e with
  link := { e.link with lastFlit := n, recvSeq := leAt f 4 4, nak := false }, lastMsg := some n
  inbox := e.inbox ++ [bytesAt f 16 232] }

theorem egrMessage_first {m : List Byte} {s : State} (hm : s.obs.egr.lastMsg = none) (ht : stationMsg (leAt m 0 1) = true) :
    egrMessage m s = onEgr (fun e => { e with lastMsg := some (now s), inbox := e.inbox ++ [m] }) s := by
  unfold egrMessage
  rw [hm]
  dsimp only
  rw [if_neg Bool.false_ne_true, if_pos ht]
  rfl

/-- What a good flit does once its arrival is noted. -/
def flitHeard (f : List Byte) (s : State) : State :=
  let b := leAt f 0 1
  let s := egrPump 480 (egrRun (linkAck (leAt f 8 4)) s)
  let s := if b.testBit 4 then egrReplay s else s
  if s.obs.egr.state < 2 then s
  else
    let (got, l) := linkTake (b % 16) 2 (leAt f 4 4) s.obs.egr.link
    let s := onEgr (fun e => { e with link := l }) s
    if got && b % 16 == 2 && s.obs.egr.state != 5 then egrMessage (bytesAt f 16 232) s else s

theorem opOsepFlit_good {f : List Byte} {s : State} (h2 : 2 ≤ s.obs.egr.state) (hl : f.length = 256) (hb : flitGood f = true) :
    opOsepFlit f s = flitHeard f (onEgr (fun e => { e with link := { e.link with lastFlit := now s } }) s) := by
  unfold opOsepFlit
  rw [if_neg (by omega)]
  dsimp only
  rw [if_neg (by rw [hb]; decide)]
  rfl

/-- A flit with a message that follows, on a link with nothing kept and nothing to send. -/
theorem flitHeard_message {f : List Byte} {u : State} {l : Link} (hp : egrPump 480 (egrRun (linkAck (leAt f 8 4)) u) = u)
    (hf : leAt f 0 1 = 2) (h2 : 2 ≤ u.obs.egr.state) (h5 : u.obs.egr.state ≠ 5)
    (ht : linkTake 2 2 (leAt f 4 4) u.obs.egr.link = (true, l)) :
    flitHeard f u = egrMessage (bytesAt f 16 232) (onEgr (fun e => { e with link := l }) u) := by
  unfold flitHeard
  dsimp only
  rw [hp, hf, if_neg (by decide : ¬ Nat.testBit 2 4 = true), if_neg (Nat.not_lt.2 h2), ht]
  exact if_pos (by show (u.obs.egr.state != 5) = true; simp [h5])

theorem flit_good (f : List Byte) (s : State) (hr : running s) (h2 : 2 ≤ s.obs.egr.state) (h5 : s.obs.egr.state ≠ 5)
    (hb : flitGood f = true) (hf : leAt f 0 1 = 2) (hq : leAt f 4 4 = (s.obs.egr.link.recvSeq + 1) % 2 ^ 32)
    (hk : s.obs.egr.link.kept = []) (hw : s.obs.egr.link.waiting = []) (hs : s.obs.egr.slots = [])
    (hm : s.obs.egr.lastMsg = none) (ht : stationMsg (leAt f 16 1) = true) :
    ∃ t, goesTo (.osepFlitAckNak f) s t ∧ onlyChanges [.egr] s t ∧
      t.obs.egr.inbox = s.obs.egr.inbox ++ [bytesAt f 16 232] ∧ t.obs.egr.link.recvSeq = leAt f 4 4 ∧
      t.obs.egr.link.nak = false ∧ t.obs.egr.link.lastFlit = now s ∧ t.obs.egr.lastMsg = some (now s) ∧
      t.obs.egr.state = s.obs.egr.state := by
  have hlen : f.length = 256 := by
    unfold flitGood at hb
    rw [Bool.and_eq_true] at hb
    exact eq_of_beq hb.1
  let u := onEgr (fun e => { e with link := { e.link with lastFlit := now s } }) s
  have hrun : egrRun (linkAck (leAt f 8 4)) u = u := by
    refine egrRun_same ?_
    rw [linkAck_none (l := u.obs.egr.link) hk, linkRun_none (l := u.obs.egr.link) hw]
  have hpump : egrPump 480 (egrRun (linkAck (leAt f 8 4)) u) = u := by
    rw [hrun]
    exact egrPump_empty (s := u) hs _
  have htake : linkTake 2 2 (leAt f 4 4) u.obs.egr.link =
      (true, { u.obs.egr.link with recvSeq := leAt f 4 4, nak := false }) := by
    unfold linkTake
    rw [if_neg (by decide)]
    exact if_pos ⟨Nat.le_refl _, hq⟩
  let v := onEgr (fun e => { e with link := { u.obs.egr.link with recvSeq := leAt f 4 4, nak := false } }) u
  have hmsg : egrMessage (bytesAt f 16 232) v = onEgr (flitTaken f (now s)) s :=
    egrMessage_first (s := v) hm (by rw [leAt_payload hlen]; exact ht)
  have e : opOsepFlit f s = onEgr (flitTaken f (now s)) s :=
    (opOsepFlit_good h2 hlen hb).trans ((flitHeard_message hpump hf h2 h5 htake).trans hmsg)
  have hc : onlyChanges [.egr] s (onEgr (flitTaken f (now s)) s) := (onlyChanges.refl _ s).onEgr _
  exact ⟨_, e ▸ goesTo_inWriter_of_ctxs (f := opOsepFlit f) rfl hr (by rw [e]; exact hc.ctxs_eq), hc, rfl, rfl, rfl, rfl, rfl, rfl⟩

/-! ## CREDIT and CLOSE (R302, R305) -/

/-- A fault on a message that has been taken. -/
theorem fault_read {i : Instr} {k : Nat} {f : List Byte → State → State} {m : List Byte} {s : State} {kind : Nat}
    (he : exec i s = run (inWriter (withMsg k f)) s) (hr : running s) (hi : s.obs.egr.inbox = [m]) (hm : leAt m 0 1 = k)
    (hl : s.obs.egr.limFaults + 1 < fld (reg s (aEgr + 4)) 16 8) (e : f m (egrRead s) = egrFault kind (egrRead s)) :
    goesTo i s (egrFault kind (egrRead s)) ∧
      (egrFault kind (egrRead s)).obs.egr = egrBlamed kind { s.obs.egr with inbox := [] } := by
  obtain ⟨h1, h2⟩ := egrFault_spec (s := egrRead s) hl kind
  exact ⟨e ▸ goesTo_withMsg he hr hi hm (by rw [e]; exact h1.ctxs_eq), h2⟩

/-- A message of link class of a link that is up. -/
theorem linkMsg_up {len : Nat} {f : List Byte → State → State} {m : List Byte} {s : State} (hs : msgShape len m = true)
    (h3 : s.obs.egr.state = 3) : linkMsg len f m (egrRead s) = match openMsg s.obs.egr.inKey s.obs.egr.inCtr m with
      | none => egrFault 1 (egrRead s)
      | some (c, body) => f body (onEgr (fun e => { e with inCtr := some c }) (egrRead s)) := by
  unfold linkMsg
  dsimp only
  rw [if_neg (by rw [hs]; decide), if_neg (show ¬ ((egrRead s).obs.egr.state ≠ 3 ∧ (egrRead s).obs.egr.state ≠ 4) from fun h => h.1 h3)]
  rfl

theorem credit_taken (m : List Byte) (s : State) (hr : running s) (hi : s.obs.egr.inbox = [m]) (hm : leAt m 0 1 = 4)
    (hs : msgShape 32 m = true) (h3 : s.obs.egr.state = 3) (hsl : s.obs.egr.slots = [])
    (hl : s.obs.egr.limFaults + 1 < fld (reg s (aEgr + 4)) 16 8) :
    ∃ t, goesTo .credit s t ∧ t.obs.egr.inbox = [] ∧ t.obs.egr.state = 3 ∧
      (openMsg s.obs.egr.inKey s.obs.egr.inCtr m = none → t.obs.egr.lastFault = 1 ∧
        t.obs.egr.credits = s.obs.egr.credits ∧ t.obs.egr.authFaults = sat 255 (s.obs.egr.authFaults + 1)) ∧
      (∀ c b, openMsg s.obs.egr.inKey s.obs.egr.inCtr m = some (c, b) → leAt b 2 2 = 0 →
        t.obs.egr.inCtr = some c ∧ t.obs.egr.credits = min (s.obs.egr.credits + leAt b 0 2) s.obs.egr.maxCred) := by
  have hu := linkMsg_up (f := takeCredit) hs h3
  cases ho : openMsg s.obs.egr.inKey s.obs.egr.inCtr m with
  | none =>
    rw [ho] at hu
    obtain ⟨hg, he⟩ := fault_read (i := .credit) rfl hr hi hm hl hu
    refine ⟨_, hg, by rw [he]; rfl, by rw [he]; exact h3, fun _ => by rw [he]; exact ⟨rfl, rfl, rfl⟩, nofun⟩
  | some cb =>
    obtain ⟨c, b⟩ := cb
    rw [ho] at hu
    let v := onEgr (fun e => { e with inCtr := some c }) (egrRead s)
    let w := onEgr (fun e => { e with credits := min (s.obs.egr.credits + leAt b 0 2) e.maxCred }) v
    have hv : onlyChanges [.egr] s v := ((onlyChanges.refl _ s).onEgr _).onEgr _
    have hp : egrPump 480 w = w := egrPump_empty (s := w) hsl _
    by_cases hz : leAt b 2 2 = 0
    · have e : takeCredit b v = if s.obs.egr.maxCred < s.obs.egr.credits + leAt b 0 2 then egrFault 3 w else w := by
        unfold takeCredit
        rw [if_neg (fun hn => hn hz)]
        show (if _ then egrFault 3 (egrPump 480 w) else egrPump 480 w) = _
        rw [hp]
        rfl
      have hw : onlyChanges [.egr] s w := hv.onEgr _
      obtain ⟨f1, f2⟩ := egrFault_spec (limitKept hw rfl hl) 3
      replace hw : onlyChanges [.egr, .evq, .obsRegs] s w := hw.mono (by decide)
      have hx : onlyChanges [.egr, .evq, .obsRegs] s (takeCredit b v) ∧ (takeCredit b v).obs.egr.inbox = [] ∧
          (takeCredit b v).obs.egr.state = 3 ∧ (takeCredit b v).obs.egr.inCtr = some c ∧
          (takeCredit b v).obs.egr.credits = min (s.obs.egr.credits + leAt b 0 2) s.obs.egr.maxCred := by
        rw [e]
        split
        · rw [f2]
          exact ⟨hw.trans f1, rfl, h3, rfl, rfl⟩
        · exact ⟨hw, rfl, h3, rfl, rfl⟩
      obtain ⟨hc, h4, h5, h6, h7⟩ := hx
      refine ⟨_, goesTo_withMsg (i := .credit) rfl hr hi hm (by rw [hu]; exact hc.ctxs_eq), ?_, ?_, nofun, ?_⟩
      · rw [hu]
        exact h4
      · rw [hu]
        exact h5
      · rintro c' b' hcb -
        cases hcb
        rw [hu]
        exact ⟨h6, h7⟩
    · have e : takeCredit b v = egrFault 2 v := if_pos hz
      obtain ⟨f1, f2⟩ := egrFault_spec (limitKept hv rfl hl) 2
      have hx := hu.trans e
      refine ⟨_, goesTo_withMsg (i := .credit) rfl hr hi hm (by rw [hx]; exact ((hv.mono (by decide)).trans f1).ctxs_eq), ?_, ?_,
        nofun, ?_⟩
      · rw [hx, f2]
        rfl
      · rw [hx, f2]
        exact h3
      · rintro c' b' hcb hb
        cases hcb
        exact absurd hb hz

theorem close_taken (m : List Byte) (s : State) (hr : running s) (hi : s.obs.egr.inbox = [m]) (hm : leAt m 0 1 = 6)
    (hs : msgShape 32 m = true) (h3 : s.obs.egr.state = 3) (hl : s.obs.egr.limFaults + 1 < fld (reg s (aEgr + 4)) 16 8) :
    ∃ t, goesTo .close s t ∧ t.obs.egr.inbox = [] ∧
      (openMsg s.obs.egr.inKey s.obs.egr.inCtr m = none → t.obs.egr.lastFault = 1 ∧ t.obs.egr.state = 3) ∧
      (∀ c b, openMsg s.obs.egr.inKey s.obs.egr.inCtr m = some (c, b) → reservedIn b [(1, 3)] = false →
        t.obs.egr.state = 0 ∧ t.obs.egr.lastDown = 6 ∧ t.obs.egr.slots = []) := by
  have hu := linkMsg_up (f := takeClose) hs h3
  cases ho : openMsg s.obs.egr.inKey s.obs.egr.inCtr m with
  | none =>
    rw [ho] at hu
    obtain ⟨hg, he⟩ := fault_read (i := .close) rfl hr hi hm hl hu
    exact ⟨_, hg, by rw [he]; rfl, fun _ => by rw [he]; exact ⟨rfl, h3⟩, nofun⟩
  | some cb =>
    obtain ⟨c, b⟩ := cb
    rw [ho] at hu
    let v := onEgr (fun e => { e with inCtr := some c }) (egrRead s)
    have hv : onlyChanges [.egr] s v := ((onlyChanges.refl _ s).onEgr _).onEgr _
    have hn0 : v.obs.egr.state ≠ 0 := by show s.obs.egr.state ≠ 0; omega
    cases hz : reservedIn b [(1, 3)] with
    | false =>
      have hx : linkMsg 32 takeClose m (egrRead s) = egrDown 6 v :=
        hu.trans (if_neg (by rw [hz]; exact Bool.false_ne_true))
      have hf := onlyChanges_egrDown (hv.mono (qs := [.egr, .fab, .obsRegs, .evq]) (by decide)) 6
      have hd := egr_egrDown hn0 6
      refine ⟨_, goesTo_withMsg (i := .close) rfl hr hi hm (by rw [hx]; exact hf.ctxs_eq), ?_, nofun, fun c' b' _ _ => ?_⟩
        <;> rw [hx, hd]
      · rfl
      · exact ⟨rfl, rfl, rfl⟩
    | true =>
      have hx : linkMsg 32 takeClose m (egrRead s) = egrFault 2 v := hu.trans (if_pos hz)
      obtain ⟨f1, f2⟩ := egrFault_spec (limitKept hv rfl hl) 2
      refine ⟨_, goesTo_withMsg (i := .close) rfl hr hi hm (by rw [hx]; exact ((hv.mono (by decide)).trans f1).ctxs_eq),
        by rw [hx, f2]; rfl, nofun, ?_⟩
      rintro c' b' hcb hb
      cases hcb
      rw [hz] at hb
      cases hb

end Sys2Proof.Machine
end

section
/-! CERTIFICATE. Frame acknowledgements of the capture station (R299, R303, R304, R307). -/

namespace Sys2Proof.Machine

open Sys2Proof.Safety

set_option Elab.async false

/-! ## Job messages -/

/-- Whether a job message opens, and to what, lies with the keys alone. -/
theorem openJobMsg_body {s t : State} (h : t.aon.keys = s.aon.keys) (m : List Byte) :
    (openJobMsg m t).map (·.1) = (openJobMsg m s).map (·.1) := by
  unfold openJobMsg inGen
  dsimp only
  rw [jobOf_of_keys h]
  split
  · rfl
  · split
    · rfl
    · split <;> rfl

theorem openJobMsg_read (m : List Byte) (s : State) :
    (openJobMsg m (egrRead s)).map (·.1) = (openJobMsg m s).map (·.1) := openJobMsg_body (s := s) (t := egrRead s) rfl m

/-- A job message that opens has its counter taken, and may end the generation before its own. -/
theorem openJobMsg_frame {m b : List Byte} {s u : State} (h : openJobMsg m s = some (b, u)) :
    onlyChanges [.keys, .evq, .obsRegs] s u ∧ reg u (aEgr + 4) = reg s (aEgr + 4) := by
  have hseen (p j g : Nat) (k : State) (hk : onlyChanges [.keys, .evq, .obsRegs] s k) (hr : reg k (aEgr + 4) = reg s (aEgr + 4)) :
      onlyChanges [.keys, .evq, .obsRegs] s (inboundSeen p j g k) ∧ reg (inboundSeen p j g k) (aEgr + 4) = reg s (aEgr + 4) := by
    unfold inboundSeen
    split
    · split
      · split
        · exact ⟨onlyChanges_eraseOlder_clean hk _ _ _ _, (reg_eraseOlder_clean (by unfold spared; decide) _ _ _ _ _).trans hr⟩
        · exact ⟨hk, hr⟩
      · exact ⟨hk, hr⟩
    · exact ⟨hk, hr⟩
  unfold openJobMsg at h
  dsimp only at h
  split at h
  · cases h
  · split at h
    · cases h
    · split at h
      · cases h
      · cases h
        exact hseen _ _ _ _ ((onlyChanges.refl _ s).onKeys _) rfl

/-- FACK and FNAK carry a partition, a generation and an instance (Table 13.12). -/
structure jobShape (m : List Byte) : Prop where
  shape : msgShape 40 m = true
  part : leAt m 4 1 < 16
  gen : leAt m 6 1 < 4
  inst : leAt m 7 1 < 64

theorem jobMsg_shaped {f : Nat → Nat → Nat → Nat → State → State} {m : List Byte} (h : jobShape m) (s : State) :
    jobMsg f m s = if leAt m 7 1 ≠ s.aon.instId then fabSend (leAt m 7 1) 2 (leAt m 0 1) (bytesAt m 4 36) s
      else match openJobMsg m s with
        | none => egrFault 1 s
        | some (b, s) => if 2 ^ 20 ≤ leAt b 0 4 then egrFault 2 s
          else f (leAt m 4 1) (leAt m 5 1) (leAt b 0 4) (leAt b 4 4) s := by
  obtain ⟨h1, h2, h3, h4⟩ := h
  unfold jobMsg
  dsimp only
  exact if_neg (by simp only [h1, Bool.not_true, Bool.false_or, Bool.or_eq_true, decide_eq_true_eq]; omega)

/-- Another instance's acknowledgement goes on to it unopened (R299). -/
theorem fack_forwarded (m : List Byte) (s : State) (hr : running s) (hi : s.obs.egr.inbox = [m]) (hm : leAt m 0 1 = 0x10)
    (hs : jobShape m) (hn : leAt m 7 1 ≠ s.aon.instId) :
    ∃ t, goesTo .fack s t ∧ onlyChanges [.egr, .fab] s t ∧ t.obs.egr = { s.obs.egr with inbox := [] } := by
  have e := (jobMsg_shaped (f := takeFack) hs (egrRead s)).trans (if_pos hn)
  have h := (onlyChanges.refl [.fab] (egrRead s)).fabSend (leAt m 7 1) 2 (leAt m 0 1) (bytesAt m 4 36)
  have hx : onlyChanges [.egr, .fab] s (jobMsg takeFack m (egrRead s)) := by
    rw [e]
    exact (((onlyChanges.refl [.egr] s).onEgr _).mono (by decide)).trans (h.mono (by decide))
  exact ⟨_, goesTo_withMsg (i := .fack) rfl hr hi hm hx.ctxs_eq, hx, by rw [e, h.egr_eq]; rfl⟩

/-- What an acknowledgement of this instance does: a fault where it does not open, and its effect on what was opened. -/
theorem jobMsg_own {f : Nat → Nat → Nat → Nat → State → State} {m : List Byte} {s : State} (hs : jobShape m)
    (hn : leAt m 7 1 = s.aon.instId) :
    (openJobMsg m s = none ∧ jobMsg f m (egrRead s) = egrFault 1 (egrRead s)) ∨
    ∃ b u v, openJobMsg m s = some (b, v) ∧ onlyChanges [.keys, .evq, .obsRegs] (egrRead s) u ∧
      reg u (aEgr + 4) = reg s (aEgr + 4) ∧ jobMsg f m (egrRead s) = if 2 ^ 20 ≤ leAt b 0 4 then egrFault 2 u
        else f (leAt m 4 1) (leAt m 5 1) (leAt b 0 4) (leAt b 4 4) u := by
  have e := (jobMsg_shaped (f := f) hs (egrRead s)).trans (if_neg (fun hk => hk hn))
  have hb := openJobMsg_read m s
  cases ho : openJobMsg m (egrRead s) with
  | none =>
    rw [ho] at e hb
    exact .inl ⟨Option.map_eq_none_iff.1 hb.symm, e⟩
  | some bu =>
    obtain ⟨b, u⟩ := bu
    rw [ho] at e hb
    obtain ⟨⟨b', v⟩, h1, h2⟩ := Option.map_eq_some_iff.1 hb.symm
    cases h2
    obtain ⟨h3, h4⟩ := openJobMsg_frame ho
    exact .inr ⟨_, u, v, h1, h3, h4, e⟩

/-! ## FACK -/

theorem egrDrained_up {s : State} (h : s.obs.egr.state = 3) : egrDrained s = s := if_neg fun hn => by omega

/-- The slots of the context up to the SEQ are freed (R303). -/
def fackSlots (i p j x q : Nat) (l : List ESlot) : List ESlot :=
  l.filter fun e => !(e.origin == i && e.frame.part == p && e.frame.job == j && e.frame.ctx == x &&
    e.sentAt.isSome && seqGe e.frame.seq q)

theorem takeFack_sent {s : State} {p j x q : Nat} (h3 : s.obs.egr.state = 3) (hw : wasSent s p j x q = true) :
    onlyChanges [.egr, .fab, .keys, .evq, .obsRegs] s (takeFack p j x q s) ∧
      (takeFack p j x q s).obs.egr = { s.obs.egr with slots := fackSlots s.aon.instId p j x q s.obs.egr.slots } := by
  let v := onEgr (fun e => { e with slots := fackSlots s.aon.instId p j x q e.slots }) s
  let mine := fun (g : Frame) => g.part == p && g.job == j && g.ctx == x && seqGe g.seq q
  let w := onFab (fun f => { f with sent := f.sent.filter fun g => !mine g }) v
  let z := sweepGens ((v.obs.fab.sent.filter mine).foldl (fun a g => sendOutcome a.obs.fab.rootId g 0 0 a) w)
  have hv : onlyChanges [.egr] s v := (onlyChanges.refl _ s).onEgr _
  have hz : onlyChanges [.fab, .keys, .evq, .obsRegs] v z :=
    onlyChanges_sweepGens (((onlyChanges.refl _ v).onFab _).foldl (fun _ _ ha => ha.fabSend _ _ _ _) _)
  have hs : z.obs.egr = { s.obs.egr with slots := fackSlots s.aon.instId p j x q s.obs.egr.slots } := by rw [hz.egr_eq]; rfl
  have e : takeFack p j x q s = egrDrained z := by
    unfold takeFack
    rw [if_neg (by rw [hw]; decide)]
    rfl
  rw [e, egrDrained_up (by rw [hs]; exact h3)]
  exact ⟨(hv.mono (by decide)).trans (hz.mono (by decide)), hs⟩

/-- The state of a job message that has opened: the port but for its inbox, and the instance, as they were. -/
theorem opened_read {s u : State} (h : onlyChanges [.keys, .evq, .obsRegs] (egrRead s) u) :
    u.obs.egr = { s.obs.egr with inbox := [] } ∧ u.aon.instId = s.aon.instId ∧ u.obs.ctxs = s.obs.ctxs :=
  ⟨h.egr_eq, (h.2.2.2 .ident (by decide)).1, h.ctxs_eq⟩

theorem wasSent_read {s u : State} (he : u.obs.egr = { s.obs.egr with inbox := [] }) (hi : u.aon.instId = s.aon.instId)
    (p j x q : Nat) : wasSent u p j x q = wasSent s p j x q := by
  unfold wasSent ctxSlot
  rw [he, hi]

theorem fack_own (m : List Byte) (s : State) (hr : running s) (hi : s.obs.egr.inbox = [m]) (hm : leAt m 0 1 = 0x10)
    (hs : jobShape m) (hn : leAt m 7 1 = s.aon.instId) (hl : s.obs.egr.limFaults + 1 < fld (reg s (aEgr + 4)) 16 8)
    (h3 : s.obs.egr.state = 3) :
    ∃ t, goesTo .fack s t ∧ t.obs.egr.inbox = [] ∧
      (openJobMsg m s = none → t.obs.egr.lastFault = 1 ∧ t.obs.egr.slots = s.obs.egr.slots) ∧
      (∀ b u, openJobMsg m s = some (b, u) → leAt b 0 4 < 2 ^ 20 →
        (wasSent s (leAt m 4 1) (leAt m 5 1) (leAt b 0 4) (leAt b 4 4) = true →
          t.obs.egr.slots = s.obs.egr.slots.filter fun e =>
            !(ctxSlot s (leAt m 4 1) (leAt m 5 1) (leAt b 0 4) e && e.sentAt.isSome && seqGe e.frame.seq (leAt b 4 4))) ∧
        (wasSent s (leAt m 4 1) (leAt m 5 1) (leAt b 0 4) (leAt b 4 4) = false →
          t.obs.egr.lastFault = 4 ∧ t.obs.egr.slots = s.obs.egr.slots)) := by
  obtain ⟨ho, e⟩ | ⟨b, u, v, ho, hu, hg, e⟩ := jobMsg_own (f := takeFack) hs hn
  · obtain ⟨hx, he⟩ := fault_read (i := .fack) rfl hr hi hm hl e
    exact ⟨_, hx, by rw [he]; rfl, fun _ => by rw [he]; exact ⟨rfl, rfl⟩, fun b u hb => by rw [ho] at hb; cases hb⟩
  obtain ⟨hue, hui, huc⟩ := opened_read hu
  have hlu : u.obs.egr.limFaults + 1 < fld (reg u (aEgr + 4)) 16 8 := by rw [hue, hg]; exact hl
  have hnone : openJobMsg m s ≠ none := by rw [ho]; nofun
  by_cases hb : 2 ^ 20 ≤ leAt b 0 4
  · obtain ⟨f1, f2⟩ := egrFault_spec hlu 2
    have hx := e.trans (if_pos hb)
    refine ⟨_, goesTo_withMsg (i := .fack) rfl hr hi hm (by rw [hx, f1.ctxs_eq, huc]), by rw [hx, f2, hue]; rfl,
      fun h => absurd h hnone, fun b' u' hb' hlt => ?_⟩
    rw [ho] at hb'
    cases hb'
    omega
  replace e := e.trans (if_neg hb)
  cases hw : wasSent u (leAt m 4 1) (leAt m 5 1) (leAt b 0 4) (leAt b 4 4) with
  | true =>
    obtain ⟨f1, f2⟩ := takeFack_sent (s := u) (by rw [hue]; exact h3) hw
    refine ⟨_, goesTo_withMsg (i := .fack) rfl hr hi hm (by rw [e, f1.ctxs_eq, huc]), by rw [e, f2, hue],
      fun h => absurd h hnone, fun b' u' hb' hlt => ?_⟩
    rw [ho] at hb'
    cases hb'
    refine ⟨fun _ => ?_, fun hf => ?_⟩
    · rw [e, f2, hue, hui]
      rfl
    · rw [← wasSent_read hue hui, hw] at hf
      cases hf
  | false =>
    obtain ⟨f1, f2⟩ := egrFault_spec hlu 4
    have hx : jobMsg takeFack m (egrRead s) = egrFault 4 u := e.trans (if_pos (by rw [hw]; rfl))
    refine ⟨_, goesTo_withMsg (i := .fack) rfl hr hi hm (by rw [hx, f1.ctxs_eq, huc]), by rw [hx, f2, hue]; rfl,
      fun h => absurd h hnone, fun b' u' hb' hlt => ?_⟩
    rw [ho] at hb'
    cases hb'
    refine ⟨fun hf => ?_, fun _ => ?_⟩
    · rw [← wasSent_read hue hui, hw] at hf
      cases hf
    · rw [hx, f2, hue]
      exact ⟨rfl, rfl⟩

/-! ## FNAK -/

theorem inbox_egrPump (n : Nat) (s : State) : (egrPump n s).obs.egr.inbox = s.obs.egr.inbox := by
  induction n generalizing s with
  | zero => rfl
  | succ n ih =>
    unfold egrPump
    dsimp only
    split
    · split
      · rw [ih]
        split <;> rfl
      · rfl
    · rfl

/-- The slot that a FNAK names. -/
def isFnaked (s : State) (p j x q : Nat) (e : ESlot) : Bool := ctxSlot s p j x e && e.sentAt.isSome && e.frame.seq == q

theorem takeFnak_eq {s : State} {p j x q : Nat} {e : ESlot}
    (hf : s.obs.egr.slots.find? (isFnaked s p j x q) = some e) : takeFnak p j x q s =
      if e.fnaks ≥ 2 then egrDrained (egrFault 5 (sweepGens (loseSlots (isFnaked s p j x q) 2 s)))
      else egrPump 480 (onEgr (fun z => { z with
        slots := modFirst (isFnaked s p j x q) (fun y => { y with fnaks := y.fnaks + 1, resend := true }) z.slots }) s) := by
  unfold takeFnak
  dsimp only
  rw [show s.obs.egr.slots.find? (fun e => ctxSlot s p j x e && e.sentAt.isSome && e.frame.seq == q) = some e from hf]
  rfl

/-- A frame asked for again fewer than three times is to be sent again (R303). -/
theorem takeFnak_again {s : State} {p j x q : Nat} {e : ESlot}
    (hf : s.obs.egr.slots.find? (isFnaked s p j x q) = some e) (hn : e.fnaks < 2) :
    onlyChanges [.egr] s (takeFnak p j x q s) ∧ (takeFnak p j x q s).obs.egr.inbox = s.obs.egr.inbox ∧
      (s.obs.egr.slots = [e] → (takeFnak p j x q s).obs.egr.slots.map (·.fnaks) = [e.fnaks + 1]) := by
  let v := onEgr (fun z => { z with
    slots := modFirst (isFnaked s p j x q) (fun y => { y with fnaks := y.fnaks + 1, resend := true }) z.slots }) s
  have hv : onlyChanges [.egr] s v := (onlyChanges.refl _ s).onEgr _
  rw [(takeFnak_eq hf).trans (if_neg (by omega))]
  refine ⟨onlyChanges_egrPump hv _, inbox_egrPump _ _, fun hsl => ?_⟩
  have hvs : v.obs.egr.slots = [{ e with fnaks := e.fnaks + 1, resend := true }] := by
    show modFirst (isFnaked s p j x q) _ s.obs.egr.slots = _
    rw [hsl]
    exact if_pos (List.find?_some hf)
  have hh := congrArg (fun h : Nat × Nat × Option Nat × List (Frame × Nat) => h.2.2.2.map (·.2)) (egrHolds_egrPump 480 v)
  simp only [egrHolds, List.map_map, hvs] at hh
  exact hh

/-- At the third the frame is lost. -/
theorem takeFnak_lost {s : State} {p j x q : Nat} {e : ESlot}
    (hf : s.obs.egr.slots.find? (isFnaked s p j x q) = some e) (hn : 2 ≤ e.fnaks) (h3 : s.obs.egr.state = 3)
    (hl : s.obs.egr.limFaults + 1 < fld (reg s (aEgr + 4)) 16 8) :
    (takeFnak p j x q s).obs.ctxs = s.obs.ctxs ∧ (takeFnak p j x q s).obs.egr.inbox = s.obs.egr.inbox ∧
      (s.obs.egr.slots = [e] → (takeFnak p j x q s).obs.egr.slots = []) := by
  let v := loseSlots (isFnaked s p j x q) 2 s
  obtain ⟨l, n, he⟩ := egr_loseSlots (isFnaked s p j x q) 2 s
  have hv : onlyChanges [.egr, .fab, .obsRegs] s v := onlyChanges_loseSlots (.refl _ s) _ _
  have hw : onlyChanges [.keys, .evq, .obsRegs] v (sweepGens v) := onlyChanges_sweepGens (.refl _ v)
  have hwe : (sweepGens v).obs.egr =
      egrSent l n { s.obs.egr with slots := s.obs.egr.slots.filter fun x' => !isFnaked s p j x q x' } := hw.egr_eq.trans he
  have hg : reg (sweepGens v) (aEgr + 4) = reg s (aEgr + 4) :=
    (reg_sweepGens (by unfold spared; decide) v).trans (reg_loseSlots (by decide) _ _ _)
  obtain ⟨f1, f2⟩ := egrFault_spec (s := sweepGens v) (by rw [hwe, hg]; exact hl) 5
  rw [(takeFnak_eq hf).trans (if_pos hn), egrDrained_up (by rw [f2, hwe]; exact h3), f2, hwe, f1.ctxs_eq, hw.ctxs_eq, hv.ctxs_eq]
  refine ⟨rfl, rfl, fun hsl => ?_⟩
  show s.obs.egr.slots.filter (fun x' => !isFnaked s p j x q x') = []
  have hi : isFnaked s p j x q e = true := List.find?_some hf
  rw [hsl, List.filter_cons_of_neg (by simp [hi]), List.filter_nil]

theorem takeFnak_other {s : State} {p j x q : Nat} (h : s.obs.egr.slots.find? (isFnaked s p j x q) = none) :
    takeFnak p j x q s = s := by
  unfold takeFnak
  dsimp only
  rw [show s.obs.egr.slots.find? (fun e => ctxSlot s p j x e && e.sentAt.isSome && e.frame.seq == q) = none from h]

theorem fnak_own (m : List Byte) (s : State) (hr : running s) (hi : s.obs.egr.inbox = [m]) (hm : leAt m 0 1 = 0x11)
    (hs : jobShape m) (hn : leAt m 7 1 = s.aon.instId) (hl : s.obs.egr.limFaults + 1 < fld (reg s (aEgr + 4)) 16 8)
    (h3 : s.obs.egr.state = 3) :
    ∃ t, goesTo .fnak s t ∧ t.obs.egr.inbox = [] ∧
      (openJobMsg m s = none → t.obs.egr.lastFault = 1 ∧ t.obs.egr.slots = s.obs.egr.slots) ∧
      (∀ b u e, openJobMsg m s = some (b, u) → leAt b 0 4 < 2 ^ 20 → s.obs.egr.slots = [e] →
        ctxSlot s (leAt m 4 1) (leAt m 5 1) (leAt b 0 4) e = true → e.sentAt.isSome = true →
        e.frame.seq = leAt b 4 4 →
        (e.fnaks < 2 → t.obs.egr.slots.map (·.fnaks) = [e.fnaks + 1]) ∧
        (2 ≤ e.fnaks → t.obs.egr.slots = [])) := by
  obtain ⟨ho, e⟩ | ⟨b, u, v, ho, hu, hg, e⟩ := jobMsg_own (f := takeFnak) hs hn
  · obtain ⟨hx, he⟩ := fault_read (i := .fnak) rfl hr hi hm hl e
    exact ⟨_, hx, by rw [he]; rfl, fun _ => by rw [he]; exact ⟨rfl, rfl⟩, fun b u _ hb => by rw [ho] at hb; cases hb⟩
  obtain ⟨hue, hui, huc⟩ := opened_read hu
  have hlu : u.obs.egr.limFaults + 1 < fld (reg u (aEgr + 4)) 16 8 := by rw [hue, hg]; exact hl
  have hnone : openJobMsg m s ≠ none := by rw [ho]; nofun
  by_cases hb : 2 ^ 20 ≤ leAt b 0 4
  · obtain ⟨f1, f2⟩ := egrFault_spec hlu 2
    have hx := e.trans (if_pos hb)
    refine ⟨_, goesTo_withMsg (i := .fnak) rfl hr hi hm (by rw [hx, f1.ctxs_eq, huc]), by rw [hx, f2, hue]; rfl,
      fun h => absurd h hnone, fun b' u' _ hb' hlt => ?_⟩
    rw [ho] at hb'
    cases hb'
    omega
  replace e := e.trans (if_neg hb)
  have hnaked (z : ESlot) (hc : ctxSlot s (leAt m 4 1) (leAt m 5 1) (leAt b 0 4) z = true) (hz : z.sentAt.isSome = true)
      (hq : z.frame.seq = leAt b 4 4) : isFnaked u (leAt m 4 1) (leAt m 5 1) (leAt b 0 4) (leAt b 4 4) z = true := by
    unfold isFnaked ctxSlot
    unfold ctxSlot at hc
    rw [hui, hc, hz, hq]
    exact beq_self_eq_true _
  have hslots : u.obs.egr.slots = s.obs.egr.slots := by rw [hue]
  cases hf : u.obs.egr.slots.find? (isFnaked u (leAt m 4 1) (leAt m 5 1) (leAt b 0 4) (leAt b 4 4)) with
  | none =>
    rw [takeFnak_other hf] at e
    refine ⟨_, goesTo_withMsg (i := .fnak) rfl hr hi hm (by rw [e, huc]), by rw [e, hue], fun h => absurd h hnone,
      fun b' u' z hb' hlt hz hc hsent hq => ?_⟩
    rw [ho] at hb'
    cases hb'
    rw [hslots, hz, List.find?_cons, hnaked z hc hsent hq] at hf
    cases hf
  | some z =>
    have hone {z' : ESlot} (hz : s.obs.egr.slots = [z']) : z = z' := by
      have := List.mem_of_find?_eq_some hf
      rw [hslots, hz] at this
      exact List.mem_singleton.1 this
    by_cases h2 : z.fnaks < 2
    · obtain ⟨f1, f2, f3⟩ := takeFnak_again hf h2
      refine ⟨_, goesTo_withMsg (i := .fnak) rfl hr hi hm (by rw [e, f1.ctxs_eq, huc]), by rw [e, f2, hue],
        fun h => absurd h hnone, fun b' u' z' hb' hlt hz hc hsent hq => ?_⟩
      rw [ho] at hb'
      cases hb'
      cases hone hz
      exact ⟨fun _ => by rw [e]; exact f3 (hslots.trans hz), fun h => by omega⟩
    · obtain ⟨f1, f2, f3⟩ := takeFnak_lost hf (by omega) (by rw [hue]; exact h3) hlu
      refine ⟨_, goesTo_withMsg (i := .fnak) rfl hr hi hm (by rw [e, f1, huc]), by rw [e, f2, hue],
        fun h => absurd h hnone, fun b' u' z' hb' hlt hz hc hsent hq => ?_⟩
      rw [ho] at hb'
      cases hb'
      cases hone hz
      exact ⟨fun h => by omega, fun _ => by rw [e]; exact f3 (hslots.trans hz)⟩

/-! ## Bounds (R304, R307) -/

theorem reg_loseSlots_counted {s : State} {e : ESlot} (p : ESlot → Bool) (c : Nat) (h : s.obs.egr.slots.filter p = [e]) :
    fld (reg (loseSlots p c s) (aEgr + 0x10)) 0 32 = sat 0xFFFFFFFF (fld (reg s (aEgr + 0x10)) 0 32 + 1) := by
  let v := bumpReg (aEgr + 0x10) 0 32 1 (onEgr (fun x => { x with slots := x.slots.filter fun y => !p y }) s)
  have hv : fld (reg v (aEgr + 0x10)) 0 32 = sat 0xFFFFFFFF (fld (reg s (aEgr + 0x10)) 0 32 + 1) :=
    fld_reg_bumpReg (aEgr + 0x10) 1 (onEgr (fun x => { x with slots := x.slots.filter fun y => !p y }) s) (by decide)
  have hg : reg (slotsGone p c s) (aEgr + 0x10) = reg v (aEgr + 0x10) := by
    unfold slotsGone
    rw [h]
    exact (onlyChanges.ite (ps := [.fab]) _ (.refl _ v) ((onlyChanges.refl _ v).fabSend _ _ _ _)).reg_eq _ (by decide)
  have hl (f : State → ESlot × Nat → State) (hf : ∀ u x, reg (f u x) (aEgr + 0x10) = reg u (aEgr + 0x10)) :
      reg (if (slotsGone p c s).obs.egr.state = 3 ∨ (slotsGone p c s).obs.egr.state = 4 then
        (lossRanges (s.obs.egr.slots.filter p)).foldl f (slotsGone p c s) else slotsGone p c s) (aEgr + 0x10) =
        reg v (aEgr + 0x10) := by
    split
    · rw [reg_foldl hf, hg]
    · exact hg
  have he := hl (fun a r => egrSend 5 (le 1 r.1.origin ++ le 1 r.1.frame.part
    ++ le 1 r.1.frame.job ++ le 1 c ++ le 4 r.1.frame.ctx ++ le 4 r.1.frame.seq ++ le 4 r.2 ++ zeros 4) a) (fun u x => rfl)
  have hn : ¬ (s.obs.egr.slots.filter p).isEmpty = true := by rw [h]; exact Bool.false_ne_true
  rw [← hv]
  exact congrArg (fld · 0 32) ((congrArg (fun u => reg u (aEgr + 0x10)) (if_neg hn)).trans he)

theorem ackTimeout_loses (g : Nat) (e : ESlot) (s : State) (hr : running s) (hs : s.obs.egr.slots = [e])
    (h3 : s.obs.egr.state = 3) (hg : e.sentAt = some g) (ht : g + ackTo s ≤ now s) :
    ∃ t, goesTo (.frameAckTimeout 0) s t ∧ t.obs.egr.slots = [] ∧ t.obs.egr.state = 3 ∧
      fld (reg t (aEgr + 0x10)) 0 32 = sat 0xFFFFFFFF (fld (reg s (aEgr + 0x10)) 0 32 + 1) := by
  let v := loseSlots (fun x => x == e) 1 s
  have hf : s.obs.egr.slots.filter (fun x => x == e) = [e] := by rw [hs]; simp
  obtain ⟨l, n, he⟩ := egr_loseSlots (fun x => x == e) 1 s
  have hv : onlyChanges [.egr, .fab, .obsRegs] s v := onlyChanges_loseSlots (.refl _ s) _ _
  have hw : onlyChanges [.keys, .evq, .obsRegs] v (sweepGens v) := onlyChanges_sweepGens (.refl _ v)
  have hwe : (sweepGens v).obs.egr = egrSent l n { s.obs.egr with slots := [] } := by
    rw [hw.egr_eq, he, hs]
    simp
  have hx : opAckTimeout 0 s = sweepGens v := by
    unfold opAckTimeout
    rw [show s.obs.egr.slots[0]? = some e by rw [hs]; rfl]
    dsimp only
    rw [hg]
    dsimp only
    rw [if_pos ht]
    exact egrDrained_up (by rw [hwe]; exact h3)
  refine ⟨_, hx ▸ goesTo_inWriter_of_ctxs (f := opAckTimeout 0) rfl hr (by rw [hx, hw.ctxs_eq, hv.ctxs_eq]), by rw [hwe]; rfl,
    by rw [hwe]; exact h3, ?_⟩
  rw [reg_sweepGens (by unfold spared; decide)]
  exact reg_loseSlots_counted _ _ hf

/-- The end of the port's command leaves the port without one. -/
theorem egrEnd_ok {st : Nat} (hst : st ≠ stNoConsent) (s : State) :
    onlyChanges [.egr, .smp, .cmd] s (egrEnd st s) ∧ (egrEnd st s).obs.egr = { s.obs.egr with cmd := none } := by
  have hf : onlyChanges [.egr, .smp, .cmd] s (egrFreed s) := (onlyChanges.refl _ s).onEgr _
  cases hc : s.obs.egr.cmd with
  | none =>
    have e : egrEnd st s = s := by
      unfold egrEnd
      rw [hc]
    rw [e, ← hc]
    exact ⟨.refl _ s, rfl⟩
  | some c =>
    obtain ⟨r, seq⟩ := c
    cases hh : heldOf s r seq with
    | some h =>
      rw [egrEnd_completes hc hh hst]
      exact ⟨hf.complete _ _ _ _, rfl⟩
    | none =>
      have e : egrEnd st s = egrFreed s := by
        unfold egrEnd
        rw [hc]
        dsimp only
        rw [show heldOf (onEgr (fun e => { e with cmd := none }) s) r seq = none from (heldOf_of_rings rfl r seq).trans hh]
        rfl
      rw [e]
      exact ⟨hf, rfl⟩

theorem drainBound_ends (s : State) (hr : running s) (h4 : s.obs.egr.state = 4) (ht : s.obs.egr.closeAt + ackTo s ≤ now s) :
    ∃ t, goesTo .egrCloseDrainBound s t ∧ t.obs.egr.state = 0 ∧ t.obs.egr.slots = [] ∧ t.obs.egr.lastDown = 7 ∧
      t.obs.egr.cmd = none := by
  obtain ⟨l, n, he, -⟩ := egrLocalClose_spec (s := s) (by omega) 1
  have hf := onlyChanges_egrLocalClose 1 s
  have hx : opDrainBound s = egrEnd stOk (egrLocalClose 1 s) := if_pos ⟨h4, ht⟩
  obtain ⟨h1, h2⟩ := egrEnd_ok (st := stOk) (by decide) (egrLocalClose 1 s)
  refine ⟨_, hx ▸ goesTo_inWriter_of_ctxs (f := opDrainBound) rfl hr (by rw [hx, h1.ctxs_eq, hf.ctxs_eq]), ?_⟩
  rw [h2, he]
  exact ⟨rfl, rfl, rfl, rfl⟩

end Sys2Proof.Machine
end

section
/-! CERTIFICATE. ACCEPT (R297), and what the statement about the station's messages says of `Config.ecdsaVerify`. -/

namespace Sys2Proof.Machine

open Sys2Proof.Safety

set_option Elab.async false

/-- An ACCEPT that R297 judges by its signature alone (Table 13.4). -/
structure acceptShape (m : List Byte) : Prop where
  type : leAt m 0 1 = 2
  shape : msgShape 224 m = true
  reserved : reservedIn m [(5, 3), (121, 7)] = false
  version : leAt m 4 1 = 1

/-- Does the signature over HELLO and ACCEPT verify? -/
def acceptVerifies (key hello m : List Byte) : Bool :=
  Config.ecdsaVerify key (hello ++ bytesAt m 0 128) (bytesAt m 128 96)

theorem takeAccept_judged {m : List Byte} {s : State} (hs : acceptShape m) (h2 : s.obs.egr.state = 2) :
    takeAccept m (egrRead s) = if acceptVerifies s.obs.egr.stationKey s.obs.egr.hello m = true then linkUp m (egrRead s)
      else egrEnd stNoConsent (egrQuiet (egrRead s)) := by
  obtain ⟨-, h3, h4, h5⟩ := hs
  unfold takeAccept
  dsimp only
  rw [if_neg (by rw [h3, h4]; decide), if_neg (fun h => h h2)]
  have he : (decide (leAt m 4 1 ≠ 1) || !Config.ecdsaVerify (egrRead s).obs.egr.stationKey
      ((egrRead s).obs.egr.hello ++ bytesAt m 0 128) (bytesAt m 128 96)) =
      !acceptVerifies s.obs.egr.stationKey s.obs.egr.hello m := by
    rw [h5]
    rfl
  rw [he]
  cases acceptVerifies s.obs.egr.stationKey s.obs.egr.hello m <;> rfl

/-! ## An ACCEPT that verifies -/

/-- The port with its link keys (R297, steps 3 and 4). -/
def egrKeyed (m : List Byte) (s : State) : State :=
  let e := s.obs.egr
  let st := bytesAt m 24 97
  let z := Config.ecdh e.ephemeral st ++ Config.ecdh (s.aon.keys.device.getD []) st
  let k := Config.hkdf z (e.coreNonce ++ bytesAt m 8 16) (ascii "WRN1-LNK") 64
  onEgr (fun e => { e with
    state := 3, outKey := k.take 32, inKey := k.drop 32, outCtr := 0, inCtr := none, ephemeral := [], authFaults := 0 }) s

theorem queues_of_frame {r st : Nat} {h : Held} {res : U32} {s x t : State} (hq : queues r h st res s x)
    (hc : t.obs.cmd = x.obs.cmd) (hs : t.obs.smp = x.obs.smp) : queues r h st res s t := by
  unfold queues ringOf at *
  rw [hc, hs]
  exact hq

theorem linkUp_opens {r seq : Nat} {h : Held} {m : List Byte} {s : State} (hc : s.obs.egr.cmd = some (r, seq))
    (hh : heldOf s r seq = some h) :
    (linkUp m (egrRead s)).obs.ctxs = s.obs.ctxs ∧ (linkUp m (egrRead s)).obs.egr.inbox = [] ∧
      (linkUp m (egrRead s)).obs.egr.cmd = none ∧ (linkUp m (egrRead s)).obs.egr.state = 3 ∧
      (linkUp m (egrRead s)).obs.egr.ephemeral = [] ∧ queues r h stOk 0 s (linkUp m (egrRead s)) ∧
      bit (reg (linkUp m (egrRead s)) (aEgr + 0x1C)) 0 = true := by
  let w := egrSend 3 [] (egrKeyed m (egrRead s))
  have hw : onlyChanges [.egr] s w := (((onlyChanges.refl _ s).onEgr _).onEgr _).onEgr _ |>.onEgr _
  have hend : egrEnd stOk w = complete r h stOk 0 (egrFreed w) :=
    egrEnd_completes hc ((heldOf_of_rings (congrArg Cmd.rings hw.cmd_eq) r seq).trans hh) (by decide)
  let x := complete r h stOk 0 (egrFreed w)
  have hx : onlyChanges [.egr, .smp, .cmd] s x := (((hw.mono (by decide)).onEgr _ : onlyChanges [.egr, .smp, .cmd] s (egrFreed w))).complete _ _ _ _
  have e : linkUp m (egrRead s) = orReg (aEgr + 0x1C) 1 (push 0 (mkItem 0x62 0 0 0 (engGt x)) x) := by
    show orReg (aEgr + 0x1C) 1 (push 0 (mkItem 0x62 0 0 0 (engGt (egrEnd stOk w))) (egrEnd stOk w)) = _
    rw [hend]
  have ht : onlyChanges [.evq, .obsRegs] x (linkUp m (egrRead s)) := by
    rw [e]
    exact ((onlyChanges.refl _ x).push _ _ _ _ _ _).orReg _ _
  have hegr : (linkUp m (egrRead s)).obs.egr = { w.obs.egr with cmd := none } := ht.egr_eq
  have hq : queues r h stOk 0 s x := queues_complete (ringAgrees_egrFreed (ringAgrees_of_frame hw r (congrArg Cmd.rings hw.cmd_eq))) _ _ _
  refine ⟨by rw [ht.ctxs_eq, hx.ctxs_eq], by rw [hegr]; rfl, by rw [hegr], by rw [hegr]; rfl, by rw [hegr]; rfl,
    queues_of_frame hq ht.cmd_eq ht.smp_eq, ?_⟩
  rw [e, bit_reg_orReg]
  exact Bool.or_true _

/-! ## An ACCEPT that does not verify, for a ring number past the last ring -/

/-- A port that awaits ACCEPT for a command under number 65, in the state that refutes O54. -/
def acceptPastRings (key hello m : List Byte) : State :=
  onEgr (fun e => { e with state := 2, cmd := some (65, 7), stationKey := key, hello := hello, inbox := [m] }) consentPastRings

/-- The port once the ACCEPT has been refused. -/
def acceptRefused : State := egrEnd stNoConsent (egrQuiet (egrRead (acceptPastRings [] [] [])))

/-- The refusal does not look at the message, the key or HELLO. -/
theorem takeAccept_refused {key hello m : List Byte} (hs : acceptShape m) (hv : acceptVerifies key hello m = false) :
    takeAccept m (egrRead (acceptPastRings key hello m)) = acceptRefused :=
  (takeAccept_judged hs rfl).trans (if_neg (by
    show ¬ acceptVerifies key hello m = true
    rw [hv]
    exact Bool.false_ne_true))

theorem acceptRefused_tail : acceptRefused.obs.ctxs = consentPastRings.obs.ctxs ∧
    ¬ (ringOf acceptRefused 65).cqTail = (if (ringOf consentPastRings 65).cqTail + 1 = ringM consentPastRings 65 then 0
      else (ringOf consentPastRings 65).cqTail + 1) := by
  constructor <;> decide +kernel

theorem acceptPastRings_fails {key hello m : List Byte} (hs : acceptShape m) (hv : acceptVerifies key hello m = false)
    {t : State} (hg : goesTo .accept (acceptPastRings key hello m) t) :
    ¬ queues 65 consenting stNoConsent 0 (acceptPastRings key hello m) t := by
  rintro ⟨_, htail, _⟩
  have hr : running (acceptPastRings key hello m) := show running consentPastRings by decide
  have hx := takeAccept_refused (key := key) (hello := hello) hs hv
  have hg' := goesTo_withMsg (i := .accept) (f := takeAccept) rfl hr rfl hs.type (by rw [hx]; exact acceptRefused_tail.1)
  rw [hx] at hg'
  have hset (b u : State) : (settle b u).obs.cmd = u.obs.cmd := by
    obtain ⟨_, _, _, _, _, h⟩ := settle_eq b u
    rw [h]
    rfl
  have hd : (settle (acceptPastRings key hello m) t).obs.cmd = (settle (acceptPastRings key hello m) acceptRefused).obs.cmd :=
    congrArg (fun o => match o with | .next u => u.obs.cmd | _ => default) (hg.symm.trans hg')
  rw [hset, hset] at hd
  have hq : (ringOf t 65).cqTail = (ringOf acceptRefused 65).cqTail :=
    congrArg (fun c : Cmd => (smGet ringD c.rings 65).cqTail) hd
  exact acceptRefused_tail.2 (hq.symm.trans htail)

/-! ## What the statement comes to -/

/-- O58 says that every signature over an ACCEPT of the right shape verifies, no less and no more: the clauses on the
other messages hold, an ACCEPT that verifies brings the link up as stated, and one that does not is completed otherwise
than stated where the command stands under number 65 (as in O54). `Config.ecdsaVerify` is opaque, so neither O58 nor its
negation follows from the model. -/
theorem egressMessages_iff_acceptVerifies :
    Obligations.EgressMessages ↔ ∀ key hello m, acceptShape m → acceptVerifies key hello m = true := by
  constructor
  · intro h key hello m hs
    obtain ⟨_, _, hacc, _⟩ := h
    cases hv : acceptVerifies key hello m with
    | true => rfl
    | false =>
      obtain ⟨t, hg, -, -, ht⟩ := hacc 65 7 consenting m (acceptPastRings key hello m)
        (show running consentPastRings by decide) rfl hs.type hs.shape hs.reserved hs.version rfl rfl
        (show heldOf consentPastRings 65 7 = some consenting by decide)
      rw [if_neg (by show ¬ acceptVerifies key hello m = true; rw [hv]; exact Bool.false_ne_true)] at ht
      exact absurd ht.2 (acceptPastRings_fails hs hv hg)
  · intro hv
    refine ⟨fun f s hr h2 hl hb => flit_bad f s hr h2 hl hb, fun f s hr h2 h5 hb hf hq hk hw hs hm ht =>
      flit_good f s hr h2 h5 hb hf hq hk hw hs hm ht, fun r seq h m s hr hi hm hs hres hver h2 hc hh => ?_,
      fun m s hr hi hm hs h3 hsl hl => credit_taken m s hr hi hm hs h3 hsl hl,
      fun m s hr hi hm hs h3 hl => close_taken m s hr hi hm hs h3 hl,
      fun m s hr hi hm hs hp hg hin hn => fack_forwarded m s hr hi hm ⟨hs, hp, hg, hin⟩ hn,
      fun m s hr hi hm hs hp hg hin hn hl h3 => fack_own m s hr hi hm ⟨hs, hp, hg, hin⟩ hn hl h3,
      fun m s hr hi hm hs hp hg hin hn hl h3 => fnak_own m s hr hi hm ⟨hs, hp, hg, hin⟩ hn hl h3,
      fun g e s hr hs h3 hg ht => ackTimeout_loses g e s hr hs h3 hg ht, fun s hr h4 ht => drainBound_ends s hr h4 ht⟩
    have hsh : acceptShape m := ⟨hm, hs, hres, hver⟩
    have hver' : acceptVerifies s.obs.egr.stationKey s.obs.egr.hello m = true := hv _ _ _ hsh
    have e : takeAccept m (egrRead s) = linkUp m (egrRead s) := (takeAccept_judged hsh h2).trans (if_pos hver')
    obtain ⟨h1, h4, h5, h6, h7, h8, h9⟩ := linkUp_opens (m := m) hc hh
    have hg := goesTo_withMsg (i := .accept) (f := takeAccept) rfl hr hi hm (by rw [e]; exact h1)
    rw [e] at hg
    exact ⟨_, hg, h4, h5, (if_pos hver').symm ▸ ⟨h6, h7, h8, h9⟩⟩

end Sys2Proof.Machine
end
